-- ==== Sys2Proof/Word.lean ====
section
/-! DEFINITION. The word types of the Vextar 9 (00_scope R4) and their plainest arithmetic. -/

namespace Sys2Proof

/-- A 32-bit word (R4). -/
abbrev Word := BitVec 32

/-- A 64-bit dword (R4). -/
abbrev DWord := BitVec 64

/-- A byte (R4). -/
abbrev Byte := BitVec 8

/-- One bit for each of the 96 lanes of a group (R25): an exec mask, a lane set, a condition register. -/
abbrev LaneMask := BitVec 96

/-- One 32-bit element for each lane of a group. -/
abbrev Lanes := Vector Word 96

/-- The pair {hi, lo} as a dword: the low word in the even register (R91). -/
def DWord.ofWords (hi lo : Word) : DWord := hi ++ lo

/-- The low word of a dword. -/
def DWord.lo (d : DWord) : Word := d.setWidth 32

/-- The high word of a dword. -/
def DWord.hi (d : DWord) : Word := d.extractLsb' 32 32

/-- Bits [lo + n - 1 : lo] of a number. -/
def bitsAt (x lo n : Nat) : Nat := x / 2 ^ lo % 2 ^ n

end Sys2Proof
end

