-- ==== Sys2Proof/Machine/Crypto.lean ====
section
/-! DEFINITION. The published algorithms that the manual names with fixed parameters (R12): SHA-384 and HMAC (R408), and AES-XTS-256 (R226).
PRESUMED: they are not in the spec, and are written from the standards named there, FIPS 180-4, FIPS 198-1, FIPS 197 and IEEE 1619 (log
entry 10). -/

namespace Sys2Proof.Machine

/-! ### SHA-384 (FIPS 180-4) -/

/-- The constants of the 80 rounds, and the initial hash value. -/
def shaConst0 : List DWord :=
  [0x428A2F98D728AE22, 0x7137449123EF65CD, 0xB5C0FBCFEC4D3B2F, 0xE9B5DBA58189DBBC, 0x3956C25BF348B538,
   0x59F111F1B605D019, 0x923F82A4AF194F9B, 0xAB1C5ED5DA6D8118, 0xD807AA98A3030242, 0x12835B0145706FBE,
   0x243185BE4EE4B28C, 0x550C7DC3D5FFB4E2, 0x72BE5D74F27B896F, 0x80DEB1FE3B1696B1, 0x9BDC06A725C71235,
   0xC19BF174CF692694, 0xE49B69C19EF14AD2, 0xEFBE4786384F25E3, 0x0FC19DC68B8CD5B5, 0x240CA1CC77AC9C65]
def shaConst1 : List DWord :=
  [0x2DE92C6F592B0275, 0x4A7484AA6EA6E483, 0x5CB0A9DCBD41FBD4, 0x76F988DA831153B5, 0x983E5152EE66DFAB,
   0xA831C66D2DB43210, 0xB00327C898FB213F, 0xBF597FC7BEEF0EE4, 0xC6E00BF33DA88FC2, 0xD5A79147930AA725,
   0x06CA6351E003826F, 0x142929670A0E6E70, 0x27B70A8546D22FFC, 0x2E1B21385C26C926, 0x4D2C6DFC5AC42AED,
   0x53380D139D95B3DF, 0x650A73548BAF63DE, 0x766A0ABB3C77B2A8, 0x81C2C92E47EDAEE6, 0x92722C851482353B]
def shaConst2 : List DWord :=
  [0xA2BFE8A14CF10364, 0xA81A664BBC423001, 0xC24B8B70D0F89791, 0xC76C51A30654BE30, 0xD192E819D6EF5218,
   0xD69906245565A910, 0xF40E35855771202A, 0x106AA07032BBD1B8, 0x19A4C116B8D2D0C8, 0x1E376C085141AB53,
   0x2748774CDF8EEB99, 0x34B0BCB5E19B48A8, 0x391C0CB3C5C95A63, 0x4ED8AA4AE3418ACB, 0x5B9CCA4F7763E373,
   0x682E6FF3D6B2B8A3, 0x748F82EE5DEFB2FC, 0x78A5636F43172F60, 0x84C87814A1F0AB72, 0x8CC702081A6439EC]
def shaConst3 : List DWord :=
  [0x90BEFFFA23631E28, 0xA4506CEBDE82BDE9, 0xBEF9A3F7B2C67915, 0xC67178F2E372532B, 0xCA273ECEEA26619C,
   0xD186B8C721C0C207, 0xEADA7DD6CDE0EB1E, 0xF57D4F7FEE6ED178, 0x06F067AA72176FBA, 0x0A637DC5A2C898A6,
   0x113F9804BEF90DAE, 0x1B710B35131C471B, 0x28DB77F523047D84, 0x32CAAB7B40C72493, 0x3C9EBE0A15C9BEBC,
   0x431D67C49C100D4C, 0x4CC5D4BECB3E42B6, 0x597F299CFC657E2A, 0x5FCB6FAB3AD6FAEC, 0x6C44198C4A475817]
def shaConsts : List DWord := shaConst0 ++ shaConst1 ++ shaConst2 ++ shaConst3
def shaInit : List DWord :=
  [0xCBBB9D5DC1059ED8, 0x629A292A367CD507, 0x9159015A3070DD17, 0x152FECD8F70E5939, 0x67332667FFC00B31,
   0x8EB44A8768581511, 0xDB0C2E0D64F98FA7, 0x47B5481DBEFA4FA4]

/-- Bytes of a number, the most significant first, and the number of such bytes. -/
def bytesBig (n v : Nat) : List Byte := (List.range n).map (fun i => BitVec.ofNat 8 (v / 256 ^ (n - 1 - i)))
def bigNat (l : List Byte) : Nat := l.foldl (fun a b => 256 * a + b.toNat) 0

/-- Dwords of bytes, the most significant byte first; `n` bounds their number. -/
def bigDwords : Nat → List Byte → List DWord
  | 0, _ => []
  | n + 1, l => BitVec.ofNat 64 (bigNat (l.take 8)) :: bigDwords n (l.drop 8)

/-- One round: the eight working variables, and the window of sixteen schedule words, whose first is used. -/
def shaRound (x : List DWord × List DWord) (k : DWord) : List DWord × List DWord :=
  let (v, w) := x
  let at_ := fun (l : List DWord) (i : Nat) => l.getD i 0
  let (a, b, c, d) := (at_ v 0, at_ v 1, at_ v 2, at_ v 3)
  let (e, f, g, h) := (at_ v 4, at_ v 5, at_ v 6, at_ v 7)
  let s1 := (e.rotateRight 14) ^^^ (e.rotateRight 18) ^^^ (e.rotateRight 41)
  let s0 := (a.rotateRight 28) ^^^ (a.rotateRight 34) ^^^ (a.rotateRight 39)
  let t1 := h + s1 + ((e &&& f) ^^^ (~~~e &&& g)) + k + at_ w 0
  let t2 := s0 + ((a &&& b) ^^^ (a &&& c) ^^^ (b &&& c))
  let m0 := fun (x : DWord) => (x.rotateRight 1) ^^^ (x.rotateRight 8) ^^^ (x >>> 7)
  let m1 := fun (x : DWord) => (x.rotateRight 19) ^^^ (x.rotateRight 61) ^^^ (x >>> 6)
  ([t1 + t2, a, b, c, d + t1, e, f, g], w.tail ++ [m1 (at_ w 14) + at_ w 9 + m0 (at_ w 1) + at_ w 0])

/-- One block of 128 bytes. -/
def shaBlock (h : List DWord) (block : List Byte) : List DWord :=
  let (v, _) := shaConsts.foldl shaRound (h, bigDwords 16 block)
  (h.zip v).map (fun e => e.1 + e.2)

/-- The blocks of a padded message; `n` bounds their number. -/
def shaBlocks : Nat → List DWord → List Byte → List DWord
  | 0, h, _ => h
  | n + 1, h, l => if l.isEmpty then h else shaBlocks n (shaBlock h (l.take 128)) (l.drop 128)

/-- A message with its padding. -/
def shaPad (l : List Byte) : List Byte :=
  l ++ [0x80] ++ List.replicate ((239 - l.length % 128) % 128) 0 ++ bytesBig 16 (8 * l.length)

/-- SHA-384: its digest's first byte is the most significant. -/
def sha384 (l : List Byte) : BitVec 384 :=
  let p := shaPad l
  BitVec.ofNat 384 (((shaBlocks (p.length / 128) shaInit p).take 6).foldl (fun a d => a * 2 ^ 64 + d.toNat) 0)

/-- The 48 bytes of a digest. -/
def digestBytes (d : BitVec 384) : List Byte := bytesBig 48 d.toNat

/-- HMAC-SHA-384 of some digests, one after another, under a key of 48 bytes (FIPS 198-1). -/
def hmacSha384 (key : BitVec 384) (l : List (BitVec 384)) : BitVec 384 :=
  let k := digestBytes key ++ List.replicate 80 0
  let inner := sha384 (k.map (fun b => b ^^^ 0x36) ++ l.flatMap digestBytes)
  sha384 (k.map (fun b => b ^^^ 0x5C) ++ digestBytes inner)

/-! ### AES-256 (FIPS 197) -/

/-- Twice a byte in GF(2^8), and a product of bytes. -/
def gfTwice (a : Byte) : Byte := (a <<< 1) ^^^ (if a.getLsbD 7 then 0x1B else 0)
def gfMul (a b : Byte) : Byte :=
  ((List.range 8).foldl (fun (x : Byte × Byte) i => (if b.getLsbD i then x.1 ^^^ x.2 else x.1, gfTwice x.2)) (0, a)).1

/-- The inverse of a byte, its 254th power; 0 for 0. -/
def gfInv (a : Byte) : Byte := ((List.range 7).foldl (fun (x : Byte × Byte) _ => (gfMul x.1 (gfMul x.2 x.2), gfMul x.2 x.2)) (1, a)).1

/-- The substitution of a byte, and its inverse. -/
def aesSub (a : Byte) : Byte :=
  let b := gfInv a
  b ^^^ b.rotateLeft 1 ^^^ b.rotateLeft 2 ^^^ b.rotateLeft 3 ^^^ b.rotateLeft 4 ^^^ 0x63
def aesUnsub (a : Byte) : Byte := gfInv (a.rotateLeft 1 ^^^ a.rotateLeft 3 ^^^ a.rotateLeft 6 ^^^ 0x05)

/-- The sum of two byte strings. -/
def xorBytes (a b : List Byte) : List Byte := (a.zip b).map (fun e => e.1 ^^^ e.2)

/-- The key schedule: the words so far, the last first, and the next one, of number `i`. -/
def aesWord (l : List (List Byte)) (i : Nat) : List (List Byte) :=
  let t := l.headD []
  let t :=
    if i % 8 = 0 then xorBytes ((t.drop 1 ++ t.take 1).map aesSub) [(List.range (i / 8 - 1)).foldl (fun c _ => gfTwice c) 1, 0, 0, 0]
    else if i % 8 = 4 then t.map aesSub
    else t
  xorBytes (l.getD 7 []) t :: l

/-- The 15 round keys of a key of 32 bytes. -/
def aesKeys (key : List Byte) : List (List Byte) :=
  let words := ((List.range 52).foldl (fun l i => aesWord l (i + 8)) ((List.range 8).map (fun i => (key.drop (4 * i)).take 4)).reverse).reverse
  (List.range 15).map (fun r => ((words.drop (4 * r)).take 4).flatten)

/-- The rows of the state, kept by columns, turned; and turned back. -/
def aesShift (s : List Byte) : List Byte := (List.range 16).map (fun i => s.getD ((i + 4 * (i % 4)) % 16) 0)
def aesUnshift (s : List Byte) : List Byte := (List.range 16).map (fun i => s.getD ((i + 12 * (i % 4)) % 16) 0)

/-- The columns multiplied by a row of the circulant matrix. -/
def aesMix (m : List Byte) (s : List Byte) : List Byte :=
  (List.range 16).map (fun i => (List.range 4).foldl (fun a j => a ^^^ gfMul (m.getD ((j + 4 - i % 4) % 4) 0) (s.getD (i / 4 * 4 + j) 0)) 0)

/-- AES-256 of a block of 16 bytes, and its inverse. -/
def aesEncrypt (key block : List Byte) : List Byte :=
  let ks := aesKeys key
  let s := (ks.drop 1 |>.take 13).foldl (fun s k => xorBytes (aesMix [2, 3, 1, 1] (aesShift (s.map aesSub))) k) (xorBytes block (ks.getD 0 []))
  xorBytes (aesShift (s.map aesSub)) (ks.getD 14 [])
def aesDecrypt (key block : List Byte) : List Byte :=
  let ks := (aesKeys key).reverse
  let s := (ks.drop 1 |>.take 13).foldl (fun s k => aesMix [14, 11, 13, 9] (xorBytes ((aesUnshift s).map aesUnsub) k)) (xorBytes block (ks.getD 0 []))
  xorBytes ((aesUnshift s).map aesUnsub) (ks.getD 14 [])

/-! ### AES-XTS (IEEE 1619) -/

/-- Bytes of a number, the least significant first, and their number. -/
def bytesLittle (n v : Nat) : List Byte := (List.range n).map (fun i => BitVec.ofNat 8 (v / 256 ^ i))
def littleNat (l : List Byte) : Nat := l.foldr (fun b a => b.toNat + 256 * a) 0

/-- A tweak times alpha in GF(2^128). -/
def xtsNext (t : Nat) : Nat := (2 * t % 2 ^ 128) ^^^ (if 2 ^ 127 ≤ t then 0x87 else 0)

/-- One block under its tweak. -/
def xtsBlock (f : List Byte → List Byte → List Byte) (key : BitVec 512) (t : Nat) (x : List Byte) : List Byte :=
  xorBytes (f (bytesLittle 32 key.toNat) (xorBytes x (bytesLittle 16 t))) (bytesLittle 16 t)

/-- A data unit of 32 bytes; byte i of the key, of the tweak and of the unit is the i-th from the least significant. -/
def xtsUnit (f : List Byte → List Byte → List Byte) (key : BitVec 512) (tweak : Nat) (x : BitVec 256) : BitVec 256 :=
  let t := littleNat (aesEncrypt (bytesLittle 32 (key.toNat / 2 ^ 256)) (bytesLittle 16 tweak))
  let b := bytesLittle 32 x.toNat
  BitVec.ofNat 256 (littleNat (xtsBlock f key t (b.take 16) ++ xtsBlock f key (xtsNext t) (b.drop 16)))

/-- AES-XTS-256 of a data unit under a key of 512 bits, with its tweak (R226). -/
def xtsEncrypt (key : BitVec 512) (tweak : Nat) (x : BitVec 256) : BitVec 256 := xtsUnit aesEncrypt key tweak x
def xtsDecrypt (key : BitVec 512) (tweak : Nat) (x : BitVec 256) : BitVec 256 := xtsUnit aesDecrypt key tweak x

end Sys2Proof.Machine
end

