-- ==== Sys2Proof/Config.lean ====
section
/-! DEFINITION. What one part fixes and the manual leaves open: the free values (no body, so no proof can see
them), the uninterpreted functions of the published standards it names whose inputs it does not lay out, and the counts of the part (R10). -/

namespace Sys2Proof.Config

/-- A free bit, read at a nonce (State.fresh) and an index: which of two permitted outcomes occurs
(R45, R80, R206, R262, R281). Log entry 6. -/
opaque freeBit : Nat → Nat → Bool

/-- A free number, read at a nonce and an index: which of several permitted outcomes occurs. Log entry 6. -/
opaque freeNat : Nat → Nat → Nat

/-- A free 64-bit value for a result whose value no rule states. Log entry 6. -/
opaque freeWord : Nat → Nat → DWord

/-- The fresh random platform key loaded at boot number `n` (R228). Log entry 10. -/
opaque platformKey : Nat → BitVec 512

/-- What an empty key slot enciphers with, for an access that carries no leaf (R228 gives none). Log entry 10. -/
opaque emptySlotKey : Nat → BitVec 512

/-- The RSA-3072 signature of an image verifies against the Ciade (false) or owner (true) key hashes (R408).
Log entry 11. -/
opaque rsaVerifies : Bool → List Byte → Bool

/-- The SLH-DSA signature of an image verifies against the Ciade or owner key hashes (R408). Log entry 11. -/
opaque slhVerifies : Bool → List Byte → Bool

/-- The security version an Oluvos image carries (R408). Log entry 11. -/
opaque imageVersion : List Byte → Nat

/-- The fused minimum security version (R408). Log entry 11. -/
opaque fusedMinVersion : Nat

/-- The fused unique device secret (R408). Log entry 11. -/
opaque deviceSecret : BitVec 384

/-- The ROM's own bytes and the fused security state, as measurements 1 and 2 take them (R408). Log entry 11. -/
opaque romImage : List Byte
opaque fusedState : List Byte

/-- The body of an SPDM 1.3 response after its header, by request code, layer secrets and request, where no rule gives its content:
versions, capabilities, algorithms, digests, certificates, and the fields of a challenge before its signature (R409). Log entry 89. -/
opaque spdmBody : Nat → List (Option (BitVec 384)) → List Byte → List Byte

/-- The RSASSA-PSS signature over an SPDM transcript under a layer's key (R409). Log entry 11. -/
opaque spdmSignature : Option (BitVec 384) → List Byte → List Byte

/-- The flash after a power loss while an image was being written, read at a nonce (R411). Log entry 11. -/
opaque tornFlash : Nat → List Byte → List Byte

/-- The bytes of the configuration space that the part does not let the host write and R393 does not fix: identifiers, class, capabilities.
Log entry 90. -/
opaque configByte : Nat → Byte

/-- The package power predicted at a clock point (0 high, 1 middle, 2 low) and the one measured over 10 ms, in
watts (R412). Log entry 7. -/
opaque predictedPower : Nat → Nat

/-- Payloads of Oluvos replies whose layout no rule gives (R402, R406): HELLO by rank and image version, beside the part number and the
stepping; OPEN_WINDOW by window and GEN; QUERY_RAS by cores, audit counters by die and context, frames dropped, messages of unnamed
requesters, link retries and the events logged. Log entry 11. -/
opaque helloReport : Nat → Nat → List Byte
opaque windowReport : Nat → BitVec 16 → List Byte
opaque rasReport : Nat → List (Nat × Nat × Nat) → Nat → Nat → Nat → List Nat → List Byte

/-- Dword k of a record of the window error log (R401 names its fields, and no layout): offset, window, PART, rank, code and
cycle. Log entry 11. -/
opaque windowRecord : Nat → Nat → BitVec 12 → Nat → Nat → Nat → Nat → Nat

/-- Which 256 KiB of near memory on die 0 Oluvos reserves for the service window (R410). Log entry 7. -/
opaque serviceWindowUnit : Nat

/-- Pages of 4 KiB of core-local memory of a command core beyond its first (R407 gives no size). Log entry 18. -/
opaque localMemoryMore : Nat

/-- Bytes of core-local memory of a command core, from address 0: at least the page that a frame takes. Log entry 18. -/
def localMemorySize : Nat := 4096 * (localMemoryMore + 1)

/-- Which 256 MiB of near memory the resident image is loaded into, and starts at (R408 names no place). Log entry 93. -/
opaque residentUnit : Nat

/-- Cores of a compute die (R15). -/
def coresPerDie : Nat := 48

/-- Compute dies of the part (R13). -/
def dies : Nat := 4

/-- Cores of the part (R15). -/
def cores : Nat := coresPerDie * dies

/-- Pipes of a core (R16). -/
def pipes : Nat := 8

/-- Group slots of a pipe (R16, R321). -/
def groupSlots : Nat := 32

end Sys2Proof.Config
end

