-- ==== Sys2Proof/Machine/Tables.lean ====
section
/-! DEFINITION. Sparse tables sorted by key, and memory in its canonical form: addresses strictly rising and no entry
equal to 0x00, which is what an unlisted address reads as (log entry 1). -/

namespace Sys2Proof.Machine

/-- A sparse table: entries in rising order of key. -/
abbrev Table (α : Type) := List (Nat × α)

/-- The entry of a key. -/
def tget {α : Type} : Table α → Nat → Option α
  | [], _ => none
  | (k, v) :: t, x => if x = k then some v else tget t x

/-- Insert or replace an entry. -/
def tput {α : Type} : Table α → Nat → α → Table α
  | [], x, w => [(x, w)]
  | (k, v) :: t, x, w =>
    if x < k then (x, w) :: (k, v) :: t
    else if x = k then (x, w) :: t
    else (k, v) :: tput t x w

/-- Remove an entry. -/
def tdel {α : Type} (t : Table α) (x : Nat) : Table α := t.filter (fun e => e.1 != x)

/-- Change the entry of a key, if there is one. -/
def tmod {α : Type} (t : Table α) (x : Nat) (f : α → α) : Table α :=
  t.map (fun e => if e.1 = x then (e.1, f e.2) else e)

/-- The values of a table, in key order. -/
def tvals {α : Type} (t : Table α) : List α := t.map (fun e => e.2)

/-- The lowest key at or above `n` that a table of keys does not hold, among `fuel` candidates. -/
def firstFree (used : List Nat) (n fuel : Nat) : Option Nat :=
  (List.range fuel).findSome? (fun i => if used.contains (n + i) then none else some (n + i))

/-- Bytes by address. -/
abbrev Memory := List Host.Cell

/-- The byte at an address; an unlisted address reads as 0x00. -/
def Memory.read (m : Memory) (a : Nat) : Byte := (tget m a).getD 0

/-- Remove what a memory lists at an address. -/
def Memory.drop : Memory → Nat → Memory
  | [], _ => []
  | (k, v) :: t, x => if x = k then Memory.drop t x else (k, v) :: Memory.drop t x

/-- Write a byte; the canonical form is kept: a zero byte is not listed. -/
def Memory.write (m : Memory) (a : Nat) (b : Byte) : Memory := if b = 0 then Memory.drop m a else tput m a b

/-- Entries above a bound, strictly rising, none of them zero. -/
def Memory.wfAbove : Option Nat → Memory → Bool
  | _, [] => true
  | lo, (k, v) :: t =>
    (match lo with
     | none => true
     | some n => decide (n < k)) && v != 0 && Memory.wfAbove (some k) t

/-- The canonical form of a memory. -/
def Memory.wf (m : Memory) : Bool := Memory.wfAbove none m

/-- `n` bytes from an address. -/
def Memory.readBytes (m : Memory) (a n : Nat) : List Byte := (List.range n).map (fun i => m.read (a + i))

/-- Write bytes from an address upward. -/
def Memory.writeBytes (m : Memory) (a : Nat) : List Byte → Memory
  | [] => m
  | b :: bs => Memory.writeBytes (m.write a b) (a + 1) bs

/-- The number whose little-endian bytes are given (R4). -/
def ofBytes : List Byte → Nat
  | [] => 0
  | b :: bs => b.toNat + 256 * ofBytes bs

/-- The low `n` bytes of a number, little-endian (R4). -/
def toBytes : Nat → Nat → List Byte
  | 0, _ => []
  | n + 1, x => BitVec.ofNat 8 x :: toBytes n (x / 256)

end Sys2Proof.Machine
end

