-- ==== Sys2Proof/Machine/Vocab.lean ====
section
/-! DEFINITION. The vocabulary that instruction words, events and the state share: fault codes, conditions,
scopes, orders, tags, operands, the lane word, memory fields, messages and requests, as plain data. -/

namespace Sys2Proof

/-- A scalar register s0 to s63 (R63). -/
abbrev SReg := Fin 64

/-- An even scalar register: `k` stands for the pair s[2k:2k+1] (R61). -/
abbrev Pair := Fin 32

/-- The fault codes (R331). -/
inductive FaultCode where
  | illegalOpcode | reservedField | tagMismatch | regRange | align | pageNotPresent | permission | scratchRange
  | barrierObjectWrite | divStackOverflow | orderedTimeout | upcallDenied | matrixConfig | sparseConfig
  | windowRevoked | eccUncorrected | softwareTrap | coopNoRoom
deriving DecidableEq, Repr

/-- The conditions of compares and compare-branches (R67). -/
inductive Cond where
  | eq | ne | lt | ge | ltu | geu
deriving DecidableEq, Repr

/-- Scopes of memory accesses and fences (R86, R229). -/
inductive Scope where
  | group | workgroup | die | device | peer | system
deriving DecidableEq, Repr

/-- Orders of memory accesses (R86). -/
inductive Order where
  | relaxed | acquire | release | acqRel
deriving DecidableEq, Repr

/-- The special registers (R92). -/
inductive SpecialReg where
  | cyc | rck | lt | lease | ustat | fpstat | splitid | rptidx
deriving DecidableEq, Repr

/-- The format tags that a register can hold (R95). -/
inductive Tag where
  | raw | i32 | n32 | f32 | i16x2 | n16x2 | f16x2 | bf16x2 | i64 | n64 | f64 | narrow | handle
deriving DecidableEq, Repr

/-- A register field of a lane word (R77): the 256 values and what each names. -/
inductive Opnd where
  | v (n : Fin 128)     -- v0 to v127
  | s (n : Fin 64)      -- s0 to s63, read at issue
  | rsv (n : Fin 60)    -- 192 to 251, reserved
  | l (n : Fin 3)       -- latch entries l0 to l2
  | lit                 -- the literal in w2
deriving DecidableEq, Repr

/-- The fields of a lane word besides its opcode (R76). `pred` is none, or a condition register and whether it is
negated (R81). -/
structure LaneWord where
  vd : Opnd
  va : Opnd
  vb : Opnd
  vc : Opnd
  pred : Option (Bool × Fin 4)
  hold : Fin 8
  p : Bool
  sub : Fin 16
  mods : Fin 16
  ovr : Fin 16
  rnd : Fin 4
  sat : Bool
  w2 : Word
deriving DecidableEq, Repr

/-- The memory fields of w2 or of a long form's literal (R86). -/
structure MemFields where
  code : Fin 32
  scope : Scope
  order : Order
  inv : Bool
  cls : Fin 3
  off : BitVec 19
deriving DecidableEq, Repr

/-- The common fields of a copy-engine command: next-use code, scope and class (R278). -/
structure CopyFields where
  code : Fin 32
  scope : Scope
  cls : Fin 3
deriving DecidableEq, Repr

/-- The direction of an xcopy (R279): scratchpad or global on each side. -/
inductive CopyDir where
  | gs | sg | gg | ss
deriving DecidableEq, Repr

/-- A scalar PC and a lane PC (R61). -/
structure PcPair where
  spc : Word
  lpc : Word
deriving DecidableEq, Repr

/-- The place of a split: global core number, pipe, group slot and split slot (R15, R344). -/
structure SplitRef where
  core : Nat
  pipe : Nat
  gslot : Nat
  slot : Nat
deriving DecidableEq, Repr

/-- The clock points of the array (R22). -/
inductive ClockPoint where
  | high | middle | low
deriving DecidableEq, Repr

/-- A request frame, in an aperture slot or a service-window slot (R394). `reserved` is false when a reserved
field of the header was not zero. -/
structure Frame where
  service : BitVec 16
  part : BitVec 12
  seq : Word
  length : Nat
  payload : List Byte
  reservedZero : Bool
  crc : Word
deriving DecidableEq, Repr

/-- Who asks for an Oluvos service (R405, R406, R410). -/
inductive Source where
  | resident (slot : Nat)              -- a mailbox slot of the resident cluster
  | host (f : Frame)                   -- a frame taken at the host port
  | peer (rank : Nat) (f : Frame)      -- a frame in a peer's slot of the service window
deriving DecidableEq, Repr

/-- The action of a resume, retry, end-group or end-node store to the action port (R334). -/
structure ActionArgs where
  region : Nat
  ctx : Nat
  slot : Nat
deriving DecidableEq, Repr

/-- What a peer request asks of the target part (R398, R401). -/
inductive PeerOp where
  | read
  | write (data : List Byte)
  | atomic (op : Nat) (x compare : DWord)   -- numbering of R71
  | set (x : DWord)                         -- the store of a signal word (R285)
deriving DecidableEq, Repr

/-- A peer request as it arrives: the header of R398, the offset and size, and the tag of an xput or xsig. -/
structure PeerRequest where
  part : BitVec 12
  window : Nat
  gen : BitVec 16
  rank : Nat
  offset : Nat
  size : Nat
  op : PeerOp
  tag : BitVec 16
  via : Option (BitVec 16) := none          -- the requester ID of one that came over the host port (R398)
deriving DecidableEq, Repr

/-- The arguments of OPEN_WINDOW (R400, R402). -/
structure WindowArgs where
  base : Nat
  len : Nat
  rd : Bool
  wr : Bool
  at' : Bool
  trg : Bool
  key : Nat
  part : BitVec 12
deriving DecidableEq, Repr

/-- The arguments of ARM_TRIGGER (R403), with the context of the caller. -/
structure TriggerArgs where
  ctx : Nat
  window : Nat
  tag : BitVec 16
  threshold : Nat
  rearm : Bool
  va : DWord
  n : Nat
deriving DecidableEq, Repr

/-- What carries the peer protocol to a part: one of the twelve UALink stations, or the host port, by the part's requester ID (R398). -/
inductive Link where
  | station (n : Nat)
  | hostPort (id : BitVec 16)
deriving DecidableEq, Repr

/-- The arguments of REGISTER_DOMAIN (R329, R406): its number, its ranks, this part's rank, and the links to the other ranks. -/
structure DomainArgs where
  id : Nat
  size : Nat
  rank : Nat
  links : List (Nat × Link) := []
deriving DecidableEq, Repr

/-- A step of a multi-chip launch, seen by the part that sends it or by the one that takes it (R329, R330). -/
inductive MultiStep where
  | send (node : Nat)                                                          -- this part sends it for its node
  | takeLaunch (gen : Word) (ctx q : Nat) (desc args : DWord) (raw : List DWord) (rank : Nat)
                                                                               -- a LAUNCH arrives from the origin, with the descriptor's dwords
  | take (domain : Nat) (gen : Word) (rank : Nat)                                             -- another message arrives
  | takeAbort (domain : Nat) (gen : Word) (rank : Nat) (code : Option FaultCode)              -- an ABORT, or a report of failure, arrives
deriving DecidableEq, Repr

end Sys2Proof
end

