-- ==== Sys2Proof/Machine/Types.lean ====
section
/-! DEFINITION. The pieces that the state is made of, as plain data: registers, splits, groups, workgroups, memory
access records, commands, nodes, messages, pages of the platform. Each cites the rule of spec/ that gives it. -/

namespace Sys2Proof.Machine

/-! ### Registers -/

/-- A vector register: 96 lanes of 32 bits and a format tag (R91, R95). -/
structure VReg where
  data : Lanes
  tag : Tag
deriving DecidableEq, Repr

/-- Zero, tag raw (R33). -/
def VReg.zero : VReg := ⟨Vector.replicate 96 0, .raw⟩

/-- A filled latch entry and the slot of the split that filled it (R80). -/
structure LatchEntry where
  data : Lanes
  tag : Tag
  slot : Nat
deriving DecidableEq, Repr

/-- An exact accumulator: 320 bits and its three flags (R129). -/
structure Exact where
  sum : BitVec 320
  nan : Bool
  pinf : Bool
  ninf : Bool
deriving DecidableEq, Repr

/-- Zero, flags clear (R33). -/
def Exact.zero : Exact := ⟨0, false, false, false⟩

/-! ### Waits, faults, accesses -/

/-- What a split does when the results it waits for at a park point have been written (R44). -/
inductive After where
  | proceed                                              -- spark, a forced park, the P bit, vordb's second form
  | brvSplit (slot : Nat) (target join : PcPair) (t f : LaneMask)   -- sbrv that makes a split (R35, R144)
  | brvDefer (target join : PcPair) (t f : LaneMask)     -- sbrv that pushes a deferral entry (R36, R144)
  | join                                                 -- sjoin (R37)
  | exit                                                 -- sexit (R41)
  | dissolve (ret : Bool) (va vb n : Nat)                -- scallx (R146)
  | trap (code : Byte)                                   -- strap (R160)
  | reply (pair : Nat) (ticket : Option Word)            -- supcall.wait (no ticket), supwait (R161, R162)
  | barrier                                              -- sbar (R272)
  | object (off : Nat) (phase : Option Nat)              -- sbwait (R275)
  | order                                                -- vordb (R374)
deriving DecidableEq, Repr

/-- Why an instruction waits at issue, not ready (R57): it issues again when the condition is met. -/
inductive Stall where
  | galley                       -- the galley has no free entry (R339)
  | scoreboard (lo hi : Nat)     -- an overlapping range is recorded (R242)
  | entries (n : Nat)            -- the scoreboard lacks room for n entries (R242, R301)
  | matrix (pair : Bool)         -- the matrix queue is full (R296)
  | seal                         -- 15 sealed batches are outstanding (R239)
  | batches (n : Nat)            -- xwait n (R240)
  | upcall                       -- an upcall of the group is outstanding (R163)
  | sluice                       -- 64 or fewer sluice slots are free (R163)
  | acks                         -- earlier stores and atomics are not acknowledged (R246, R271)
  | loads                        -- earlier loads have not returned (R271)
  | both                         -- acks and loads (R271)
  | overlap                      -- a load overlaps an unacknowledged store of its core (R246)
  | fetch                        -- a held code fetch (R133)
  | descriptor                   -- a held descriptor read (R377)
  | render                       -- the wave's render-target writes (R256, R374)
  | mask                         -- a result in flight for s60 to s62 (R142)
  | results                      -- results in flight before a word that is no instruction (R75)
  | failing (skip : Nat) (va : DWord)   -- a fetch that FAIL ended, its fault taken once the results are in (R75, R133)
deriving DecidableEq, Repr

/-- Whether a split issues, and what it waits for (R57). -/
inductive Wait where
  | ready
  | park (k : After)             -- results in flight (R44)
  | held (k : After)             -- parked, held by a stop or a pre-emption request (R333, R352)
  | await (k : After)            -- parked, its own condition not yet met
  | join (id : Nat)              -- waiting at an sjoin for a join record (R37)
  | stall (c : Stall)            -- at issue
deriving DecidableEq, Repr

/-- A fault found after issue, to be taken at the next park point (R261), or a covered xwait (R283): `seq` is the
issue order of its instruction, `cmd` its command if any. -/
structure Deferred where
  code : FaultCode
  pcs : PcPair
  lanes : LaneMask
  addr : DWord
  window : Nat
  seq : Nat
  cmd : Option Nat
deriving DecidableEq, Repr

/-- How a stopped split goes on (R334). -/
inductive StopKind where
  | scalar (skip : Nat)          -- a scalar word or fetch: RESUME skips this many words
  | lane                         -- a lane word of the run in progress
  | deferred (k : After)         -- at a park point, with what the park would have done
  | terminal                     -- only END_GROUP and END_NODE have effect
deriving DecidableEq, Repr

/-- An unanswered fault (R333). -/
structure Stop where
  code : FaultCode
  kind : StopKind
deriving DecidableEq, Repr

/-- What one access does at its location (R264 to R269, R375). -/
inductive AccOp where
  | load
  | store
  | atomic (op : Nat)            -- numbering of R71; 11 is the unsigned maximum of vvis
deriving DecidableEq, Repr

/-- How a loaded value fills its destination (R264, R267). -/
inductive Ext where
  | zero | sign
deriving DecidableEq, Repr

/-- One access of a lane (or of a scalar form, whose lane 96 is none): address, size in bytes, operation and operands. -/
structure Access where
  lane : Nat
  va : DWord
  size : Nat
  op : AccOp
  data : DWord
  compare : DWord
  ext : Ext
deriving DecidableEq, Repr

/-- What a register write of a result in flight writes (R43). The contested part was written again meanwhile: there the
register ends with either value (R45). -/
inductive RegWrite where
  | scalar (n : Nat) (v : Word) (contested : Bool)       -- one scalar register
  | vector (reg : Nat) (mask contested : LaneMask) (data : Lanes) (tag old : Tag)  -- lanes of a vector register
  | cond (n : Nat) (mask contested bits : LaneMask)      -- lanes of a condition register (R389)
deriving DecidableEq, Repr

/-- A variable-latency result not yet written (R43). -/
structure InFlight where
  id : Nat
  writes : List RegWrite
  awaited : List Nat := []       -- lanes whose value has not come yet (96: a scalar one): they still read as before
deriving DecidableEq, Repr

/-! ### Splits and groups -/

/-- The run that an slissue started (R27, R147): words left, PK, and the count and stride of an armed first word
(R148), whose next repetition rptidx holds. -/
structure Run where
  left : Nat
  pk : Bool
  rep : Option (Nat × Nat)
deriving DecidableEq, Repr

/-- A split (R25, R35, R93). -/
structure Split where
  s : Vector Word 64
  spc : Word
  lpc : Word
  lanes : LaneMask
  fpstat : BitVec 5
  ustat : BitVec 2
  arrival : Option (Nat × Nat)   -- {sa, PHASE} of the last sbarrive (R275)
  written : Table (BitVec 64)    -- registers written since each open split point (R39)
  armed : Option (Nat × Nat)     -- count and stride of an slrep (R148)
  run : Option Run
  rptidx : BitVec 8
  wait : Wait
  stopped : Option Stop
  inflight : List InFlight
  deferred : List Deferred
  laneCount : Nat                -- lane instructions since the last park (R46)
  scalarCount : Nat              -- scalar instructions since the last park (R46)
  lastIssue : Nat                -- cycle of the last issue (R57)
deriving DecidableEq, Repr

/-- A join record (R35). -/
structure JoinRec where
  id : Nat
  pcs : PcPair
  lanes : LaneMask
deriving DecidableEq, Repr

/-- A deferral entry (R36), with the split-point it belongs to and whether its sides have been swapped. -/
structure Deferral where
  id : Nat
  slot : Nat
  pcs : PcPair
  join : PcPair
  lanes : LaneMask
  mask : LaneMask
  s : Vector Word 64
  fpstat : BitVec 5
  ustat : BitVec 2
  rptidx : BitVec 8
  arrival : Option (Nat × Nat)
  written : Table (BitVec 64)
  swapped : Bool
deriving DecidableEq, Repr

/-- The upcall outstanding in a group: its ticket (0 for supcall.wait) and whether its reply is present (R161 to R163). -/
structure Upcall where
  ticket : Word
  present : Bool
deriving DecidableEq, Repr

/-- What each lane of a pixel wave carries apart from its registers (R365). -/
structure PixInfo where
  seq : Nat
  slot : Nat
  px : Nat
  py : Nat
  covered : Bool
deriving DecidableEq, Repr

/-- A ray record (R388). -/
structure RayRec where
  ticket : Word
  t : Word
  prim : Word
  b1 : Word
  b2 : Word
deriving DecidableEq, Repr

/-- A ray being traversed (R386). -/
structure Ray where
  id : Nat
  slot : Nat                     -- split that launched it
  lane : Nat
  ticket : Word
  root : DWord
  ray : List Word                -- origin, direction, tmin, tmax
  pcs : PcPair
  seq : Nat
  record : Option RayRec         -- what its traversal gave, on its way to the mailbox
deriving DecidableEq, Repr

/-- A group resident on a pipe (R25). -/
structure Group where
  node : Nat
  wg : Nat                       -- workgroup key
  wid : DWord
  region : Nat                   -- group-region handle (R348)
  order : Nat                    -- launch order (R51, R319)
  placed : Nat                   -- placement order on its core (R57)
  base : Nat                     -- first register of its block (R321)
  composed : Bool                -- formed by the composing unit (R380)
  regs : List VReg
  vc : Vector LaneMask 4
  xa : Vector Exact 2
  latch : Vector (Option LatchEntry) 3
  splits : Table Split
  limit : Nat
  joins : List JoinRec
  deferrals : List Deferral      -- most recent first
  gather : List Word             -- gather table of performed mgidx (R294)
  gatherIssued : List Word       -- the table of the most recent mgidx issued (R293)
  openBatch : List Nat           -- commands of the open batch (R239)
  batchNo : BitVec 16            -- number the next xseal gives
  batches : List (Nat × List Nat) -- sealed batches, oldest first
  ticket : Word                  -- ticket of the next supcall
  upcall : Option Upcall
  conts : List (List (BitVec 16)) -- continuation stack of each lane, top first (R50)
  mailbox : List (Nat × RayRec)  -- lane and record, in arrival order (R389)
  rays : List Ray
  rayTickets : List Word         -- last ticket of each lane (R386)
  pix : List (Nat × PixInfo)     -- lanes of a pixel wave
  sect : Option Nat              -- cycle at which a raster-ordered section began (R356)
  ordered : Bool                 -- the wave has executed vorde (R374)
  wave : Nat                     -- its number among all groups, kept across a save (R371)
  edited : Bool                  -- its first fetch faults: its saved image was edited where it may not be (R354)
deriving DecidableEq, Repr

/-! ### Workgroups -/

/-- A pre-emption requested of a workgroup: HOLD, and the requests that name it (R351, R352). -/
structure Preempt where
  hold : Bool
  requests : List Nat
deriving DecidableEq, Repr

/-- A scratchpad byte that was overwritten: its offset, what it held, the serial number of then, and the copy command that
wrote, if one did (R298). -/
structure Overwrite where
  off : Nat
  byte : Byte
  serial : Nat
  cmd : Option Nat
deriving DecidableEq, Repr

/-- A workgroup in its slot (R25, R209, R213, R274, R288). -/
structure Workgroup where
  node : Nat
  wid : DWord                    -- identifier with f0 = f1 = 0
  order : Nat
  region : Nat                   -- first unit of its region
  units : Nat
  scratch : Memory               -- offsets to bytes, zero where unlisted
  size : Nat
  objects : List Nat             -- active barrier-object offsets
  rck : BitVec 16
  cpt : BitVec 16
  lastTick : Nat                 -- cycle of the last CPT update
  tiles : Table Word             -- element (t * 64 + i) * 64 + j, zero where unlisted
  tileCount : Nat
  granules : Nat                 -- Q of its node
  twin : Option Nat              -- workgroup key of the twin (R300)
  follower : Bool
  groups : List Nat              -- keys of its groups that have not ended
  preempt : Option Preempt
  overwritten : List Overwrite   -- while matrix commands are in flight (R298)
deriving DecidableEq, Repr

/-! ### Caches and cores -/

/-- A memory-encryption key as loaded: the number of the load, and its value (R226). -/
structure Key where
  load : Nat
  value : BitVec 512
deriving DecidableEq, Repr

/-- A resident L1 line (R211, R213, R243). -/
structure L1Line where
  way : Nat
  line : Nat                     -- PA / 128
  key : Nat                      -- key slot
  valid : BitVec 4               -- sectors held
  data : List Byte
  wts : BitVec 16
  rts : BitVec 16
  filled : Nat                   -- the step of its last fill or update, as State.fresh counts (R238)
  owner : Nat
  kind : Nat                     -- 0 none-further, 1 declared, 2 unspecified
  due : BitVec 16
  stamp : Word
  overdue : Bool                 -- its owner has left (R217)
deriving DecidableEq, Repr

/-- A copy of a line in a cache of the resident cluster (R245, R416). -/
structure ResCopy where
  hart : Nat
  line : Nat
  key : Nat
  data : List Byte
  wts : BitVec 16
  rts : BitVec 16
deriving DecidableEq, Repr

/-- A resident L2 line of a die (R219, R224, R227). -/
structure L2Line where
  slice : Nat
  set : Nat
  way : Nat
  line : Nat
  key : Nat
  kind : Nat
  due : BitVec 20
  stamp : Word
  ovd : Bool
  ctx : Nat
  retained : Option Nat          -- retention range
deriving DecidableEq, Repr

/-- A translation cached for a context (R206): the leaf found for a page. -/
structure TlbEntry where
  ctx : Nat
  part : Nat
  page : Nat                     -- VA / 4096 of the leaf's first page
  pages : Nat                    -- size of the leaf in 4 KiB pages
  ppn : Nat
  w : Bool
  x : Bool
  g : Bool
  c : Bool
  cls : Nat
  key : Nat
deriving DecidableEq, Repr

/-- A recorded scratchpad destination range (R242). -/
structure ScoreRange where
  cmd : Nat
  wg : Nat
  lo : Nat
  hi : Nat
deriving DecidableEq, Repr

/-- An image descriptor (R366). -/
structure ImageDesc where
  base : DWord
  meta_ : DWord
  width : Nat
  height : Nat
  fmt : Nat
  levels : Nat                   -- levels less 1
  wrapX : Nat
  wrapY : Nat
  lin : Bool
  mipLin : Bool
  clear : DWord
deriving DecidableEq, Repr

/-- A hash-grid descriptor (R382). -/
structure GridDesc where
  table : DWord
  grad : DWord
  d3 : Bool
  levels : Nat                   -- levels (not less 1)
  logt : Nat
  f4 : Bool
  nbase : Nat
  grow : Word                    -- f32
deriving DecidableEq, Repr

/-- What the texture unit reads for one lane (R379, R381, R383): a sample blends level a0 and the next with weight g / 256. -/
inductive UnitOp where
  | texel (img : ImageDesc) (x y : Int) (m : Nat)
  | sample (img : ImageDesc) (u v : Word) (a0 g : Nat)
  | grid (d : GridDesc) (coord : List Word)
deriving DecidableEq, Repr

/-- What a galley entry holds for its replay (R336). -/
inductive GalleyKind where
  | access (accs : List Access) (m : MemFields) (result : Option Nat)  -- lanes of a memory instruction
  | fetch                                                             -- a code fetch (R133)
  | descriptor                                                        -- a descriptor read at issue (R377)
  | command (cmd : Nat)                                               -- a command stalled at a page (R280)
  | reads (result : Nat) (jobs : List (Nat × UnitOp))                 -- texture-unit reads, by lane (R378)
  | ray (id : Nat)                                                    -- a stalled ray (R388)
  | render (ids : List Nat)                                           -- held vrtw writes (R417)
deriving DecidableEq, Repr

/-- A galley entry (R336). -/
structure GalleyEntry where
  id : Nat
  ref : SplitRef
  node : Nat
  wg : Nat
  ctx : Nat
  page : Nat
  va : DWord                     -- the first address held
  kind : GalleyKind
  write : Bool
  go : Bool                      -- a REPLAY has reached it (R338)
  lanes : LaneMask
  pcs : PcPair
  seq : Nat
deriving DecidableEq, Repr

/-- A core (R16, R92, R210, R336, R296). -/
structure Core where
  lt : BitVec 16
  ticked : Nat                   -- self-advances made (R247)
  lease : BitVec 16
  l1 : List L1Line
  scratchGranules : Nat          -- granules in a scratch state; the others are L1 ways
  stopping : Bool                -- the highest way takes no fills (R210)
  tlb : List TlbEntry
  scoreboard : List ScoreRange
  galley : List GalleyEntry
  pages : List (Nat × Nat)       -- context and page of PAGE messages that stand out
  matrix : List (Nat × Bool)     -- matrix queue: command and whether it is a follower half
  noPlacement : Bool
  lastIssued : Table SplitRef    -- by pipe (R57)
  precedence : Table SplitRef    -- by pipe (R57)
deriving DecidableEq, Repr

/-- A core at power-on (R93, R243, R248; log entry 7 for the granules). -/
def Core.reset : Core :=
  { lt := 0, ticked := 0, lease := 10, l1 := [], scratchGranules := 0, stopping := false, tlb := [], scoreboard := [],
    galley := [], pages := [], matrix := [], noPlacement := false, lastIssued := [], precedence := [] }

/-! ### Commands -/

/-- A matrix operand descriptor (R290). -/
structure MatDesc where
  data : Nat
  pitch : Nat
  lines : Nat                    -- number of lines
  fmt : Nat
  k : Nat
  scale : Nat
  spitch : Nat
  sparse : Nat
  seed : Word
deriving DecidableEq, Repr

/-- What an asynchronous command does when it is performed (R277, R296, R360). -/
inductive CmdKind where
  | copy (dir : CopyDir) (d a : DWord) (len rows : Nat) (sd sa : DWord) (f : CopyFields)
  | decomp (image : ImageDesc) (first count : Word) (f : CopyFields)
  | put (d : DWord) (a : DWord) (count : Nat) (spad : Bool) (f : CopyFields) (tag : BitVec 16)
  | get (d : DWord) (a : DWord) (count : Nat) (spad : Bool) (f : CopyFields) (tag : BitVec 16)
  | signal (d : DWord) (v : DWord) (set : Bool) (f : CopyFields) (tag : BitVec 16) (after : List Nat)
  | emit (base n q : Nat) (buf : DWord) (cap : Nat) (desc : DWord) (code : Fin 32)   -- R360
  | mma (a b : MatDesc) (t : Nat) (pa pb : Nat) (acc sat g pair : Bool)
  | mzero (t count : Nat)
  | mload (d : MatDesc) (t : Nat) (tr : Bool)
  | mdrain (d : MatDesc) (t : Nat) (tr : Bool) (rnd : Nat) (sat : Bool)
  | mgidx (table : List Word)
deriving DecidableEq, Repr

/-- A command in flight (R239, R277, R296). -/
structure Command where
  ref : SplitRef
  node : Nat
  wg : Nat
  seq : Nat
  pcs : PcPair
  kind : CmdKind
  page : Option Nat              -- the absent page at which it is stalled (R280)
  progress : Nat                 -- bytes already moved
  aux : Nat                      -- first entry claimed by a gemit (R360)
  sent : Bool                    -- every remote request has left the part (R257)
  remote : List Nat              -- remote requests not yet acknowledged
  table : List Word              -- the gather table that it uses, fixed when it issued (R293, R294)
  cycle : Nat                    -- the cycle in which it issued (R297)
deriving DecidableEq, Repr

/-- A store or atomic not yet acknowledged (R246). -/
structure Ack where
  ref : SplitRef
  gkey : Nat
  node : Nat
  pa : Nat
  size : Nat
  remote : Bool
deriving DecidableEq, Repr

/-! ### Nodes -/

/-- A node descriptor as the port read it (R316). -/
structure Desc where
  addr : Nat
  scode : Nat
  lcode : Nat
  w : List Nat
  n : List Nat                   -- counts (not less 1)
  allot : Nat                    -- vector registers
  limit : Nat
  q : Nat
  acct : Nat
  aff : Nat
  prio : Nat
  coop : Bool
  free : Bool
  pair : Bool
  multi : Bool
  localDone : Bool
  gfx : Bool
  gstage : Nat
  scratch : Nat
  calltab : Nat
  calllen : Nat
  sigop : Nat
  domain : Nat
  signal : Nat
  sigval : DWord
  preds : Nat
  succ : List Nat                -- offsets of the NSUCC successors
  raw : List DWord := []         -- its dwords as the port read them, which a LAUNCH carries (R329)
deriving DecidableEq, Repr

/-- An unanswered FAULT message of a split that has ended: context, region, node, split slot, and whether its fault was
terminal (R334). -/
structure Orphan where
  ctx : Nat
  region : Nat
  node : Nat
  slot : Nat
  terminal : Bool
  code : FaultCode
deriving DecidableEq, Repr

/-- An action stored to the action port (R334). -/
inductive Action where
  | resume | retry | endGroup | endNode
deriving DecidableEq, Repr

/-- Where a node stands in the pool (R318, R319, R326, R328). -/
inductive NodeState where
  | waiting | ready | failed
deriving DecidableEq, Repr

/-- A pixel wave not yet placed (R363, R364). -/
structure Wave where
  seq : Nat
  slot : Nat
  lanes : LaneMask
  pix : List (Nat × PixInfo)
  regs : List (List Word)        -- v0 to v5, lanes 0 to 63
deriving DecidableEq, Repr

/-- A share of a multi-chip launch (R329, R330). -/
structure Multi where
  gen : Word
  origin : Bool
  root : Nat                     -- rank of the origin
  rank : Nat
  accepts : List Nat             -- ranks that have accepted
  dones : List Nat
  launched : Option Nat          -- time of LAUNCH, as State.time counts
  accepted : Bool                -- this part has accepted
  started : Bool
  aborted : Bool                 -- ABORT, or the report of failure, has been sent or taken (R330)
  code : Nat := 0                -- the code with which the share failed (R330)
deriving DecidableEq, Repr

/-- A workgroup that a node has still to place: its next one, a saved one, or a group of an index at the composing unit (R51, R319,
R353). -/
inductive Work where
  | fresh
  | saved (id : Nat)
  | composed (index : Nat)
deriving DecidableEq, Repr

/-- A workgroup bound to a core, and the granules it waits for there (R323). -/
structure Bound where
  node : Nat
  work : Work
  core : Nat
  granules : Nat
deriving DecidableEq, Repr

/-- A node in the ready pool (R319). -/
structure Node where
  queue : Nat                    -- 0xFFF and above: not from a port
  pos : Word
  ctx : Nat
  desc : Desc
  args : DWord
  count : Nat                    -- predecessors outstanding
  state : NodeState
  readyAt : Nat
  waitFrom : Nat                 -- cycle since which it waits to place a workgroup (R324)
  next : Nat                     -- workgroups placed so far
  ended : Nat                    -- workgroups ended
  dies : Table Nat               -- affinity set to die
  carried : BitVec 16            -- time carried by predecessors (R257)
  time : BitVec 16               -- completion time gathered (R257)
  released : BitVec 16           -- time of the releases that sections of its waves wait for (R374)
  waves : List Wave
  rasterised : Bool
  begun : Option Nat             -- the step at which its first workgroup started, as State.fresh counts (R238)
  reserves : List Nat            -- dies reserved (R324)
  multi : Option Multi
deriving DecidableEq, Repr

/-- A thread waiting at the composing unit (R50, R51, R390). -/
structure Thread where
  node : Nat
  index : Nat
  key : Nat
  cycle : Nat
  order : Nat
  lane : Nat
  regs : List (Word × Tag)
  stack : List (BitVec 16)
  mailbox : List RayRec
  ticket : Word
  pix : Option PixInfo
deriving DecidableEq, Repr

/-- A queue (R311, R312, R318). -/
structure Queue where
  logsize : Nat
  en : Bool
  base : Nat
  ctx : Nat
  tailpa : Nat
  headpa : Nat
  tail : Word
  head : Word
  credits : Table (Nat × BitVec 16) -- credit window: decrements held, and the time they carry (R257, R318)
  waiting : Option (DWord × DWord) -- address and value of the wait entry at HEAD
  later : Table Nat              -- dwords written while the port stands at that entry: they act at its boundary (R311)
deriving DecidableEq, Repr

/-- A queue-table entry at reset (R311). -/
def Queue.reset : Queue :=
  { logsize := 0, en := false, base := 0, ctx := 0, tailpa := 0, headpa := 0, tail := 0, head := 0, credits := [],
    waiting := none, later := [] }

/-- A notify on its way to a port (R312): its queue, the tail word and the writing context (none: resident cluster). -/
structure Notify where
  queue : Nat
  value : Word
  ctx : Option Nat
deriving DecidableEq, Repr

/-- A context-table entry (R207). The `used` fields are those that translation uses until an invalidation. -/
structure Context where
  wkey : Nat
  root : Nat
  part : Nat
  valid : Bool
  priv : Bool
  guilt : Nat
  glimit : Nat
  apin : Nat
  apinen : Bool
  usedWkey : Nat
  usedRoot : Nat
  usedPart : Nat
  barred : Bool                  -- GUILT has reached GLIMIT, and VALID has not been written 0 since (R315)
  unbarred : Bool                -- VALID has been written 0 since the context was last made valid (R315)
deriving DecidableEq, Repr

/-- A context at reset (R207). -/
def Context.reset : Context :=
  { wkey := 0, root := 0, part := 0, valid := false, priv := false, guilt := 0, glimit := 16, apin := 0,
    apinen := false, usedWkey := 0, usedRoot := 0, usedPart := 0, barred := false, unbarred := false }

/-- A save-table entry (R347). -/
structure SaveEntry where
  base : Nat                     -- physical address
  units : Nat
  svclim : Nat
deriving DecidableEq, Repr

/-- A saved workgroup (R352, R353): what the save holds, the fields a resident kernel may edit being read back from the
save area at restore. -/
structure SavedWg where
  wg : Workgroup
  groups : List Group
  hold : Bool
  time : BitVec 16               -- timestamp of the save
  actions : List (Action × ActionArgs) -- RESUME and RETRY stored since, in order (R334)
  released : Option Nat          -- the release that a RESTORED message awaits
  barrier : Nat                  -- the state of the workgroup barrier at the save (R350)
  ctx : Nat
deriving DecidableEq, Repr

/-- A retention range of a die (R223, R224). -/
structure Retention where
  base : Nat                     -- line number
  limit : Nat
  ways : Nat
  j : Nat
  err : Bool
  misses : Nat
deriving DecidableEq, Repr

/-- An audit record (R221): slice, line, context and deadline. -/
structure AuditRec where
  slice : Nat
  line : Nat
  ctx : Nat
  deadline : Nat                 -- in units of 256 cycles, uncut
deriving DecidableEq, Repr

/-- A weir entry (R251): the line, requesting cores, first and last cycle, and whether it is marked far. -/
structure WeirEntry where
  slice : Nat
  line : Nat
  cores : List Nat
  first : Nat
  last : Nat
  far : Bool
deriving DecidableEq, Repr

/-- An exclusive atomic lease (R252). -/
structure Lease where
  core : Nat
  ends : Nat
deriving DecidableEq, Repr

/-- What a die holds (R206, R219 to R224, R251). -/
structure Die where
  l2 : List L2Line
  tlb : List TlbEntry
  auditCount : Table Nat         -- by slice
  auditRecs : List AuditRec
  audit : Table Nat              -- by context
  weir : List WeirEntry
  retention : Table Retention
  swept : Table Nat              -- unit of the last overdue sweep, by slice (R219)
deriving DecidableEq, Repr

/-- A die at power-on. -/
def Die.reset : Die :=
  { l2 := [], tlb := [], auditCount := [], auditRecs := [], audit := [], weir := [], retention := [], swept := [] }

/-- A sluice (R342). -/
structure Sluice where
  tail : Word
  head : Word
  target : BitVec 16
  slots : Table (List DWord)
  waiting : List (List DWord)    -- messages without a free slot
  held : List (SplitRef × List DWord) -- FAULT messages whose release waits for accesses of their split (R343)
  times : Table (BitVec 16)      -- logical time of the write of each slot (R246, R343)
  tailTime : BitVec 16           -- logical time of the last store of TAIL
deriving DecidableEq, Repr

/-- A sluice at reset (R342). -/
def Sluice.reset : Sluice := { tail := 0, head := 0, target := 0, slots := [], waiting := [], held := [], times := [], tailTime := 0 }

/-- A translation that a vrtw made (R417): virtual page, physical address of the page, key slot and class. -/
structure PageMap where
  page : Nat
  pa : Nat
  key : Nat
  cls : Nat
deriving DecidableEq, Repr

/-- A write of a lane not yet performed by the render-target unit (R371, R417). -/
structure RtWrite where
  node : Nat
  wave : Nat
  wg : Nat
  ref : SplitRef
  order : Nat                    -- issue order
  seq : Nat
  slot : Nat
  lane : Nat
  px : Nat
  py : Nat
  image : ImageDesc
  data : DWord
  keep : Nat
  maps : List PageMap            -- the translations made at issue (R417)
  held : Bool
  pcs : PcPair
deriving DecidableEq, Repr

/-- A tile that the render-target unit holds (R372): its pixels and the writes it has applied. -/
structure RtTile where
  node : Nat
  image : ImageDesc
  tile : Nat
  ctx : Nat
  ref : SplitRef                 -- the split and workgroup through whose core the unit acts
  wg : Nat
  maps : List PageMap
  pixels : List DWord
  touched : Bool                 -- a channel of a pixel has been written
  state : Nat                    -- mode state when read
  waves : List Nat               -- waves with writes applied and not written back
deriving DecidableEq, Repr

/-! ### Platform -/

/-- A window (R400). -/
structure Window where
  valid : Bool
  base : Nat
  len : Nat
  rd : Bool
  wr : Bool
  at' : Bool
  trg : Bool
  key : Nat
  part : BitVec 12
  gen : BitVec 16
deriving DecidableEq, Repr

/-- A closed window, at reset (R400). -/
def Window.reset : Window :=
  { valid := false, base := 0, len := 0, rd := false, wr := false, at' := false, trg := false, key := 0, part := 0,
    gen := 0 }

/-- An import entry (R399). -/
structure Import where
  valid : Bool
  rank : Nat
  window : Nat
  gen : BitVec 16
deriving DecidableEq, Repr

/-- A record of the window error log (R401). -/
structure WindowError where
  offset : Nat
  window : Nat
  part : BitVec 12
  rank : Nat
  code : Nat
  cyc : Nat
deriving DecidableEq, Repr

/-- What a remote request outstanding was issued for (R258, R284, R285). -/
inductive RemoteFor where
  | load (result : Nat) (acc : Access)
  | store
  | atomic (result : Option Nat) (acc : Access)
  | command (cmd : Nat)
  | put (rest : List (Nat × List Byte))                  -- a reply's pieces that follow: offset and bytes (R410)
  | resident (hart size : Nat) (load : Bool)             -- an access of the resident cluster (R201)
  | core (k len size : Nat) (signed : Bool) (rd : Fin 32) -- a load of a command core, an instruction of `len` bytes (R201)
  | ignored                                              -- a store of a command core (R201)
  | completes (node : Nat)                               -- the signal of a node's completion (R201, R327)
  | trigger (list : Nat)                                 -- a run's put or signal (R404)
deriving DecidableEq, Repr

/-- The request is an access of its split, not one of a command, for which fences do not wait (R271). -/
def RemoteFor.access : RemoteFor → Bool
  | .load _ _ | .store | .atomic _ _ => true
  | .command _ | .put _ | .resident .. | .core .. | .ignored | .completes _ | .trigger _ => false

/-- A remote request outstanding (R258, R398). -/
structure Remote where
  ref : SplitRef
  gkey : Nat
  node : Nat
  rank : Nat
  request : PeerRequest
  purpose : RemoteFor
  pcs : PcPair
  seq : Nat
  lane : Nat
  acq : Bool                     -- an acquire (R232)
deriving DecidableEq, Repr

/-- A trigger list (R403, R404). -/
structure Trigger where
  ctx : Nat
  window : Nat
  tag : BitVec 16
  threshold : Nat
  rearm : Bool
  va : DWord
  n : Nat
  count : Nat
  armed : Bool
  run : Option Nat               -- the next entry of a run in progress
  progress : Nat                 -- bytes of that entry's put already moved
  pending : Nat                  -- runs not yet begun
  awaiting : List Nat            -- the remote requests that the run waits for
deriving DecidableEq, Repr

/-- The host session (R395, R396). -/
structure Session where
  last : Word                    -- SEQ of the last frame accepted
  window : DWord                 -- host bus address of the reply window
  reply : Option (List Byte)     -- the stored reply
deriving DecidableEq, Repr

/-- A message of a multi-chip launch (R329, R330): LAUNCH carries the queue's number, the descriptor's address and dwords, and the
arguments; ABORT, and a part's report of failure, carry the code. -/
inductive MultiMessage where
  | launch (ctx q : Nat) (desc args : DWord) (raw : List DWord)
  | accept | start | done
  | abort (code : Nat)
deriving DecidableEq, Repr

/-- What leaves the part unasked for: a reply written to the host's reply window (R396), the response to a peer's request
(R258, R401): an error code, or data; a message of a multi-chip launch, with its domain and generation (R329, R330). -/
inductive OutMessage where
  | hostReply (addr : DWord) (bytes : List Byte)
  | response (rank : Nat) (error : Option Nat) (data : List Byte)
  | multi (rank domain : Nat) (gen : Word) (m : MultiMessage)
  | completion (bytes : List Byte)               -- of a host's read of the aperture or of the configuration space (R393)
deriving DecidableEq, Repr

/-- A frame forwarded to the resident kernel and not yet answered, with the physical address of the ring's place that holds it (R397). -/
structure Forwarded where
  frame : Frame
  host : Bool
  place : Nat
deriving DecidableEq, Repr

/-- A launch domain as registered (R329, R406). -/
structure Domain where
  size : Nat
  rank : Nat
  nextGen : Word
  links : List (Nat × Link) := []
deriving DecidableEq, Repr

/-- Events of the RAS log (R413). -/
inductive RasEvent where
  | ecc (core : Nat) | matrix (core : Nat) | lockstep (pair : Nat) | floatPath (core : Nat) | clock | network | near | link
deriving DecidableEq, Repr

/-- What the host may write of the configuration space: the command register and BAR0 (R393). -/
structure HostPort where
  command : BitVec 16
  bar0 : DWord
deriving DecidableEq, Repr

/-- How far a requester of SPDM has come: 0 nothing, 1 version, 2 capabilities, 3 algorithms; and the messages since GET_VERSION (R409). -/
structure Spdm where
  stage : Nat
  transcript : List Byte
deriving DecidableEq, Repr

/-- A logical core of the command complex (R407), or a hart of the resident cluster (R20; log entry 93). The registers x1 to x31 stand at
their own index; x0 reads zero. -/
structure CmdCore where
  x : Vector DWord 32
  pc : DWord
  machine : Bool                 -- M mode
  mstatus : DWord
  mcause : DWord
  mepc : DWord
  mtval : DWord
  mtvec : DWord
  mie : DWord
  mscratch : DWord
  mcounteren : DWord
  menvcfg : DWord
  cycleBase : DWord              -- what mcycle has over the core's cycles
  instret : DWord                -- minstret
  reserved : Option (Nat × Nat)  -- address and size of the last load-reserved
  reservedTs : BitVec 16         -- WTS of its line then: a store since moves it (R246)
  asked : Bool                   -- a load waits for a peer's answer
  mem : Memory                   -- core-local memory, from address 0 (log entry 18)
  pendingIrq : Bool
deriving DecidableEq, Repr

/-- A command core at reset: log entry 18. -/
def CmdCore.reset : CmdCore :=
  { x := Vector.replicate 32 0, pc := 0, machine := true, mstatus := 0, mcause := 0, mepc := 0, mtval := 0, mtvec := 0,
    mie := 0, mscratch := 0, mcounteren := 0, menvcfg := 0, cycleBase := 0, instret := 0, reserved := none, reservedTs := 0, asked := false,
    mem := [], pendingIrq := false }

/-- Where the boot stands (R408, R411). -/
inductive BootStage where
  | rom | recovery | oluvos | running
deriving DecidableEq, Repr

/-- A physical access of a hart of the resident cluster (R20, R201, R415): address, width in bytes, and the data of a store. -/
structure ResAccess where
  hart : Nat
  pa : Nat
  size : Nat
  data : Option DWord
deriving DecidableEq, Repr

end Sys2Proof.Machine
end

