-- ==== Sys2Proof/Syntax.lean ====
section
/-! DEFINITION. The instructions and steps of the Vextar 9: one constructor for each row of spec/opcode_table.json,
in the table's order. Scalar words carry their fields as the formats of R63 to R73 give them, lane words a LaneWord
(R76), Xcmd instructions their R-type fields (R407). The rows that no word encodes are steps of the part; each
carries the choice that says which of several such steps it is. -/

namespace Sys2Proof

/-- One step of the part: an instruction word of a stream, or a step that no word encodes. -/
inductive Instr where
  /-- SADD (R136). Writes the 32-bit sum of sa and sb to sd. -/
  | sadd (sd sa sb : SReg)
  /-- SSUB (R136). Writes the 32-bit difference sa minus sb to sd. -/
  | ssub (sd sa sb : SReg)
  /-- SAND (R136). Writes sa AND sb to sd. -/
  | sand (sd sa sb : SReg)
  /-- SOR (R136). Writes sa OR sb to sd. -/
  | sor (sd sa sb : SReg)
  /-- SXOR (R136). Writes sa XOR sb to sd. -/
  | sxor (sd sa sb : SReg)
  /-- SANDN (R136). Writes sa AND NOT sb to sd. -/
  | sandn (sd sa sb : SReg)
  /-- SSLL (R136). Shifts sa left by sb mod 32. -/
  | ssll (sd sa sb : SReg)
  /-- SSRL (R136). Shifts sa right logically by sb mod 32. -/
  | ssrl (sd sa sb : SReg)
  /-- SSRA (R136). Shifts sa right arithmetically by sb mod 32. -/
  | ssra (sd sa sb : SReg)
  /-- SMUL (R136). Writes the low 32 bits of sa times sb. -/
  | smul (sd sa sb : SReg)
  /-- SMULH (R136). Writes the signed high half of sa times sb. -/
  | smulh (sd sa sb : SReg)
  /-- SMULHU (R136). Writes the unsigned high half of sa times sb. -/
  | smulhu (sd sa sb : SReg)
  /-- SDIV (R137). Writes the signed quotient rounded toward zero, with fixed results for zero divisor and overflow. -/
  | sdiv (sd sa sb : SReg)
  /-- SDIVU (R137). Writes the unsigned quotient, all ones on zero divisor. -/
  | sdivu (sd sa sb : SReg)
  /-- SREM (R137). Writes the signed remainder. -/
  | srem (sd sa sb : SReg)
  /-- SREMU (R137). Writes the unsigned remainder. -/
  | sremu (sd sa sb : SReg)
  /-- SMIN (R136). Writes the signed lesser of sa and sb. -/
  | smin (sd sa sb : SReg)
  /-- SMAX (R136). Writes the signed greater of sa and sb. -/
  | smax (sd sa sb : SReg)
  /-- SMINU (R136). Writes the unsigned lesser of sa and sb. -/
  | sminu (sd sa sb : SReg)
  /-- SMAXU (R136). Writes the unsigned greater of sa and sb. -/
  | smaxu (sd sa sb : SReg)
  /-- SCLZ (R136). Counts leading zero bits of sa. -/
  | sclz (sd sa : SReg)
  /-- SPOP (R136). Counts one bits of sa. -/
  | spop (sd sa : SReg)
  /-- SBREV (R136). Reverses the bits of sa. -/
  | sbrev (sd sa : SReg)
  /-- SCTZ (R136). Counts trailing zero bits of sa. -/
  | sctz (sd sa : SReg)
  /-- SADD_D (R136). 64-bit add on register pairs. -/
  | saddD (pd pa pb : Pair)
  /-- SSUB_D (R136). 64-bit subtract on register pairs. -/
  | ssubD (pd pa pb : Pair)
  /-- SAND_D (R136). 64-bit AND on register pairs. -/
  | sandD (pd pa pb : Pair)
  /-- SOR_D (R136). 64-bit OR on register pairs. -/
  | sorD (pd pa pb : Pair)
  /-- SXOR_D (R136). 64-bit XOR on register pairs. -/
  | sxorD (pd pa pb : Pair)
  /-- SANDN_D (R136). 64-bit AND NOT on register pairs. -/
  | sandnD (pd pa pb : Pair)
  /-- SSLL_D (R136). 64-bit left shift by sb mod 64. -/
  | ssllD (pd pa pb : Pair)
  /-- SSRL_D (R136). 64-bit logical right shift. -/
  | ssrlD (pd pa pb : Pair)
  /-- SSRA_D (R136). 64-bit arithmetic right shift. -/
  | ssraD (pd pa pb : Pair)
  /-- SMUL_D (R136). Low 64 bits of a 64-bit product. -/
  | smulD (pd pa pb : Pair)
  /-- SMULH_D (R136). Signed high half of a 64-bit product. -/
  | smulhD (pd pa pb : Pair)
  /-- SMULHU_D (R136). Unsigned high half of a 64-bit product. -/
  | smulhuD (pd pa pb : Pair)
  /-- SDIV_D (R137). 64-bit signed division. -/
  | sdivD (pd pa pb : Pair)
  /-- SDIVU_D (R137). 64-bit unsigned division. -/
  | sdivuD (pd pa pb : Pair)
  /-- SREM_D (R137). 64-bit signed remainder. -/
  | sremD (pd pa pb : Pair)
  /-- SREMU_D (R137). 64-bit unsigned remainder. -/
  | sremuD (pd pa pb : Pair)
  /-- SMIN_D (R136). 64-bit signed minimum. -/
  | sminD (pd pa pb : Pair)
  /-- SMAX_D (R136). 64-bit signed maximum. -/
  | smaxD (pd pa pb : Pair)
  /-- SMINU_D (R136). 64-bit unsigned minimum. -/
  | sminuD (pd pa pb : Pair)
  /-- SMAXU_D (R136). 64-bit unsigned maximum. -/
  | smaxuD (pd pa pb : Pair)
  /-- SCLZ_D (R66). Counts leading zeros of a pair into sd, zero into sd+1. -/
  | sclzD (pd pa : Pair)
  /-- SPOP_D (R66). Counts one bits of a pair. -/
  | spopD (pd pa : Pair)
  /-- SBREV_D (R136). Reverses the 64 bits of a pair. -/
  | sbrevD (pd pa : Pair)
  /-- SCTZ_D (R66). Counts trailing zeros of a pair. -/
  | sctzD (pd pa : Pair)
  /-- SCC (R140). Writes 1 or 0 to sd as the 32-bit condition holds. -/
  | scc (c : Cond) (sd sa sb : SReg)
  /-- SCC_D (R140). Writes 1 or 0 to sd as the 64-bit condition on pairs holds. -/
  | sccD (c : Cond) (sd : SReg) (pa pb : Pair)
  /-- SPARK (R145). Parks the split until its variable-latency results are written and empties the latch. -/
  | spark
  /-- SEXIT (R41). Parks, then ends every lane of the split's lane set or swaps to an owned deferral entry. -/
  | sexit
  /-- SJOIN (R37). Parks, then swaps with a deferral entry, merges, or waits on a join record. -/
  | sjoin
  /-- SRET (R143). Jumps to the PC pair held in an even register pair. -/
  | sret (pa : Pair)
  /-- SCALLI (R143). Indirect call: writes the return pair and jumps to the pair in s[a:a+1]. -/
  | scalli (pd pa : Pair)
  /-- SGETSR (R151). Reads a special register into sd. -/
  | sgetsr (sd : SReg) (r : SpecialReg)
  /-- SSETSR (R151). Writes a special register from sa, subject to access rights. -/
  | ssetsr (r : SpecialReg) (sa : SReg)
  /-- SWID (R56). Writes field k of the group's work identifier to sd. -/
  | swid (sd : SReg) (k : Fin 6)
  /-- SEXEC_SET (R156). Sets the exec mask to vcN AND the lane set. -/
  | sexecSet (n : Fin 4)
  /-- SEXEC_AND (R156). ANDs the exec mask with vcN. -/
  | sexecAnd (n : Fin 4)
  /-- SEXEC_ANDN (R156). ANDs the exec mask with NOT vcN. -/
  | sexecAndn (n : Fin 4)
  /-- SGETC (R157). Copies one 32-lane beat of vcN to sd. -/
  | sgetc (sd : SReg) (n : Fin 4) (beat : Fin 3)
  /-- SSETC (R157). Writes bits of sa to one beat of vcN for the split's own lanes. -/
  | ssetc (n : Fin 4) (beat : Fin 3) (sa : SReg)
  /-- SXGET_F32 (R159). Reads an exact accumulator rounded to f32 into sd, raising flags. -/
  | sxgetF32 (sd : SReg) (n : Fin 2)
  /-- SXGET_I32 (R159). Reads an exact accumulator rounded to i32 into sd, raising flags. -/
  | sxgetI32 (sd : SReg) (n : Fin 2)
  /-- SUPWAIT (R162). Parks until the reply to a ticket is present and delivers its dword 0, or writes all ones. -/
  | supwait (pa : Pair)
  /-- SGETR (R164). Reads dword k of the group's reply slot into a pair. -/
  | sgetr (pd : Pair) (k : Fin 8)
  /-- SBAR (R272). Waits at the workgroup barrier as a release on arrival and acquire on departure. -/
  | sbar
  /-- SBINIT (R275). Activates a barrier object with a count. -/
  | sbinit (sa sb : SReg)
  /-- SBARRIVE (R275). Releases and arrives at a barrier object, completing a phase at the count. -/
  | sbarrive (sa : SReg)
  /-- SBWAIT (R275). Parks until the recorded phase of a barrier object completes, then acquires. -/
  | sbwait (sa : SReg)
  /-- SBFREE (R275). Deactivates a barrier object. -/
  | sbfree (sa : SReg)
  /-- SFENCE (R271). Fence with acquire, release or both at a scope; waits for acknowledgements or returns. -/
  | sfence (o : Order) (sc : Scope)
  /-- GFENCE_RT (R373). Waits for the wave's render-target writes at L2, then releases at device scope. -/
  | gfenceRt
  /-- SADDI (R138). Adds a sign-extended imm14 to sa. -/
  | saddi (sd sa : SReg) (imm : BitVec 14)
  /-- SANDI (R138). ANDs sa with a zero-extended imm14. -/
  | sandi (sd sa : SReg) (imm : BitVec 14)
  /-- SORI (R138). ORs sa with a zero-extended imm14. -/
  | sori (sd sa : SReg) (imm : BitVec 14)
  /-- SXORI (R138). XORs sa with a zero-extended imm14. -/
  | sxori (sd sa : SReg) (imm : BitVec 14)
  /-- SSLLI (R138). Shifts sa left by an immediate amount. -/
  | sslli (sd sa : SReg) (amount : Fin 32)
  /-- SSRLI (R138). Shifts sa right logically by an immediate amount. -/
  | ssrli (sd sa : SReg) (amount : Fin 32)
  /-- SSRAI (R138). Shifts sa right arithmetically by an immediate amount. -/
  | ssrai (sd sa : SReg) (amount : Fin 32)
  /-- SLREP (R148). Arms a repeat of the first lane word of the next slissue with count and stride. -/
  | slrep (count : Fin 256) (stride : Fin 64)
  /-- SADDI_D (R138). Adds a sign-extended imm14 to a 64-bit pair. -/
  | saddiD (pd pa : Pair) (imm : BitVec 14)
  /-- STICK (R154). Advances the workgroup reuse clock and updates CPT. -/
  | stick (sa : SReg) (imm : BitVec 14)
  /-- STRAP (R160). Parks and raises SOFTWARE_TRAP with a code. -/
  | strap (code : Byte)
  /-- SBEQ (R141). Short branch when the two registers are equal. -/
  | sbeq (sa sb : SReg) (off : BitVec 14)
  /-- SBNE (R141). Short branch when the two registers differ. -/
  | sbne (sa sb : SReg) (off : BitVec 14)
  /-- SBLT (R141). Short branch on signed less-than. -/
  | sblt (sa sb : SReg) (off : BitVec 14)
  /-- SBGE (R141). Short branch on signed greater-or-equal. -/
  | sbge (sa sb : SReg) (off : BitVec 14)
  /-- SBLTU (R141). Short branch on unsigned less-than. -/
  | sbltu (sa sb : SReg) (off : BitVec 14)
  /-- SBGEU (R141). Short branch on unsigned greater-or-equal. -/
  | sbgeu (sa sb : SReg) (off : BitVec 14)
  /-- SBR (R141). Short unconditional branch of the scalar PC. -/
  | sbr (off : BitVec 22)
  /-- SBMZ (R142). Short branch when the exec mask is zero. -/
  | sbmz (off : BitVec 22)
  /-- SBMNZ (R142). Short branch when the exec mask is non-zero. -/
  | sbmnz (off : BitVec 22)
  /-- SBMALL (R142). Short branch when the exec mask equals the lane set. -/
  | sbmall (off : BitVec 22)
  /-- SBMNALL (R142). Short branch when the exec mask differs from the lane set. -/
  | sbmnall (off : BitVec 22)
  /-- SLISSUE (R147). Issues a run of lane words from the lane PC, optionally parking after the run. -/
  | slissue (count : Fin 256) (pk : Bool)
  /-- SLI (R139). Loads a 32-bit literal into sd. -/
  | sli (sd : SReg) (imm : Word)
  /-- SBR_LONG (R141). Long unconditional branch moving both PCs. -/
  | sbrLong (so lo : BitVec 16)
  /-- SBMZ_LONG (R141). Long branch when the exec mask is zero. -/
  | sbmzLong (so lo : BitVec 16)
  /-- SBMNZ_LONG (R141). Long branch when the exec mask is non-zero. -/
  | sbmnzLong (so lo : BitVec 16)
  /-- SBMALL_LONG (R141). Long branch when the exec mask equals the lane set. -/
  | sbmallLong (so lo : BitVec 16)
  /-- SBMNALL_LONG (R141). Long branch when the exec mask differs from the lane set. -/
  | sbmnallLong (so lo : BitVec 16)
  /-- SBEQ_LONG (R141). Long compare branch on equality moving both PCs. -/
  | sbeqLong (sa sb : SReg) (so lo : BitVec 16)
  /-- SBNE_LONG (R141). Long compare branch on inequality. -/
  | sbneLong (sa sb : SReg) (so lo : BitVec 16)
  /-- SBLT_LONG (R141). Long compare branch on signed less-than. -/
  | sbltLong (sa sb : SReg) (so lo : BitVec 16)
  /-- SBGE_LONG (R141). Long compare branch on signed greater-or-equal. -/
  | sbgeLong (sa sb : SReg) (so lo : BitVec 16)
  /-- SBLTU_LONG (R141). Long compare branch on unsigned less-than. -/
  | sbltuLong (sa sb : SReg) (so lo : BitVec 16)
  /-- SBGEU_LONG (R141). Long compare branch on unsigned greater-or-equal. -/
  | sbgeuLong (sa sb : SReg) (so lo : BitVec 16)
  /-- SCALL (R143). Writes the return PC pair and branches as a long branch. -/
  | scall (pd : Pair) (so lo : BitVec 16)
  /-- SBRV (R144). Divergent branch: falls through, branches, splits or defers by the lanes of vcN. -/
  | sbrv (n : Fin 4) (jso jlo tso tlo : BitVec 12)
  /-- SUPCALL (R161). Posts an upcall message and writes a ticket to sd. -/
  | supcall (sd : SReg) (pa pb : Pair) (svc : BitVec 16)
  /-- SUPCALL_WAIT (R161). Posts an upcall message and parks until the reply is present. -/
  | supcallWait (pa pb : Pair) (svc : BitVec 16)
  /-- SLD_W (R264). Scalar load of a word. -/
  | sldW (sd : SReg) (base : Pair) (si : SReg) (m : MemFields)
  /-- SLD_D (R264). Scalar load of a dword into a pair. -/
  | sldD (pd : Pair) (base : Pair) (si : SReg) (m : MemFields)
  /-- SST_W (R264). Scalar store of a word. -/
  | sstW (sd : SReg) (base : Pair) (si : SReg) (m : MemFields)
  /-- SST_D (R264). Scalar store of a pair. -/
  | sstD (pd : Pair) (base : Pair) (si : SReg) (m : MemFields)
  /-- SLD_B (R264). Scalar load of a sign-extended byte. -/
  | sldB (sd : SReg) (base : Pair) (si : SReg) (m : MemFields)
  /-- SLD_BU (R264). Scalar load of a zero-extended byte. -/
  | sldBu (sd : SReg) (base : Pair) (si : SReg) (m : MemFields)
  /-- SLD_H (R264). Scalar load of a sign-extended half. -/
  | sldH (sd : SReg) (base : Pair) (si : SReg) (m : MemFields)
  /-- SLD_HU (R264). Scalar load of a zero-extended half. -/
  | sldHu (sd : SReg) (base : Pair) (si : SReg) (m : MemFields)
  /-- SST_B (R264). Scalar store of a byte. -/
  | sstB (sd : SReg) (base : Pair) (si : SReg) (m : MemFields)
  /-- SST_H (R264). Scalar store of a half. -/
  | sstH (sd : SReg) (base : Pair) (si : SReg) (m : MemFields)
  /-- SATOM_ADD_W (R265). Scalar word atomic add returning the old value. -/
  | satomAddW (sd : SReg) (base : Pair) (si : SReg) (m : MemFields)
  /-- SATOM_AND_W (R265). Scalar word atomic AND. -/
  | satomAndW (sd : SReg) (base : Pair) (si : SReg) (m : MemFields)
  /-- SATOM_OR_W (R265). Scalar word atomic OR. -/
  | satomOrW (sd : SReg) (base : Pair) (si : SReg) (m : MemFields)
  /-- SATOM_XOR_W (R265). Scalar word atomic XOR. -/
  | satomXorW (sd : SReg) (base : Pair) (si : SReg) (m : MemFields)
  /-- SATOM_MIN_W (R265). Scalar word atomic signed minimum. -/
  | satomMinW (sd : SReg) (base : Pair) (si : SReg) (m : MemFields)
  /-- SATOM_MAX_W (R265). Scalar word atomic signed maximum. -/
  | satomMaxW (sd : SReg) (base : Pair) (si : SReg) (m : MemFields)
  /-- SATOM_MINU_W (R265). Scalar word atomic unsigned minimum. -/
  | satomMinuW (sd : SReg) (base : Pair) (si : SReg) (m : MemFields)
  /-- SATOM_MAXU_W (R265). Scalar word atomic unsigned maximum. -/
  | satomMaxuW (sd : SReg) (base : Pair) (si : SReg) (m : MemFields)
  /-- SATOM_XCHG_W (R265). Scalar word atomic exchange. -/
  | satomXchgW (sd : SReg) (base : Pair) (si : SReg) (m : MemFields)
  /-- SATOM_CAS_W (R265). Scalar word compare-and-swap. -/
  | satomCasW (sd : SReg) (base : Pair) (q : Pair) (m : MemFields)
  /-- SATOM_FADD_W (R265). Scalar f32 atomic add. -/
  | satomFaddW (sd : SReg) (base : Pair) (si : SReg) (m : MemFields)
  /-- SATOM_ADD_D (R265). Scalar dword atomic add. -/
  | satomAddD (pd : Pair) (base : Pair) (si : SReg) (m : MemFields)
  /-- SATOM_AND_D (R265). Scalar dword atomic AND. -/
  | satomAndD (pd : Pair) (base : Pair) (si : SReg) (m : MemFields)
  /-- SATOM_OR_D (R265). Scalar dword atomic OR. -/
  | satomOrD (pd : Pair) (base : Pair) (si : SReg) (m : MemFields)
  /-- SATOM_XOR_D (R265). Scalar dword atomic XOR. -/
  | satomXorD (pd : Pair) (base : Pair) (si : SReg) (m : MemFields)
  /-- SATOM_MIN_D (R265). Scalar dword atomic signed minimum. -/
  | satomMinD (pd : Pair) (base : Pair) (si : SReg) (m : MemFields)
  /-- SATOM_MAX_D (R265). Scalar dword atomic signed maximum. -/
  | satomMaxD (pd : Pair) (base : Pair) (si : SReg) (m : MemFields)
  /-- SATOM_MINU_D (R265). Scalar dword atomic unsigned minimum. -/
  | satomMinuD (pd : Pair) (base : Pair) (si : SReg) (m : MemFields)
  /-- SATOM_MAXU_D (R265). Scalar dword atomic unsigned maximum. -/
  | satomMaxuD (pd : Pair) (base : Pair) (si : SReg) (m : MemFields)
  /-- SATOM_XCHG_D (R265). Scalar dword atomic exchange. -/
  | satomXchgD (pd : Pair) (base : Pair) (si : SReg) (m : MemFields)
  /-- SATOM_CAS_D (R265). Scalar dword compare-and-swap. -/
  | satomCasD (pd : Pair) (base : Pair) (q : Fin 16) (m : MemFields)
  /-- SATOM_FADD_D (R265). Scalar f64 atomic add. -/
  | satomFaddD (pd : Pair) (base : Pair) (si : SReg) (m : MemFields)
  /-- SGETL_IMM (R158). Reads one lane of va, named by an immediate, into sd. -/
  | sgetlImm (sd : SReg) (va : Fin 128) (lane : Fin 96)
  /-- SGETL_REG (R158). Reads one lane of va, named by a register, into sd. -/
  | sgetlReg (sd : SReg) (va : Fin 128) (sb : SReg)
  /-- SCALLX (R146). Parks and dissolves active lanes to the composing unit for a call. -/
  | scallx (va vb : Fin 128) (n : Fin 33)
  /-- SCALLX_RET (R146). Parks and dissolves active lanes for a return through their continuation stacks. -/
  | scallxRet (vb : Fin 128) (n : Fin 33)
  /-- MMA (R306). Queues a matrix multiply-accumulate into a tile. -/
  | mma (sa sb : SReg) (t : Fin 64) (pa pb : Fin 4) (acc sat g : Bool)
  /-- MMA_PAIR (R300). Queues a paired 64x128 matrix product on a twin. -/
  | mmaPair (sa sb : SReg) (t : Fin 64) (pa pb : Fin 4) (acc sat g : Bool)
  /-- MZERO (R308). Queues zeroing of a range of tiles. -/
  | mzero (count t : Fin 64)
  /-- MLOAD (R302). Queues a load of a scratchpad block into a tile. -/
  | mload (sd : SReg) (t : Fin 64) (tr : Bool)
  /-- MDRAIN (R301). Queues a converted write of a tile block to scratchpad. -/
  | mdrain (sd : SReg) (t : Fin 64) (tr : Bool) (rnd : Fin 4) (sat : Bool)
  /-- MGIDX (R309). Queues a write of the group's gather table from vN. -/
  | mgidx (va : Fin 128)
  /-- XCOPY (R279). Queues a two-dimensional byte copy on the copy engine. -/
  | xcopy (dir : CopyDir) (d a : SReg) (n k : Pair) (f : CopyFields)
  /-- XDECOMP (R282). Queues decompression of render-target tiles. -/
  | xdecomp (d : Pair) (first count : SReg) (f : CopyFields)
  /-- XSEAL (R283). Closes the open batch and returns its number. -/
  | xseal (sd : SReg)
  /-- XWAIT (R283). Waits until at most n sealed batches remain unretired. -/
  | xwait (n : Fin 16)
  /-- XPUT (R284). Queues a put of local bytes to a peer window. -/
  | xput (d : Pair) (a : SReg) (count : SReg) (spad : Bool) (f : CopyFields) (tag : BitVec 16)
  /-- XGET (R284). Queues a get of bytes from a peer window. -/
  | xget (d : SReg) (a : Pair) (count : SReg) (spad : Bool) (f : CopyFields) (tag : BitVec 16)
  /-- XSIG (R285). Queues a remote signal add or set after earlier commands. -/
  | xsig (d v : Pair) (set : Bool) (f : CopyFields) (tag : BitVec 16)
  /-- GEMIT (R360). Queues emission of primitive records into the primitive buffer. -/
  | gemit (ss sn sq : SReg) (code : Fin 32)
  /-- VADD (R172). Polymorphic add per active lane. -/
  | vadd (w : LaneWord)
  /-- VSUB (R172). Polymorphic subtract. -/
  | vsub (w : LaneWord)
  /-- VMUL (R172). Polymorphic multiply. -/
  | vmul (w : LaneWord)
  /-- VMAD (R172). Polymorphic fused multiply-add. -/
  | vmad (w : LaneWord)
  /-- VMIN (R173). Polymorphic minimum. -/
  | vmin (w : LaneWord)
  /-- VMAX (R173). Polymorphic maximum. -/
  | vmax (w : LaneWord)
  /-- VABS (R174). Polymorphic absolute value. -/
  | vabs (w : LaneWord)
  /-- VNEG (R174). Polymorphic negation. -/
  | vneg (w : LaneWord)
  /-- VCMP (R175). Compares per lane and writes a condition register. -/
  | vcmp (w : LaneWord)
  /-- VSEL (R176). Selects va or vb per lane by a condition register. -/
  | vsel (w : LaneWord)
  /-- VSCAN (R177). Running add, min or max across active lanes. -/
  | vscan (w : LaneWord)
  /-- VAND (R178). Bitwise AND. -/
  | vand (w : LaneWord)
  /-- VOR (R178). Bitwise OR. -/
  | vor (w : LaneWord)
  /-- VXOR (R178). Bitwise XOR. -/
  | vxor (w : LaneWord)
  /-- VNOT (R178). Bitwise NOT. -/
  | vnot (w : LaneWord)
  /-- VSHL (R179). Left shift. -/
  | vshl (w : LaneWord)
  /-- VSHR (R179). Logical right shift. -/
  | vshr (w : LaneWord)
  /-- VSRA (R179). Arithmetic right shift. -/
  | vsra (w : LaneWord)
  /-- VMULHI (R180). High half of an integer product. -/
  | vmulhi (w : LaneWord)
  /-- VCLZ (R181). Counts leading zeros. -/
  | vclz (w : LaneWord)
  /-- VPOPC (R181). Counts one bits. -/
  | vpopc (w : LaneWord)
  /-- VBREV (R181). Reverses bits. -/
  | vbrev (w : LaneWord)
  /-- VBFE (R182). Extracts a bit field. -/
  | vbfe (w : LaneWord)
  /-- VBFI (R182). Inserts a bit field. -/
  | vbfi (w : LaneWord)
  /-- VDIV (R183). Correctly rounded floating division. -/
  | vdiv (w : LaneWord)
  /-- VSQRT (R183). Correctly rounded square root. -/
  | vsqrt (w : LaneWord)
  /-- VRCP (R119). Reciprocal within 1 ulp. -/
  | vrcp (w : LaneWord)
  /-- VRSQ (R119). Reciprocal square root within 1 ulp. -/
  | vrsq (w : LaneWord)
  /-- VEXP2 (R119). Base-2 exponential within 1 ulp. -/
  | vexp2 (w : LaneWord)
  /-- VLOG2 (R119). Base-2 logarithm within 1 ulp. -/
  | vlog2 (w : LaneWord)
  /-- VSIN (R119). Sine within its tolerance. -/
  | vsin (w : LaneWord)
  /-- VCOS (R119). Cosine within its tolerance. -/
  | vcos (w : LaneWord)
  /-- VROUND (R183). Rounds to an integral value in its own format. -/
  | vround (w : LaneWord)
  /-- VFRACT (R183). Fractional part. -/
  | vfract (w : LaneWord)
  /-- VCLASS (R184). Writes a class mask of each value. -/
  | vclass (w : LaneWord)
  /-- VDOT2 (R183). Two-term dot product of packed halves plus vc, rounded once to f32. -/
  | vdot2 (w : LaneWord)
  /-- VLDEXP (R183). Multiplies by a power of two. -/
  | vldexp (w : LaneWord)
  /-- VCVT (R185). Converts between formats. -/
  | vcvt (w : LaneWord)
  /-- VTAG (R186). Copies bits and sets a new tag. -/
  | vtag (w : LaneWord)
  /-- VGETTAG (R187). Writes the tag of va as a value. -/
  | vgettag (w : LaneWord)
  /-- VMOV (R188). Copies a register with its tag. -/
  | vmov (w : LaneWord)
  /-- VLI (R189). Writes a literal with the override tag. -/
  | vli (w : LaneWord)
  /-- VLANE (R190). Writes lane number, lane in beat or beat. -/
  | vlane (w : LaneWord)
  /-- VMOVC (R190). Writes condition bits as 0 or 1 per lane. -/
  | vmovc (w : LaneWord)
  /-- VXCH (R191). Exchanges lanes at a power-of-two distance. -/
  | vxch (w : LaneWord)
  /-- VPERM (R191). Permutes lanes by an index register. -/
  | vperm (w : LaneWord)
  /-- VROT (R191). Rotates lanes modulo 96. -/
  | vrot (w : LaneWord)
  /-- VBCAST (R191). Broadcasts one lane, or the first active lane. -/
  | vbcast (w : LaneWord)
  /-- VRED (R192). Reduces across active lanes and writes the result to each. -/
  | vred (w : LaneWord)
  /-- VBALLOT (R193). Writes one beat of a condition ballot. -/
  | vballot (w : LaneWord)
  /-- VCAND (R194). ANDs condition registers. -/
  | vcand (w : LaneWord)
  /-- VCOR (R194). ORs condition registers. -/
  | vcor (w : LaneWord)
  /-- VCXOR (R194). XORs condition registers. -/
  | vcxor (w : LaneWord)
  /-- VCNOT (R194). Inverts a condition register. -/
  | vcnot (w : LaneWord)
  /-- VCMOV (R194). Copies a condition register. -/
  | vcmov (w : LaneWord)
  /-- VXADD (R195). Adds active lanes exactly into an exact accumulator. -/
  | vxadd (w : LaneWord)
  /-- VXGET (R196). Reads an exact accumulator rounded to every active lane. -/
  | vxget (w : LaneWord)
  /-- VXCLR (R197). Clears an exact accumulator. -/
  | vxclr (w : LaneWord)
  /-- VLD (R267). Lane load from global memory. -/
  | vld (w : LaneWord)
  /-- VST (R268). Lane store to global memory. -/
  | vst (w : LaneWord)
  /-- VATOM (R269). Lane atomic returning the old value. -/
  | vatom (w : LaneWord)
  /-- VATOMN (R269). Lane atomic returning nothing. -/
  | vatomn (w : LaneWord)
  /-- VLDS (R267). Lane load from scratchpad. -/
  | vlds (w : LaneWord)
  /-- VSTS (R268). Lane store to scratchpad. -/
  | vsts (w : LaneWord)
  /-- VTEX (R379). Samples a texture per lane. -/
  | vtex (w : LaneWord)
  /-- VTEXLD (R381). Reads one texel at integer coordinates. -/
  | vtexld (w : LaneWord)
  /-- VHGRID (R383). Fetches interpolated hash-grid features. -/
  | vhgrid (w : LaneWord)
  /-- VHGSC (R384). Scatters hash-grid gradients with atomic adds. -/
  | vhgsc (w : LaneWord)
  /-- VTRACE (R386). Launches one ray per active lane and writes tickets. -/
  | vtrace (w : LaneWord)
  /-- VMBOX (R389). Pops the first arrived ray record per lane. -/
  | vmbox (w : LaneWord)
  /-- VRTW (R370). Writes covered lanes' pixels through the render-target unit. -/
  | vrtw (w : LaneWord)
  /-- VVIS (R375). Atomic unsigned maximum into a visibility buffer. -/
  | vvis (w : LaneWord)
  /-- VORDB (R374). Begins a raster-ordered section, waiting for earlier positions. -/
  | vordb (w : LaneWord)
  /-- VORDE (R374). Ends a raster-ordered section after writes are performed. -/
  | vorde (w : LaneWord)
  /-- VQSWAP (R376). Exchanges lanes within quads. -/
  | vqswap (w : LaneWord)
  /-- CX_RFETCH (R407). Copies the oldest taken host frame into core-local memory. -/
  | cxRfetch (rd rs1 rs2 : Fin 32)
  /-- CX_BFEXT (R407). Extracts a bit field of rs1. -/
  | cxBfext (rd rs1 rs2 : Fin 32)
  /-- CX_SWAIT (R407). Polls a dword with acquire until it reaches a value or an interrupt is pending. -/
  | cxSwait (rd rs1 rs2 : Fin 32)
  /-- CX_DISP (R407). Takes a launch entry as a queue port does. -/
  | cxDisp (rd rs1 rs2 : Fin 32)
  /-- CX_GUILT (R407). Adds to a context's GUILT. -/
  | cxGuilt (rd rs1 rs2 : Fin 32)
  /-- VARIABLE_LATENCY_RESULT (R43). A load, returning atomic or other variable-latency result returns and is written. -/
  | variableLatencyResult (r : SplitRef) (k : Nat)
  /-- PARK_POINT_RELEASE (R44). A parked split resumes once its results are written and pending deliveries taken. -/
  | parkPointRelease (r : SplitRef)
  /-- FORCED_PARK (R46). After 256 lane or 1,024 scalar instructions without a park, the split parks. -/
  | forcedPark (r : SplitRef)
  /-- SPLIT_MERGE (R38). Splits waiting at a join record merge once the record's lanes are all there or exited. -/
  | splitMerge (group key : Nat)
  /-- JOIN_DEADLOCK_RELEASE (R42). When no join wait can complete, waiting splits continue unmerged with UJOIN set. -/
  | joinDeadlockRelease (group : Nat)
  /-- COMPOSE_RELEASE (R51). The composing unit releases a new group when full, at slot limit, after 512 cycles, or when no caller remains. -/
  | composeRelease (node index : Nat)
  /-- STARVATION_PRECEDENCE (R57). A ready split unissued for 1,024 cycles takes precedence on its pipe. -/
  | starvationPrecedence (r : SplitRef)
  /-- BARRIER_COMPLETE (R272). The workgroup barrier completes when every live group has arrived, releasing its waiters. -/
  | barrierComplete (wg : Nat)
  /-- CLOCK_POINT_CHANGE (R23). All compute dies pause issue and change clock point together. -/
  | clockPointChange (p : ClockPoint)
  /-- LT_TICK (R247). A core's logical time advances by 1 every 1,024 cycles. -/
  | ltTick (core : Nat)
  /-- HUB_LT_TICK (R416). The hub logical time advances by 1 every 1,024 cycles. -/
  | hubLtTick
  /-- FLOOR_SWEEP (R248). The floor advances by 2^12, raising timestamps and dropping old L1 copies. -/
  | floorSweep
  /-- ATOMIC_LEASE_EXPIRY (R252). A near atomic's 512-cycle exclusive lease ends, writing back and serving waiters. -/
  | atomicLeaseExpiry (line : Nat)
  /-- WEIR_FAR_EXPIRY (R251). A far-marked line returns to near after 65,536 cycles without atomics. -/
  | weirFarExpiry (line : Nat)
  /-- L2_OVERDUE_SWEEP (R219). Each slice sweeps its lines and sets OVD on overdue ones. -/
  | l2OverdueSweep (die slice : Nat)
  /-- AUDIT_FAIL (R222). An audit deadline passes without reuse, adding 4 to AUDIT. -/
  | auditFail (die slice k : Nat)
  /-- GRANULE_TO_SCRATCH (R210). An L1 way stops fills, waits for exclusive leases, writes back and becomes scratch-free. -/
  | granuleToScratch (core : Nat)
  /-- GRANULE_TO_L1 (R210). A scratch-free granule above the target becomes the next L1 way. -/
  | granuleToL1 (core : Nat)
  /-- INVALIDATE_PAGE (R208). Invalidation port mode 0: the page holding VA, every size. -/
  | invalidatePage (ctx page : Nat)
  /-- INVALIDATE_CONTEXT (R208). Invalidation port mode 1: every entry of the context. -/
  | invalidateContext (ctx : Nat)
  /-- INVALIDATE_NONGLOBAL (R208). Invalidation port mode 2: entries of the context with G = 0. -/
  | invalidateNonglobal (ctx : Nat)
  /-- INVALIDATE_ALL (R208). Invalidation port mode 3: every entry of every context. -/
  | invalidateAll
  /-- INVALIDATION_PORT_LOAD (R208). A load of the port returns 0 after the core's requests complete. -/
  | invalidationPortLoad
  /-- CONTEXT_VALID_WRITE (R315). Writing VALID 0 unbars a context; writing VALID 1 clears GUILT and AUDIT. -/
  | contextValidWrite (ctx : Nat) (valid : Bool)
  /-- RETENTION_RANGE_WRITE (R225). A range write reassigns reserved ways and demotes retained lines in place. -/
  | retentionRangeWrite (die range dword : Nat) (value : DWord)
  /-- REGISTER_WRITE (R2). Write to a control-region register or table with no behaviour of its own. -/
  | registerWrite (offset : Nat) (value : DWord)
  /-- QUEUE_ENABLE (R311). EN written 0 to 1 resets the port's TAIL and HEAD. -/
  | queueEnable (q : Nat)
  /-- NOTIFY (R312). A write of a tail word delivers a notify that advances, ignores or rejects TAIL. -/
  | notify
  /-- NOOP_ENTRY (R314). The port takes a no-op entry and skips it. -/
  | noopEntry (q : Nat)
  /-- LAUNCH_ENTRY (R314). The port takes a launch entry, reads the descriptor and enters the node in the pool. -/
  | launchEntry (q : Nat)
  /-- WAIT_ENTRY (R314). The port takes a wait entry and stops reading until the signal reaches the value. -/
  | waitEntry (q : Nat)
  /-- WAIT_ENTRY_SATISFIED (R314). The signal word reaches the value and the port resumes reading. -/
  | waitEntrySatisfied (q : Nat)
  /-- WORKGROUP_PLACEMENT (R319). When room appears, the pool places the next fitting workgroup of the ready nodes. -/
  | workgroupPlacement
  /-- COMPACTION (R322). The compaction engine moves parked groups' register blocks to open an aligned window. -/
  | compaction (core pipe allot : Nat)
  /-- DIE_RESERVATION (R324). A node unplaced for 2^20 cycles reserves its die. -/
  | dieReservation (node : Nat)
  /-- NODE_COMPLETION (R327). Once all workgroups end and counts are zero, releases, writes the signal and decrements successors. -/
  | nodeCompletion (node : Nat)
  /-- NODE_FAIL (R328). A node fails, ending its groups and posting an error event. -/
  | nodeFail (node : Nat) (code : FaultCode)
  /-- MULTI_LAUNCH (R329). LAUNCH message: a part enters its share of a multi-chip node. -/
  | multiLaunch (m : MultiStep)
  /-- MULTI_ACCEPT (R329). ACCEPT message arrives at the origin. -/
  | multiAccept (m : MultiStep)
  /-- MULTI_START (R329). START message lets a part run its workgroups. -/
  | multiStart (m : MultiStep)
  /-- MULTI_DONE (R329). DONE message arrives; the last one completes the node at the origin. -/
  | multiDone (m : MultiStep)
  /-- MULTI_ABORT (R330). ABORT message stops placement and fails the node on a part. -/
  | multiAbort (m : MultiStep)
  /-- ACCEPT_TIMEOUT (R330). An ACCEPT missing 10 ms after LAUNCH aborts the launch. -/
  | acceptTimeout (node : Nat)
  /-- LINK_FAILURE (R330). A link to a domain part fails and the launch aborts. -/
  | linkFailure (domain rank : Nat)
  /-- RESUME (R334). Action port: continue after the faulting word. -/
  | resume (a : ActionArgs)
  /-- RETRY (R334). Action port: issue the faulting word again. -/
  | retry (a : ActionArgs)
  /-- END_GROUP (R334). Action port: end every split of the group. -/
  | endGroup (a : ActionArgs)
  /-- END_NODE (R334). Action port: end the group and fail its node. -/
  | endNode (a : ActionArgs)
  /-- REPLAY (R341). Resume port REPLAY: entries of the page walk again and are performed. -/
  | replay (ctx page : Nat)
  /-- FAIL (R341). Resume port FAIL: entries perform nothing and fault. -/
  | fail (ctx page : Nat)
  /-- MESSAGE_POST (R343). A message waiting for a free sluice slot is written and TAIL advances. -/
  | messagePost (die : Nat)
  /-- SLUICE_HEAD_WRITE (R342). The resident kernel consumes messages by writing HEAD. -/
  | sluiceHeadWrite (die : Nat) (value : Word)
  /-- REPLY_PORT_WRITE (R346). Makes an upcall reply present when the ticket matches. -/
  | replyPortWrite (region ctx : Nat) (ticket : Word)
  /-- PREEMPT_CONTEXT (R351). Pre-emption port mode 0: every workgroup of the context. -/
  | preemptContext (ctx : Nat) (hold : Bool) (tag : Word)
  /-- PREEMPT_WORKGROUP (R351). Pre-emption port mode 1: the workgroup of REGION. -/
  | preemptWorkgroup (ctx region : Nat) (hold : Bool) (tag : Word)
  /-- RELEASE_HELD (R353). Pre-emption port mode 2: held workgroups re-enter the pool. -/
  | releaseHeld (ctx : Nat) (tag : Word)
  /-- WORKGROUP_SAVE (R352). Once parked and drained, a workgroup is saved and its resources freed. -/
  | workgroupSave (wg : Nat)
  /-- WORKGROUP_RESTORE (R353). A saved workgroup is placed and restored with an acquire. -/
  | workgroupRestore (k : Nat)
  /-- ORDERED_TIMEOUT (R356). A section held 2^20 cycles ends the group as a terminal fault. -/
  | orderedTimeout (group : Nat)
  /-- BATCH_RETIRE (R240). A sealed batch retires once its commands and earlier batches are done. -/
  | batchRetire (group : Nat)
  /-- COPY_COMMAND_PERFORM (R277). The copy engine performs an issued command's accesses. -/
  | copyCommandPerform (k : Nat)
  /-- MATRIX_COMMAND_PERFORM (R297). The array performs the next matrix-queue command whole. -/
  | matrixCommandPerform (core : Nat) (mismatch : Bool)
  /-- RASTERISER_START (R361). At pixel-node start, the rasteriser reads and checks entries and launches pixel waves. -/
  | rasteriserStart (node : Nat)
  /-- RT_WRITE_APPLY (R371). The render-target unit applies a pixel write once earlier positions have ended. -/
  | rtWriteApply (k : Nat)
  /-- TILE_WRITE_BACK (R372). The unit encodes and writes back a held tile. -/
  | tileWriteBack (k : Nat)
  /-- RAY_RECORD_ARRIVAL (R388). Traversal ends and the ray's record arrives in the lane's mailbox. -/
  | rayRecordArrival (group k : Nat)
  /-- PEER_REQUEST (R401). The target link engine checks a peer request and performs it or responds with an error. -/
  | peerRequest (r : PeerRequest)
  /-- WINDOW_ERROR_RESPONSE (R258). An error response arrives at the issuer, raising WINDOW_REVOKED. -/
  | windowErrorResponse (k code : Nat)
  /-- TRIGGER_ARRIVAL (R403). A tagged arrival counts towards armed trigger lists. -/
  | triggerArrival (window : Nat) (tag : BitVec 16)
  /-- TRIGGER_RUN (R404). A trigger list at threshold runs its entries in order. -/
  | triggerRun (k : Nat)
  /-- HELLO (R395). Opens a session and registers the reply window. -/
  | hello (src : Source) (window : DWord)
  /-- RESET_CONTEXT (R406). Fails every node of the context and clears VALID and GUILT. -/
  | resetContext (src : Source) (ctx : Nat)
  /-- OPEN_WINDOW (R402). Opens a window with a new generation. -/
  | openWindow (src : Source) (a : WindowArgs)
  /-- REVOKE_WINDOW (R402). Closes a window, bumps GEN, and waits for passed requests. -/
  | revokeWindow (src : Source) (window : Nat)
  /-- QUERY_RAS (R406). Reports core count, audit counters and error events. -/
  | queryRas (src : Source)
  /-- SET_POWER_CAP (R412). Sets the power cap and applies the highest fitting clock point. -/
  | setPowerCap (src : Source) (watts : Nat)
  /-- POWER_CAP_ADJUST (R412). Every 10 ms average, Oluvos lowers or raises the clock point. -/
  | powerCapAdjust
  /-- THERMAL_THROTTLE (R412). A junction above 105 degrees C forces the low point. -/
  | thermalThrottle
  /-- THERMAL_SHUTDOWN (R412). A junction above 115 degrees C or a bad supply turns the part off. -/
  | thermalShutdown
  /-- LOAD_RESIDENT_IMAGE (R408). Measures, verifies and starts the resident image. -/
  | loadResidentImage (src : Source) (image : List Byte)
  /-- LOAD_KEY (R406). Loads a key into an empty slot 1 to 63. -/
  | loadKey (src : Source) (slot : Nat) (key : BitVec 512)
  /-- ERASE_KEY (R227). Writes back the slot's lines and erases the key. -/
  | eraseKey (src : Source) (slot : Nat)
  /-- REGISTER_DOMAIN (R406). Registers a launch domain, its ranks and links. -/
  | registerDomain (src : Source) (a : DomainArgs)
  /-- ARM_TRIGGER (R403). Arms a trigger list on a window. -/
  | armTrigger (src : Source) (a : TriggerArgs)
  /-- DISARM_TRIGGER (R406). Disarms a trigger list. -/
  | disarmTrigger (src : Source) (list : Nat)
  /-- SPDM (R409). Serves one SPDM request. -/
  | spdm (src : Source) (request : List Byte)
  /-- SET_RPC_RING (R397). Registers the resident kernel's RPC ring. -/
  | setRpcRing (src : Source) (base : DWord) (size : Nat)
  /-- FORWARDED_SERVICE (R397). Services 0x0100 and above are forwarded to the resident kernel's ring. -/
  | forwardedService (src : Source)
  /-- SERVICE_WINDOW_FRAME (R410). A peer's frame in the service window is served and answered by puts. -/
  | serviceWindowFrame (rank : Nat) (f : Frame)
  /-- RECOVER_IMAGE (R411). Recovery service: takes, verifies and writes an Oluvos image, then resets. -/
  | recoverImage (f : Frame) (last : Bool)
  /-- HOST_LINK_RESET (R24). The only wake: boots the part from the boot ROM. -/
  | hostLinkReset
  /-- BOOT (R408). ROM measures and verifies Oluvos, derives CDI1 and starts it, or enters recovery. -/
  | boot
  /-- LOCKSTEP_ERROR (R413). A lockstep mismatch restarts the pair and answers RETRY. -/
  | lockstepError (pair : Nat)
  /-- FLOAT_PATH_FAULT (R413). In-field test detects a float-path fault; the core takes no new placement. -/
  | floatPathFault (core : Nat)
  /-- MONITOR_RESET (R413). A clock or power monitor resets the part. -/
  | monitorReset
  /-- ILLEGAL_OPCODE (R75). A fetched scalar word with an unassigned major, SR function or long function raises ILLEGAL_OPCODE precisely. -/
  | illegalOpcode
  /-- STORE_ACKNOWLEDGEMENT (R246). A store, non-returning atomic or remote store is performed at its home L2 or at the peer and acknowledged, which releases waiting fences and releases and lowers the node's completion counts. -/
  | storeAcknowledgement (r : SplitRef) (k : Nat)
  /-- FORWARDED_REPLY (R397). The resident kernel answers a forwarded service through the RPC ring, and Oluvos writes that answer as the host reply. -/
  | forwardedReply (k : Nat) (status : Nat) (payload : List Byte)
  /-- THERMAL_THROTTLE_RELEASE (R412). Once every junction is below 95 °C, the forced low clock point is lifted. -/
  | thermalThrottleRelease
deriving DecidableEq, Repr

end Sys2Proof
end

