-- ==== Sys2Proof/Machine/State.lean ====
section
/-! DEFINITION. The state of the part, as plain data; the reasons a step can stop; the state right after reset. -/

namespace Sys2Proof.Machine

/-- A move of the schedule: who acts next (log entry 2). -/
inductive Move where
  | pipe (core pipe : Nat)                        -- the pipe issues from the split that R57 picks
  | event (i : Instr)                             -- a step of the part that no word encodes
  | command (k : Nat)                             -- logical command core k runs its next instruction (R407)
  | resident (a : ResAccess)                      -- an access of the resident cluster (R20, R415)
  | reply (k : Nat) (data : List Byte)            -- a peer answers remote request k (R258)
  | hostWrite (addr : DWord) (bytes : List Byte)  -- the host writes memory space (R393, R394)
  | hostRead (addr : DWord) (n : Nat)             -- the host reads memory space (R393)
  | configWrite (offset : Nat) (value : Word)     -- the host writes a dword of the configuration space (R393)
  | configRead (offset : Nat)                     -- the host reads a dword of the configuration space (R393)
  | flashed                                       -- the writing of an image to the flash ends (R411)
  | poison (pa : Nat)                             -- a double-bit error forms in a sector of memory (R413)
  | upset (r : SplitRef) (network : Bool)         -- one forms in a register or scratchpad word that the next word reads, or on the network (R413)
  | upsetCommand (k : Nat)                        -- one forms in what command k reads (R413)
  | nearError                                     -- an error of near memory is masked (R413)
  | linkRetry                                     -- a link retries (R413)
  | floatOnset (core : Nat)                       -- a float path of a core begins to fail (R413)
  | residue (r : SplitRef) (b : Bool)             -- the residue check of the next integer vector word fails (R413)
  | interrupt (k : Nat) (b : Bool)                -- the interrupt-pending input of command core k (R407)
  | hart (h : Nat)                                -- hart h of the resident cluster runs its next instruction (R20)
  | hartSet (h : Nat) (c : CmdCore)               -- what hart h holds after an instruction of its profile that the model does not interpret
deriving DecidableEq, Repr

/-- The state of the part. -/
structure State where
  -- the part
  power : Bool                                    -- R24
  boot : BootStage                                -- R408, R411
  boots : Nat                                     -- boots so far: which random platform key is loaded (R228)
  issueClock : ClockPoint                         -- R22
  powerCap : Nat                                  -- R412
  throttled : Bool                                -- R412
  cyc : Nat                                       -- CYC before its 64-bit cut (R93)
  time : Nat                                      -- time passed, in units of 1/20400 microsecond (R5)
  floor : BitVec 16                               -- R243, R248
  hubLt : BitVec 16                               -- R416
  hubTicked : Nat                                 -- self-advances made (R416)
  idleLt : BitVec 16                              -- logical time of every core that coreTab does not list (R243, R247)
  idleTicked : Nat                                -- self-advances made of it
  resCopies : List ResCopy                        -- copies in the resident cluster's caches (R245, R416)
  measurements : Table (BitVec 384)               -- 1 to 4 (R408)
  cdi1 : Option (BitVec 384)
  cdi2 : Option (BitVec 384)
  imageAsked : Bool                               -- a resident image has been loaded since the reset, whether or not it verified (R408)
  udsReachable : Bool
  flash : List Byte
  torn : Bool                                     -- the flash holds an image whose writing was cut short (R411)
  flashing : Option (List Byte)                   -- the verified image being written to it (R411)
  recovery : List Byte
  keySlots : Table Key                   -- 64 slots; an empty slot is not listed (R226)
  rasLog : List RasEvent
  linkRetries : Nat
  floatOnset : List Nat                           -- cores with a float path that fails and is not yet detected (R413)
  -- memory
  mem : Memory                                    -- near and far memory (R199)
  sectorKeys : Table Key                 -- by PA / 32 (R226)
  poisoned : List Nat                             -- sectors with a double-bit error (R413)
  keyMap : Memory                                 -- R228
  lineTs : Table (BitVec 16 × BitVec 16)          -- WTS and RTS by line (R243)
  dieTab : Table Die
  leases : Table Lease                            -- by line (R252)
  contexts : Table Context                        -- R207
  saveTable : Table SaveEntry                     -- R347
  regions : List (Nat × Nat)                      -- allotted units: context and unit (R348)
  -- the array
  coreTab : Table Core
  wgs : Table Workgroup                           -- by core * 64 + slot
  groups : Table Group                            -- by (core * 8 + pipe) * 32 + group slot
  deadlocks : Table Nat                           -- groups whose joins can never complete, and the cycle since which that stands (R42)
  acks : Table Ack                                -- by serial
  commands : Table Command                        -- by serial
  remotes : Table Remote                          -- by serial
  threads : List Thread                           -- at the composing unit (R51)
  rtWrites : Table RtWrite                        -- by serial (R371)
  rtTiles : Table RtTile                          -- by serial (R372)
  -- queues and the pool
  queues : Table Queue
  notifies : List Notify
  nodes : Table Node
  bound : List Bound                              -- bound workgroups (R323)
  saved : Table SavedWg
  orphans : List Orphan                           -- unanswered FAULT messages of ended groups (R334)
  requests : Table (Nat × Word)                   -- pre-emption requests not answered: context and tag (R352)
  releases : Table (Nat × Word)                   -- releases not answered: context and tag (R353)
  domains : Table Domain
  sluices : Table Sluice
  -- platform
  windows : Table Window
  imports : Table Import
  windowLog : Table WindowError                   -- by record number mod 256 (R401)
  windowErrors : Nat                              -- the log's count
  triggers : Table Trigger
  arrivals : List (Nat × BitVec 16)               -- tagged arrivals performed and not yet counted (R403)
  session : Option Session
  peerSessions : Table Session                    -- by rank (R410)
  drops : Nat                                     -- frames dropped (R394, R410)
  strangers : Nat                                 -- messages of requesters that no domain names (R398)
  hostPort : HostPort                             -- R393
  aperture : Table (List Byte)                    -- bytes written to a slot since its last frame (R394)
  frames : List (Nat × Frame)                     -- taken and not fetched, with their slots (R394, R407)
  arrivedBytes : Table (List (Nat × Nat))         -- offsets and sizes written to a slot of the service window since its last frame (R410)
  asked : List Source                             -- requests not yet served, in order of arrival (R405)
  serving : Table Nat                             -- mailbox slots whose request is in progress, with the command core that serves it (R405)
  spdm : Table Spdm                               -- by requester: 0 the host, rank + 1 a peer (R409)
  rpcRing : Option (DWord × Nat)                  -- base and frames it holds (R397)
  forwarded : Table Forwarded
  out : List OutMessage                           -- replies and responses that have left the part
  mailbox : Memory                                -- the 64 mailbox slots, by offset (R405)
  curHart : Nat                                   -- the resident hart whose access this step makes (R208)
  invalidated : List (Nat × Nat)                  -- hart and context of the invalidations stored since it last read the port (R208)
  portLoads : List Nat                            -- harts whose load of the invalidation port waits (R208)
  residentLoads : List DWord                      -- values returned to the resident cluster
  cdi2Handed : Option (BitVec 384)                -- what the resident cluster was started with (R408)
  commandCores : Table CmdCore                    -- 0 to 3 the logical command cores (R407), 4 to 19 the harts of the resident cluster (R20)
  rank : Nat                                      -- R399
  -- the model's own fields
  cur : Option SplitRef                           -- the split whose instruction this step runs (log entry 2)
  curCmd : Nat                                    -- the command core whose instruction this step runs
  residueFails : List SplitRef                    -- residue checks due to fail (R413)
  upsets : List (SplitRef × Bool)                 -- splits whose next word meets a double-bit error, and whether it is one of the network (R413)
  schedule : List (Nat × Move)                    -- cycles to pass, then a move (log entry 2)
  fresh : Nat                                     -- nonce of the free values (log entry 6)
  serial : Nat                                    -- next serial number
deriving DecidableEq, Repr

/-- Why the machine stops with a fault. Both are states in which the manual has no instruction to run. -/
inductive Fault where
  /-- Raised by a scalar or lane word, or by a command word, run with no split or core to run it: no step of the part
  reaches this (safe). -/
  | noSplit
  /-- Raised by any step but a host-link reset while the part is off (R24): an off part runs nothing (safe). -/
  | poweredOff
deriving DecidableEq, Repr

/-- Why the machine refuses. -/
inductive Refusal where
  /-- Raised by no meaning: an arm of exec whose instruction has no meaning yet (safe). -/
  | notModelled (mnemonic : String)
deriving DecidableEq, Repr

/-- The part right after power-on (R24, R93, R243, R248): every field at the value the spec gives for reset, or at the
value of log entries 1, 2, 4, 6, 7 and 18. -/
def State.reset : State :=
  { power := true, boot := .rom, boots := 0, issueClock := .high, powerCap := 2000, throttled := false, cyc := 0, time := 0, floor := 0,
    hubLt := 0, hubTicked := 0, idleLt := 0, idleTicked := 0, resCopies := [], measurements := [], cdi1 := none, cdi2 := none, imageAsked := false,
    udsReachable := true, flash := [], torn := false, flashing := none,
    recovery := [], keySlots := [], rasLog := [], linkRetries := 0, floatOnset := [], mem := [], sectorKeys := [], poisoned := [],
    keyMap := [], lineTs := [], dieTab := [], leases := [], contexts := [], saveTable := [], regions := [],
    coreTab := [], wgs := [], groups := [], deadlocks := [], acks := [], commands := [], remotes := [], threads := [], rtWrites := [],
    rtTiles := [], queues := [], notifies := [], nodes := [], bound := [], saved := [], orphans := [], requests := [],
    releases := [], domains := [], sluices := [], windows := [], imports := [], windowLog := [],
    windowErrors := 0, triggers := [], arrivals := [], session := none, peerSessions := [], drops := 0, strangers := 0,
    hostPort := { command := 0, bar0 := 0 }, aperture := [], frames := [], arrivedBytes := [], asked := [], serving := [], spdm := [],
    rpcRing := none, forwarded := [], out := [], mailbox := [], curHart := 0, invalidated := [], portLoads := [],
    residentLoads := [], cdi2Handed := none,
    commandCores := [], rank := 0, cur := none, curCmd := 0, residueFails := [], upsets := [], schedule := [], fresh := 0, serial := 0 }

end Sys2Proof.Machine
end

