-- ==== Sys2Proof/Machine/Ops.lean ====
section
/-! DEFINITION. The named operations over registers, splits and groups: reads and writes of registers with results in
flight (R43 to R45, R132), park points (R44, R47), divergence and joins (R34 to R42), ends of splits, groups and
workgroups (R41), messages (R342 to R345), and taking a fault (R333). -/

namespace Sys2Proof

/-- The key of the group that a split belongs to. -/
def SplitRef.gkey (r : SplitRef) : Nat := (r.core * 8 + r.pipe) * 32 + r.gslot

/-- The number of a fault code (R331). -/
def FaultCode.number : FaultCode → Nat
  | .illegalOpcode => 0x01 | .reservedField => 0x02 | .tagMismatch => 0x03 | .regRange => 0x04 | .align => 0x05
  | .pageNotPresent => 0x06 | .permission => 0x07 | .scratchRange => 0x08 | .barrierObjectWrite => 0x09
  | .divStackOverflow => 0x0A | .orderedTimeout => 0x0B | .upcallDenied => 0x0C | .matrixConfig => 0x0D
  | .sparseConfig => 0x0E | .windowRevoked => 0x0F | .eccUncorrected => 0x10 | .softwareTrap => 0x11
  | .coopNoRoom => 0x12

/-- A PC pair in a message (R345). -/
def PcPair.dword (p : PcPair) : DWord := DWord.ofWords p.lpc p.spc

end Sys2Proof

namespace Sys2Proof.Machine

/-! ### Places -/

/-- The key of a group slot. -/
def groupKey (core pipe gslot : Nat) : Nat := (core * 8 + pipe) * 32 + gslot

/-- The place of split slot `k` of a group. -/
def refOf (gkey k : Nat) : SplitRef := { core := gkey / 256, pipe := gkey / 32 % 8, gslot := gkey % 32, slot := k }

/-- The key of a workgroup slot. -/
def wgKey (core slot : Nat) : Nat := core * 64 + slot

/-- A core; one that the table does not list is as at power-on, but for its logical time (R247, R248). -/
def State.core (s : State) (c : Nat) : Core := (tget s.coreTab c).getD { Core.reset with lt := s.idleLt, ticked := s.idleTicked }
def State.setCore (s : State) (c : Nat) (v : Core) : State := { s with coreTab := tput s.coreTab c v }
def State.die (s : State) (d : Nat) : Die := (tget s.dieTab d).getD Die.reset
def State.setDie (s : State) (d : Nat) (v : Die) : State := { s with dieTab := tput s.dieTab d v }
def State.context (s : State) (c : Nat) : Context := (tget s.contexts c).getD Context.reset
def State.setContext (s : State) (c : Nat) (v : Context) : State := { s with contexts := tput s.contexts c v }
def State.queue (s : State) (q : Nat) : Queue := (tget s.queues q).getD Queue.reset
def State.setQueue (s : State) (q : Nat) (v : Queue) : State := { s with queues := tput s.queues q v }
def State.sluice (s : State) (d : Nat) : Sluice := (tget s.sluices d).getD Sluice.reset
def State.setSluice (s : State) (d : Nat) (v : Sluice) : State := { s with sluices := tput s.sluices d v }
def State.window (s : State) (w : Nat) : Window := (tget s.windows w).getD Window.reset
def State.cmdCore (s : State) (k : Nat) : CmdCore := (tget s.commandCores k).getD CmdCore.reset
def State.setGroup (s : State) (k : Nat) (g : Group) : State := { s with groups := tput s.groups k g }
def State.setWg (s : State) (k : Nat) (w : Workgroup) : State := { s with wgs := tput s.wgs k w }
def State.setNode (s : State) (k : Nat) (n : Node) : State := { s with nodes := tput s.nodes k n }

/-- The die of a core (R15). -/
def dieOf (core : Nat) : Nat := core / Config.coresPerDie

/-- The split at a place. -/
def State.split (s : State) (r : SplitRef) : Option Split :=
  match tget s.groups r.gkey with
  | none => none
  | some g => tget g.splits r.slot

/-- Put a split at its place in its group. -/
def State.setSplit (s : State) (r : SplitRef) (sp : Split) : State :=
  match tget s.groups r.gkey with
  | none => s
  | some g => s.setGroup r.gkey { g with splits := tput g.splits r.slot sp }

/-- Change the split at a place, if there is one. -/
def State.modSplit (s : State) (r : SplitRef) (f : Split → Split) : State :=
  match s.split r with
  | none => s
  | some sp => s.setSplit r (f sp)

/-- Change a group, if it is there. -/
def State.modGroup (s : State) (k : Nat) (f : Group → Group) : State := { s with groups := tmod s.groups k f }

/-- Change a node, if it is there. -/
def State.modNode (s : State) (k : Nat) (f : Node → Node) : State := { s with nodes := tmod s.nodes k f }

/-- Change a core. -/
def State.modCore (s : State) (c : Nat) (f : Core → Core) : State := s.setCore c (f (s.core c))

/-- The context of a node (0 when it has left the pool). -/
def State.nodeCtx (s : State) (n : Nat) : Nat :=
  match tget s.nodes n with
  | some v => v.ctx
  | none => 0

/-! ### Lane masks -/

/-- The lanes of a predicate on lane numbers. -/
def maskOf (p : Nat → Bool) : LaneMask :=
  BitVec.ofNat 96 ((List.range 96).foldl (fun a i => if p i then a + 2 ^ i else a) 0)

/-- The mask {s62, s61, s60}. -/
def maskOfWords (a b c : Word) : LaneMask := c ++ b ++ a

/-- Beat k of a mask (R26). -/
def beatOf (m : LaneMask) (k : Nat) : Word := m.extractLsb' (32 * k) 32

/-- The lowest lane of a mask; 96 when empty. -/
def lowestLane (m : LaneMask) : Nat := ((List.range 96).find? (fun i => m.getLsbD i)).getD 96

/-- Lane by lane: the new value where the mask is set. -/
def mergeLanes (m : LaneMask) (new old : Lanes) : Lanes :=
  Vector.ofFn (fun i : Fin 96 => if m.getLsbD i.val then new[i] else old[i])

/-! ### Scalar registers -/

/-- The nonce index of a read: result, register and lane. -/
def readIndex (id reg lane : Nat) : Nat := (id * 128 + reg) * 128 + lane

/-- The part of the lane set that governs writes of register `n` (R30). -/
def maskedWord (lanes : LaneMask) (n : Nat) (v : Word) : Word :=
  if n = 60 then v &&& beatOf lanes 0 else if n = 61 then v &&& beatOf lanes 1 else if n = 62 then v &&& beatOf lanes 2 else v

/-- A scalar register as a value read now: a result in flight yields the old or the new value, the new one as the register would
hold it (R30, R45); s0 is zero. -/
def readS (s : State) (sp : Split) (n : SReg) : Word :=
  if n.val = 0 then 0
  else
    sp.inflight.foldl (fun v f =>
      f.writes.foldl (fun v w =>
        match w with
        | .scalar m x _ =>
          if m = n.val ∧ f.awaited.isEmpty ∧ Config.freeBit s.fresh (readIndex f.id m 0) then maskedWord sp.lanes m x else v
        | _ => v) v)
      sp.s[n]

/-- A pair read as a dword (R91, R132). -/
def readD (s : State) (sp : Split) (p : Pair) : DWord :=
  DWord.ofWords (readS s sp (Fin.ofNat 64 (2 * p.val + 1))) (readS s sp (Fin.ofNat 64 (2 * p.val)))

/-- The exec mask {s62, s61, s60} (R30). -/
def execMask (s : State) (sp : Split) : LaneMask := maskOfWords (readS s sp 60) (readS s sp 61) (readS s sp 62)

/-- Note that an instruction named register `n` as a destination (R39). -/
def markWritten (sp : Split) (n : Nat) : Split :=
  { sp with written := sp.written.map (fun e => (e.1, e.2 ||| BitVec.ofNat 64 (2 ^ n))) }

/-- A result in flight, among those numbered `hit`, whose register is written again is contested (R45). -/
def contestScalar (hit : Nat → Bool) (n : Nat) (fs : List InFlight) : List InFlight :=
  fs.map (fun f => if !hit f.id then f else { f with writes := f.writes.map (fun w =>
    match w with
    | .scalar m v c => .scalar m v (c || m == n)
    | w => w) })

/-- The register file after a write of register `n`, with no other bookkeeping (R30, R91). -/
def putScalar (sp : Split) (n : Nat) (v : Word) : Split :=
  if h : 0 < n ∧ n < 64 then { sp with s := sp.s.set n (maskedWord sp.lanes n v) h.2 } else sp

/-- An instruction's write of a scalar register (R30, R39, R45, R132). -/
def writeS (sp : Split) (n : SReg) (v : Word) : Split :=
  if n.val = 0 then sp
  else
    let sp := markWritten (putScalar sp n.val v) n.val
    { sp with inflight := contestScalar (fun _ => true) n.val sp.inflight }

/-- An instruction's write of a pair (R91, R132). -/
def writeD (sp : Split) (p : Pair) (v : DWord) : Split :=
  writeS (writeS sp (Fin.ofNat 64 (2 * p.val)) v.lo) (Fin.ofNat 64 (2 * p.val + 1)) v.hi

/-- Set the exec mask as split state, not by an instruction's write (R35, R38). -/
def setMask (sp : Split) (m : LaneMask) : Split :=
  putScalar (putScalar (putScalar sp 60 (beatOf m 0)) 61 (beatOf m 1)) 62 (beatOf m 2)

/-! ### Vector and condition registers -/

/-- The results in flight of every split of a group. -/
def Group.inflight (g : Group) : List InFlight := g.splits.flatMap (fun e => e.2.inflight)

/-- The lanes of a result in flight whose value has come and which a read now takes (R45). -/
def takenLanes (s : State) (f : InFlight) (n : Nat) (mask : LaneMask) : LaneMask :=
  maskOf (fun i => mask.getLsbD i && !f.awaited.contains i && Config.freeBit s.fresh (readIndex f.id n i))

/-- The tag that a register had before a result in flight that writes it. -/
def InFlight.oldTag (f : InFlight) (n : Nat) : Option Tag :=
  f.writes.findSome? (fun w =>
    match w with
    | .vector m _ _ _ _ old => if m = n then some old else none
    | _ => none)

/-- The tag that a vector register had before the results in flight for it: that of the first issued; its own where there is none. -/
def Group.tagBefore (g : Group) (n : Nat) : Tag :=
  ((g.inflight.foldl (fun (a : Option (Nat × Tag)) f =>
    match f.oldTag n, a with
    | none, _ => a
    | some t, none => some (f.id, t)
    | some t, some b => if f.id < b.1 then some (f.id, t) else a) none).map (fun b => b.2)).getD (g.regs.getD n VReg.zero).tag

/-- A vector register as read now: lanes of a result in flight yield the old or the new value, and the tag follows the value read:
the old one where no lane is new, the new one where all are, and either where some are (R45). -/
def readV (s : State) (g : Group) (n : Nat) : VReg :=
  g.inflight.foldl (fun r f =>
    f.writes.foldl (fun r w =>
      match w with
      | .vector m mask _ data tag _ =>
        if m = n then
          let new := takenLanes s f n mask
          { data := mergeLanes new data r.data,
            tag := if new = 0 then r.tag else if new = mask ∨ Config.freeBit s.fresh (readIndex f.id n 96) then tag else r.tag }
        else r
      | _ => r) r)
    { g.regs.getD n VReg.zero with tag := g.tagBefore n }

/-- A condition register as read now (R45, R144). -/
def readVc (s : State) (g : Group) (n : Fin 4) : LaneMask :=
  g.inflight.foldl (fun r f =>
    f.writes.foldl (fun r w =>
      match w with
      | .cond m mask _ bits =>
        if m = n.val then
          let new := takenLanes s f (200 + m) mask
          (r &&& ~~~new) ||| (bits &&& new)
        else r
      | _ => r) r)
    g.vc[n]

/-- Results in flight, among those numbered `hit`, on lanes of a vector register that a second write lands on are contested, and what
stands there before them is that write, with its tag (R45). -/
def contestVector (hit : Nat → Bool) (n : Nat) (m : LaneMask) (tag : Tag) (g : Group) : Group :=
  { g with splits := g.splits.map (fun e => (e.1, { e.2 with inflight := e.2.inflight.map (fun f =>
      if !hit f.id then f
      else
        { f with writes := f.writes.map (fun w =>
            match w with
            | .vector k mask c d t o => if k = n then .vector k mask (c ||| (mask &&& m)) d t tag else .vector k mask c d t o
            | w => w) }) })) }

/-- The same for a condition register. -/
def contestCond (hit : Nat → Bool) (n : Nat) (m : LaneMask) (g : Group) : Group :=
  { g with splits := g.splits.map (fun e => (e.1, { e.2 with inflight := e.2.inflight.map (fun f =>
      if !hit f.id then f
      else
        { f with writes := f.writes.map (fun w =>
            match w with
            | .cond k mask c b => .cond k mask (if k = n then c ||| (mask &&& m) else c) b
            | w => w) }) })) }

/-- A fixed-latency write of lanes of a vector register, with its tag (R166). -/
def writeV (g : Group) (n : Nat) (m : LaneMask) (data : Lanes) (tag : Tag) : Group :=
  let old := g.regs.getD n VReg.zero
  contestVector (fun _ => true) n m tag { g with regs := g.regs.set n { data := mergeLanes m data old.data, tag := tag } }

/-- A fixed-latency write of lanes of a condition register. -/
def writeVc (g : Group) (n : Fin 4) (m bits : LaneMask) : Group :=
  contestCond (fun _ => true) n.val m { g with vc := g.vc.set n ((g.vc[n] &&& ~~~m) ||| (bits &&& m)) }

/-- Empty the latch (R44, R80). -/
def emptyLatch (g : Group) : Group := { g with latch := Vector.replicate 3 none }

/-! ### Timestamps (R244) -/

/-- Serial order of timestamps (R244). -/
def tsPrecedes (a b : BitVec 16) : Bool :=
  let d := (b - a).toNat
  decide (1 ≤ d) && decide (d ≤ 32767)

def tsLe (a b : BitVec 16) : Bool := a == b || tsPrecedes a b

/-- The later of two timestamps (R244). -/
def tsMax (a b : BitVec 16) : BitVec 16 := if tsPrecedes a b then b else a

/-! ### Messages (R342 to R345) -/

/-- The header dword (R344). -/
def msgHeader (kind code ctx : Nat) (r : SplitRef) (region : Nat) : DWord :=
  BitVec.ofNat 64 (kind + code * 2 ^ 8 + ctx % 1024 * 2 ^ 16 + r.core % Config.coresPerDie * 2 ^ 26 + dieOf r.core * 2 ^ 32
    + r.pipe * 2 ^ 34 + r.gslot % 32 * 2 ^ 37 + r.slot * 2 ^ 42 + region % 65536 * 2 ^ 48)

/-- Slots of a sluice that hold no unread message. -/
def Sluice.free (q : Sluice) : Nat := 1024 - (q.tail - q.head).toNat

/-- Write a message into its slot and count it, at a logical time (R246, R343). -/
def Sluice.post (q : Sluice) (m : List DWord) (t : BitVec 16) : Sluice :=
  { q with slots := tput q.slots (q.tail.toNat % 1024) m, tail := q.tail + 1, times := tput q.times (q.tail.toNat % 1024) t, tailTime := t }

/-- The logical time at which a message is written, a release (R343): that of the core that posts an UPCALL, PAGE or FAULT message; the
latest of the cores', whose saves it follows, for PREEMPTED; the hub's for the others. -/
def messageTime (s : State) (m : List DWord) : BitVec 16 :=
  let h := (m.headD 0).toNat
  let kind := bitsAt h 0 8
  if kind = 5 then s.coreTab.foldl (fun t e => tsMax t e.2.lt) s.hubLt
  else if 1 ≤ kind ∧ kind ≤ 3 then (s.core (bitsAt h 32 2 * Config.coresPerDie + bitsAt h 26 6)).lt
  else s.hubLt

/-- Post a message, or keep it until a slot frees, behind those already kept (R340, R343). -/
def State.post (s : State) (die : Nat) (m : List DWord) : State :=
  let q := s.sluice die
  if q.waiting.isEmpty && decide (0 < q.free) then s.setSluice die (q.post m (messageTime s m))
  else s.setSluice die { q with waiting := q.waiting ++ [m] }

/-- The eight dwords of a message. -/
def message (h d1 d2 d3 d4 d5 : DWord) : List DWord := [h, d1, d2, d3, d4, d5, 0, 0]

/-- The descriptor address of a node, for messages. -/
def State.nodeAddr (s : State) (n : Nat) : DWord :=
  match tget s.nodes n with
  | some v => BitVec.ofNat 64 v.desc.addr
  | none => 0

/-! ### Taking a fault (R333) -/

/-- The entry belongs to the split: the entry of a command is its group's (R280, R336). -/
def GalleyEntry.of (e : GalleyEntry) (r : SplitRef) : Bool :=
  e.ref == r && (match e.kind with
    | .command _ => false
    | _ => true)

/-- The galley holds an entry of the split (R337). -/
def galleyHas (s : State) (r : SplitRef) : Bool := (s.core r.core).galley.any (fun e => e.of r)

/-- An access of the split has not been performed, or is not acknowledged (R232, R246, R258, R261). -/
def accessesOut (s : State) (r : SplitRef) : Bool :=
  s.acks.any (fun e => e.2.ref == r) || galleyHas s r || s.remotes.any (fun e => e.2.ref == r && e.2.purpose.access)

/-- What a FAULT message reports besides the code (R345). -/
structure FaultInfo where
  code : FaultCode
  aux : DWord := 0
  addr : DWord := 0
  lanes : LaneMask := 0
  pcs : PcPair
deriving DecidableEq, Repr

/-- The FAULT message of a split (R345). -/
def faultMessage (s : State) (r : SplitRef) (g : Group) (f : FaultInfo) : List DWord :=
  message (msgHeader 3 f.code.number (s.nodeCtx g.node) r g.region) f.aux f.addr (f.lanes.setWidth 64) f.pcs.dword
    ((f.lanes.extractLsb' 64 32).setWidth 64)

/-- Post the FAULT message of a split (R345): a release at system scope, which waits for the earlier accesses of the split (R232, R343). -/
def postFault (s : State) (r : SplitRef) (g : Group) (f : FaultInfo) : State :=
  if accessesOut s r then
    s.setSluice (dieOf r.core) { s.sluice (dieOf r.core) with held := (s.sluice (dieOf r.core)).held ++ [(r, faultMessage s r g f)] }
  else s.post (dieOf r.core) (faultMessage s r g f)

/-- TAKING A FAULT, the one operation for every precise, deferred and terminal fault: the split stops, and a FAULT
message is posted to the sluice of its die; the group's other splits are held at their next park points (R333). -/
def takeFault (s : State) (r : SplitRef) (kind : StopKind) (f : FaultInfo) : State :=
  match tget s.groups r.gkey with
  | none => s
  | some g =>
    let s := s.modSplit r (fun sp => { sp with stopped := some { code := f.code, kind := kind } })
    postFault { s with fresh := s.fresh + 1 } r g f

/-- A double-bit error that a core meets is logged (R413). -/
def logEcc (s : State) (core : Nat) (code : FaultCode) : State :=
  if code = .eccUncorrected then { s with rasLog := s.rasLog ++ [.ecc core] } else s

/-- The PC pair of a split. -/
def Split.pcs (sp : Split) : PcPair := { spc := sp.spc, lpc := sp.lpc }

/-- A precise fault of a scalar word that is `skip` words long (R75, R334, R345). -/
def faultScalar (s : State) (r : SplitRef) (sp : Split) (skip : Nat) (code : FaultCode) (aux addr : DWord := 0) : State :=
  takeFault (logEcc (s.setSplit r { sp with wait := .ready }) r.core code) r (.scalar skip)
    { code := code, aux := aux, addr := addr, lanes := execMask s sp, pcs := sp.pcs }

/-- Whether a group's parked splits are held: some split is stopped, or a pre-emption is requested of a group that holds no
raster-ordered section, which the request waits for (R333, R352, R355). -/
def groupHeld (s : State) (g : Group) : Bool :=
  g.splits.any (fun e => e.2.stopped.isSome) ||
  (g.sect.isNone && (match tget s.wgs g.wg with
   | some w => w.preempt.isSome
   | none => false))

/-! ### Ends -/

/-- A paired matrix command (R300). -/
def Command.paired (c : Command) : Bool :=
  match c.kind with
  | .mma _ _ _ _ _ _ _ _ p => p
  | _ => false

/-- The message about a request of the pre-emption port, at the sluice of die 0 (R343, R345). -/
def postRequest (s : State) (kind ctx : Nat) (tag : Word) : State :=
  s.post 0 (message (msgHeader kind 0 ctx { core := 0, pipe := 0, gslot := 0, slot := 0 } 0) (tag.setWidth 64) 0 0 0 0)

/-- PREEMPTED is posted for each request that no resident workgroup is named by any more (R352). -/
def answerRequests (s : State) : State :=
  s.requests.foldl (fun (s : State) (e : Nat × Nat × Word) =>
    let waits := s.wgs.any (fun w =>
      match w.2.preempt with
      | some p => p.requests.contains e.1
      | none => false)
    if waits then s else postRequest { s with requests := tdel s.requests e.1 } 5 e.2.1 e.2.2) s

/-- RESTORED is posted for each release with no saved workgroup left to place (R353). -/
def answerReleases (s : State) : State :=
  s.releases.foldl (fun (s : State) (e : Nat × Nat × Word) =>
    if s.saved.any (fun w => w.2.released == some e.1) then s
    else postRequest { s with releases := tdel s.releases e.1 } 6 e.2.1 e.2.2) s

/-- A workgroup leaves its slot: its lines become overdue, its region is free (R217, R348). -/
def freeWorkgroup (s : State) (k : Nat) : State :=
  match tget s.wgs k with
  | none => s
  | some w =>
    let ctx := s.nodeCtx w.node
    let c := k / 64
    let s := s.modCore c (fun v => { v with l1 := v.l1.map (fun l => if l.owner = k % 64 then { l with overdue := true } else l) })
    { s with
      wgs := tdel s.wgs k,
      regions := s.regions.filter (fun e => !(e.1 == ctx && decide (w.region ≤ e.2) && decide (e.2 < w.region + w.units))),
      nodes := tmod s.nodes w.node (fun n => { n with ended := n.ended + 1 }) }

/-- The workgroup's groups have ended and its commands have drained (R145, R299). -/
def wgDone (s : State) (k : Nat) : Bool :=
  match tget s.wgs k with
  | none => true
  | some w => w.groups.isEmpty && !(s.commands.any (fun e => e.2.wg == k && !e.2.sent))

/-- A workgroup whose groups have ended leaves its slot once its commands have drained; the two of a twin pair leave together
(R60, R145, R217, R300, R348). -/
def endWorkgroup (s : State) (k : Nat) : State :=
  match tget s.wgs k with
  | none => s
  | some w =>
    match w.twin with
    | none => if wgDone s k then answerRequests (freeWorkgroup s k) else s
    | some t => if wgDone s k && wgDone s t then answerRequests (freeWorkgroup (freeWorkgroup s k) t) else s

/-- Move what is outstanding from places to places: acknowledgements, commands, remote requests, galley entries, writes of the
render-target unit and its tiles, messages whose release waits; and what a pipe remembers of the split it issued from (R57). -/
def State.mapRefs (s : State) (f : SplitRef → SplitRef) : State :=
  { s with
    acks := s.acks.map (fun e => (e.1, { e.2 with ref := f e.2.ref, gkey := (f e.2.ref).gkey })),
    commands := s.commands.map (fun e => (e.1, { e.2 with ref := f e.2.ref })),
    remotes := s.remotes.map (fun e => (e.1, { e.2 with ref := f e.2.ref, gkey := (f e.2.ref).gkey })),
    rtWrites := s.rtWrites.map (fun e => (e.1, { e.2 with ref := f e.2.ref })),
    rtTiles := s.rtTiles.map (fun e => (e.1, { e.2 with ref := f e.2.ref })),
    sluices := s.sluices.map (fun e => (e.1, { e.2 with held := e.2.held.map (fun x => (f x.1, x.2)) })),
    coreTab := s.coreTab.map (fun e =>
      (e.1, { e.2 with galley := e.2.galley.map (fun x => { x with ref := f x.ref }),
                       lastIssued := e.2.lastIssued.map (fun x => (x.1, f x.2)),
                       precedence := e.2.precedence.map (fun x => (x.1, f x.2)) })) }

/-- The place of a split of group `k` once that group has ended: a group slot that no group has, numbered after the end. What the
group leaves outstanding (R145) is no part of a group that takes its slot later (R338). -/
def retiredRef (k n : Nat) (r : SplitRef) : SplitRef :=
  if r.gkey = k then { r with gslot := r.gslot + 256 * (Config.cores + 1) * (n + 1) } else r

/-- A group ends when no lanes remain (R41): its region is freed unless a FAULT of it is unanswered (R334, R348). -/
def endGroup (s : State) (k : Nat) : State :=
  match tget s.groups k with
  | none => s
  | some g =>
    let ctx := s.nodeCtx g.node
    let s := { s with
      groups := tdel s.groups k,
      regions := if s.orphans.any (fun o => o.ctx == ctx && o.region == g.region) then s.regions
                 else s.regions.filter (fun e => e != (ctx, g.region)),
      wgs := tmod s.wgs g.wg (fun w => { w with groups := w.groups.filter (fun x => x != k) }),
      serial := s.serial + 1 }
    endWorkgroup (s.mapRefs (retiredRef k s.serial)) g.wg

/-- The place of a split of a group that has ended: faults that its commands and writes find later are no split's. -/
def endedRef (gone : SplitRef → Bool) (r : SplitRef) : SplitRef := if gone r then { r with slot := 4 } else r

/-- What ended splits leave outstanding (R145) belongs to none of the splits that come after them. -/
def detach (s : State) (gone : SplitRef → Bool) : State := s.mapRefs (endedRef gone)

/-- Lanes that have ended leave every join record (R41). -/
def Group.dropLanes (g : Group) (m : LaneMask) : Group :=
  { g with joins := g.joins.map (fun j => { j with lanes := j.lanes &&& ~~~m }) }

/-- The most recent deferral entry of a slot. -/
def Group.ownDeferral (g : Group) (slot : Nat) : Option Deferral := g.deferrals.find? (fun d => d.slot == slot)

/-- Load the saved side of a deferral entry into its split (step 2 of R37, R275). -/
def loadSide (sp : Split) (d : Deferral) : Split :=
  let s0 := (List.range 64).foldl (fun (v : Vector Word 64) i =>
    if h : i < 64 then (if (1 ≤ i ∧ i ≤ 59) ∨ i = 63 then v.set i d.s[i] else v) else v) sp.s
  setMask { sp with s := s0, lanes := d.lanes, fpstat := d.fpstat, ustat := d.ustat, rptidx := d.rptidx,
                    arrival := d.arrival, written := d.written, spc := d.pcs.spc, lpc := d.pcs.lpc } d.mask

/-- The current side of a split, as an entry holds it (step 1 of R37). -/
def saveSide (s : State) (sp : Split) (d : Deferral) : Deferral :=
  { d with lanes := sp.lanes, mask := execMask s sp, s := sp.s, fpstat := sp.fpstat, ustat := sp.ustat, rptidx := sp.rptidx,
           arrival := sp.arrival, written := sp.written, pcs := sp.pcs, swapped := true }

/-- A release that the sections of a node's later waves synchronise with: a vorde, or the end of some lanes (R374). -/
def releaseOrder (s : State) (node core : Nat) : State :=
  s.modNode node (fun n => { n with released := tsMax n.released (s.core core).lt })

/-- The lanes of a split's set end: `sexit` (R41). A split that owns a deferral entry goes on with the saved side. -/
def endSplit (s : State) (r : SplitRef) : State :=
  match tget s.groups r.gkey with
  | none => s
  | some g =>
    match tget g.splits r.slot with
    | none => s
    | some sp =>
      let g := g.dropLanes sp.lanes
      let s := releaseOrder s g.node r.core
      match g.ownDeferral r.slot with
      | some d =>
        let sp' := loadSide sp d
        s.setGroup r.gkey
          { g with deferrals := g.deferrals.filter (fun e => e.id != d.id),
                   splits := tput g.splits r.slot
                     { sp' with wait := .ready, run := none, written := tdel sp'.written d.id } }
      | none =>
        let g := { g with splits := tdel g.splits r.slot }
        let s := detach (s.setGroup r.gkey g) (fun x => x == r)
        if g.splits.isEmpty then endGroup s r.gkey else s

/-- The split is stopped by a terminal fault (R334). -/
def Split.terminal (sp : Split) : Bool :=
  match sp.stopped with
  | some x => x.kind == .terminal
  | none => false

/-- The FAULT messages that some splits of a group leave unanswered (R334). -/
def orphansOf (ctx : Nat) (g : Group) (l : Table Split) : List Orphan :=
  l.filterMap (fun e => e.2.stopped.map (fun x =>
    { ctx := ctx, region := g.region, node := g.node, slot := e.1, terminal := e.2.terminal, code := x.code }))

/-- Splits of a group end for good, with their deferral entries and all their lanes (R328, R334, R356); the FAULT messages
of those that were stopped stay unanswered. -/
def killSplits (s : State) (k : Nat) (gone : Nat → Split → Bool) : State :=
  match tget s.groups k with
  | none => s
  | some g =>
    let out := g.splits.filter (fun e => gone e.1 e.2)
    let ctx := s.nodeCtx g.node
    let slots := out.map (fun e => e.1)
    let lanes := g.deferrals.foldl (fun m d => if slots.contains d.slot then m ||| d.lanes else m)
      (out.foldl (fun m e => m ||| e.2.lanes) (0 : LaneMask))
    let stops := orphansOf ctx g out
    let s := releaseOrder s g.node (k / 256)
    let g := (g.dropLanes lanes)
    let g := { g with splits := g.splits.filter (fun e => !gone e.1 e.2),
                      deferrals := g.deferrals.filter (fun d => !slots.contains d.slot) }
    let s := detach { s.setGroup k g with orphans := s.orphans ++ stops } (fun x => x.gkey == k && slots.contains x.slot)
    if g.splits.isEmpty then endGroup s k else s

/-- One split ends for good. -/
def killSplit (s : State) (r : SplitRef) : State := killSplits s r.gkey (fun i _ => i == r.slot)

/-! ### Divergence -/

/-- Slots that a new split may take: below the limit, not held, and not set aside by an sbrv that is parking (R34,
R144). -/
def Group.freeSlot (g : Group) : Option Nat :=
  let aside := g.splits.filterMap (fun e =>
    match e.2.wait with
    | .park (.brvSplit k _ _ _ _) => some k
    | .held (.brvSplit k _ _ _ _) => some k
    | _ => none)
  (List.range g.limit).find? (fun k => (tget g.splits k).isNone && !aside.contains k)

/-- Join records live or set aside (R35). -/
def Group.joinsUsed (g : Group) : Nat :=
  g.joins.length + (g.splits.filter (fun e =>
    match e.2.wait with
    | .park (.brvSplit _ _ _ _ _) => true
    | .held (.brvSplit _ _ _ _ _) => true
    | _ => false)).length

/-- Deferral entries live or set aside (R36). -/
def Group.deferralsUsed (g : Group) : Nat :=
  g.deferrals.length + (g.splits.filter (fun e =>
    match e.2.wait with
    | .park (.brvDefer _ _ _ _) => true
    | .held (.brvDefer _ _ _ _) => true
    | _ => false)).length

/-- Open a split point in a split's record of written registers (R39). -/
def openPoint (id : Nat) (w : Table (BitVec 64)) : Table (BitVec 64) := tput w id 0

/-- Make the new split of an sbrv (R35, R94): it takes T at the target; the parent keeps the rest of its lane set and
F as its exec mask. The parent's PCs already stand past the sbrv. -/
def splitCreate (s : State) (r : SplitRef) (g : Group) (sp : Split) (slot : Nat) (target join : PcPair) (t f : LaneMask) :
    State :=
  let id := s.serial
  let child : Split := setMask
    { sp with lanes := t, spc := target.spc, lpc := target.lpc, written := openPoint id (sp.written.map (fun e => (e.1, 0))),
              wait := .ready, inflight := [], deferred := [], run := none, armed := none, stopped := none, laneCount := 0,
              scalarCount := 0, lastIssue := s.cyc } t
  let parent := setMask { sp with lanes := sp.lanes &&& ~~~t, written := openPoint id sp.written, wait := .ready } f
  { s.setGroup r.gkey
      { g with splits := tput (tput g.splits r.slot parent) slot child,
               joins := { id := id, pcs := join, lanes := sp.lanes } :: g.joins } with
    serial := s.serial + 1 }

/-- Push the deferral entry of an sbrv (R36, R144): the entry takes F, and the split goes to the target with T. -/
def deferralPush (s : State) (r : SplitRef) (g : Group) (sp : Split) (target join : PcPair) (t f : LaneMask) : State :=
  let id := s.serial
  let w := openPoint id sp.written
  let d : Deferral :=
    { id := id, slot := r.slot, pcs := sp.pcs, join := join, lanes := f, mask := f, s := sp.s, fpstat := sp.fpstat,
      ustat := sp.ustat, rptidx := sp.rptidx, arrival := sp.arrival, written := w, swapped := false }
  let sp' := setMask { sp with lanes := sp.lanes &&& ~~~f, spc := target.spc, lpc := target.lpc, written := w,
                               wait := .ready } t
  { s.setGroup r.gkey { g with splits := tput g.splits r.slot sp', deferrals := d :: g.deferrals } with
    serial := s.serial + 1 }

/-- One side of a merge (R38, R39). -/
structure Side where
  lanes : LaneMask
  mask : LaneMask
  s : Vector Word 64
  fpstat : BitVec 5
  ustat : BitVec 2
  arrival : Option (Nat × Nat)
  written : Table (BitVec 64)
deriving DecidableEq, Repr

def Side.ofSplit (s : State) (sp : Split) : Side :=
  { lanes := sp.lanes, mask := execMask s sp, s := sp.s, fpstat := sp.fpstat, ustat := sp.ustat, arrival := sp.arrival,
    written := sp.written }

def Side.ofDeferral (d : Deferral) : Side :=
  { lanes := d.lanes, mask := d.mask, s := d.s, fpstat := d.fpstat, ustat := d.ustat, arrival := d.arrival,
    written := d.written }

/-- The side holding the lowest-numbered lane, in a list with a first element. -/
def lowestSide (a : Side) (l : List Side) : Side :=
  l.foldl (fun m x => if lowestLane x.lanes < lowestLane m.lanes then x else m) a

/-- The sides that wrote register `n` since the split point (R39). -/
def writersOf (id n : Nat) (l : List Side) : List Side :=
  l.filter (fun x => ((tget x.written id).getD 0).getLsbD n)

/-- The merged value of register `n` (R39): the one writer's, the lowest writer's, or the common value. -/
def mergedReg (id n : Nat) (low : Side) (l : List Side) : Word :=
  match writersOf id n l with
  | [] => low.s.toArray.getD n 0
  | a :: rest => (lowestSide a rest).s.toArray.getD n 0

/-- Whether register n takes part in R39: s1 to s59 and s63. -/
def mergesReg (n : Nat) : Bool := (decide (1 ≤ n) && decide (n ≤ 59)) || n == 63

/-- The sets of written registers of a merged split: the closed point drops, the others take the union (R39). -/
def mergedWritten (id : Nat) (l : List Side) : Table (BitVec 64) :=
  l.foldl (fun t x => (tdel x.written id).foldl (fun t e => tput t e.1 (((tget t e.1).getD 0) ||| e.2)) t) []

/-- A merge of two or more sides into the split `sp` (R38, R39, R94, R275): its lane set and exec mask are the unions,
its flags the OR, UCONF set when a register had two writers, its rptidx zero. -/
def mergeInto (sp : Split) (id : Nat) (a : Side) (l : List Side) : Split :=
  let sides := a :: l
  let low := lowestSide a l
  let regs := (List.range 64).foldl (fun (v : Vector Word 64) i =>
    if h : i < 64 then (if mergesReg i then v.set i (mergedReg id i low sides) else v) else v) sp.s
  let clash := (List.range 64).any (fun i => mergesReg i && decide (2 ≤ (writersOf id i sides).length))
  setMask
    { sp with s := regs,
              lanes := sides.foldl (fun m x => m ||| x.lanes) 0,
              fpstat := sides.foldl (fun m x => m ||| x.fpstat) 0,
              ustat := sides.foldl (fun m x => m ||| x.ustat) (if clash then 1 else 0),
              arrival := low.arrival, rptidx := 0, written := mergedWritten id sides, wait := .ready }
    (sides.foldl (fun m x => m ||| x.mask) 0)

/-- What an sjoin finds (R37): the most recent own deferral entry or covering join record that names its pair. -/
inductive JoinFind where
  | none
  | entry (d : Deferral)
  | record (j : JoinRec)
deriving DecidableEq, Repr

def joinFind (g : Group) (slot : Nat) (sp : Split) : JoinFind :=
  let d := g.deferrals.find? (fun d => d.slot == slot && d.join == sp.pcs)
  let j := g.joins.find? (fun j => j.pcs == sp.pcs && (sp.lanes &&& ~~~j.lanes) == 0)
  match d, j with
  | Option.none, Option.none => .none
  | some d, Option.none => .entry d
  | Option.none, some j => .record j
  | some d, some j => if d.id < j.id then .record j else .entry d

/-- The effect of an sjoin after its park (R37). The split's PCs stand at the sjoin. -/
def doJoin (s : State) (r : SplitRef) (g : Group) (sp : Split) : State :=
  match joinFind g r.slot sp with
  | .none => s.setSplit r { sp with spc := sp.spc + 1, wait := .ready }
  | .record j => s.setSplit r { sp with wait := .join j.id }
  | .entry d =>
    if d.swapped then
      let sp' := mergeInto sp d.id (Side.ofSplit s sp) [Side.ofDeferral d]
      s.setGroup r.gkey
        { g with deferrals := g.deferrals.filter (fun e => e.id != d.id),
                 splits := tput g.splits r.slot { sp' with spc := sp.spc + 1 } }
    else
      let sp' := { loadSide sp d with wait := Wait.ready }
      s.setGroup r.gkey
        { g with deferrals := g.deferrals.map (fun e => if e.id = d.id then saveSide s sp e else e),
                 splits := tput g.splits r.slot sp' }

/-! ### Park points (R44) -/

/-- Nothing that a park point waits for is outstanding (R44, R337, R386). -/
def resultsIn (s : State) (r : SplitRef) (g : Group) (sp : Split) : Bool :=
  sp.inflight.isEmpty && !galleyHas s r && !(g.rays.any (fun y => y.slot == r.slot))

/-- The deferred fault to be taken (R261): of the instruction issued first, and within it of the lowest lane. -/
def firstDeferred : List Deferred → Option Deferred
  | [] => none
  | d :: l =>
    match firstDeferred l with
    | none => some d
    | some e => if e.seq < d.seq ∨ (e.seq = d.seq ∧ lowestLane e.lanes < lowestLane d.lanes) then some e else some d

/-- The lanes that a FAULT message reports for the chosen deferred fault: those of its instruction whose accesses failed (R345). -/
def deferredLanes (d : Deferred) (l : List Deferred) : LaneMask :=
  l.foldl (fun m e => if e.seq = d.seq then m ||| e.lanes else m) 0

/-- Take the chosen deferred fault of a split, with what it does when it goes on (R261, R334). -/
def takeDeferred (s : State) (r : SplitRef) (sp : Split) (d : Deferred) (k : After) (rest : List Deferred) : State :=
  takeFault (s.setSplit r { sp with deferred := rest }) r (.deferred k)
    { code := d.code, aux := 0, addr := if d.code = .windowRevoked then BitVec.ofNat 64 d.window else d.addr,
      lanes := if d.cmd.isSome then 0 else deferredLanes d sp.deferred, pcs := d.pcs }

/-! ### Command cores (R407, log entry 18) -/

/-- A register of a command core; x0 reads zero. -/
def CmdCore.get (c : CmdCore) (n : Fin 32) : DWord := if n.val = 0 then 0 else c.x[n]

/-- Write a register; x0 takes nothing. -/
def CmdCore.put (c : CmdCore) (n : Fin 32) (v : DWord) : CmdCore := if n.val = 0 then c else { c with x := c.x.set n v }

/-- MSTATUS at a trap taken into M mode: MPIE (bit 7) takes MIE (bit 3), MIE is cleared, MPP (bits 12:11) holds the mode left
(log entry 18). -/
def trapStatus (m : DWord) (machine : Bool) : DWord :=
  let kept := m &&& ~~~(0x1888 : DWord)
  let kept := if m.getLsbD 3 then kept ||| 0x80 else kept
  if machine then kept ||| 0x1800 else kept

/-- TAKING A TRAP on a command core, for every exception it raises (R407; log entry 18 for the entry): the faulting
instruction writes nothing, `mcause` names the fault, and the core goes on in M mode at `mtvec`. -/
def CmdCore.trap (c : CmdCore) (cause : Nat) : CmdCore :=
  { c with mepc := c.pc, mcause := BitVec.ofNat 64 cause, mtval := 0, mstatus := trapStatus c.mstatus c.machine, machine := true,
           pc := c.mtvec &&& ~~~(3 : DWord) }

end Sys2Proof.Machine
end

