-- ==== Sys2Proof/Machine/Phys.lean ====
section
/-! DEFINITION. Physical memory: the address map (R199 to R201), encryption by key slot (R226 to R228), translation
(R202 to R207), and timestamps (R243 to R249). -/

namespace Sys2Proof.Machine

/-! ### The address map -/

/-- What stands at a physical address (R199). -/
inductive Region where
  | memory (die : Nat)
  | remote (rank window offset : Nat)
  | control (offset : Nat)
  | hole
deriving DecidableEq, Repr

/-- The physical map (R199). -/
def regionOf (pa : Nat) : Region :=
  if pa < 2 ^ 38 then .memory (pa / 2 ^ 36)
  else if 2 ^ 40 ≤ pa ∧ pa < 0x28000000000 then .memory ((pa - 2 ^ 40) / 2 ^ 12 % 4)
  else if 2 ^ 51 ≤ pa ∧ pa < 2 ^ 51 + 2 ^ 50 then .remote (bitsAt pa 44 6) (bitsAt pa 32 12) (bitsAt pa 0 32)
  else if 0xFFF0000000000 ≤ pa ∧ pa < 2 ^ 52 then .control (pa - 0xFFF0000000000)
  else .hole

/-- The address is in near or far memory. -/
def isMemory (pa : Nat) : Bool :=
  match regionOf pa with
  | .memory _ => true
  | _ => false

/-- The home die of a memory address (R199). -/
def homeDie (pa : Nat) : Nat :=
  match regionOf pa with
  | .memory d => d
  | _ => 0

/-- Slice of a line within its die (R200). -/
def sliceOf (pa : Nat) : Nat :=
  ((bitsAt pa 7 12) ^^^ (bitsAt pa 19 12) ^^^ (bitsAt pa 31 12) ^^^ (bitsAt pa 43 9)) % 48

/-- Set of a line within its slice (R200). -/
def l2SetOf (pa : Nat) : Nat := bitsAt pa 7 12

/-! ### Encryption -/

/-- The key of a slot. -/
def State.keyOf (s : State) (slot : Nat) : Key := (tget s.keySlots slot).getD ⟨0, Config.emptySlotKey slot⟩

/-- Two keys that decrypt alike. -/
def Key.same (a b : Key) : Bool := a.load == b.load || a.value == b.value

/-- A 32-byte sector in clear, as a number. -/
def State.sector (s : State) (n : Nat) : BitVec 256 := BitVec.ofNat 256 (ofBytes (s.mem.readBytes (32 * n) 32))

/-- A byte of memory as an access under a key reads it: the stored byte under the key that wrote it, else the decryption
of what memory holds (R226, R227). -/
def State.byteUnder (s : State) (key : Key) (pa : Nat) : Byte :=
  match tget s.sectorKeys (pa / 32) with
  | none => s.mem.read pa
  | some k =>
    if k.same key then s.mem.read pa
    else
      (xtsDecrypt key.value (32 * (pa / 32)) (xtsEncrypt k.value (32 * (pa / 32)) (s.sector (pa / 32)))).extractLsb'
        (8 * (pa % 32)) 8

/-- Read bytes under a key slot. -/
def State.physRead (s : State) (slot pa n : Nat) : List Byte :=
  (List.range n).map (fun i => s.byteUnder (s.keyOf slot) (pa + i))

/-- Put a sector under a key, so that a write under that key may change bytes of it (R226, R227). -/
def State.rekey (s : State) (key : Key) (sec : Nat) : State :=
  match tget s.sectorKeys sec with
  | none => { s with sectorKeys := tput s.sectorKeys sec key }
  | some k =>
    if k.same key then s
    else
      let bytes := (List.range 32).map (fun i => s.byteUnder key (32 * sec + i))
      { s with mem := s.mem.writeBytes (32 * sec) bytes, sectorKeys := tput s.sectorKeys sec key }

/-- Write one byte under a key slot. -/
def State.physWriteByte (s : State) (slot pa : Nat) (b : Byte) : State :=
  let s := s.rekey (s.keyOf slot) (pa / 32)
  { s with mem := s.mem.write pa b }

/-- Write bytes under a key slot. -/
def State.physWrite (s : State) (slot pa : Nat) : List Byte → State
  | [] => s
  | b :: bs => State.physWrite (s.physWriteByte slot pa b) slot (pa + 1) bs

/-- A read of these bytes meets a double-bit error (R413). -/
def State.poisonedAt (s : State) (pa n : Nat) : Bool :=
  s.poisoned.any (fun x => decide (pa / 32 ≤ x) && decide (x ≤ (pa + n - 1) / 32))

/-- The key slot of leafless accesses to an address (R228). -/
def State.keyMapSlot (s : State) (pa : Nat) : Nat :=
  let g := if pa < 2 ^ 38 then pa / 2 ^ 26 else 4096 + (pa - 2 ^ 40) / 2 ^ 26
  (s.keyMap.read g).toNat % 64

/-! ### Timestamps (R243 to R249) -/

/-- WTS and RTS of a line; a line not listed has both at the floor (R248). -/
def State.ts (s : State) (line : Nat) : BitVec 16 × BitVec 16 := (tget s.lineTs line).getD (s.floor, s.floor)

def State.setTs (s : State) (line : Nat) (w r : BitVec 16) : State := { s with lineTs := tput s.lineTs line (w, r) }

/-- The logical time that serves an agent: a core's, or the hub's (R416). -/
def State.ltOf (s : State) (core : Option Nat) : BitVec 16 :=
  match core with
  | some c => (s.core c).lt
  | none => s.hubLt

/-- The lease of an agent, as it acts: at most 4,096; the hub's is 10 (R243, R416). -/
def State.leaseOf (s : State) (core : Option Nat) : BitVec 16 :=
  match core with
  | some c => if 4096 < (s.core c).lease.toNat then 4096 else (s.core c).lease
  | none => 10

/-- Raise a logical time to a timestamp (R245, R246). -/
def State.raiseLt (s : State) (core : Option Nat) (t : BitVec 16) : State :=
  match core with
  | some c => s.modCore c (fun v => { v with lt := tsMax v.lt t })
  | none => { s with hubLt := tsMax s.hubLt t }

/-- The times that a node carries move with a sweep (R248). -/
def Node.sweep (n : Node) (f : BitVec 16) : Node :=
  { n with carried := tsMax n.carried f, time := tsMax n.time f, released := tsMax n.released f }

/-- A floor sweep: the five steps of R248; the times that nodes, credits, saves and messages carry move with the others. -/
def floorSweep (s : State) : State :=
  let f : BitVec 16 := s.floor + 4096
  { s with
    coreTab := s.coreTab.map (fun e => (e.1, { e.2 with lt := tsMax e.2.lt f, l1 := e.2.l1.filter (fun l => tsLe f l.rts) })),
    hubLt := tsMax s.hubLt f, idleLt := tsMax s.idleLt f, resCopies := s.resCopies.filter (fun y => tsLe f y.rts),
    lineTs := s.lineTs.map (fun e => (e.1, (tsMax e.2.1 f, tsMax e.2.2 f))),
    nodes := s.nodes.map (fun e => (e.1, e.2.sweep f)),
    queues := s.queues.map (fun e => (e.1, { e.2 with credits := e.2.credits.map (fun c => (c.1, (c.2.1, tsMax c.2.2 f))) })),
    saved := s.saved.map (fun e => (e.1, { e.2 with time := tsMax e.2.time f })),
    sluices := s.sluices.map (fun e => (e.1, { e.2 with times := e.2.times.map (fun x => (x.1, tsMax x.2 f)), tailTime := tsMax e.2.tailTime f })),
    floor := f }

/-- The timestamp lies beyond what the floor permits (R248). -/
def beyondFloor (s : State) (t : BitVec 16) : Bool := decide (2 ^ 14 < (t - s.floor).toNat)

/-- A renewal or jump that would place a timestamp beyond the floor's range waits until sweeps have advanced it (R248). -/
def sweepFor (t : State → BitVec 16) : Nat → State → State
  | 0, s => s
  | n + 1, s => if beyondFloor s (t s) then sweepFor t n (floorSweep s) else s

/-- Renewal of a read lease at the home L2 (R245). -/
def renew (s : State) (core : Option Nat) (line : Nat) : State :=
  let want := fun (s : State) => s.ltOf core + s.leaseOf core
  let s := sweepFor want 16 s
  let (w, r) := s.ts line
  s.setTs line w (tsMax r (want s))

/-- The timestamp movement of a write at the home L2 (R246). -/
def tsStore (s : State) (core : Option Nat) (line : Nat) : State :=
  let want := fun (s : State) => tsMax (s.ltOf core) ((s.ts line).2 + 1)
  let s := sweepFor want 16 s
  let w := want s
  let r := tsMax (s.ts line).2 w
  (s.setTs line w r).raiseLt core w

/-- The ltbase write of a value (R249). -/
def ltbase (s : State) (v : BitVec 16) : State :=
  { s with
    coreTab := s.coreTab.map (fun e => (e.1, { e.2 with lt := v, l1 := [] })),
    hubLt := v, idleLt := v, resCopies := [], floor := v, lineTs := s.lineTs.map (fun e => (e.1, (v, v))),
    nodes := s.nodes.map (fun e => (e.1, { e.2 with carried := v, time := v, released := v })),
    queues := s.queues.map (fun e => (e.1, { e.2 with credits := e.2.credits.map (fun c => (c.1, (c.2.1, v))) })),
    saved := s.saved.map (fun e => (e.1, { e.2 with time := v })),
    sluices := s.sluices.map (fun e => (e.1, { e.2 with times := e.2.times.map (fun x => (x.1, v)), tailTime := v })) }

/-! ### Translation (R202 to R207) -/

/-- What an access does to its page (R204). -/
inductive PageUse where
  | load | store | fetch
deriving DecidableEq, Repr

/-- A virtual address with bits [63:57] equal to bit 56 (R202). -/
def canonical (va : DWord) : Bool :=
  let top := va.toNat / 2 ^ 56
  top == 0 || top == 255

/-- A page-table entry at level 2 to 0 as a leaf (R203): none when some check of R204 fails. -/
def leafOf (ctx part page level e : Nat) : Option TlbEntry :=
  let pages := 2 ^ (9 * level)
  if bitsAt e 8 4 != 0 || bitsAt e 58 6 != 0 || bitsAt e 6 2 == 3 || bitsAt e 12 40 % pages != 0 then none
  else
    some { ctx := ctx, part := part, page := page / pages * pages, pages := pages, ppn := bitsAt e 12 40,
           w := bitsAt e 1 1 == 1, x := bitsAt e 2 1 == 1, g := bitsAt e 4 1 == 1, c := bitsAt e 5 1 == 1,
           cls := bitsAt e 6 2, key := bitsAt e 52 6 }

/-- Leaves of a contiguous set (R205): 16 at level 0, 32 at level 1, 2 at level 2. -/
def contiguousSize (level : Nat) : Nat := if level = 0 then 16 else if level = 1 then 32 else 2

/-- The other members of the set of an entry through which an access may translate: leaves with C = 1 (R205). -/
def otherMembers (s : State) (wkey table idx level : Nat) : List Nat :=
  let n := contiguousSize level
  if 2 < level then []
  else
    ((List.range n).map (fun k => idx / n * n + k)).filter (fun j =>
      let e := ofBytes (s.physRead wkey (table + 8 * j) 8)
      j != idx && bitsAt e 0 1 == 1 && bitsAt e 3 1 == 1 && bitsAt e 5 1 == 1 && !s.poisonedAt (table + 8 * j) 8)

/-- The member of the set of an entry that an access translates through in place of its own leaf, if it does so: which, is free. The offset
is applied as though the range were contiguous, and the access may raise the faults of that leaf (R205). -/
def otherMember (s : State) (ctx part wkey page table idx level : Nat) : Option (Except FaultCode TlbEntry) :=
  let pages := 2 ^ (9 * level)
  let own := page / pages * pages
  match otherMembers s wkey table idx level with
  | [] => none
  | l =>
    (l[Config.freeNat s.fresh (page + 7) % (l.length + 1)]?).map (fun j =>
      match leafOf ctx part (own + j * pages - idx * pages) level (ofBytes (s.physRead wkey (table + 8 * j) 8)) with
      | none => .error .permission
      | some l => .ok { l with page := own, ppn := (l.ppn + 2 ^ 40 + idx * pages - j * pages) % 2 ^ 40 })

/-- The walk from one level down (R202 to R205), with the addresses of the entries that it reads. `fuel` counts the levels left. -/
def walkFrom (s : State) (ctx part wkey page : Nat) : Nat → Nat → List Nat × Except FaultCode TlbEntry
  | 0, _ => ([], .error .permission)
  | level + 1, table =>
    let idx := page / 2 ^ (9 * level) % 512
    let pa := table + 8 * idx
    if !isMemory pa then ([], .error .permission)
    else if s.poisonedAt pa 8 then ([pa], .error .eccUncorrected)
    else
      let e := ofBytes (s.physRead wkey pa 8)
      match otherMember s ctx part wkey page table idx level with
      | some x => ([pa], x)
      | none =>
        if bitsAt e 0 1 = 0 then ([pa], .error .pageNotPresent)
        else if bitsAt e 3 1 = 1 then
          if 3 ≤ level then ([pa], .error .permission)
          else
            match leafOf ctx part page level e with
            | none => ([pa], .error .permission)
            | some l => ([pa], .ok l)
        else if level = 0 ∨ bitsAt e 8 4 != 0 ∨ bitsAt e 58 6 != 0 ∨ bitsAt e 1 2 != 0 ∨ bitsAt e 4 4 != 0
            ∨ bitsAt e 52 6 != 0 then ([pa], .error .permission)
        else
          let (l, x) := walkFrom s ctx part wkey page level (bitsAt e 12 40 * 4096)
          (pa :: l, x)

/-- The walk of a page in a context (R204), with the WKEY, ROOT and PART that translation uses (R207). -/
def walk (s : State) (ctx page : Nat) : List Nat × Except FaultCode TlbEntry :=
  let c := s.context ctx
  walkFrom s ctx c.usedPart c.usedWkey (page % 2 ^ 45) 5 (c.usedRoot * 4096)

/-- A cached entry that matches a page of a context (R206). -/
def TlbEntry.hits (e : TlbEntry) (ctx part page : Nat) : Bool :=
  (e.ctx == ctx || (e.g && e.part == part)) && decide (e.page ≤ page) && decide (page < e.page + e.pages)

/-- What a translation yields: the physical address, the class and the key slot of the leaf. -/
structure Leaf where
  pa : Nat
  cls : Nat
  key : Nat
deriving DecidableEq, Repr

/-- The leaf's own checks for an access (R204). -/
def useLeaf (s : State) (l : TlbEntry) (page off : Nat) (u : PageUse) : Except FaultCode Leaf :=
  if (tget s.keySlots l.key).isNone then .error .permission
  else if u = .store ∧ l.w = false then .error .permission
  else if u = .fetch ∧ l.x = false then .error .permission
  else .ok { pa := (l.ppn + (page - l.page)) % 2 ^ 40 * 4096 + off, cls := l.cls, key := l.key }

end Sys2Proof.Machine
end

