-- ==== Sys2Proof/Machine/Caches.lean ====
section
/-! DEFINITION. The caches: ranking by declared reuse in L1 (R211 to R218), L2 lines, overdue sweep, audits and
retention ranges (R219 to R225), key changes (R227), the weir and exclusive leases (R251, R252). Ranking decides only
what hits later; a stale L1 copy under its lease is the one thing here that a load can see (R245). -/

namespace Sys2Proof.Machine

/-- The declared distance of a next-use code 1 to 30, in ticks (R87). -/
def declared (code : Nat) : Nat := 2 ^ ((code - 1) / 2) * (if code % 2 = 1 then 2 else 3)

/-- KIND of a code (R213). -/
def kindOf (code : Nat) : Nat := if code = 0 then 0 else if code = 31 then 2 else 1

/-- The workgroup in a slot of a core. -/
def State.wgAt (s : State) (core slot : Nat) : Option Workgroup := tget s.wgs (wgKey core slot)

/-! ### Exclusive leases (R252) -/

/-- The end of an exclusive lease: the line's RTS is set to its WTS (R252). -/
def endLease (s : State) (line : Nat) : State :=
  match tget s.leases line with
  | none => s
  | some _ =>
    let (w, _) := s.ts line
    { s.setTs line w w with leases := tdel s.leases line }

/-- Another core's request ends the lease before it is served: the time that it would wait is left out (log entry 13). -/
def claimLine (s : State) (core : Option Nat) (line : Nat) : State :=
  match tget s.leases line with
  | none => s
  | some l => if core = some l.core then s else endLease s line

/-- Of some lines, the one whose exclusive lease ends first, with the cycle at which it does. -/
def firstLeaseEnd (s : State) : List Nat → Option (Nat × Nat)
  | [] => none
  | x :: l =>
    match tget s.leases x, firstLeaseEnd s l with
    | none, r => r
    | some e, none => some (x, e.ends)
    | some e, some r => if r.2 < e.ends then some r else some (x, e.ends)

/-- A fill of a set whose every line is under an exclusive lease waits until the first of them ends (R216): the time is left out (log
entry 13). -/
def waitLease (s : State) (lines : List Nat) : State :=
  if lines.all (fun x => (tget s.leases x).isSome) then
    match firstLeaseEnd s lines with
    | some (x, _) => endLease s x
    | none => s
  else s

/-! ### L1 -/

def l1SetOf (line : Nat) : Nat := line % 1024

/-- L1 ways of a core: its L1 granules (R16, R211). -/
def Core.ways (c : Core) : Nat := 40 - c.scratchGranules

/-- The line is under an exclusive lease of this core (R252). -/
def leased (s : State) (core line : Nat) : Bool :=
  match tget s.leases line with
  | some l => l.core == core
  | none => false

/-- The four ranking fields that an access writes (R213). -/
def rankL1 (s : State) (core slot code : Nat) (l : L1Line) : L1Line :=
  let rck := match s.wgAt core slot with
    | some w => w.rck
    | none => 0
  { l with owner := slot, kind := kindOf code, due := rck + BitVec.ofNat 16 (if kindOf code = 1 then declared code else 0),
           stamp := BitVec.ofNat 32 s.cyc, overdue := false }

/-- The place of a line in the order of R216: lower goes first, then the older stamp, then the lower way. -/
def victimRank (s : State) (core : Nat) (l : L1Line) : Nat × Nat × Nat × Nat :=
  let age := (BitVec.ofNat 32 s.cyc - l.stamp).toNat
  let (rck, cpt) := match s.wgAt core l.owner with
    | some w => (w.rck, w.cpt.toNat)
    | none => (0, 0)
  let u := (l.due - rck).toNat
  if l.kind = 0 then (0, 0, 2 ^ 32 - age, l.way)
  else if l.overdue || (l.kind == 1 && decide (49152 < u)) then (1, 0, 2 ^ 32 - age, l.way)
  else if l.kind = 1 then (2, 2 ^ 32 - u * cpt, 2 ^ 32 - age, l.way)
  else (3, 0, 2 ^ 32 - age, l.way)

/-- Lexicographic order of ranks. -/
def rankLt (a b : Nat × Nat × Nat × Nat) : Bool :=
  decide (a.1 < b.1) || (a.1 == b.1 && (decide (a.2.1 < b.2.1) || (a.2.1 == b.2.1 &&
    (decide (a.2.2.1 < b.2.2.1) || (a.2.2.1 == b.2.2.1 && decide (a.2.2.2 < b.2.2.2))))))

/-- The line of least rank. -/
def leastLine {α : Type} (rank : α → Nat × Nat × Nat × Nat) : List α → Option α
  | [] => none
  | a :: l =>
    match leastLine rank l with
    | none => some a
    | some b => if rankLt (rank b) (rank a) then some b else some a

/-- Ways of a core's L1 that take fills (R210). -/
def fillWays (c : Core) : Nat := if c.stopping then c.ways - 1 else c.ways

/-- The lines of a line's set that stand in the ways that take fills. -/
def l1Set (c : Core) (line : Nat) : List L1Line :=
  c.l1.filter (fun l => l1SetOf l.line == l1SetOf line && decide (l.way < fillWays c))

/-- The way that a fill takes (R211, R216): the lowest way with no valid line, else that of the victim; none when every
line of the set is under an exclusive lease. -/
def l1Way (s : State) (core line : Nat) : Option Nat :=
  let c := s.core core
  let inSet := l1Set c line
  match (List.range (fillWays c)).find? (fun w => !inSet.any (fun l => l.way == w)) with
  | some w => some w
  | none =>
    match leastLine (victimRank s core) (inSet.filter (fun l => !leased s core l.line)) with
    | some v => some v.way
    | none => none

/-- The L1 copy of a line under a key slot. -/
def l1Find (s : State) (core line key : Nat) : Option L1Line :=
  (s.core core).l1.find? (fun l => l.line == line && l.key == key)

/-- Replace the copy of a line. -/
def l1Put (s : State) (core : Nat) (l : L1Line) : State :=
  s.modCore core (fun c => { c with l1 := l :: c.l1.filter (fun x => !(x.line == l.line) &&
    !(l1SetOf x.line == l1SetOf l.line && x.way == l.way)) })

/-- The sectors of a line that an access of `n` bytes at `pa` touches (R211). -/
def sectorBits (pa n : Nat) : BitVec 4 :=
  BitVec.ofNat 4 ((List.range 4).foldl (fun a i =>
    if decide (pa % 128 / 32 ≤ i) && decide (i ≤ (pa % 128 + n - 1) / 32) then a + 2 ^ i else a) 0)

/-- A fill of the sectors an access needs, with the timestamps of the line (R211, R245): a line held keeps its way, and its other
sectors too where the line has not been written since they were fetched. One held in a way that takes no fills is filled in another
(R210). -/
def l1Fill (s : State) (core slot code key pa n : Nat) : State :=
  let line := pa / 128
  let (w, r) := s.ts line
  match (l1Find s core line key).filter (fun l => decide (l.way < fillWays (s.core core))) with
  | some l =>
    let valid := if l.wts = w then l.valid ||| sectorBits pa n else sectorBits pa n
    l1Put s core (rankL1 s core slot code
      { l with valid := valid, data := s.physRead key (128 * line) 128, wts := w, rts := r, filled := s.fresh })
  | none =>
    let s := if (l1Way s core line).isNone then waitLease s ((l1Set (s.core core) line).map (fun l => l.line)) else s
    match l1Way s core line with
    | none => s
    | some way =>
      l1Put s core (rankL1 s core slot code
        { way := way, line := line, key := key, valid := sectorBits pa n, data := s.physRead key (128 * line) 128,
          wts := w, rts := r, filled := s.fresh, owner := slot, kind := 2, due := 0, stamp := 0, overdue := false })

/-- What an access performed under an exclusive lease of its core does to the L1 (R212, R252): one of class 0 fills it; one of another
class updates the next-use state of the line it hits. -/
def l1Use (s : State) (core slot code cls key pa n : Nat) : State :=
  if cls = 0 then l1Fill s core slot code key pa n
  else
    match l1Find s core (pa / 128) key with
    | some l => l1Put s core (rankL1 s core slot code l)
    | none => s

/-- A store of the core, performed at the home, updates the copy of the line that the core holds, with WTS := RTS := the new WTS
(R211, R246). A copy whose line another agent wrote since it was filled takes the line's present bytes with it: under the new times its
old ones would break R234 (log entry 78). -/
def l1Store (s : State) (core slot code key pa : Nat) : State :=
  let line := pa / 128
  match l1Find s core line key with
  | none => s
  | some l =>
    let w := (s.ts line).1
    l1Put s core (rankL1 s core slot code { l with data := s.physRead key (128 * line) 128, wts := w, rts := w, filled := s.fresh })

/-! ### L2 -/

/-- The tenant shift of a context on a die (R222). -/
def tenantShift (s : State) (die ctx : Nat) : Nat :=
  let c := s.context ctx
  if c.apinen then c.apin else (tget (s.die die).audit ctx).getD 0 / 64

/-- Time in units of 256 cycles (R219). -/
def nowUnits (s : State) : BitVec 20 := BitVec.ofNat 20 (s.cyc / 256)

def ceilDiv (a b : Nat) : Nat := (a + b - 1) / b

/-- Ways of a die's range j, counted down from way 15 (R223): first way and number; none when disabled. -/
def rangeWays (d : Die) (j : Nat) : Option (Nat × Nat) :=
  let upto := (List.range j).foldl (fun (a : Nat × Bool) i =>
    match tget d.retention i with
    | some r => if r.ways = 0 then a else if a.2 || decide (15 < a.1 + r.ways) then (a.1, true) else (a.1 + r.ways, false)
    | none => a) (0, false)
  match tget d.retention j with
  | some r => if r.ways = 0 || upto.2 || decide (15 < upto.1 + r.ways) then none else some (16 - upto.1 - r.ways, r.ways)
  | none => none

/-- Ways reserved by the enabled ranges of a die. -/
def reservedWays (d : Die) : Nat :=
  (List.range 16).foldl (fun a j =>
    match rangeWays d j with
    | some (_, n) => a + n
    | none => a) 0

/-- The lowest-numbered enabled range that holds a line (R223). -/
def rangeOf (d : Die) (line : Nat) : Option Nat :=
  (List.range 16).find? (fun j =>
    match tget d.retention j, rangeWays d j with
    | some r, some _ => decide (r.base ≤ line) && decide (line < r.limit)
    | _, _ => false)

/-- The rank of an L2 line for eviction (R220). -/
def victimRank2 (s : State) (l : L2Line) : Nat × Nat × Nat × Nat :=
  let age := (BitVec.ofNat 32 s.cyc - l.stamp).toNat
  let left := (l.due - nowUnits s).toNat
  if l.kind = 0 then (0, 0, 2 ^ 32 - age, l.way)
  else if l.ovd || (l.kind == 1 && decide (2 ^ 19 ≤ left)) then (1, 0, 2 ^ 32 - age, l.way)
  else if l.kind = 1 then (2, 2 ^ 20 - left, 2 ^ 32 - age, l.way)
  else (3, 0, 2 ^ 32 - age, l.way)

/-- Audit bookkeeping of a request (R221): later requests close records as passes; every 64th coded request opens one. -/
def auditRequest (s : State) (die slice line ctx code estimate : Nat) : State :=
  let d := s.die die
  let now := s.cyc / 256
  let passed := d.auditRecs.filter (fun a => a.line == line && decide (now < a.deadline))
  let audit := passed.foldl (fun t a => tput t a.ctx (((tget t a.ctx).getD 0) - 1)) d.audit
  let recs := d.auditRecs.filter (fun a => !passed.contains a)
  if kindOf code != 1 then s.setDie die { d with audit := audit, auditRecs := recs }
  else
    let n := (tget d.auditCount slice).getD 0 + 1
    let sample := n % 64 == 0 && decide ((recs.filter (fun a => a.slice == slice)).length < 256)
    let recs := if sample then
        { slice := slice, line := line, ctx := ctx, deadline := now + ceilDiv (3 * estimate) 512 % 2 ^ 20 } :: recs
      else recs
    s.setDie die { d with audit := audit, auditRecs := recs, auditCount := tput d.auditCount slice (n % 64) }

/-- A miss is counted by the range of its line (R224): the ways in which it may fill, and the range if it fills as retained. -/
def countMiss (s : State) (die line : Nat) : State × Nat × Nat × Option Nat :=
  let d := s.die die
  let free := 16 - reservedWays d
  match rangeOf d line with
  | none => (s, 0, free, none)
  | some j =>
    match tget d.retention j, rangeWays d j with
    | some r, some (lo, n) =>
      let s := s.setDie die { d with retention := tput d.retention j { r with misses := r.misses + 1 } }
      if (r.misses + 1) % 2 ^ r.j = 0 then (s, lo, n, some j) else (s, 0, free, none)
    | _, _ => (s, 0, free, none)

/-- Put a line into the L2 way it fills, among the `n` ways from `lo` on: a way with no line, else that of the victim, among the lines
not under an exclusive lease (R216, R220). -/
def l2Fill (s : State) (die lo n : Nat) (cls : Option Nat) (l : L2Line) : State :=
  let mine := ((s.die die).l2.filter (fun x => x.slice == l.slice && x.set == l.set)).filter
    (fun x => decide (lo ≤ x.way) && decide (x.way < lo + n))
  let free := (List.range n).find? (fun w => !mine.any (fun x => x.way == lo + w))
  let s := if free.isNone then waitLease s (mine.map (fun x => x.line)) else s
  let way :=
    match free with
    | some w => lo + w
    | none =>
      match leastLine (victimRank2 s) (mine.filter (fun x => (tget s.leases x.line).isNone)) with
      | some v => v.way
      | none => lo
  let d := s.die die
  let rest := d.l2.filter (fun x => !(x.slice == l.slice && x.set == l.set && x.way == way))
  s.setDie die { d with l2 := { l with way := way, retained := cls } :: rest }

/-- A request at the home L2 (R219 to R227): the line it leaves resident under the request's key, its ranking fields and
the audits. Class 2 does not fill. -/
def l2Request (s : State) (pa key ctx code cls cpt : Nat) : State :=
  let die := homeDie pa
  let line := pa / 128
  let est := declared code * cpt
  let s := auditRequest s die (sliceOf pa) line ctx code est
  let due : BitVec 20 :=
    if kindOf code = 1 then nowUnits s + BitVec.ofNat 20 (min (ceilDiv (est * 2 ^ tenantShift s die ctx) 256) (2 ^ 19 - 1))
    else 0
  let fields := fun (l : L2Line) =>
    { l with kind := kindOf code, due := due, stamp := BitVec.ofNat 32 s.cyc, ovd := false, ctx := ctx }
  if (s.die die).l2.any (fun l => l.line == line && l.key == key) then
    s.setDie die { (s.die die) with l2 := (s.die die).l2.map (fun x => if x.line = line then fields x else x) }
  else
    -- a line under another key is written back under its own, invalidated, and fetched again (R227)
    let s := s.setDie die { (s.die die) with l2 := (s.die die).l2.filter (fun x => x.line != line) }
    let (s, lo, n, retained) := countMiss s die line
    if cls = 2 then s
    else l2Fill s die lo n retained (fields { slice := sliceOf pa, set := l2SetOf pa, way := 0, line := line, key := key, kind := 2,
                                              due := 0, stamp := 0, ovd := false, ctx := ctx, retained := none })

/-- A request that carries no next-use code: of a walk, the resident cluster, the command complex, a unit of the hub die, a peer, or
for the save area (R219, R227). -/
def plainRequest (s : State) (pa key ctx : Nat) : State := l2Request s pa key ctx 31 0 256

/-- Plain requests for the lines that some bytes of memory lie in. -/
def plainRequests (s : State) (pa n key ctx : Nat) : State :=
  (List.range ((pa % 128 + n + 127) / 128)).foldl (fun s i => plainRequest s (pa / 128 * 128 + 128 * i) key ctx) s

/-! ### Placement of atomics -/

/-- The weir's record of an atomic of a core, and whether it is performed near (R251). -/
def weirRequest (s : State) (core : Nat) (pa : Nat) : State × Bool :=
  let die := homeDie pa
  let slice := sliceOf pa
  let line := pa / 128
  let d := s.die die
  let mine := d.weir.filter (fun e => e.slice == slice)
  match mine.find? (fun e => e.line == line) with
  | none =>
    -- the entry least recently used is replaced: entries stand in order of use
    let keep := if mine.length < 1024 then d.weir else
      match mine.getLast? with
      | some last => d.weir.filter (fun e => e != last)
      | none => d.weir
    (s.setDie die { d with weir := { slice := slice, line := line, cores := [core], first := s.cyc, last := s.cyc,
                                     far := false } :: keep }, true)
  | some e =>
    let cores := if e.cores.contains core || decide (3 ≤ e.cores.length) then e.cores else core :: e.cores
    let far := (e.far && decide (s.cyc - e.last < 65536)) ||
      (decide (3 ≤ cores.length) && decide (e.cores.length < 3) && decide (s.cyc - e.first ≤ 4096))
    let e' := { e with cores := cores, last := s.cyc, far := far }
    (s.setDie die { d with weir := e' :: d.weir.filter (fun x => x != e) }, !e'.far)

/-- A near atomic's exclusive lease: 512 cycles from its grant (R252). The grant acts as a store of R246 and the atomic writes too: the
line's times and the core's move once for the two, the rule not saying whether they move twice (the model's choice, log entry 84). -/
def grantLease (s : State) (core line : Nat) : State :=
  match tget s.leases line with
  | some l => if l.core = core then s else { s with leases := tput s.leases line { core := core, ends := s.cyc + 512 } }
  | none => { s with leases := tput s.leases line { core := core, ends := s.cyc + 512 } }

/-! ### Translation (R204, R206) -/

/-- Two entries that say the same. -/
def TlbEntry.same (a b : TlbEntry) : Bool :=
  a.ctx == b.ctx && a.part == b.part && a.page == b.page && a.pages == b.pages && a.ppn == b.ppn && a.w == b.w && a.x == b.x &&
  a.g == b.g && a.c == b.c && a.cls == b.cls && a.key == b.key

/-- Add an entry to a translation cache of a given size; the oldest goes (log entry 19). -/
def tlbAdd (n : Nat) (e : TlbEntry) (l : List TlbEntry) : List TlbEntry :=
  if l.any (fun x => x.same e) then l else (e :: l).take n

/-- A walk's reads go through the L2 of their home dies, under WKEY (R204). -/
def touchWalk (s : State) (ctx : Nat) (l : List Nat) : State := l.foldl (fun s pa => plainRequest s pa (s.context ctx).usedWkey ctx) s

/-- Translate a canonical address for a core, or for a unit of the hub die (no core). A cached entry may serve even when
the page table has changed since (R206): which, is free. -/
def translate (s : State) (core : Option Nat) (ctx : Nat) (va : DWord) (u : PageUse) : State × Except FaultCode Leaf :=
  let page := va.toNat / 4096 % 2 ^ 45
  let off := va.toNat % 4096
  let part := (s.context ctx).usedPart
  let (read, fresh) := walk s ctx page
  match core with
  | none => (touchWalk s ctx read, fresh.bind (fun l => useLeaf s l page off u))
  | some c =>
    let cached := ((s.core c).tlb ++ (s.die (dieOf c)).tlb).find? (fun e => e.hits ctx part page)
    match cached, fresh with
    | some e, .ok l =>
      if e.same l || Config.freeBit s.fresh (page * 4 + 1) then (s, useLeaf s e page off u)
      else (touchWalk s ctx read, useLeaf s l page off u)
    | some e, .error f =>
      if Config.freeBit s.fresh (page * 4 + 1) = true then (s, useLeaf s e page off u) else (touchWalk s ctx read, .error f)
    | none, .ok l =>
      let s := (touchWalk s ctx read).modCore c (fun v => { v with tlb := tlbAdd 256 l v.tlb })
      let s := s.setDie (dieOf c) { (s.die (dieOf c)) with tlb := tlbAdd 16384 l (s.die (dieOf c)).tlb }
      (s, useLeaf s l page off u)
    | none, .error f => (touchWalk s ctx read, .error f)

end Sys2Proof.Machine
end

