-- ==== Sys2Proof/Machine/Flags.lean ====
section
/-! DEFINITION. Floating-point numbers and the flags they raise: layouts and values (R107 to R109), rounding,
saturation, special values (R112 to R116), flags (R117), square root, and conversions. Every result is formed on exact
rationals and rounded once. -/

namespace Sys2Proof.Machine

/-! ### Exact rationals -/

/-- The number num / den. -/
structure Q where
  num : Int
  den : Nat
deriving DecidableEq, Repr

def Q.ofInt (n : Int) : Q := ⟨n, 1⟩
def Q.add (a b : Q) : Q := ⟨a.num * b.den + b.num * a.den, a.den * b.den⟩
def Q.neg (a : Q) : Q := ⟨-a.num, a.den⟩
def Q.sub (a b : Q) : Q := a.add b.neg
def Q.mul (a b : Q) : Q := ⟨a.num * b.num, a.den * b.den⟩
/-- The quotient by a non-zero number. -/
def Q.div (a b : Q) : Q := ⟨(if b.num < 0 then -a.num else a.num) * b.den, a.den * b.num.natAbs⟩
def Q.abs (a : Q) : Q := ⟨a.num.natAbs, a.den⟩
def Q.lt (a b : Q) : Bool := decide (a.num * b.den < b.num * a.den)
def Q.le (a b : Q) : Bool := decide (a.num * b.den ≤ b.num * a.den)
def Q.eq (a b : Q) : Bool := decide (a.num * b.den = b.num * a.den)
def Q.isZero (a : Q) : Bool := a.num == 0
def Q.floor (a : Q) : Int := a.num / (a.den : Int)

/-- 2 to an integer power. -/
def Q.pow2 (e : Int) : Q := if 0 ≤ e then ⟨(2 ^ e.toNat : Nat), 1⟩ else ⟨1, 2 ^ (-e).toNat⟩

/-- A number times a power of two. -/
def Q.scale (a : Q) (e : Int) : Q :=
  if 0 ≤ e then ⟨a.num * (2 ^ e.toNat : Nat), a.den⟩ else ⟨a.num, a.den * 2 ^ (-e).toNat⟩

/-- floor(log2 |a|) of a non-zero number. -/
def Q.log2 (a : Q) : Int :=
  let n := a.num.natAbs
  let k : Int := (n.log2 : Int) - (a.den.log2 : Int)
  if (Q.pow2 k).le a.abs then k else k - 1

/-! ### Formats -/

/-- The floating-point formats (R107). -/
inductive FloatFmt where
  | f64 | f32 | f16 | bf16 | e4m3 | e5m2
deriving DecidableEq, Repr

def FloatFmt.width : FloatFmt → Nat
  | .f64 => 64 | .f32 => 32 | .f16 => 16 | .bf16 => 16 | .e4m3 => 8 | .e5m2 => 8

/-- Mantissa bits. -/
def FloatFmt.man : FloatFmt → Nat
  | .f64 => 52 | .f32 => 23 | .f16 => 10 | .bf16 => 7 | .e4m3 => 3 | .e5m2 => 2

def FloatFmt.bias : FloatFmt → Nat
  | .f64 => 1023 | .f32 => 127 | .f16 => 15 | .bf16 => 127 | .e4m3 => 7 | .e5m2 => 15

/-- The encoding of the largest finite value (R107). -/
def FloatFmt.maxBits : FloatFmt → Nat
  | .f64 => 0x7FEFFFFFFFFFFFFF | .f32 => 0x7F7FFFFF | .f16 => 0x7BFF | .bf16 => 0x7F7F | .e4m3 => 0x7E | .e5m2 => 0x7B

/-- The canonical NaN (R107). -/
def FloatFmt.nan : FloatFmt → Nat
  | .f64 => 0x7FF8000000000000 | .f32 => 0x7FC00000 | .f16 => 0x7E00 | .bf16 => 0x7FC0 | .e4m3 => 0x7F | .e5m2 => 0x7E

/-- The encoding of +∞; e4m3 has none and gives its NaN (R113). -/
def FloatFmt.inf : FloatFmt → Nat
  | .f64 => 0x7FF0000000000000 | .f32 => 0x7F800000 | .f16 => 0x7C00 | .bf16 => 0x7F80 | .e4m3 => 0x7F | .e5m2 => 0x7C

def FloatFmt.hasInf (f : FloatFmt) : Bool := f != .e4m3

/-- The exponent of the smallest normal. -/
def FloatFmt.emin (f : FloatFmt) : Int := 1 - (f.bias : Int)

/-- A floating-point value: a NaN that signals or not, an infinity, or a finite number with its sign. -/
inductive Num where
  | nan (signalling : Bool)
  | inf (neg : Bool)
  | fin (neg : Bool) (mag : Q)
deriving DecidableEq, Repr

/-- The sign of a value. -/
def Num.isNeg : Num → Bool
  | .nan _ => false
  | .inf n => n
  | .fin n _ => n

def Num.isNan : Num → Bool
  | .nan _ => true
  | _ => false

def Num.isInf : Num → Bool
  | .inf _ => true
  | _ => false

def Num.signals : Num → Bool
  | .nan s => s
  | _ => false

def Num.isZero : Num → Bool
  | .fin _ q => q.isZero
  | _ => false

/-- The signed number of a finite value; zero for the others. -/
def Num.toQ : Num → Q
  | .fin n q => if n then q.neg else q
  | _ => ⟨0, 1⟩

/-- The value of an encoding (R108). -/
def decodeFloat (f : FloatFmt) (b : Nat) : Num :=
  let m := b % 2 ^ f.man
  let eb := f.width - 1 - f.man
  let e := b / 2 ^ f.man % 2 ^ eb
  let neg := b / 2 ^ (f.width - 1) % 2 == 1
  let top := 2 ^ eb - 1
  if f = .e4m3 ∧ e = 15 ∧ m = 7 then .nan false
  else if e = top ∧ f.hasInf then
    if m = 0 then .inf neg else .nan (f != .e5m2 && m / 2 ^ (f.man - 1) == 0)
  else if e = 0 then .fin neg ((Q.ofInt m).scale (f.emin - f.man))
  else .fin neg ((Q.ofInt (2 ^ f.man + m : Nat)).scale ((e : Int) - f.bias - f.man))

/-! ### Flags and rounding -/

def flagNV : BitVec 5 := 1
def flagDZ : BitVec 5 := 2
def flagOF : BitVec 5 := 4
def flagUF : BitVec 5 := 8
def flagNX : BitVec 5 := 16

/-- An encoded result and the flags it raises. -/
structure FloatResult where
  bits : Nat
  flags : BitVec 5
deriving DecidableEq, Repr

/-- The four rounding modes (R85, R112). -/
inductive Rounding where
  | rne | rtz | rdn | rup
deriving DecidableEq, Repr

def Rounding.ofField (x : Nat) : Rounding :=
  match x % 4 with
  | 0 => .rne | 1 => .rtz | 2 => .rdn | _ => .rup

/-- Round a non-negative number to an integer, for a result of the given sign (R112). -/
def roundMag (mode : Rounding) (neg : Bool) (q : Q) : Nat :=
  let n := q.num.natAbs / q.den
  let r := q.num.natAbs % q.den
  if r = 0 then n
  else
    match mode with
    | .rne => if 2 * r < q.den then n else if q.den < 2 * r then n + 1 else if n % 2 = 0 then n else n + 1
    | .rtz => n
    | .rdn => if neg then n + 1 else n
    | .rup => if neg then n else n + 1

def signBit (f : FloatFmt) (neg : Bool) : Nat := if neg then 2 ^ (f.width - 1) else 0

def nanResult (f : FloatFmt) (flags : BitVec 5) : FloatResult := ⟨f.nan, flags⟩

def zeroResult (f : FloatFmt) (neg : Bool) : FloatResult := ⟨signBit f neg, 0⟩

/-- An infinite result that comes from an infinite operand or a division by zero (R113). -/
def infResult (f : FloatFmt) (neg sat : Bool) (flags : BitVec 5) : FloatResult :=
  if f.hasInf then ⟨signBit f neg + f.inf, flags⟩
  else if sat then ⟨signBit f neg + f.maxBits, flags⟩
  else ⟨f.nan, flags⟩

/-- The result of an overflow (R113). -/
def overflowResult (f : FloatFmt) (mode : Rounding) (sat neg : Bool) : FloatResult :=
  let toMax := sat ||
    (match mode with
     | .rne => false
     | .rtz => true
     | .rdn => !neg
     | .rup => neg)
  -- with saturate, the directed modes that reach the infinite side give the largest finite value too
  let bits := if toMax then signBit f neg + f.maxBits else if f.hasInf then signBit f neg + f.inf else f.nan
  ⟨bits, flagOF ||| flagNX⟩

/-- Round a non-zero magnitude to a format (R112, R113, R117). -/
def roundFloat (f : FloatFmt) (mode : Rounding) (sat neg : Bool) (q : Q) : FloatResult :=
  let e := q.log2
  let eu := e - f.man
  let eb := (if e < f.emin then f.emin else e) - f.man
  let n := roundMag mode neg (q.scale (-eb))
  let bits := ((eb + f.man + f.bias - 1) * (2 ^ f.man : Nat) + n).toNat
  if f.maxBits < bits then overflowResult f mode sat neg
  else
    let inexact := !((Q.ofInt n).scale eb).eq q
    let nu := roundMag mode neg (q.scale (-eu))
    let tiny := ((Q.ofInt nu).scale eu).lt (Q.pow2 f.emin)
    ⟨signBit f neg + bits, (if inexact then flagNX else 0) ||| (if inexact && tiny then flagUF else 0)⟩

/-- Deliver an exact signed number; `zeroNeg` is the sign of an exact zero (R112, R114). -/
def deliver (f : FloatFmt) (mode : Rounding) (sat zeroNeg : Bool) (q : Q) : FloatResult :=
  if q.isZero then zeroResult f zeroNeg else roundFloat f mode sat (decide (q.num < 0)) q.abs

/-- A quiet or signalling NaN operand among several (R115). -/
def nanOperands (xs : List Num) : Option (BitVec 5) :=
  if xs.any Num.isNan then some (if xs.any Num.signals then flagNV else 0) else none

/-! ### Operations -/

/-- a + b (R112 to R115). -/
def fadd (f : FloatFmt) (mode : Rounding) (sat : Bool) (a b : Num) : FloatResult :=
  match nanOperands [a, b] with
  | some fl => nanResult f fl
  | none =>
    match a, b with
    | .inf x, .inf y => if x = y then infResult f x sat 0 else nanResult f flagNV
    | .inf x, _ => infResult f x sat 0
    | _, .inf y => infResult f y sat 0
    | _, _ =>
      let zeroNeg := if a.isZero && b.isZero && a.isNeg == b.isNeg then a.isNeg else mode == .rdn
      deliver f mode sat zeroNeg (a.toQ.add b.toQ)

/-- Negation of a value, NaNs included. -/
def Num.negate : Num → Num
  | .nan s => .nan s
  | .inf n => .inf (!n)
  | .fin n q => .fin (!n) q

/-- Magnitude of a value. -/
def Num.magnitude : Num → Num
  | .nan s => .nan s
  | .inf _ => .inf false
  | .fin _ q => .fin false q

/-- a × b (R112 to R115). -/
def fmul (f : FloatFmt) (mode : Rounding) (sat : Bool) (a b : Num) : FloatResult :=
  match nanOperands [a, b] with
  | some fl => nanResult f fl
  | none =>
    let neg := a.isNeg != b.isNeg
    if a.isInf || b.isInf then (if a.isZero || b.isZero then nanResult f flagNV else infResult f neg sat 0)
    else deliver f mode sat neg (a.toQ.mul b.toQ)

/-- a × b + c, rounded once (R112 to R115). -/
def fmad (f : FloatFmt) (mode : Rounding) (sat : Bool) (a b c : Num) : FloatResult :=
  let invalid := (a.isInf && b.isZero) || (a.isZero && b.isInf)
  match nanOperands [a, b, c] with
  -- 0 × ∞ is an invalid operation beside a NaN addend too (log entry 24)
  | some fl => nanResult f (if invalid then flagNV else fl)
  | none =>
    if invalid then nanResult f flagNV
    else
      let neg := a.isNeg != b.isNeg
      if a.isInf || b.isInf then
        match c with
        | .inf n => if n = neg then infResult f neg sat 0 else nanResult f flagNV
        | _ => infResult f neg sat 0
      else
        match c with
        | .inf n => infResult f n sat 0
        | _ =>
          let p := a.toQ.mul b.toQ
          let zeroNeg := if p.isZero && c.isZero && neg == c.isNeg then neg else mode == .rdn
          deliver f mode sat zeroNeg (p.add c.toQ)

/-- a / b (R112 to R115, R117). -/
def fdiv (f : FloatFmt) (mode : Rounding) (sat : Bool) (a b : Num) : FloatResult :=
  match nanOperands [a, b] with
  | some fl => nanResult f fl
  | none =>
    let neg := a.isNeg != b.isNeg
    if a.isInf then (if b.isInf then nanResult f flagNV else infResult f neg sat 0)
    else if b.isInf then zeroResult f neg
    else if b.isZero then (if a.isZero then nanResult f flagNV else infResult f neg sat flagDZ)
    else deliver f mode sat neg (a.toQ.div b.toQ)

/-- The integer square root of `x`, one bit of the root per step: bits below `2^n`. -/
def isqrtFrom (x : Nat) : Nat → Nat → Nat
  | 0, r => r
  | n + 1, r => if (r + 2 ^ n) * (r + 2 ^ n) ≤ x then isqrtFrom x n (r + 2 ^ n) else isqrtFrom x n r

def isqrt (x : Nat) : Nat := isqrtFrom x (x.log2 / 2 + 1) 0

/-- A rational on the same side of every number of at most `bits` bits as the square root of q, and equal to it when the
root is such a number: enough to round it. -/
def sqrtQ (bits : Nat) (q : Q) : Q :=
  let k : Int := (bits : Int) + 4 - q.log2 / 2
  let y := q.scale (2 * k)
  let x := y.num.natAbs / y.den
  let r := isqrt x
  let exact := r * r == x && y.num.natAbs % y.den == 0
  (Q.ofInt (2 * r + (if exact then 0 else 1) : Nat)).scale (-k - 1)

/-- The square root (R112 to R115). -/
def fsqrt (f : FloatFmt) (mode : Rounding) (sat : Bool) (a : Num) : FloatResult :=
  match a with
  | .nan s => nanResult f (if s then flagNV else 0)
  | .inf n => if n then nanResult f flagNV else infResult f false sat 0
  | .fin n q =>
    if q.isZero then zeroResult f n
    else if n then nanResult f flagNV
    else deliver f mode sat false (sqrtQ (f.man + 2) q)

/-- Conversion between floating-point formats (R112 to R115). -/
def fconvert (f : FloatFmt) (mode : Rounding) (sat : Bool) (a : Num) : FloatResult :=
  match a with
  | .nan s => nanResult f (if s then flagNV else 0)
  | .inf n => infResult f n sat 0
  | .fin n q => deliver f mode sat n (if n then q.neg else q)

/-- A value rounded to an integer (R112). -/
def roundInt (mode : Rounding) (q : Q) : Int :=
  let neg := decide (q.num < 0)
  let n : Int := roundMag mode neg q.abs
  if neg then -n else n

/-- Conversion to an integer format of range lo to hi (R116). -/
def floatToInt (mode : Rounding) (lo hi : Int) (a : Num) : Int × BitVec 5 :=
  match a with
  | .nan _ => (0, flagNV)
  | .inf n => (if n then lo else hi, flagNV)
  | .fin _ _ =>
    let n := roundInt mode a.toQ
    if n < lo then (lo, flagNV) else if hi < n then (hi, flagNV)
    else (n, if (Q.ofInt n).eq a.toQ then 0 else flagNX)

/-- An integer as a value. -/
def Num.ofInt (n : Int) : Num := .fin (decide (n < 0)) (Q.ofInt n.natAbs)

/-- Order of two values that are no NaN: −1, 0 or 1 as a compares to b; zeros are equal. -/
def compareNum (a b : Num) : Int :=
  match a, b with
  | .inf x, .inf y => if x = y then 0 else if x then -1 else 1
  | .inf x, _ => if x then -1 else 1
  | _, .inf y => if y then 1 else -1
  | _, _ => if a.toQ.lt b.toQ then -1 else if b.toQ.lt a.toQ then 1 else 0

/-! ### Exact values with special ones (R113 to R115, R122) -/

/-- An exact product (R122). -/
def termOf (a b : Num) : Num :=
  if a.isNan || b.isNan then .nan false
  else
    let neg := a.isNeg != b.isNeg
    if a.isInf || b.isInf then (if a.isZero || b.isZero then .nan false else .inf neg)
    else .fin neg (a.toQ.abs.mul b.toQ.abs)

/-- An exact sum. -/
def sumOf (a b : Num) : Num :=
  if a.isNan || b.isNan then .nan false
  else
    match a, b with
    | .inf x, .inf y => if x = y then .inf x else .nan false
    | .inf x, _ => .inf x
    | _, .inf y => .inf y
    | _, _ =>
      let q := a.toQ.add b.toQ
      if q.isZero then .fin (a.isZero && b.isZero && a.isNeg && b.isNeg) ⟨0, 1⟩ else .fin (decide (q.num < 0)) q.abs

/-- An exact quotient. -/
def quotOf (a b : Num) : Num :=
  if a.isNan || b.isNan || (a.isInf && b.isInf) || (a.isZero && b.isZero) then .nan false
  else
    let neg := a.isNeg != b.isNeg
    if a.isInf || b.isZero then .inf neg
    else if b.isInf then .fin neg ⟨0, 1⟩
    else .fin neg (a.toQ.abs.div b.toQ.abs)

/-! ### Bounded results (R119) -/

/-- The ulp at a non-zero exact value in a format. -/
def ulpAt (f : FloatFmt) (x : Q) : Q :=
  let e := x.log2 - f.man
  Q.pow2 (if e < f.emin - f.man then f.emin - f.man else e)

/-- The magnitude, rounded to nearest as if its exponent were unbounded, is below the smallest normal (R117). -/
def roundsTiny (f : FloatFmt) (q : Q) : Bool :=
  let e := q.log2 - f.man
  ((Q.ofInt (roundMag .rne false (q.scale (-e)))).scale e).lt (Q.pow2 f.emin)

/-- A finite candidate is accepted within a distance of the exact value, of which `x` is an approximation whose error is
within `err`: the free candidate where it lies within it whatever the error, else the approximation rounded to nearest. A
zero of either sign is accepted where zero is. An exact value past the largest finite one gives the overflow result of R113,
though R119 permits the largest finite value where that lies within the bound: the model's choice (log entry 12). -/
def boundedResult (f : FloatFmt) (sat : Bool) (candidate : Nat) (x bound err : Q) : FloatResult :=
  let near := roundFloat f .rne sat (decide (x.num < 0)) x.abs
  if near.flags &&& flagOF != 0 then near
  else
    let c := candidate % 2 ^ f.width
    let uf : BitVec 5 := if roundsTiny f x.abs then flagUF else 0
    match decodeFloat f c with
    | .fin _ _ =>
      let d := ((decodeFloat f c).toQ.sub x).abs
      ⟨if (d.add err).le bound then c else near.bits, flagNX ||| uf⟩
    | _ => ⟨near.bits, flagNX ||| uf⟩

end Sys2Proof.Machine
end

