-- ==== Sys2Proof/Machine/Access.lean ====
section
/-! DEFINITION. Memory accesses of splits: performing one (R245, R246, R250 to R252), the galley (R336 to R340), deferred
faults (R261), results in flight (R43), remote requests (R258, R398, R399), and scratchpad (R209, R253). Accesses are
performed when they issue, their results are written and their acknowledgements arrive later (log entry 3). -/

namespace Sys2Proof.Machine

/-- Who makes an access: the split, its workgroup, node and context, the PC pair recorded, its place in issue order. -/
structure Who where
  ref : SplitRef
  wg : Nat
  node : Nat
  ctx : Nat
  pcs : PcPair
  seq : Nat
deriving DecidableEq, Repr

def Who.gkey (w : Who) : Nat := w.ref.gkey

/-- How one access came out. -/
inductive Done where
  | value (v : DWord)
  | held                       -- the page is not present (R336)
  | failed (code : FaultCode)  -- a deferred fault (R261)
  | remote                     -- asked of a peer (R258)
deriving DecidableEq, Repr

/-! ### Values -/

/-- A value of `n` bytes as it fills its destination (R264, R267). -/
def extend (e : Ext) (n v : Nat) : DWord :=
  match e with
  | .zero => BitVec.ofNat 64 v
  | .sign => (BitVec.ofNat (8 * n) v).signExtend 64

/-- rne(a + b) in f32 or f64 without flags (R269). -/
def faddBits (f : FloatFmt) (a b : Nat) : Nat := (fadd f .rne false (decodeFloat f a) (decodeFloat f b)).bits

/-- The new value of a location of n bytes under an atomic (R269); operation 11 is the unsigned maximum of vvis. -/
def atomicNew (op n : Nat) (old x compare : DWord) : DWord :=
  let m := 2 ^ (8 * n)
  let a := old.toNat % m
  let b := x.toNat % m
  let sa := (BitVec.ofNat (8 * n) a).toInt
  let sb := (BitVec.ofNat (8 * n) b).toInt
  match op with
  | 0 => BitVec.ofNat 64 ((a + b) % m)
  | 1 => old &&& x
  | 2 => old ||| x
  | 3 => old ^^^ x
  | 4 => if sa ≤ sb then old else x
  | 5 => if sa ≤ sb then x else old
  | 6 => if a ≤ b then old else x
  | 7 => if a ≤ b then x else old
  | 8 => x
  | 9 => if a = compare.toNat % m then x else old
  | 10 => BitVec.ofNat 64 (faddBits (if n = 8 then .f64 else .f32) a b)
  | _ => if a ≤ b then x else old

/-! ### Results in flight -/

/-- Put a value into the element of a lane. -/
def setLane (l : Lanes) (i : Nat) (v : Word) : Lanes := if h : i < 96 then l.set i v h else l

/-- Give a result its value for a lane: the low word to its first write, the high word to its second. -/
def InFlight.fill (f : InFlight) (lane : Nat) (v : DWord) : InFlight :=
  let put := fun (w : RegWrite) (x : Word) =>
    match w with
    | .scalar n _ c => RegWrite.scalar n x c
    | .vector r m c d t o => .vector r m c (setLane d lane x) t o
    | w => w
  let left := f.awaited.filter (fun i => i != lane)
  match f.writes with
  | [a] => { f with writes := [put a v.lo], awaited := left }
  | [a, b] => { f with writes := [put a v.lo, put b v.hi], awaited := left }
  | _ => { f with awaited := left }

/-- A lane whose access failed keeps its previous value (R261). -/
def InFlight.dropLane (f : InFlight) (lane : Nat) : InFlight :=
  { f with awaited := f.awaited.filter (fun i => i != lane),
           writes := f.writes.filterMap (fun w =>
             match w with
             | .scalar _ _ _ => none
             | .vector r m c d t o => some (.vector r (m &&& ~~~(BitVec.ofNat 96 (2 ^ lane))) c d t o)
             | w => some w) }

/-- Change the result of an instruction. -/
def State.modResult (s : State) (r : SplitRef) (id : Nat) (f : InFlight → InFlight) : State :=
  s.modSplit r (fun sp => { sp with inflight := sp.inflight.map (fun x => if x.id = id then f x else x) })

/-- Record a deferred fault of a lane (R261). -/
def State.defer (s : State) (w : Who) (code : FaultCode) (lane : Nat) (addr : DWord) (window : Nat) (cmd : Option Nat) : State :=
  (logEcc s w.ref.core code).modSplit w.ref (fun sp =>
    { sp with deferred := sp.deferred ++ [{ code := code, pcs := w.pcs, lanes := BitVec.ofNat 96 (2 ^ lane), addr := addr,
                                            window := window, seq := w.seq, cmd := cmd }] })

/-! ### The home memory -/

/-- A write that touches the tail word of an enabled queue is also a notify, with the whole word as it stands after the
write, and the context of the writer (R312). -/
def notifyTail (s : State) (pa n : Nat) (ctx : Option Nat) : State :=
  { s with notifies := s.queues.foldl (fun l e =>
      if e.2.en && decide (e.2.logsize < 13) && decide (pa < e.2.tailpa + 4) && decide (e.2.tailpa < pa + n) then
        l ++ [{ queue := e.1, value := BitVec.ofNat 32 (ofBytes (s.physRead (s.keyMapSlot e.2.tailpa) e.2.tailpa 4)), ctx := ctx }]
      else l) s.notifies }

/-- The writes of a node move its completion time (R257). -/
def nodeWrote (s : State) (node line : Nat) : State :=
  s.modNode node (fun n => { n with time := tsMax n.time (s.ts line).1 })

/-- The bytes and the timestamps of a write at the home L2, by an agent that uses a core's logical time, or the hub's (R246, R416). -/
def writeLine (s : State) (core : Option Nat) (key pa : Nat) (bytes : List Byte) : State :=
  let s := claimLine s core (pa / 128)
  let s := s.physWrite key pa bytes
  tsStore s core (pa / 128)

/-- A write at the home L2 with no next-use code, that no port takes as a notify: a remote part's, which no context of this part made
(R219, R312). -/
def homeWriteQuiet (s : State) (core : Option Nat) (key pa : Nat) (bytes : List Byte) : State :=
  plainRequest (writeLine s core key pa bytes) pa key 0

/-- A write at the home L2 with no next-use code, which a port takes as a notify of this context, or of the resident cluster (R312). -/
def homeWrite (s : State) (core : Option Nat) (key pa : Nat) (bytes : List Byte) (ctx : Option Nat) : State :=
  notifyTail (homeWriteQuiet s core key pa bytes) pa bytes.length ctx

/-- A read at the home L2 that leaves no L1 copy and carries no next-use code: the renewal of R245. The tenant context that the L2 line
keeps (R219) is 0 for a request of an agent without a context, the resident cluster, the command complex or a peer: the model's choice
(log entry 85). -/
def homeRead (s : State) (core : Option Nat) (key pa n : Nat) : State × List Byte :=
  let s := plainRequest (claimLine s core (pa / 128)) pa key 0
  let s := renew s core (pa / 128)
  let s := s.raiseLt core (s.ts (pa / 128)).1
  (s, s.physRead key pa n)

/-- CPT of the workgroup of an access (R219). -/
def cptOf (s : State) (w : Who) : Nat :=
  match tget s.wgs w.wg with
  | some g => g.cpt.toNat
  | none => 256

/-- Scopes that an L1 copy serves (R245). -/
def scopeCached (sc : Scope) : Bool :=
  match sc with
  | .peer | .system => false
  | _ => true

/-- The copy that serves a load in the L1, if one does: for a plain load one whose lease its core's logical time has not passed (R245);
for an invariant load any, but one filled before the node's first workgroup started only under its lease (R238), and none where the L1
no longer holds it, which is free. -/
def hitCopy (s : State) (w : Who) (m : MemFields) (l : Leaf) (n : Nat) : Option L1Line :=
  ((l1Find s w.ref.core (l.pa / 128) l.key).filter (fun y => sectorBits l.pa n &&& ~~~y.valid == 0)).filter (fun y =>
    scopeCached m.scope &&
    (tsLe (s.core w.ref.core).lt y.rts ||
     m.inv && Config.freeBit s.fresh (w.seq * 128 + 3) && (match (tget s.nodes w.node).bind (fun n => n.begun) with
       | some b => decide (b < y.filled)
       | none => false)))

/-- A load that the home L2 serves: it renews the lease, but for an invariant one (R238, R245), and fills the L1 where scope and class
permit (R212). -/
def loadHome (s : State) (w : Who) (m : MemFields) (l : Leaf) (n : Nat) : State × List Byte :=
  let core := w.ref.core
  let line := l.pa / 128
  let cls := max m.cls.val l.cls
  let s := claimLine s (some core) line
  let s := l2Request s l.pa l.key w.ctx m.code.val cls (cptOf s w)
  let s := if m.inv then s else renew s (some core) line
  let s := if m.inv then s else s.raiseLt (some core) (s.ts line).1
  let v := s.physRead l.key l.pa n
  (if scopeCached m.scope && cls == 0 then l1Fill s core (w.wg % 64) m.code.val l.key l.pa n else s, v)

/-- A load from memory (R212, R238, R245); of a line under an exclusive lease of its own core it is performed in the L1, with no
renewal (R252). -/
def loadMem (s : State) (w : Who) (m : MemFields) (l : Leaf) (n : Nat) : State × List Byte :=
  let core := w.ref.core
  let line := l.pa / 128
  if leased s core line then
    let v := s.physRead l.key l.pa n
    let s := l1Use s core (w.wg % 64) m.code.val (max m.cls.val l.cls) l.key l.pa n
    (if m.inv then s else s.raiseLt (some core) (s.ts line).1, v)
  else
    match hitCopy s w m l n with
    | some y =>
      let s := l1Put s core (rankL1 s core (w.wg % 64) m.code.val y)
      (if m.inv then s else s.raiseLt (some core) y.wts, (y.data.drop (l.pa % 128)).take n)
    | none => loadHome s w m l n

/-- The request of an access at the home L2; one to a line under an exclusive lease of its own core is performed in the L1 (R252). -/
def requestHome (s : State) (w : Who) (m : MemFields) (l : Leaf) : State :=
  if leased s w.ref.core (l.pa / 128) then s
  else l2Request s l.pa l.key w.ctx m.code.val (max m.cls.val l.cls) (cptOf s w)

/-- The write of a store or an atomic (R246). -/
def storeBytes (s : State) (w : Who) (m : MemFields) (l : Leaf) (bytes : List Byte) : State :=
  let s := notifyTail (writeLine s (some w.ref.core) l.key l.pa bytes) l.pa bytes.length (some w.ctx)
  nodeWrote (l1Store s w.ref.core (w.wg % 64) m.code.val l.key l.pa) w.node (l.pa / 128)

/-- A store to memory as its home performs it (R246): by itself, that of a unit that keeps its own account. -/
def storeQuiet (s : State) (w : Who) (m : MemFields) (l : Leaf) (bytes : List Byte) : State :=
  requestHome (storeBytes s w m l bytes) w m l

/-- An acknowledgement to come (R246). -/
def awaitAck (s : State) (w : Who) (l : Leaf) (n : Nat) : State :=
  { s with acks := tput s.acks s.serial { ref := w.ref, gkey := w.gkey, node := w.node, pa := l.pa, size := n, remote := false },
           serial := s.serial + 1 }

/-- A store of a split to memory (R246), with its acknowledgement outstanding. -/
def storeMem (s : State) (w : Who) (m : MemFields) (l : Leaf) (bytes : List Byte) : State :=
  awaitAck (storeQuiet s w m l bytes) w l bytes.length

/-- The read of an atomic, and its placement: near where it says so (R250 to R252). During its core's lease it is performed in the
L1, and the home has no request. -/
def atomicRead (s : State) (w : Who) (m : MemFields) (l : Leaf) (n : Nat) : State × DWord × Bool :=
  let core := w.ref.core
  let line := l.pa / 128
  let old := BitVec.ofNat 64 (ofBytes (s.physRead l.key l.pa n))
  if leased s core line then (s, old, true)
  else
    let (s, near) := weirRequest (requestHome (claimLine s (some core) line) w m l) core l.pa
    (if near then grantLease s core line else s, old, near)

/-- The line of a near atomic stands in its core's L1 under its exclusive lease, where its class fills the L1 (R212, R250, R252). -/
def holdLeased (s : State) (w : Who) (m : MemFields) (l : Leaf) (n : Nat) (near : Bool) : State :=
  if near then l1Use s w.ref.core (w.wg % 64) m.code.val (max m.cls.val l.cls) l.key l.pa n else s

/-- An atomic of a split at memory: one indivisible step (R250 to R252). -/
def atomicMem (s : State) (w : Who) (m : MemFields) (l : Leaf) (op n : Nat) (x compare : DWord) : State × DWord :=
  let (s, old, near) := atomicRead s w m l n
  (awaitAck (holdLeased (storeBytes s w m l (toBytes n (atomicNew op n old x compare).toNat)) w m l n near) w l n, old)

/-! ### Remote requests -/

/-- The generation to send to a rank and window (R399): of two matching entries either one. -/
def importGen (s : State) (rank window : Nat) : Option (BitVec 16) :=
  let l := s.imports.filter (fun e => e.2.valid && e.2.rank == rank && e.2.window == window)
  match l[Config.freeNat s.fresh (rank * 4096 + window) % (max 1 l.length)]? with
  | some e => some e.2.gen
  | none => none

/-- A read of the remote region by a unit that waits for it: what the peer answers, or that it refuses, is free (R201, R258). Log entry
33. -/
def peerBytes (s : State) (rank window pa n : Nat) : Except FaultCode (List Byte) :=
  if (importGen s rank window).isNone then .error .permission
  else if Config.freeBit s.fresh 72 then .error .windowRevoked
  else .ok ((List.range n).map (fun i => (Config.freeWord s.fresh (pa + i)).setWidth 8))

/-- Send a request to a peer (R398). -/
def sendRemote (s : State) (w : Who) (rank window offset size lane : Nat) (gen : BitVec 16) (op : PeerOp) (tag : BitVec 16)
    (acq : Bool) (p : RemoteFor) : State :=
  { s with
    remotes := tput s.remotes s.serial
      { ref := w.ref, gkey := w.gkey, node := w.node, rank := rank, purpose := p, pcs := w.pcs, seq := w.seq, lane := lane, acq := acq,
        request := { part := BitVec.ofNat 12 (s.context w.ctx).part, window := window, gen := gen, rank := s.rank,
                     offset := offset, size := size, op := op, tag := tag } },
    serial := s.serial + 1 }

/-! ### One access -/

/-- The use that an access makes of its page. -/
def AccOp.use : AccOp → PageUse
  | .load => .load
  | _ => .store

/-- Perform one global access (R261): translate it, then act at its home. -/
def performAccess (s : State) (w : Who) (m : MemFields) (result : Option Nat) (a : Access) : State × Done :=
  match translate s (some w.ref.core) w.ctx a.va a.op.use with
  | (s, .error .pageNotPresent) => (s, .held)
  | (s, .error e) => (s, .failed e)
  | (s, .ok l) =>
    match regionOf l.pa with
    | .memory _ =>
      match a.op with
      | .load =>
        if s.poisonedAt l.pa a.size then (s, .failed .eccUncorrected)
        else
          let (s, v) := loadMem s w m l a.size
          (s, .value (extend a.ext a.size (ofBytes v)))
      | .store => (storeMem s w m l (toBytes a.size a.data.toNat), .value 0)
      | .atomic op =>
        if s.poisonedAt l.pa a.size then (s, .failed .eccUncorrected)
        else
          let (s, old) := atomicMem s w m l op a.size a.data a.compare
          (s, .value old)
    | .remote rank window offset =>
      match importGen s rank window with
      | none => (s, .failed .permission)
      | some gen =>
        let acq := m.order == .acquire || m.order == .acqRel
        match a.op with
        | .load => (sendRemote s w rank window offset a.size a.lane gen .read 0 acq (.load (result.getD 0) a), .remote)
        | .store =>
          (sendRemote s w rank window offset a.size a.lane gen (.write (toBytes a.size a.data.toNat)) 0 acq .store, .remote)
        | .atomic op =>
          (sendRemote s w rank window offset a.size a.lane gen (.atomic op a.data a.compare) 0 acq (.atomic result a), .remote)
    | _ => (s, .failed .permission)

/-- The outcome of one access of an instruction put into the state; a held one is left to the caller. -/
def settle (s : State) (w : Who) (result : Option Nat) (a : Access) (d : Done) : State :=
  match d with
  | .value v =>
    match result with
    | some id => s.modResult w.ref id (fun f => f.fill a.lane v)
    | none => s
  | .failed code =>
    let s := s.defer w code a.lane a.va 0 none
    match result with
    | some id => s.modResult w.ref id (fun f => f.dropLane a.lane)
    | none => s
  | .held | .remote => s

/-! ### The galley -/

/-- The virtual page of an address. -/
def pageOf (va : DWord) : Nat := va.toNat / 4096 % 2 ^ 45

/-- The pages that the galley has entries for, in the first 256 (R336, R339, R340). -/
def Core.placed (c : Core) : List GalleyEntry := c.galley.take 256

/-- The PAGE message of a page, as the placed entries of a core stand; none where the page has none (R340, R345). -/
def pageMessage (s : State) (core ctx page : Nat) : Option (List DWord) :=
  let mine := (s.core core).placed.filter (fun x => x.ctx == ctx && x.page == page && !x.go)
  mine.head?.map (fun e =>
    let region := match tget s.groups e.ref.gkey with
      | some g => g.region
      | none => 0
    let d1 : Nat := e.page * 4096 + (if mine.any (fun x => x.write) then 1 else 0) +
      (if mine.any (fun x => x.kind == .fetch) then 2 else 0)
    message (msgHeader 2 6 e.ctx { e.ref with slot := 0 } region) (BitVec.ofNat 64 d1)
      (BitVec.ofNat 64 (mine.length % 512)) 0 e.pcs.dword (s.nodeAddr e.node))

/-- Post one PAGE message for each context and page that has placed entries and no message outstanding (R340, R345). -/
def postPages (s : State) (core : Nat) : State :=
  (s.core core).placed.foldl (fun s e =>
    let c := s.core core
    if e.go || c.pages.contains (e.ctx, e.page) then s
    else
      match pageMessage s core e.ctx e.page with
      | none => s
      | some m => (s.post (dieOf core) m).setCore core { c with pages := c.pages ++ [(e.ctx, e.page)] }) s

/-- The galley entry of an instruction or a command at a page (R336); its number is given when it is placed. -/
def Who.entry (w : Who) (va : DWord) (kind : GalleyKind) (write : Bool) (lanes : LaneMask) : GalleyEntry :=
  { id := 0, ref := w.ref, node := w.node, wg := w.wg, ctx := w.ctx, page := pageOf va, va := va, kind := kind, write := write, go := false,
    lanes := lanes, pcs := w.pcs, seq := w.seq }

/-- Put entries into the galley of a core, in ascending page order (R339), and post their pages. -/
def galleyAdd (s : State) (core : Nat) (es : List GalleyEntry) : State :=
  let sorted := es.foldl (fun l e => (l.filter (fun x => decide (x.page ≤ e.page))) ++ e :: l.filter (fun x => decide (e.page < x.page))) []
  let sorted := (sorted.zipIdx).map (fun x => { x.1 with id := s.serial + x.2 })
  let s := { s with serial := s.serial + sorted.length }
  postPages (s.modCore core (fun c => { c with galley := c.galley ++ sorted })) core

/-- The group has an entry on this page that has not been replayed (R338). -/
def pageHeld (s : State) (core gkey page : Nat) : Bool :=
  (s.core core).galley.any (fun e => e.ref.gkey == gkey && e.page == page)

/-- The lanes of some accesses. -/
def lanesOf (l : List Access) : LaneMask := l.foldl (fun m a => m ||| BitVec.ofNat 96 (2 ^ a.lane)) 0

/-- Perform the accesses of one instruction in a given order, those that meet an absent page going to the galley: one
entry for each page (R261, R336, R338). -/
def performAll (s : State) (w : Who) (m : MemFields) (result : Option Nat) (l : List Access) : State :=
  let core := w.ref.core
  let (s, held) := l.foldl (fun (x : State × List Access) a =>
    if pageHeld x.1 core w.gkey (pageOf a.va) then (x.1, x.2 ++ [a])
    else
      match performAccess x.1 w m result a with
      | (s, .held) => (s, x.2 ++ [a])
      | (s, d) => (settle s w result a d, x.2)) (s, [])
  if held.isEmpty then s
  else
    let pages := held.foldl (fun (p : List Nat) a => if p.contains (pageOf a.va) then p else p ++ [pageOf a.va]) []
    galleyAdd s core (pages.map (fun p =>
      let mine := held.filter (fun a => pageOf a.va == p)
      w.entry ((mine.map (fun a => a.va)).headD 0) (.access mine m result) (mine.any (fun a => a.op != .load)) (lanesOf mine)))

/-- A free permutation: the order of same-location atomics of one instruction is not fixed (R262, R270). -/
def freeOrder (nonce salt : Nat) : List Access → List Access
  | [] => []
  | a :: l =>
    let rest := freeOrder nonce (salt + 1) l
    let k := Config.freeNat nonce salt % (rest.length + 1)
    rest.take k ++ a :: rest.drop k

/-- Of the lanes of a store that write one byte only the highest-numbered performs it (R262): each access with the bytes
it still writes, as accesses of one byte where a higher lane overlaps it. -/
def storeSplit : List Access → List Access
  | [] => []
  | a :: l =>
    let lo := a.va.toNat
    let cover := l.filter (fun b => decide (b.va.toNat < lo + a.size) && decide (lo < b.va.toNat + b.size))
    let rest := storeSplit l
    if cover.isEmpty then a :: rest
    else
      ((List.range a.size).filterMap (fun i =>
        if cover.any (fun b => decide (b.va.toNat ≤ lo + i) && decide (lo + i < b.va.toNat + b.size)) then none
        else some { a with va := a.va + BitVec.ofNat 64 i, size := 1, data := a.data >>> (8 * i) })) ++ rest

/-- Checks of a global access at issue (R260): the canonical form first, then alignment. -/
def globalCheck (l : List Access) : Option FaultCode :=
  if l.any (fun a => !canonical a.va) then some .permission
  else if l.any (fun a => a.va.toNat % a.size != 0) then some .align
  else none

/-! ### Waits at issue -/

/-- A release at this scope waits for remote accesses too (R258). -/
def scopeWide (sc : Scope) : Bool :=
  match sc with
  | .peer | .system => true
  | _ => false

/-- Some acknowledgement of the split is outstanding: a store, an atomic, a held one, and at a wide scope a remote one
(R246, R258, R261). -/
def acksOut (s : State) (r : SplitRef) (sc : Scope) : Bool :=
  s.acks.any (fun e => e.2.ref == r) ||
  scopeWide sc && s.remotes.any (fun e => e.2.ref == r && (match e.2.purpose with
    | .store => true
    | .atomic _ _ => true
    | _ => false)) ||
  (s.core r.core).galley.any (fun e => e.of r && e.write)

/-- A galley entry that a value returns from: a load, a returning atomic, a unit's reads. -/
def GalleyEntry.returns (e : GalleyEntry) : Bool :=
  match e.kind with
  | .access _ _ result => result.isSome
  | .reads _ _ | .ray _ => true
  | .fetch | .descriptor | .command _ | .render _ => false

/-- Some load or returning atomic of the split has not returned (R271). -/
def loadsOut (s : State) (r : SplitRef) : Bool :=
  (match s.split r with
   | some sp => !sp.inflight.isEmpty
   | none => false) || (s.core r.core).galley.any (fun e => e.of r && e.returns)

/-- The split has a WINDOW_REVOKED to take: a release at a wide scope that waited for the store raises it first (R258). -/
def revoked (s : State) (r : SplitRef) : Bool :=
  match s.split r with
  | some sp => sp.deferred.any (fun d => d.code == .windowRevoked && d.cmd.isNone)
  | none => false

/-- An acquire of the split is still held in the galley or at a peer: no later access is performed before it (R232,
R261). -/
def acquireHeld (s : State) (r : SplitRef) : Bool :=
  s.remotes.any (fun e => e.2.ref == r && e.2.acq) ||
  (s.core r.core).galley.any (fun e => e.ref == r && (match e.kind with
    | .access _ m _ => m.order == .acquire || m.order == .acqRel
    | _ => false))

/-- What a release waits for (R232, R246, R258, R261): acknowledgements, accesses held in the galley, and at a wide scope
those at a peer, and the fault of one that a peer turned away, which its split takes first. -/
def releaseWaits (s : State) (r : SplitRef) (sc : Scope) : Bool :=
  acksOut s r sc || galleyHas s r || scopeWide sc && (s.remotes.any (fun e => e.2.ref == r && e.2.purpose.access) || revoked s r)

/-- A load overlaps a store of its core that is not acknowledged (R246). -/
def loadOverlaps (s : State) (w : Who) (l : List Access) : Bool :=
  !s.acks.isEmpty && l.any (fun a =>
    match (translate s (some w.ref.core) w.ctx a.va .load).2 with
    | .ok f => s.acks.any (fun e => e.2.ref.core == w.ref.core && !e.2.remote && decide (e.2.pa < f.pa + a.size) &&
        decide (f.pa < e.2.pa + e.2.size))
    | .error _ => false)

/-- Why a global memory instruction must wait at issue, if it must (R232, R246, R339). -/
def memoryStall (s : State) (w : Who) (m : MemFields) (l : List Access) : Option Stall :=
  if decide (256 ≤ (s.core w.ref.core).galley.length) then some .galley
  else if (m.order == .release || m.order == .acqRel) && releaseWaits s w.ref m.scope then some .acks
  else if acquireHeld s w.ref then some .loads
  else if loadOverlaps s w (l.filter (fun a => a.op == .load)) then some .overlap
  else none

/-! ### Scratchpad -/

/-- A range overlaps a recorded destination (R242). -/
def scoreboardBlocks (s : State) (core wg lo hi : Nat) : Bool :=
  (s.core core).scoreboard.any (fun e => e.wg == wg && decide (e.lo < hi) && decide (lo < e.hi))

/-- A range overlaps an active barrier word (R253). -/
def touchesObject (w : Workgroup) (lo hi : Nat) : Bool := w.objects.any (fun o => decide (lo < o + 8) && decide (o < hi))

/-- Checks of a scratchpad access at issue (R209, R253, R260): alignment, range, and for a write the barrier words. -/
def scratchCheck (w : Workgroup) (write : Bool) (l : List Access) : Option FaultCode :=
  if l.any (fun a => a.va.toNat % a.size != 0) then some .align
  else if l.any (fun a => decide (w.size < a.va.toNat + a.size)) then some .scratchRange
  else if write && l.any (fun a => touchesObject w a.va.toNat (a.va.toNat + a.size)) then some .barrierObjectWrite
  else none

/-- Bytes stored in a workgroup's scratchpad by a split, or by copy command `cmd`: while matrix commands of its core are in
flight, what stood there is kept, since they may still read it (R298). -/
def scratchPut (s : State) (wg : Nat) (w : Workgroup) (cmd : Option Nat) (a : Nat) (b : List Byte) : Workgroup :=
  { w with
    scratch := w.scratch.writeBytes a b,
    overwritten :=
      if (s.core (wg / 64)).matrix.isEmpty then []
      else w.overwritten ++ ((w.scratch.readBytes a b.length).zipIdx).map (fun x => ⟨a + x.2, x.1, s.serial, cmd⟩) }

/-- Perform one scratchpad access (R209, R231). -/
def scratchAccess (s : State) (wg : Nat) (a : Access) : State × DWord :=
  match tget s.wgs wg with
  | none => (s, 0)
  | some w =>
    let old := ofBytes (w.scratch.readBytes a.va.toNat a.size)
    match a.op with
    | .load => (s, extend a.ext a.size old)
    | .store => (s.setWg wg (scratchPut s wg w none a.va.toNat (toBytes a.size a.data.toNat)), 0)
    | .atomic op =>
      let new := atomicNew op a.size (BitVec.ofNat 64 old) a.data a.compare
      (s.setWg wg (scratchPut s wg w none a.va.toNat (toBytes a.size new.toNat)), BitVec.ofNat 64 old)

/-- Perform the scratchpad accesses of one instruction in a given order. -/
def scratchAll (s : State) (w : Who) (result : Option Nat) (l : List Access) : State :=
  l.foldl (fun s a =>
    let (s, v) := scratchAccess s w.wg a
    settle s w result a (.value v)) s

end Sys2Proof.Machine
end

