-- ==== Sys2Proof/Machine/Park.lean ====
section
/-! DEFINITION. Park points (R44 to R47) and what follows each: splits made and swapped, barriers (R272 to R276), replies
(R161 to R163), raster-ordered sections (R374), threads handed to the composing unit (R50, R146, R390). -/

namespace Sys2Proof.Machine

/-! ### Barrier objects (R274) -/

/-- The word of a barrier object. -/
def objectWord (w : Workgroup) (off : Nat) : Nat := ofBytes (w.scratch.readBytes off 8)

def objectCount (x : Nat) : Nat := bitsAt x 0 16
def objectArrived (x : Nat) : Nat := bitsAt x 16 16
def objectPhase (x : Nat) : Nat := bitsAt x 32 16

/-- The word of COUNT, ARRIVED, PHASE and ACTIVE (R274). -/
def objectOf (count arrived phase : Nat) (active : Bool) : Nat :=
  count % 65536 + arrived % 65536 * 2 ^ 16 + phase % 65536 * 2 ^ 32 + (if active then 2 ^ 63 else 0)

/-- Store the word of a barrier object. -/
def putObject (s : State) (wg : Nat) (w : Workgroup) (off x : Nat) : Workgroup := scratchPut s wg w none off (toBytes 8 x)

/-! ### The save area (R347 to R349) -/

/-- The save-table entry of a context; 0 where none is written. -/
def State.saveEntry (s : State) (ctx : Nat) : SaveEntry := (tget s.saveTable ctx).getD ⟨0, 0, 0⟩

/-- Physical address of a unit of a context's save area. -/
def unitBase (s : State) (ctx unit : Nat) : Nat := (s.saveEntry ctx).base + 65536 * unit

/-- The reply slot of a group (R349). -/
def replySlot (s : State) (ctx region : Nat) : Nat := unitBase s ctx region + 0x40

/-- Dword k of a group's reply slot, read at system scope under WKEY (R164, R348). -/
def replyDword (s : State) (core ctx region k : Nat) : State × DWord :=
  let (s, b) := homeRead s (some core) (s.context ctx).wkey (replySlot s ctx region + 8 * k) 8
  (s, BitVec.ofNat 64 (ofBytes b))

/-- The barrier-object record of R275. -/
def arrivalBytes (a : Option (Nat × Nat)) : List Byte :=
  match a with
  | some (off, phase) => toBytes 4 off ++ toBytes 2 phase ++ [1]
  | none => List.replicate 7 0

/-- Words, low byte first. -/
def wordBytes (l : List Word) : List Byte := l.flatMap (fun w => toBytes 4 w.toNat)

/-- A deferral entry (R36, R349). -/
def deferralBytes (d : Deferral) : List Byte :=
  wordBytes d.s.toList ++ wordBytes [d.pcs.spc, d.pcs.lpc, d.join.spc, d.join.lpc] ++ toBytes 12 d.lanes.toNat ++
    toBytes 12 d.mask.toNat ++ [d.fpstat.setWidth 8, d.ustat.setWidth 8, d.rptidx, BitVec.ofNat 8 d.slot,
      if d.swapped then 1 else 0] ++ arrivalBytes d.arrival

/-- Bytes made up to a length. -/
def padTo (n : Nat) (b : List Byte) : List Byte := b ++ List.replicate (n - b.length) 0

/-- A deferral entry as its bytes give it (R36); the split point's record of written registers is none of them. -/
def deferralRead (d : Deferral) (b : List Byte) : Deferral :=
  let num := fun (i n : Nat) => ofBytes ((b.drop i).take n)
  let word := fun (i : Nat) => BitVec.ofNat 32 (num i 4)
  { d with s := Vector.ofFn (fun i : Fin 64 => word (4 * i.val)), pcs := { spc := word 256, lpc := word 260 },
           join := { spc := word 264, lpc := word 268 }, lanes := BitVec.ofNat 96 (num 272 12), mask := BitVec.ofNat 96 (num 284 12),
           fpstat := BitVec.ofNat 5 (num 296 1), ustat := BitVec.ofNat 2 (num 297 1), rptidx := BitVec.ofNat 8 (num 298 1),
           slot := num 299 1, swapped := num 300 1 % 2 == 1,
           arrival := if num 307 1 % 2 = 1 then some (num 301 4, num 305 2) else none }

/-- The physical address of deferral entry `k`, the oldest being entry 0 (R349). -/
def deferralAt (s : State) (g : Group) (k : Nat) : Nat := unitBase s (s.nodeCtx g.node) g.region + 0x900 + 320 * k

/-- The entries of a group as its region holds them now, read under WKEY with no place in the memory model, as plain requests at the L2
(R36, R219, R349): a store of
software into the live stack reaches the group. An entry in no memory is as the group holds it. Log entry 59. -/
def loadDeferrals (s : State) (gkey : Nat) : State :=
  match tget s.groups gkey with
  | none => s
  | some g =>
    if g.deferrals.isEmpty then s
    else
      let key := (s.context (s.nodeCtx g.node)).wkey
      let s' := (List.range g.deferrals.length).foldl (fun s k =>
        if isMemory (deferralAt s g k) then plainRequests s (deferralAt s g k) 320 key (s.nodeCtx g.node) else s) s
      s'.setGroup gkey { g with deferrals := (g.deferrals.reverse.zipIdx.map (fun e =>
        let pa := deferralAt s g e.2
        if isMemory pa then deferralRead e.1 (s.physRead key pa 320) else e.1)).reverse }

/-- The deferral stack of a resident group is live in its region (R36, R349): its entries, the oldest at the lowest address, are written
there under WKEY, with no place in the memory model, as plain requests at the L2 (R219, R227). Log entry 59. -/
def keepDeferrals (s : State) (gkey : Nat) : State :=
  match tget s.groups gkey with
  | none => s
  | some g =>
    let ctx := s.nodeCtx g.node
    (g.deferrals.reverse.zipIdx).foldl (fun s d =>
      let pa := deferralAt s g d.2
      if isMemory pa then
        plainRequests (s.physWrite (s.context ctx).wkey pa (padTo 320 (deferralBytes d.1))) pa 320 (s.context ctx).wkey ctx
      else s) s

/-! ### Lanes of a pixel node (R371, R374) -/

/-- The raster position of a lane comes before another's (R371). -/
def rasterBefore (a b : PixInfo) : Bool := decide (a.seq < b.seq) || (a.seq == b.seq && decide (a.slot < b.slot))

/-- Lanes of a group that have not ended: those of its splits and of its deferral entries. -/
def Group.liveLanes (g : Group) : LaneMask :=
  g.deferrals.foldl (fun m d => m ||| d.lanes) (g.splits.foldl (fun m e => m ||| e.2.lanes) 0)

/-- Covered lanes of a node on one pixel at an earlier raster position, in another wave, that have not ended; `released`
says which resident groups do not count. -/
def earlierLanes (s : State) (node : Nat) (wave : Nat) (p : PixInfo) (released : Group → Bool) : Bool :=
  let hit := fun (q : PixInfo) => q.covered && q.px == p.px && q.py == p.py && rasterBefore q p
  s.groups.any (fun (e : Nat × Group) => e.2.wave != wave && e.2.node == node && !released e.2 &&
    e.2.pix.any (fun l => e.2.liveLanes.getLsbD l.1 && hit l.2)) ||
  s.saved.any (fun e => e.2.wg.node == node && e.2.groups.any (fun g => g.wave != wave && !released g &&
    g.pix.any (fun l => g.liveLanes.getLsbD l.1 && hit l.2))) ||
  s.threads.any (fun t => t.node == node && (match t.pix with
    | some q => hit q
    | none => false)) ||
  (match tget s.nodes node with
   | some n => n.waves.any (fun w => w.pix.any (fun l => hit l.2))
   | none => false)

/-- A write to a pixel by another wave, at an earlier raster position, has not been performed; a tile applied counts until it is
written back (R371, R374). -/
def earlierWrites (s : State) (node wave : Nat) (p : PixInfo) : Bool :=
  s.rtWrites.any (fun e => e.2.node == node && e.2.wave != wave && e.2.px == p.px && e.2.py == p.py &&
    rasterBefore { seq := e.2.seq, slot := e.2.slot, px := e.2.px, py := e.2.py, covered := true } p) ||
  s.rtTiles.any (fun e => e.2.node == node && e.2.waves.any (fun v => v != wave) &&
    e.2.tile == p.py / 8 * ((e.2.image.width + 1 + 7) / 8) + p.px / 8)

/-- The wave may enter its section: every covered lane of an earlier position on a held pixel has ended, its writes performed,
or belongs to a wave that has executed vorde (R374). -/
def sectionFree (s : State) (g : Group) : Bool :=
  g.pix.all (fun l => !l.2.covered ||
    (!earlierLanes s g.node g.wave l.2 (fun h => h.ordered) && !earlierWrites s g.node g.wave l.2))

/-- A wave's render-target writes have all been performed (R371). -/
def targetsDone (s : State) (wave : Nat) : Bool :=
  !s.rtWrites.any (fun e => e.2.wave == wave) && !s.rtTiles.any (fun e => e.2.waves.contains wave)

/-! ### Threads (R50, R146, R390) -/

/-- The continuation stack of a lane. -/
def Group.stackOf (g : Group) (lane : Nat) : List (BitVec 16) := g.conts.getD lane []

/-- The first fault of a scallx on the values of its operands (R50, R146). DESIGN CHOICE (log entry 77): where one lane has a full stack
and another an index past the table, DIV_STACK_OVERFLOW is raised; the spec orders the two nowhere. -/
def dissolveFault (n : Node) (g : Group) (mask : LaneMask) (ret : Bool) (va : VReg) : Option FaultCode :=
  let lanes := (List.range 96).filter (fun i => mask.getLsbD i)
  let word := fun (i : Nat) => (va.data.toArray.getD i 0).toNat
  if ret then none
  else if lanes.any (fun i => decide (4 ≤ (g.stackOf i).length)) then some .divStackOverflow
  else if lanes.any (fun i => decide (n.desc.calllen ≤ word i % 65536) || decide (n.desc.calllen ≤ word i / 65536)) then
    some .permission
  else none

/-- The lanes of a split's set end (R41), its own deferral entry as its region holds it. -/
def exitSplit (s : State) (r : SplitRef) : State := keepDeferrals (endSplit (loadDeferrals s r.gkey) r) r.gkey

/-- Hand the active lanes to the composing unit, as of the cycle in which the scallx issued (R50, R51, R365, R390); the split then
ends, with the lanes outside its exec mask (R52). -/
def dissolveLanes (s : State) (r : SplitRef) (g : Group) (sp : Split) (ret : Bool) (va vb : VReg) (n : Nat) : State :=
  let mask := execMask s sp
  let lanes := (List.range 96).filter (fun i => mask.getLsbD i && !(g.pix.any (fun p => p.1 == i && !p.2.covered)))
  let threads := lanes.filterMap (fun i =>
    let a := (va.data.toArray.getD i 0).toNat
    let key := (vb.data.toArray.getD i 0).toNat % 65536
    let st := g.stackOf i
    let regs := (List.range n).map (fun k =>
      let v := g.regs.getD k VReg.zero
      (v.data.toArray.getD i 0, v.tag))
    let mk := fun (idx : Nat) (stack : List (BitVec 16)) =>
      ({ node := g.node, index := idx, key := key, cycle := sp.lastIssue, order := g.order, lane := i, regs := regs, stack := stack,
         mailbox := (g.mailbox.filter (fun m => m.1 == i)).map (fun m => m.2), ticket := g.rayTickets.getD i 0,
         pix := (g.pix.find? (fun p => p.1 == i)).map (fun p => p.2) } : Thread)
    if ret then
      match st with
      | [] => none
      | t :: rest => some (mk t.toNat rest)
    else some (mk (a % 65536) (BitVec.ofNat 16 (a / 65536) :: st)))
  let g := { g with mailbox := g.mailbox.filter (fun m => !mask.getLsbD m.1) }
  exitSplit { s.setGroup r.gkey g with threads := s.threads ++ threads } r

/-- What follows the park of an sjoin (R37), the deferral entries being as the group's region holds them. -/
def joinNow (s : State) (r : SplitRef) : State :=
  let s := loadDeferrals s r.gkey
  match tget s.groups r.gkey with
  | none => s
  | some g =>
    match tget g.splits r.slot with
    | none => s
    | some sp =>
      match joinFind g r.slot sp with
      | .entry _ => keepDeferrals (doJoin s r g sp) r.gkey
      | _ => doJoin s r g sp

/-! ### What follows a park (R44) -/

/-- Act on a split whose park is complete. A condition that is not met leaves it waiting, not ready (R57). An sbwait whose record is older
than a free and a new activation of its word compares the phases as they stand, the rule being silent: the model's choice (log entry
83). -/
def doAfter (s : State) (r : SplitRef) (k : After) : State :=
  match tget s.groups r.gkey with
  | none => s
  | some g =>
    match tget g.splits r.slot with
    | none => s
    | some sp =>
      let wait := s.setSplit r { sp with wait := .await k }
      match k with
      | .proceed => s.setSplit r { sp with wait := .ready }
      | .brvSplit slot target join t f => splitCreate s r g sp slot target join t f
      | .brvDefer target join t f => keepDeferrals (deferralPush s r g sp target join t f) r.gkey
      | .join => joinNow s r
      | .exit => exitSplit s r
      | .trap code => faultScalar s r sp 1 .softwareTrap (code.setWidth 64)
      | .dissolve ret va vb n =>
        match tget s.nodes g.node with
        | none => s
        | some nd =>
          match dissolveFault nd g (execMask s sp) ret (readV s g va) with
          | some c => faultScalar s r sp 2 c
          | none => dissolveLanes s r g sp ret (readV s g va) (readV s g vb) n
      | .reply pair ticket =>
        let len : Word := if ticket.isSome then 1 else 2
        let mine : Bool := match g.upcall with
          | some u => u.ticket == ticket.getD 0 && !(ticket == some 0)
          | none => false
        if mine then
          if (match g.upcall with
              | some u => u.present
              | none => false) then
            -- a load, which waits for an acquire before it (R232)
            if acquireHeld s r then wait else
            let (s, v) := replyDword s r.core (s.nodeCtx g.node) g.region 0
            s.setGroup r.gkey
              { g with upcall := none,
                       splits := tput g.splits r.slot
                         { writeD sp (Fin.ofNat 32 pair) v with spc := sp.spc + len, wait := .ready } }
          else wait
        else
          s.setSplit r { writeD sp (Fin.ofNat 32 pair) (BitVec.allOnes 64) with spc := sp.spc + len, wait := .ready }
      | .barrier => wait
      | .object off phase =>
        let done : Bool := match phase, tget s.wgs g.wg with
          | some p, some w => !(w.objects.contains off) || objectPhase (objectWord w off) != p
          | _, _ => true
        if done then s.setSplit r { sp with spc := sp.spc + 1, wait := .ready } else wait
      | .order =>
        -- a further vordb of the wave has no effect beyond its park
        if g.sect.isSome && sp.wait != .await .order then s.setSplit r { sp with wait := .ready }
        else
          -- a split that waits goes on waiting where another's vorde has ended the section meanwhile
          let g' := if sp.wait == .await .order then g else { g with sect := some s.cyc }
          let s := s.setGroup r.gkey { g' with splits := tput g'.splits r.slot { sp with wait := .await k } }
          if sectionFree s g' then
            -- it synchronises with the vordes and ends that it waited for
            (s.setSplit r { sp with wait := .ready }).raiseLt (some r.core)
              (match tget s.nodes g.node with
               | some n => tsMax n.released n.time
               | none => s.floor)
          else s

/-- A park whose results are in: a deferred fault is taken here (R261); a failed node's split ends (R328); a split of a
stopped group or of a workgroup being pre-empted is held (R333, R352); otherwise it acts. -/
def finishPark (s : State) (r : SplitRef) (k : After) : State :=
  match tget s.groups r.gkey with
  | none => s
  | some g =>
    match tget g.splits r.slot with
    | none => s
    | some sp =>
      let failed : Bool := match tget s.nodes g.node with
        | some n => n.state == .failed
        | none => true
      if failed then killSplit s r
      else
        match firstDeferred sp.deferred with
        | some d => takeDeferred s r { sp with wait := .held k } d k []
        | none => if groupHeld s g then s.setSplit r { sp with wait := .held k } else doAfter s r k

/-- A PARK POINT (R44): the latch is emptied, the counts of R46 begin again, and the split waits until its results are
in. -/
def parkThen (s : State) (r : SplitRef) (g : Group) (sp : Split) (k : After) : State :=
  let sp := { sp with laneCount := 0, scalarCount := 0, wait := .park k }
  let g := emptyLatch { g with splits := tput g.splits r.slot sp }
  let s := s.setGroup r.gkey g
  if resultsIn s r g sp then finishPark s r k else s

/-- Splits waiting on a barrier object whose phase has completed leave it (R275). -/
def wakeObject (s : State) (wg off : Nat) : State :=
  match tget s.wgs wg with
  | none => s
  | some w =>
    w.groups.foldl (fun s k =>
      match tget s.groups k with
      | none => s
      | some g =>
        if groupHeld s g then s else g.splits.foldl (fun s e =>
          match e.2.wait with
          | .await (.object o p) => if o = off then doAfter s (refOf k e.1) (.object o p) else s
          | _ => s) s) s

end Sys2Proof.Machine
end

