-- ==== Sys2Proof/Machine/Operands.lean ====
section
/-! DEFINITION. What runs an instruction word: the split it acts for, how a scalar word retires, stalls and faults; and
the integer operations of both streams on W-bit numbers (R136, R137). -/

namespace Sys2Proof.Machine

/-! ### Integer operations (R136, R137) -/

/-- Signed quotient rounded toward zero; all ones for a zero divisor (R137). -/
def divS {w : Nat} (a b : BitVec w) : BitVec w := if b = 0 then BitVec.allOnes w else BitVec.ofInt w (a.toInt.tdiv b.toInt)

/-- Unsigned quotient; all ones for a zero divisor (R137). -/
def divU {w : Nat} (a b : BitVec w) : BitVec w := if b = 0 then BitVec.allOnes w else BitVec.ofNat w (a.toNat / b.toNat)

/-- Signed remainder; the dividend for a zero divisor (R137). -/
def remS {w : Nat} (a b : BitVec w) : BitVec w := if b = 0 then a else BitVec.ofInt w (a.toInt.tmod b.toInt)

/-- Unsigned remainder; the dividend for a zero divisor (R137). -/
def remU {w : Nat} (a b : BitVec w) : BitVec w := if b = 0 then a else BitVec.ofNat w (a.toNat % b.toNat)

/-- High half of the signed product. -/
def mulHS {w : Nat} (a b : BitVec w) : BitVec w := BitVec.ofInt w (a.toInt * b.toInt / (2 ^ w : Nat))

/-- High half of the unsigned product. -/
def mulHU {w : Nat} (a b : BitVec w) : BitVec w := BitVec.ofNat w (a.toNat * b.toNat / 2 ^ w)

def minS {w : Nat} (a b : BitVec w) : BitVec w := if a.toInt ≤ b.toInt then a else b
def maxS {w : Nat} (a b : BitVec w) : BitVec w := if a.toInt ≤ b.toInt then b else a
def minU {w : Nat} (a b : BitVec w) : BitVec w := if a.toNat ≤ b.toNat then a else b
def maxU {w : Nat} (a b : BitVec w) : BitVec w := if a.toNat ≤ b.toNat then b else a

/-- Shifts by an amount taken modulo the width (R136). -/
def shl {w : Nat} (a b : BitVec w) : BitVec w := a <<< (b.toNat % w)
def shr {w : Nat} (a b : BitVec w) : BitVec w := a >>> (b.toNat % w)
def sar {w : Nat} (a b : BitVec w) : BitVec w := a.sshiftRight (b.toNat % w)

/-- Leading zero bits; W for zero. -/
def clz {w : Nat} (a : BitVec w) : BitVec w := BitVec.ofNat w (if a = 0 then w else w - 1 - a.toNat.log2)

/-- Trailing zero bits; W for zero. -/
def ctz {w : Nat} (a : BitVec w) : BitVec w := BitVec.ofNat w (((List.range w).find? (fun i => a.getLsbD i)).getD w)

/-- One bits. -/
def popcount {w : Nat} (a : BitVec w) : BitVec w :=
  BitVec.ofNat w ((List.range w).foldl (fun n i => if a.getLsbD i then n + 1 else n) 0)

/-- Bit i moved to bit W − 1 − i. -/
def bitrev {w : Nat} (a : BitVec w) : BitVec w :=
  BitVec.ofNat w ((List.range w).foldl (fun n i => if a.getLsbD i then n + 2 ^ (w - 1 - i) else n) 0)

/-- A condition on two W-bit values (R67, R140). -/
def condHolds {w : Nat} (c : Cond) (a b : BitVec w) : Bool :=
  match c with
  | .eq => a == b
  | .ne => a != b
  | .lt => decide (a.toInt < b.toInt)
  | .ge => decide (b.toInt ≤ a.toInt)
  | .ltu => decide (a.toNat < b.toNat)
  | .geu => decide (b.toNat ≤ a.toNat)

/-! ### Running a word -/

/-- The split whose word this step runs, with its group. -/
def State.running (s : State) : Option (SplitRef × Group × Split) :=
  match s.cur with
  | none => none
  | some r =>
    match tget s.groups r.gkey with
    | none => none
    | some g =>
      match tget g.splits r.slot with
      | none => none
      | some sp => some (r, g, sp)

/-- The next step reads other free values. -/
def bump (s : State) : State := { s with fresh := s.fresh + 1 }

/-- Run a word of the current split: a part that is off, or no split, has nothing to run (R24). -/
def onSplit (s : State) (f : SplitRef → Group → Split → State) : Host.Outcome State Fault Refusal :=
  if s.power then
    match s.running with
    | some (r, g, sp) => .next (bump (f r g sp))
    | none => .fault .noSplit
  else .fault .poweredOff

/-- Perform a step of the part that no word encodes. -/
def onPart (s : State) (f : State → State) : Host.Outcome State Fault Refusal :=
  if s.power then .next (bump (f s)) else .fault .poweredOff

/-- A scalar word of `len` words has issued (R46, R57, R132, R148): the scalar PC moves past it. -/
def retire (s : State) (sp : Split) (len : Nat) : Split :=
  { sp with spc := sp.spc + BitVec.ofNat 32 len, scalarCount := sp.scalarCount + 1, armed := none, lastIssue := s.cyc,
            wait := .ready }

/-- A scalar word has issued and moved both PCs. -/
def retireTo (s : State) (sp : Split) (spc lpc : Word) : Split :=
  { sp with spc := spc, lpc := lpc, scalarCount := sp.scalarCount + 1, armed := none, lastIssue := s.cyc, wait := .ready }

/-- The word waits at issue, not ready, and issues again later (R57). -/
def stallAt (s : State) (r : SplitRef) (sp : Split) (c : Stall) : State := s.setSplit r { sp with wait := .stall c }

/-- The node of a group. -/
def State.nodeOf (s : State) (g : Group) : Option Node := tget s.nodes g.node

/-- A flag of the node's descriptor. -/
def nodeFlag (s : State) (g : Group) (f : Desc → Bool) : Bool :=
  match tget s.nodes g.node with
  | some n => f n.desc
  | none => false

/-- The context of a group's node is marked privileged (R92). -/
def privileged (s : State) (g : Group) : Bool := (s.context (s.nodeCtx g.node)).priv

/-- The issuing agent of a memory instruction. -/
def whoOf (s : State) (r : SplitRef) (g : Group) (sp : Split) : Who :=
  { ref := r, wg := g.wg, node := g.node, ctx := s.nodeCtx g.node, pcs := sp.pcs, seq := s.serial }

/-- A result joins those in flight, numbered by the serial, with the lanes whose values have still to come. -/
def withResult (sp : Split) (id : Nat) (ws : List RegWrite) (awaited : List Nat) : Split :=
  { sp with inflight := sp.inflight ++ [{ id := id, writes := ws, awaited := awaited }] }

/-- The writes that fill a scalar register when a result returns (R132, R264); s0 takes nothing. -/
def scalarDest (n : SReg) : List RegWrite := [.scalar n.val 0 false]

/-- The writes that fill a pair; of s[0:1] only s1 is written (R132). -/
def pairDest (p : Pair) : List RegWrite := [.scalar (2 * p.val) 0 false, .scalar (2 * p.val + 1) 0 false]

/-- A register named as the destination of a result in flight (R39). -/
def markDest (sp : Split) (ws : List RegWrite) : Split :=
  ws.foldl (fun sp w =>
    match w with
    | .scalar n _ _ => markWritten sp n
    | _ => sp) sp

end Sys2Proof.Machine
end

