-- ==== Sys2Proof/Machine/Diverge.lean ====
section
/-! DEFINITION. The meanings of park points, divergence and joins, of slrep and slissue, of traps, upcalls and thread calls
(R34 to R52, R144 to R150, R160 to R163). -/

namespace Sys2Proof.Machine

/-- A scalar word parks its split with its PCs where they are given (R44): the word has issued. -/
def parkScalar (s : State) (r : SplitRef) (g : Group) (sp : Split) (k : After) : State :=
  parkThen s r g { sp with armed := none, lastIssue := s.cyc } k

/-- `spark` (R145): results only. -/
def execSpark (s : State) : Host.Outcome State Fault Refusal :=
  onSplit s (fun r g sp => parkScalar s r g { sp with spc := sp.spc + 1 } .proceed)

/-- `sexit` (R41, R145). -/
def execSexit (s : State) : Host.Outcome State Fault Refusal := onSplit s (fun r g sp => parkScalar s r g sp .exit)

/-- `sjoin` (R37, R145). -/
def execSjoin (s : State) : Host.Outcome State Fault Refusal := onSplit s (fun r g sp => parkScalar s r g sp .join)

/-- `strap`: a park, then SOFTWARE_TRAP (R160). -/
def execStrap (code : Byte) (s : State) : Host.Outcome State Fault Refusal :=
  onSplit s (fun r g sp => parkScalar s r g sp (.trap code))

/-- A pair of signed 12-bit offsets added to the PCs of the word (R72, R144). -/
def offsetPair (sp : Split) (so lo : BitVec 12) : PcPair :=
  { spc := sp.spc + so.signExtend 32, lpc := sp.lpc + lo.signExtend 32 }

/-- `sbrv`: one read of vcN over the active lanes fixes the case and the sets T and F (R34, R144). -/
def execSbrv (n : Fin 4) (jso jlo tso tlo : BitVec 12) (s : State) : Host.Outcome State Fault Refusal :=
  onSplit s (fun r g sp =>
    let active := execMask s sp
    let bits := readVc s g n
    let t := active &&& bits
    let f := active &&& ~~~bits
    let target := offsetPair sp tso tlo
    let join := offsetPair sp jso jlo
    let past := { sp with spc := sp.spc + 2 }
    if t = 0 then s.setSplit r (retire s sp 2)
    else if f = 0 then s.setSplit r (retireTo s sp target.spc target.lpc)
    else
      match g.freeSlot with
      | some k =>
        if g.joinsUsed < 3 then parkScalar s r g past (.brvSplit k target join t f)
        else if g.deferralsUsed < 16 then parkScalar s r g past (.brvDefer target join t f)
        else faultScalar s r sp 2 .divStackOverflow
      | none =>
        if g.deferralsUsed < 16 then parkScalar s r g past (.brvDefer target join t f)
        else faultScalar s r sp 2 .divStackOverflow)

/-! ### Lane runs (R147 to R150) -/

/-- A run has issued its last word: the scalar stream goes on, after the park of PK if it has one (R74, R147). -/
def endRun (s : State) (r : SplitRef) (g : Group) (sp : Split) (pk : Bool) : State :=
  let sp := { sp with run := none, spc := sp.spc + 1, wait := .ready }
  if pk then parkThen s r g sp .proceed else s.setGroup r.gkey { g with splits := tput g.splits r.slot sp }

/-- `slrep` (R148). -/
def execSlrep (count : Fin 256) (stride : Fin 64) (s : State) : Host.Outcome State Fault Refusal :=
  onSplit s (fun r _ sp => s.setSplit r { retire s sp 1 with armed := some (count.val, stride.val) })

/-- `slissue`: a run of count + 1 words begins at the lane PC; each word, and each repetition of an armed first word, is a
step of its own (R27, R147). A word armed with count 0 is passed over (R149). -/
def execSlissue (count : Fin 256) (pk : Bool) (s : State) : Host.Outcome State Fault Refusal :=
  onSplit s (fun r g sp =>
    let sp' := { sp with armed := none, scalarCount := sp.scalarCount + 1, lastIssue := s.cyc, rptidx := 0, wait := .ready }
    match sp.armed with
    | some (0, _) =>
      let sp' := { sp' with lpc := sp.lpc + 1 }
      if count.val = 0 then endRun s r g sp' pk
      else s.setSplit r { sp' with run := some { left := count.val, pk := pk, rep := none } }
    | rep => s.setSplit r { sp' with run := some { left := count.val + 1, pk := pk, rep := rep } })

/-! ### Thread calls (R50 to R52, R146) -/

/-- The checks of a scallx at issue, then its park (R50, R146). -/
def threadCall (s : State) (ret : Bool) (va vb n : Nat) : Host.Outcome State Fault Refusal :=
  onSplit s (fun r g sp =>
    if !nodeFlag s g (fun d => d.free) then faultScalar s r sp 2 .illegalOpcode
    else if g.regs.length < n || decide (g.regs.length ≤ vb) || (!ret && decide (g.regs.length ≤ va)) then
      faultScalar s r sp 2 .regRange
    else parkScalar s r g sp (.dissolve ret va vb n))

/-- `scallx` (R50, R146). -/
def execScallx (va vb : Fin 128) (n : Fin 33) (s : State) : Host.Outcome State Fault Refusal :=
  threadCall s false va.val vb.val n.val

/-- `scallx.ret` (R50, R146). -/
def execScallxRet (vb : Fin 128) (n : Fin 33) (s : State) : Host.Outcome State Fault Refusal :=
  threadCall s true 0 vb.val n.val

/-! ### Upcalls (R161 to R163, R343 to R346) -/

/-- The UPCALL message of a split (R345). -/
def upcallMessage (s : State) (r : SplitRef) (g : Group) (sp : Split) (svc : BitVec 16) (ticket : Word) (wait : Bool)
    (a b : DWord) : List DWord :=
  message (msgHeader 1 0 (s.nodeCtx g.node) r g.region)
    (BitVec.ofNat 64 (svc.toNat + ticket.toNat * 2 ^ 16 + (if wait then 2 ^ 48 else 0))) a b sp.pcs.dword (s.nodeAddr g.node)

/-- A split of the group parks for the reply of an upcall: it is to be delivered to it (R162). -/
def Group.collects (g : Group) (u : Upcall) : Bool :=
  g.splits.any (fun e =>
    match e.2.wait with
    | .park (.reply _ t) => t.getD 0 == u.ticket
    | .held (.reply _ t) => t.getD 0 == u.ticket
    | .await (.reply _ t) => t.getD 0 == u.ticket
    | _ => false)

/-- Why a supcall waits at issue (R161, R163), if it does: for the outstanding reply, which a split that parks for it takes first, and
for more than 64 free slots with no message waiting for one (R343). -/
def upcallStall (s : State) (r : SplitRef) (g : Group) : Option Stall :=
  if (match g.upcall with
      | some u => !u.present || g.collects u
      | none => false) then some .upcall
  else if (s.sluice (dieOf r.core)).free ≤ 64 || !(s.sluice (dieOf r.core)).waiting.isEmpty then some .sluice
  else if releaseWaits s r .system then some .acks
  else none

/-- The checks of both forms of supcall, then what the form does with its message posted (R161, R163). -/
def upcall (s : State) (svc : BitVec 16) (f : SplitRef → Group → Split → State) : Host.Outcome State Fault Refusal :=
  onSplit s (fun r g sp =>
    if (s.saveEntry (s.nodeCtx g.node)).svclim ≤ svc.toNat then faultScalar s r sp 2 .upcallDenied
    else
      match upcallStall s r g with
      | some c => stallAt s r sp c
      | none => f r g sp)

/-- The ticket after a ticket: 0 is skipped (R161). -/
def nextTicket (t : Word) : Word := if t + 1 = 0 then 1 else t + 1

/-- `supcall`, the ticket form (R161). -/
def execSupcall (sd : SReg) (pa pb : Pair) (svc : BitVec 16) (s : State) : Host.Outcome State Fault Refusal :=
  upcall s svc (fun r g sp =>
    let m := upcallMessage s r g sp svc g.ticket false (readD s sp pa) (readD s sp pb)
    let g := { g with upcall := some { ticket := g.ticket, present := false }, ticket := nextTicket g.ticket,
                      splits := tput g.splits r.slot (retire s (writeS sp sd g.ticket) 2) }
    (s.setGroup r.gkey g).post (dieOf r.core) m)

/-- `supcall.wait` (R161): ticket 0. -/
def execSupcallWait (pa pb : Pair) (svc : BitVec 16) (s : State) : Host.Outcome State Fault Refusal :=
  upcall s svc (fun r g sp =>
    let m := upcallMessage s r g sp svc 0 true (readD s sp pa) (readD s sp pb)
    let g := { g with upcall := some { ticket := 0, present := false } }
    parkScalar (s.post (dieOf r.core) m) r g sp (.reply pa.val none))

/-- `supwait` (R162). -/
def execSupwait (pa : Pair) (s : State) : Host.Outcome State Fault Refusal :=
  onSplit s (fun r g sp =>
    parkScalar s r g sp (.reply pa.val (some (readS s sp (Fin.ofNat 64 (2 * pa.val))))))

end Sys2Proof.Machine
end

