-- ==== Sys2Proof/Machine/Barrier.lean ====
section
/-! DEFINITION. The meanings of the workgroup barrier, the barrier objects and the fences (R271 to R276). -/

namespace Sys2Proof.Machine

/-- `sbar`: a release at the arrival, then a park point at which the split waits (R254, R272). -/
def execSbar (s : State) : Host.Outcome State Fault Refusal :=
  onSplit s (fun r g sp =>
    if releaseWaits s r .workgroup then stallAt s r sp .acks else parkScalar s r g sp .barrier)

/-- Some split of the workgroup waits for a phase of the object that has not completed (R276). -/
def waitsOn (s : State) (w : Workgroup) (off : Nat) : Bool :=
  let here := fun (k : After) =>
    match k with
    | .object o (some p) => o == off && objectPhase (objectWord w off) == p
    | _ => false
  w.groups.any (fun k =>
    match tget s.groups k with
    | none => false
    | some g => g.splits.any (fun e =>
        match e.2.wait with
        | .park a => here a
        | .held a => here a
        | .await a => here a
        | _ => false))

/-- The fault of a barrier-object instruction before it reaches the word: alignment, then range (R276). -/
def objectFault (w : Workgroup) (off : Nat) : Option FaultCode :=
  if off % 8 != 0 then some .align else if w.size < off + 8 then some .scratchRange else none

/-- A barrier-object instruction at its word, once the checks, the scoreboard and an acquire that is still held let it reach the word
(R232, R242, R261, R275, R276): `f` gives its effect on the workgroup, or none for BARRIER_OBJECT_WRITE. -/
def objectOp (s : State) (sa : SReg) (release : Bool) (ok : Workgroup → Nat → Bool)
    (f : SplitRef → Group → Split → Workgroup → Nat → State) : Host.Outcome State Fault Refusal :=
  onSplit s (fun r g sp =>
    match tget s.wgs g.wg with
    | none => s.setSplit r (retire s sp 1)
    | some w =>
      let off := (readS s sp sa).toNat
      match objectFault w off with
      | some c => faultScalar s r sp 1 c
      | none =>
        if scoreboardBlocks s r.core g.wg off (off + 8) then stallAt s r sp (.scoreboard off (off + 8))
        else if release && releaseWaits s r .workgroup then stallAt s r sp .acks
        else if acquireHeld s r then stallAt s r sp .loads
        else if ok w off then f r g sp w off
        else faultScalar s r sp 1 .barrierObjectWrite)

/-- `sbinit` (R274 to R276). -/
def execSbinit (sa sb : SReg) (s : State) : Host.Outcome State Fault Refusal :=
  objectOp s sa false (fun w off => !w.objects.contains off && decide (w.objects.length < 16))
    (fun r g sp w off =>
      let w := putObject s g.wg { w with objects := off :: w.objects } off (objectOf (max ((readS s sp sb).toNat % 65536) 1) 0 0 true)
      (s.setSplit r (retire s sp 1)).setWg g.wg w)

/-- The word after an arrival (R275). -/
def arrive (x : Nat) : Nat :=
  if objectArrived x + 1 = objectCount x then objectOf (objectCount x) 0 (objectPhase x + 1) true
  else objectOf (objectCount x) (objectArrived x + 1) (objectPhase x) true

/-- What a split waits for when a phase of an object has completed: one that parks for it there has nothing more to wait for, whatever
becomes of the object (R275). -/
def passPhase (off p : Nat) (w : Wait) : Wait :=
  let pass := fun (a : After) =>
    match a with
    | .object o (some q) => if o = off ∧ q = p then After.object o none else a
    | a => a
  match w with
  | .park a => .park (pass a)
  | .held a => .held (pass a)
  | .await a => .await (pass a)
  | w => w

/-- A phase of an object of the workgroup completes for every split that waits for it. -/
def completePhase (s : State) (w : Workgroup) (off p : Nat) : State :=
  w.groups.foldl (fun t k => t.modGroup k (fun g =>
    { g with splits := g.splits.map (fun e => (e.1, { e.2 with wait := passPhase off p e.2.wait })) })) s

/-- `sbarrive`: a release at workgroup scope; the phase it completes lets the waiting splits go (R275). -/
def execSbarrive (sa : SReg) (s : State) : Host.Outcome State Fault Refusal :=
  objectOp s sa true (fun w off => w.objects.contains off)
    (fun r g sp w off =>
      let x := objectWord w off
      let s := s.setSplit r { retire s sp 1 with arrival := some (off, objectPhase x) }
      let s := if objectArrived x + 1 = objectCount x then completePhase s w off (objectPhase x) else s
      wakeObject (s.setWg g.wg (putObject s g.wg w off (arrive x))) g.wg off)

/-- `sbwait`: a park point; it waits for the phase that the split's record names (R275). -/
def execSbwait (sa : SReg) (s : State) : Host.Outcome State Fault Refusal :=
  objectOp s sa false (fun w off => w.objects.contains off)
    (fun r g sp _ off =>
      let phase := match sp.arrival with
        | some (o, p) => if o = off then some p else none
        | none => none
      parkScalar s r g sp (.object off phase))

/-- `sbfree`: the final state stays in the bytes, ACTIVE cleared (R274, R275). -/
def execSbfree (sa : SReg) (s : State) : Host.Outcome State Fault Refusal :=
  objectOp s sa false (fun w off => w.objects.contains off && !waitsOn s w off)
    (fun r g sp w off =>
      let x := objectWord w off
      let w := putObject s g.wg { w with objects := w.objects.filter (fun o => o != off) } off
        (objectOf (objectCount x) (objectArrived x) (objectPhase x) false)
      (s.setSplit r (retire s sp 1)).setWg g.wg w)

/-- Why a fence waits, if it does (R271). One with release orders every earlier access before later writes (R232), so it waits
for loads held in the galley too (R261). -/
def fenceStall (s : State) (r : SplitRef) (o : Order) (sc : Scope) : Option Stall :=
  match o with
  | .relaxed => none
  | .acquire => if loadsOut s r then some .loads else none
  | .release => if releaseWaits s r sc then some .acks else none
  | .acqRel => if releaseWaits s r sc || loadsOut s r then some .both else none

/-- `sfence` (R232, R271): no park point, no other effect in a part whose accesses are performed in program order
(log entry 3). -/
def execSfence (o : Order) (sc : Scope) (s : State) : Host.Outcome State Fault Refusal :=
  onSplit s (fun r _ sp =>
    match fenceStall s r o sc with
    | some c => stallAt s r sp c
    | none => s.setSplit r (retire s sp 1))

end Sys2Proof.Machine
end

