-- ==== Sys2Proof/Machine/LaneForm.lean ====
section
/-! DEFINITION. Which field values each instruction word admits: the fields of the lane opcodes (R171, R266, R377)
and the memory fields (R86, R263). The decoder and well-formedness both use it. -/

namespace Sys2Proof

def Scope.field : Scope → Nat
  | .group => 0 | .workgroup => 1 | .die => 2 | .device => 3 | .peer => 4 | .system => 5

def Order.field : Order → Nat
  | .relaxed => 0 | .acquire => 1 | .release => 2 | .acqRel => 3

/-- Scope numbering of R86; 6 and 7 are reserved. -/
def Scope.ofField? : Nat → Option Scope
  | 0 => some .group | 1 => some .workgroup | 2 => some .die | 3 => some .device | 4 => some .peer | 5 => some .system
  | _ => none

/-- Order numbering of R86. -/
def Order.ofField : Nat → Order
  | 0 => .relaxed | 1 => .acquire | 2 => .release | _ => .acqRel

/-- The memory fields of a w2 or literal word (R86): none when the scope or the class is reserved. -/
def memFieldsOf (l : Nat) : Option MemFields :=
  match Scope.ofField? (bitsAt l 24 3) with
  | none => none
  | some sc =>
    if h : bitsAt l 19 2 < 3 then
      some { code := Fin.ofNat 32 (bitsAt l 27 5), scope := sc, order := Order.ofField (bitsAt l 22 2),
             inv := bitsAt l 21 1 == 1, cls := ⟨bitsAt l 19 2, h⟩, off := BitVec.ofNat 19 l }
    else none

/-- The word of some memory fields (R86). -/
def MemFields.toWord (m : MemFields) : Nat :=
  m.code.val * 2 ^ 27 + m.scope.field * 2 ^ 24 + m.order.field * 2 ^ 22 + (if m.inv then 2 ^ 21 else 0)
    + m.cls.val * 2 ^ 19 + m.off.toNat

/-- What a memory form accepts in its fields (R263). -/
inductive MemKind where
  | load | store | atomic
deriving DecidableEq, Repr

/-- Order and invariant bit accepted by a global form (R263, R238). -/
def MemFields.globalOk (m : MemFields) (k : MemKind) : Bool :=
  match k with
  | .load => (m.order == .relaxed || m.order == .acquire) && (!m.inv || m.order == .relaxed)
  | .store => (m.order == .relaxed || m.order == .release) && !m.inv
  | .atomic => !m.inv

/-- The fields accepted by a scratchpad form (R263). -/
def MemFields.scratchOk (m : MemFields) (k : MemKind) : Bool :=
  m.globalOk k && !m.inv && m.code.val == 31 && m.cls.val == 0

/-- The register-field numbering of R77. -/
def Opnd.ofNat (x : Nat) : Opnd :=
  if x < 128 then .v (Fin.ofNat 128 x)
  else if x < 192 then .s (Fin.ofNat 64 (x - 128))
  else if x < 252 then .rsv (Fin.ofNat 60 (x - 192))
  else if x < 255 then .l (Fin.ofNat 3 (x - 252))
  else .lit

def Opnd.toNat : Opnd → Nat
  | .v n => n.val
  | .s n => 128 + n.val
  | .rsv n => 192 + n.val
  | .l n => 252 + n.val
  | .lit => 255

/-- What w2 holds in a lane word (R86): the literal when a field names it, memory fields, a level of detail, or
nothing. -/
inductive W2Use where
  | lit | mem (k : MemKind) (scratch : Bool) | lod | zero
deriving DecidableEq, Repr

/-- A source field: va, vb, vc. -/
def LaneWord.source (w : LaneWord) (k : Fin 3) : Opnd := if k = 0 then w.va else if k = 1 then w.vb else w.vc

/-- Which fields of a lane word an opcode uses (R171, R266, R377). `holds` is the mask of hold bits it may set; `sub`
and `mods` say which values are defined. -/
structure LaneShape where
  vd : Bool := false
  va : Bool := false
  vb : Bool := false
  vc : Bool := false
  holds : Nat := 0
  sub : Nat → Bool := fun x => x == 0
  mods : Nat → Bool := fun x => x == 0
  ovr : Bool := false
  rnd : Bool := false
  sat : Bool := false
  w2 : W2Use := .zero

/-- Any value of a four-bit field. -/
def anyNibble : Nat → Bool := fun _ => true

/-- Values below `n` of a four-bit field. -/
def nibbleBelow (n : Nat) : Nat → Bool := fun x => decide (x < n)

def shapeAlu2 : LaneShape :=
  { vd := true, va := true, vb := true, holds := 3, mods := anyNibble, ovr := true, rnd := true, sat := true, w2 := .lit }

def shapeBit1 : LaneShape := { vd := true, va := true, holds := 1, ovr := true, w2 := .lit }

def shapeBit2 : LaneShape := { shapeBit1 with vb := true, holds := 3 }

def shapeFloat1 : LaneShape := { shapeBit1 with mods := nibbleBelow 4 }

def shapeLoad (scratch : Bool) : LaneShape :=
  { vd := true, va := true, vb := true, sub := nibbleBelow 6, ovr := true, w2 := .mem .load scratch }

def shapeStore (scratch : Bool) : LaneShape :=
  { va := true, vb := true, vc := true, holds := 4, sub := fun x => x == 0 || x == 2 || x == 4 || x == 5,
    w2 := .mem .store scratch }

/-- The shape of each lane opcode; none for an unassigned opcode (R88). `scratch` is the S bit of an atomic. -/
def laneShape (op : Nat) (scratch : Bool) : Option LaneShape :=
  match op with
  | 0x01 | 0x02 | 0x03 => some shapeAlu2
  | 0x04 => some { shapeAlu2 with vc := true, holds := 7 }
  | 0x05 | 0x06 => some { shapeAlu2 with rnd := false, sat := false }
  | 0x07 | 0x08 => some { shapeBit1 with sat := true }
  | 0x09 => some { shapeAlu2 with vd := false, sub := nibbleBelow 8, mods := nibbleBelow 8, rnd := false, sat := false }
  | 0x0A => some { shapeBit2 with sub := nibbleBelow 4 }
  | 0x0B => some { shapeBit1 with sub := fun x => decide (x < 8) && x % 4 != 3, rnd := true, sat := true }
  | 0x10 | 0x11 | 0x12 => some shapeBit2
  | 0x13 => some shapeBit1
  | 0x14 | 0x15 | 0x16 | 0x17 => some shapeBit2
  | 0x18 | 0x19 | 0x1A => some shapeBit1
  | 0x1B => some { shapeBit2 with sub := nibbleBelow 2 }
  | 0x1C => some { shapeBit2 with vc := true, holds := 7 }
  | 0x20 => some shapeAlu2
  | 0x21 => some { shapeFloat1 with rnd := true, sat := true }
  | 0x22 | 0x23 | 0x24 | 0x25 | 0x26 | 0x27 => some { shapeFloat1 with sat := true }
  | 0x28 => some { shapeFloat1 with rnd := true }
  | 0x29 | 0x2A => some shapeFloat1
  | 0x2B => some { shapeAlu2 with vc := true, holds := 7 }
  | 0x2C => some { shapeAlu2 with mods := nibbleBelow 4 }
  | 0x30 => some { shapeAlu2 with sub := fun x => decide (1 ≤ x) && decide (x ≤ 10), mods := nibbleBelow 2 }
  | 0x31 => some { vd := true, va := true, holds := 1, sub := nibbleBelow 12, w2 := .lit }
  | 0x32 => some { vd := true, va := true, holds := 1, w2 := .lit }
  | 0x38 => some shapeBit1
  | 0x39 => some { shapeBit1 with sub := nibbleBelow 2 }
  | 0x3A => some { vd := true, sub := nibbleBelow 3, w2 := .lit }
  | 0x3B => some { vd := true, sub := nibbleBelow 4, w2 := .lit }
  | 0x40 => some { vd := true, va := true, holds := 1, sub := nibbleBelow 6, w2 := .lit }
  | 0x41 | 0x42 => some { vd := true, va := true, vb := true, holds := 3, w2 := .lit }
  | 0x43 => some { vd := true, va := true, vb := true, holds := 3, sub := nibbleBelow 2, w2 := .lit }
  | 0x44 => some { shapeBit1 with sub := nibbleBelow 6, rnd := true, sat := true }
  | 0x45 => some { vd := true, sub := nibbleBelow 12, w2 := .lit }
  | 0x48 | 0x49 | 0x4A => some { sub := nibbleBelow 4, mods := anyNibble }
  | 0x4B | 0x4C => some { sub := nibbleBelow 4, mods := nibbleBelow 4 }
  | 0x50 => some { shapeBit1 with vd := false, sub := nibbleBelow 2 }
  | 0x51 => some { vd := true, sub := nibbleBelow 4, w2 := .lit }
  | 0x52 => some { sub := nibbleBelow 2 }
  | 0x60 => some (shapeLoad false)
  | 0x61 => some (shapeStore false)
  | 0x62 => some { vd := true, va := true, vb := true, vc := true, holds := 4, sub := nibbleBelow 11,
                   mods := nibbleBelow 4, w2 := .mem .atomic scratch }
  | 0x63 => some { va := true, vb := true, vc := true, holds := 4, sub := fun x => decide (x < 11) && x != 9,
                   mods := nibbleBelow 4, w2 := .mem .atomic scratch }
  | 0x64 => some (shapeLoad true)
  | 0x65 => some (shapeStore true)
  | 0x70 => some { vd := true, va := true, vb := true, vc := true, sub := nibbleBelow 3, w2 := .lod }
  | 0x71 => some { vd := true, va := true, vb := true, vc := true, sub := anyNibble }
  | 0x72 => some { vd := true, va := true, vb := true }
  | 0x73 => some { va := true, vb := true, vc := true, w2 := .mem .store false }
  | 0x74 => some { vd := true, va := true, vb := true }
  | 0x75 => some { vd := true, sub := nibbleBelow 4 }
  | 0x76 => some { va := true, vc := true, mods := anyNibble }
  | 0x77 => some { va := true, vb := true, vc := true, w2 := .mem .store false }
  | 0x78 | 0x79 => some {}
  | 0x7A => some { vd := true, va := true, holds := 1, sub := nibbleBelow 3 }
  | _ => none

/-- Whether a graphics opcode's va must name an even scalar pair (R377). -/
def needsScalarPair (op : Nat) : Bool :=
  (decide (0x70 ≤ op) && decide (op ≤ 0x74)) || op == 0x76

/-- A vector, latch or literal operand where a scalar pair is required (R377). -/
def Opnd.notScalar : Opnd → Bool
  | .v _ | .l _ | .lit => true
  | .s _ | .rsv _ => false

/-- A vector or latch operand (R191). -/
def Opnd.vectorOrLatch : Opnd → Bool
  | .v _ | .l _ => true
  | _ => false

/-- The field values that the row of an opcode forbids beyond its shape, all of them RESERVED_FIELD (R119, R189, R191,
R197, R259, R267, R374, R377, R384). -/
def laneSpecial (op : Nat) (w : LaneWord) : Bool :=
  match op with
  | 0x39 => decide (w.va ≠ .lit) || (w.sub.val == 1 && !(decide (8 ≤ w.ovr.val) && decide (w.ovr.val ≤ 10)))
  | 0x42 => w.vb.vectorOrLatch
  | 0x43 => if w.sub.val = 0 then w.vb.vectorOrLatch else decide (w.vb ≠ .v 0) || bitsAt w.hold.val 1 1 == 1
  | 0x52 => w.pred.isSome
  | 0x60 | 0x64 =>
    (op == 0x60 && decide (w.va = .lit)) ||
    !(w.ovr.val == 0 ||
      (w.sub.val == 4 && ((decide (1 ≤ w.ovr.val) && decide (w.ovr.val ≤ 7)) || w.ovr.val == 11)) ||
      (w.sub.val == 5 && decide (8 ≤ w.ovr.val) && decide (w.ovr.val ≤ 10)))
  | 0x61 | 0x77 => decide (w.va = .lit)
  | 0x62 | 0x63 => bitsAt w.mods.val 1 1 == 0 && decide (w.va = .lit)
  | 0x73 =>
    match memFieldsOf w.w2.toNat with
    | some m => !(m.order == .release && decide (2 ≤ m.scope.field) && m.off == 0)
    | none => true
  | 0x70 => w.sub.val != 2 && w.w2 != 0
  | 0x78 | 0x79 => w.pred.isSome || w.p
  | _ => false

/-- A register field that names the literal in a used field of the shape: vd too, though it then raises REG_RANGE (R77, R171). -/
def laneNamesLiteral (sh : LaneShape) (w : LaneWord) : Bool :=
  (sh.vd && decide (w.vd = .lit)) || (sh.va && decide (w.va = .lit)) || (sh.vb && decide (w.vb = .lit)) || (sh.vc && decide (w.vc = .lit))

/-- w2 as the shape wants it (R86, R263, R377). In a graphics form, whose shape gives w2 no literal, a field that names 255 reads a literal
of zero: a non-zero w2 is RESERVED_FIELD (log entry 50). -/
def laneW2Ok (sh : LaneShape) (w : LaneWord) : Bool :=
  match sh.w2 with
  | .lit => laneNamesLiteral sh w || w.w2 == 0
  | .lod => true
  | .zero => w.w2 == 0
  | .mem k scratch =>
    match memFieldsOf w.w2.toNat with
    | some m => if scratch then m.scratchOk k else m.globalOk k
    | none => false

/-- A lane word of an assigned opcode breaks none of the static RESERVED_FIELD rules (R77, R83, R90 item 2). -/
def laneLegal (op : Nat) (w : LaneWord) : Bool :=
  match laneShape op (bitsAt w.mods.val 1 1 == 1) with
  | none => false
  | some sh =>
    (sh.vd || decide (w.vd = .v 0)) && (sh.va || decide (w.va = .v 0)) && (sh.vb || decide (w.vb = .v 0)) &&
    (sh.vc || decide (w.vc = .v 0)) && decide (w.hold.val &&& sh.holds = w.hold.val) && sh.sub w.sub.val &&
    sh.mods w.mods.val && (if sh.ovr then decide (w.ovr.val ≤ 12) else w.ovr.val == 0) && (sh.rnd || w.rnd.val == 0) &&
    (sh.sat || !w.sat) && laneW2Ok sh w && !(needsScalarPair op && w.va.notScalar) && !laneSpecial op w

end Sys2Proof
end

