-- ==== Sys2Proof/Machine/Lane.lean ====
section
/-! DEFINITION. What every lane word shares: repetitions, register ranges, tags, the predicate, the latch, the order of the
faults (R77 to R90), the write of a result (R165, R166), and the advance of the run (R147 to R149). -/

namespace Sys2Proof.Machine

/-! ### Tags -/

/-- The tag of a number (R95). -/
def Tag.ofNumber : Nat → Option Tag
  | 0 => some .raw | 1 => some .i32 | 2 => some .n32 | 3 => some .f32 | 4 => some .i16x2 | 5 => some .n16x2
  | 6 => some .f16x2 | 7 => some .bf16x2 | 8 => some .i64 | 9 => some .n64 | 10 => some .f64 | 11 => some .narrow
  | 12 => some .handle | _ => none

/-- The number of a tag (R95). -/
def tagNumber : Tag → Nat
  | .raw => 0 | .i32 => 1 | .n32 => 2 | .f32 => 3 | .i16x2 => 4 | .n16x2 => 5 | .f16x2 => 6 | .bf16x2 => 7 | .i64 => 8
  | .n64 => 9 | .f64 => 10 | .narrow => 11 | .handle => 12

/-- A 64-bit tag, held by a pair. -/
def tagWide (t : Tag) : Bool := decide (8 ≤ tagNumber t) && decide (tagNumber t ≤ 10)

/-- A packed tag: two 16-bit halves. -/
def tagPacked (t : Tag) : Bool := decide (4 ≤ tagNumber t) && decide (tagNumber t ≤ 7)

/-- A tag on which polymorphic instructions compute (R167). -/
def tagComputes (t : Tag) : Bool := decide (1 ≤ tagNumber t) && decide (tagNumber t ≤ 10)

/-- What the elements of a tag are. -/
inductive Kind where
  | int (signed : Bool) (w : Nat)
  | flt (f : FloatFmt)
deriving DecidableEq, Repr

/-- The elements of each tag; raw, narrow and handle count as 32 unsigned bits. -/
def tagKind : Tag → Kind
  | .i32 => .int true 32 | .n32 => .int false 32 | .f32 => .flt .f32 | .i16x2 => .int true 16 | .n16x2 => .int false 16
  | .f16x2 => .flt .f16 | .bf16x2 => .flt .bf16 | .i64 => .int true 64 | .n64 => .int false 64 | .f64 => .flt .f64
  | _ => .int false 32

/-! ### The context of one word -/

/-- A lane word as it issues: its fields with the repetition's stride, the exec-mask snapshot and the active lanes. -/
structure LaneCtx where
  s : State
  r : SplitRef
  g : Group
  sp : Split
  w : LaneWord
  raw : LaneWord                 -- the fields as encoded, with no stride
  snap : LaneMask
  act : LaneMask
  ahead : Bool := false          -- a later repetition, looked at before the first: it waits for nothing (R149)

/-- A register field advanced by a stride (R148); past v127 it is out of every range. -/
def shiftOpnd (o : Opnd) (d : Nat) : Opnd :=
  match o with
  | .v n => if h : n.val + d < 128 then .v ⟨n.val + d, h⟩ else .rsv 0
  | o => o

/-- The word of a repetition (R148). -/
def shiftWord (w : LaneWord) (d : Nat) : LaneWord :=
  { w with vd := shiftOpnd w.vd d, va := shiftOpnd w.va d, vb := shiftOpnd w.vb d, vc := shiftOpnd w.vc d }

/-- The run in progress; a word met with none counts as a run of its own. -/
def runOf (sp : Split) : Run := sp.run.getD { left := 1, pk := false, rep := none }

/-- Lanes that pass the predicate (R81). -/
def predMask (s : State) (g : Group) (p : Option (Bool × Fin 4)) : LaneMask :=
  match p with
  | none => BitVec.allOnes 96
  | some (neg, n) => if neg then ~~~readVc s g n else readVc s g n

/-- The context of a word that issues now. -/
def laneCtx (s : State) (r : SplitRef) (g : Group) (sp : Split) (w : LaneWord) : LaneCtx :=
  let d := match (runOf sp).rep with
    | some (_, stride) => sp.rptidx.toNat * stride
    | none => 0
  { s := s, r := r, g := g, sp := sp, w := shiftWord w d, raw := w, snap := execMask s sp,
    act := execMask s sp &&& predMask s g w.pred }

/-- A lane is active. -/
def LaneCtx.on (x : LaneCtx) (i : Nat) : Bool := x.act.getLsbD i

/-- The active lanes, ascending (R8). -/
def LaneCtx.lanes (x : LaneCtx) : List Nat := (List.range 96).filter x.on

/-- The format override (R85). -/
def LaneCtx.ov (x : LaneCtx) : Option Tag := if x.w.ovr.val = 0 then none else Tag.ofNumber x.w.ovr.val

/-! ### Sources -/

/-- A latch entry as this split reads it: raw zero when it is empty or another slot filled it (R80). -/
def LaneCtx.latch (x : LaneCtx) (k : Fin 3) : VReg :=
  match x.g.latch[k] with
  | some e => if e.slot = x.r.slot then { data := e.data, tag := e.tag } else VReg.zero
  | none => VReg.zero

/-- The tag of a typed source; none for a scalar register and the literal (R78). -/
def LaneCtx.tagOf (x : LaneCtx) (o : Opnd) : Option Tag :=
  match o with
  | .v n => some (readV x.s x.g n.val).tag
  | .l k => some (x.latch k).tag
  | .s _ | .rsv _ | .lit => none

/-- A 32-bit value spread to a 64-bit format (R78). -/
def spreadWide (f : Tag) (v : Word) : DWord :=
  match f with
  | .i64 => v.signExtend 64
  | .f64 => BitVec.ofNat 64 (fconvert .f64 .rne false (decodeFloat .f32 v.toNat)).bits
  | _ => v.setWidth 64

/-- The value of a source in each lane, read as a format: 64 bits for a wide one, else the 32-bit value (R77, R78). -/
def LaneCtx.src (x : LaneCtx) (o : Opnd) (f : Tag) : Nat → DWord :=
  match o with
  | .v n =>
    let a := (readV x.s x.g n.val).data.toArray
    if tagWide f then
      let b := (readV x.s x.g (n.val + 1)).data.toArray
      fun i => DWord.ofWords (b.getD i 0) (a.getD i 0)
    else fun i => (a.getD i 0).setWidth 64
  | .l k =>
    let a := (x.latch k).data.toArray
    fun i => (a.getD i 0).setWidth 64
  | .s n =>
    let v : DWord := if tagWide f then readD x.s x.sp (Fin.ofNat 32 (n.val / 2)) else (readS x.s x.sp n).setWidth 64
    fun _ => v
  | .lit =>
    let v : DWord := if tagWide f then spreadWide f x.w.w2 else x.w.w2.setWidth 64
    fun _ => v
  | .rsv _ => fun _ => 0

/-- A single-register source. -/
def LaneCtx.word (x : LaneCtx) (o : Opnd) : Nat → Word :=
  let f := x.src o .raw
  fun i => (f i).lo

/-! ### Range checks (R77, R168) -/

/-- A source field in range, as a pair when wide. -/
def srcInRange (allot : Nat) (o : Opnd) (wide : Bool) : Bool :=
  match o with
  | .v n => decide (n.val + (if wide then 1 else 0) < allot) && (!wide || n.val % 2 == 0)
  | .s n => !wide || n.val % 2 == 0
  | .l _ => !wide
  | .lit => true
  | .rsv _ => false

/-- A vd field in range, as a pair when wide. -/
def destInRange (allot : Nat) (o : Opnd) (wide : Bool) : Bool :=
  match o with
  | .v n => decide (n.val + (if wide then 1 else 0) < allot) && (!wide || n.val % 2 == 0)
  | _ => false

/-- What a lane instruction checks before its effect, in the order of R90, and what it does. -/
structure LaneSpec where
  /-- its source fields, and whether each is a pair -/
  srcs : LaneCtx → List (Opnd × Bool)
  /-- whether it writes vd, and as a pair -/
  dest : LaneCtx → Option Bool := fun _ => none
  /-- a RESERVED_FIELD rule that depends on the format -/
  reserved : LaneCtx → Bool := fun _ => false
  /-- a tag rule is broken -/
  mismatch : LaneCtx → Bool
  /-- its own faults -/
  own : LaneCtx → Option (FaultCode × DWord) := fun _ => none
  /-- the format in which va, vb and vc, fields 0 to 2, are held -/
  held : LaneCtx → Fin 3 → Tag
  /-- why it must wait at issue -/
  stall : LaneCtx → Option Stall := fun _ => none
  /-- its effect on the state, the group and the split -/
  run : LaneCtx → State × Group × Split

/-- The range check of a word under a further stride. -/
def rangeAt (p : LaneSpec) (x : LaneCtx) (d : Nat) : Bool :=
  (p.srcs x).all (fun e => srcInRange x.g.regs.length (shiftOpnd e.1 d) e.2) &&
  (match p.dest x with
   | some wide => destInRange x.g.regs.length (shiftOpnd x.w.vd d) wide
   | none => true)

/-- The range checks of every repetition, made before the first (R149). -/
def rangeOk (p : LaneSpec) (x : LaneCtx) : Bool :=
  match (runOf x.sp).rep with
  | some (count, stride) =>
    if x.sp.rptidx = 0 then (List.range count).all (fun j => rangeAt p x (j * stride)) else rangeAt p x 0
  | none => rangeAt p x 0

/-- A hold bit on a 64-bit source (R168). -/
def heldWide (p : LaneSpec) (x : LaneCtx) : Bool :=
  (bitsAt x.w.hold.val 0 1 == 1 && tagWide (p.held x 0)) ||
  (bitsAt x.w.hold.val 1 1 == 1 && tagWide (p.held x 1)) ||
  (bitsAt x.w.hold.val 2 1 == 1 && tagWide (p.held x 2))

/-- The first fault of a lane word at issue (R90). -/
def laneFault (p : LaneSpec) (x : LaneCtx) : Option (FaultCode × DWord) :=
  if p.reserved x then some (.reservedField, 0)
  else if !rangeOk p x then some (.regRange, 0)
  else if p.mismatch x || heldWide p x then some (.tagMismatch, 0)
  else p.own x

/-- The latch entries that the hold bits fill, read before any effect (R79). -/
def heldLatch (p : LaneSpec) (x : LaneCtx) (latch : Vector (Option LatchEntry) 3) : Vector (Option LatchEntry) 3 :=
  let entry := fun (k : Fin 3) =>
    let v := x.word (x.w.source k)
    some ({ data := Vector.ofFn (fun i : Fin 96 => v i.val), tag := p.held x k,
            slot := x.r.slot } : LatchEntry)
  let l := if bitsAt x.w.hold.val 0 1 = 1 then latch.set 0 (entry 0) else latch
  let l := if bitsAt x.w.hold.val 1 1 = 1 then l.set 1 (entry 1) else l
  if bitsAt x.w.hold.val 2 1 = 1 then l.set 2 (entry 2) else l

/-! ### Advance -/

/-- A lane fault at issue: the word has no effect, and the lane PC stays at it (R89). -/
def faultLane (s : State) (r : SplitRef) (sp : Split) (code : FaultCode) (addr : DWord) (lanes : LaneMask) : State :=
  takeFault (logEcc (s.setSplit r { sp with wait := .ready }) r.core code) r .lane { code := code, addr := addr, lanes := lanes, pcs := sp.pcs }

/-- A word, or one repetition of it, has issued (R46, R147, R148): the run advances; P and PK park (R74, R82). -/
def retireLane (s : State) (r : SplitRef) (g : Group) (sp : Split) (p : Bool) : State :=
  let run := runOf sp
  let sp := { sp with laneCount := sp.laneCount + 1, lastIssue := s.cyc, wait := .ready }
  let put := fun (sp : Split) => s.setGroup r.gkey { g with splits := tput g.splits r.slot sp }
  let again := match run.rep with
    | some (count, _) => decide (sp.rptidx.toNat + 1 < count)
    | none => false
  if again then put { sp with rptidx := sp.rptidx + 1, run := some run }
  else
    let sp := { sp with lpc := sp.lpc + 1, rptidx := 0 }
    if run.left ≤ 1 then endRun s r g sp (p || run.pk)
    else
      let sp := { sp with run := some { run with left := run.left - 1, rep := none } }
      if p then parkThen s r g sp .proceed else put sp

/-- The word as its next repetition would find the machine. -/
def LaneCtx.again (p : LaneSpec) (x : LaneCtx) : LaneCtx :=
  let (s, g, sp) := p.run x
  let sp := { sp with rptidx := x.sp.rptidx + 1 }
  let g := { g with latch := heldLatch p x g.latch, splits := tput g.splits x.r.slot sp }
  laneCtx (s.setGroup x.r.gkey g) x.r g sp x.raw

/-- The fault that one of the next `n` repetitions would raise, each seeing the results of those before it, and none waiting (R148,
R149; log entry 16). -/
def laterFault (p : LaneSpec) : Nat → LaneCtx → Option (FaultCode × DWord)
  | 0, _ => none
  | n + 1, x =>
    match laneFault p (x.again p) with
    | some f => some f
    | none => laterFault p n (x.again p)

/-- The first fault of a lane word, the checks of every repetition being made before the first (R89, R149). -/
def wordFault (p : LaneSpec) (x : LaneCtx) : Option (FaultCode × DWord) :=
  match laneFault p x with
  | some f => some f
  | none =>
    match (runOf x.sp).rep with
    | some (count, _) => if x.sp.rptidx = 0 then laterFault p (count - 1) x else none
    | none => none

/-- Run a lane word of the current split. -/
def runLane (p : LaneSpec) (w : LaneWord) (s : State) : Host.Outcome State Fault Refusal :=
  onSplit s (fun r g sp =>
    let x := laneCtx s r g sp w
    match wordFault p x with
    | some (c, a) => faultLane s r sp c a x.act
    | none =>
      match p.stall x with
      | some c => stallAt s r sp c
      | none =>
        let (s', g', sp') := p.run x
        retireLane s' r { g' with latch := heldLatch p x g'.latch } sp' w.p)

/-! ### Results -/

/-- One value and the flags it raises. -/
abbrev LaneValue := DWord × BitVec 5

/-- The split in a group whose registers the word has written: what it has in flight may be contested now (R45). -/
def LaneCtx.own (x : LaneCtx) (g : Group) : Split := (tget g.splits x.r.slot).getD x.sp

/-- Write the values of the active lanes to vd with a tag, flags to the split's fpstat (R118, R165, R166). -/
def LaneCtx.put (x : LaneCtx) (tag : Tag) (f : Nat → LaneValue) : State × Group × Split :=
  match x.w.vd with
  | .v n =>
    if x.snap = 0 then (x.s, x.g, x.sp)
    else
      let vals : Vector LaneValue 96 := Vector.ofFn (fun i : Fin 96 => if x.on i.val then f i.val else (0, 0))
      let g := writeV x.g n.val x.act (vals.map (fun v => v.1.lo)) tag
      let g := if tagWide tag then writeV g (n.val + 1) x.act (vals.map (fun v => v.1.hi)) tag else g
      (x.s, g, { x.own g with fpstat := vals.foldl (fun a v => a ||| v.2) x.sp.fpstat })
  | _ => (x.s, x.g, x.sp)

/-- Write bits of the active lanes to a condition register. -/
def LaneCtx.putCond (x : LaneCtx) (n : Fin 4) (flags : BitVec 5) (f : Nat → Bool) : State × Group × Split :=
  let g := writeVc x.g n x.act (maskOf (fun i => x.on i && f i))
  (x.s, g, { x.own g with fpstat := x.sp.fpstat ||| flags })

/-- The formats of the typed sources among some fields. -/
def LaneCtx.typed (x : LaneCtx) (os : List Opnd) : List Tag := os.filterMap x.tagOf

/-- Whether a source is read as a pair: by the override, by its own tag, or by the tag it takes (R77, R78). -/
def LaneCtx.wide (x : LaneCtx) (os : List Opnd) (o : Opnd) : Bool :=
  match x.ov with
  | some f => tagWide f
  | none =>
    match x.tagOf o with
    | some t => tagWide t
    | none => (x.typed os).any tagWide

/-- The format of a polymorphic operation (R85, R167); none where its tag rule is broken. -/
def LaneCtx.poly (x : LaneCtx) (os : List Opnd) : Option Tag :=
  match x.ov with
  | some f => if tagComputes f then some f else none
  | none =>
    match x.typed os with
    | [] => none
    | t :: l => if tagComputes t && l.all (fun u => u == t) then some t else none

/-- The format that an override or the sources' tags name is unpacked (R95, R175): with no override, no typed source is packed. -/
def LaneCtx.unpacked (x : LaneCtx) (os : List Opnd) : Bool :=
  match x.ov with
  | some f => !tagPacked f
  | none => !(x.typed os).isEmpty && (x.typed os).all (fun t => !tagPacked t)

/-- A format, or raw where there is none. -/
def fmtOr (f : Option Tag) : Tag := f.getD .raw

/-- The format is an integer one. -/
def tagIsInt (t : Tag) : Bool :=
  tagComputes t && (match tagKind t with
    | .int _ _ => true
    | .flt _ => false)

/-- A non-zero rounding field on an integer format, which is RESERVED_FIELD (R170). -/
def LaneCtx.roundsInt (x : LaneCtx) (os : List Opnd) : Bool :=
  match x.poly os with
  | some f => tagIsInt f && x.w.rnd.val != 0
  | none => false

/-! ### Elements of packed formats -/

/-- Apply an operation to the element, or to the two halves, of a value (R172). -/
def lift1 (f : Tag) (op : Nat → Nat × BitVec 5) (a : DWord) : LaneValue :=
  if tagPacked f then
    let x := op (a.toNat % 65536)
    let y := op (a.toNat / 65536 % 65536)
    (BitVec.ofNat 64 (x.1 + y.1 * 65536), x.2 ||| y.2)
  else
    let x := op a.toNat
    (BitVec.ofNat 64 x.1, x.2)

/-- The same with two operands. -/
def lift2 (f : Tag) (op : Nat → Nat → Nat × BitVec 5) (a b : DWord) : LaneValue :=
  if tagPacked f then
    let x := op (a.toNat % 65536) (b.toNat % 65536)
    let y := op (a.toNat / 65536 % 65536) (b.toNat / 65536 % 65536)
    (BitVec.ofNat 64 (x.1 + y.1 * 65536), x.2 ||| y.2)
  else
    let x := op a.toNat b.toNat
    (BitVec.ofNat 64 x.1, x.2)

/-- The same with three operands. -/
def lift3 (f : Tag) (op : Nat → Nat → Nat → Nat × BitVec 5) (a b c : DWord) : LaneValue :=
  if tagPacked f then
    let x := op (a.toNat % 65536) (b.toNat % 65536) (c.toNat % 65536)
    let y := op (a.toNat / 65536 % 65536) (b.toNat / 65536 % 65536) (c.toNat / 65536 % 65536)
    (BitVec.ofNat 64 (x.1 + y.1 * 65536), x.2 ||| y.2)
  else
    let x := op a.toNat b.toNat c.toNat
    (BitVec.ofNat 64 x.1, x.2)

/-- An integer element as a number. -/
def elemInt (signed : Bool) (w x : Nat) : Int :=
  let x := x % 2 ^ w
  if signed && decide (2 ^ (w - 1) ≤ x) then (x : Int) - (2 ^ w : Nat) else x

/-- The bits of a number in an integer format: wrapped, or clamped with saturate (R170). -/
def intBits (signed : Bool) (w : Nat) (sat : Bool) (n : Int) : Nat :=
  if sat then
    let lo : Int := if signed then -((2 ^ (w - 1) : Nat) : Int) else 0
    let hi : Int := if signed then ((2 ^ (w - 1) : Nat) : Int) - 1 else ((2 ^ w : Nat) : Int) - 1
    ((if n < lo then lo else if hi < n then hi else n) % (2 ^ w : Nat)).toNat
  else (n % (2 ^ w : Nat)).toNat

end Sys2Proof.Machine
end

