-- ==== Sys2Proof/Machine/Poly.lean ====
section
/-! DEFINITION. The meanings of the polymorphic lane instructions, opcodes 0x01 to 0x0B (R167, R172 to R177). -/

namespace Sys2Proof.Machine

/-! ### Elements -/

/-- The rounding mode of a word (R85). -/
def LaneCtx.mode (x : LaneCtx) : Rounding := Rounding.ofField x.w.rnd.val

/-- Operand modifiers on one element: absolute value, then negation (R84, R172). `m` holds neg in bit 0, abs in bit 1. -/
def modify (k : Kind) (m x : Nat) : Nat :=
  match k with
  | .flt f =>
    let top := 2 ^ (f.width - 1)
    let x := if bitsAt m 1 1 = 1 then x % top else x
    if bitsAt m 0 1 = 1 then (if x < top then x + top else x - top) else x
  | .int _ w =>
    let n := elemInt true w x
    let n := if bitsAt m 1 1 = 1 then (n.natAbs : Int) else n
    intBits true w false (if bitsAt m 0 1 = 1 then -n else n)

/-- The modifiers of va and of vb. -/
def LaneCtx.modA (x : LaneCtx) : Nat := x.w.mods.val % 4
def LaneCtx.modB (x : LaneCtx) : Nat := x.w.mods.val / 4

/-- A float result as element bits and flags. -/
def ofResult (r : FloatResult) : Nat × BitVec 5 := (r.bits, r.flags)

/-- x + y (R170, R172). -/
def addElem (k : Kind) (mode : Rounding) (sat : Bool) (x y : Nat) : Nat × BitVec 5 :=
  match k with
  | .flt f => ofResult (fadd f mode sat (decodeFloat f x) (decodeFloat f y))
  | .int sg w => (intBits sg w sat (elemInt sg w x + elemInt sg w y), 0)

/-- x − y. -/
def subElem (k : Kind) (mode : Rounding) (sat : Bool) (x y : Nat) : Nat × BitVec 5 :=
  match k with
  | .flt f => ofResult (fadd f mode sat (decodeFloat f x) (decodeFloat f y).negate)
  | .int sg w => (intBits sg w sat (elemInt sg w x - elemInt sg w y), 0)

/-- x × y. -/
def mulElem (k : Kind) (mode : Rounding) (sat : Bool) (x y : Nat) : Nat × BitVec 5 :=
  match k with
  | .flt f => ofResult (fmul f mode sat (decodeFloat f x) (decodeFloat f y))
  | .int sg w => (intBits sg w sat (elemInt sg w x * elemInt sg w y), 0)

/-- x × y + z, fused. -/
def madElem (k : Kind) (mode : Rounding) (sat : Bool) (x y z : Nat) : Nat × BitVec 5 :=
  match k with
  | .flt f => ofResult (fmad f mode sat (decodeFloat f x) (decodeFloat f y) (decodeFloat f z))
  | .int sg w => (intBits sg w sat (elemInt sg w x * elemInt sg w y + elemInt sg w z), 0)

/-- The order of R173: −0 below +0. -/
def orderLess (a b : Num) : Bool :=
  let c := compareNum a b
  decide (c < 0) || (c == 0 && a.isNeg && !b.isNeg)

/-- The lesser or the greater of two elements (R173). -/
def minMaxElem (k : Kind) (greater : Bool) (x y : Nat) : Nat × BitVec 5 :=
  match k with
  | .flt f =>
    let a := decodeFloat f x
    let b := decodeFloat f y
    let nv : BitVec 5 := if a.signals || b.signals then flagNV else 0
    if a.isNan && b.isNan then (f.nan, nv)
    else if a.isNan then (y, nv)
    else if b.isNan then (x, nv)
    else (if (if greater then orderLess a b else orderLess b a) then y else x, 0)
  | .int sg w =>
    let a := elemInt sg w x
    let b := elemInt sg w y
    (if (if greater then decide (a < b) else decide (b < a)) then y else x, 0)

/-- |x| or −x (R174). -/
def signElem (k : Kind) (negate sat : Bool) (x : Nat) : Nat × BitVec 5 :=
  match k with
  | .flt f =>
    match decodeFloat f x with
    | .nan s => (f.nan, if s then flagNV else 0)
    | _ => (modify k (if negate then 1 else 2) x, 0)
  | .int true w =>
    let n := elemInt true w x
    (intBits true w sat (if negate then -n else (n.natAbs : Int)), 0)
  | .int false w => (if negate then intBits false w sat (-(elemInt false w x)) else x, 0)

/-- A condition of R84 on two elements, with the NV of R175. -/
def condElem (k : Kind) (cond x y : Nat) : Bool × BitVec 5 :=
  let pick := fun (c : Int) =>
    match cond with
    | 0 => c == 0
    | 1 => c != 0
    | 2 => decide (c < 0)
    | 3 => decide (c ≤ 0)
    | 4 => decide (0 < c)
    | 5 => decide (0 ≤ c)
    | 6 => true
    | _ => false
  match k with
  | .flt f =>
    let a := decodeFloat f x
    let b := decodeFloat f y
    if a.isNan || b.isNan then
      let ordered := decide (2 ≤ cond) && decide (cond ≤ 5)
      (cond == 1 || cond == 7, if ordered || a.signals || b.signals then flagNV else 0)
    else (pick (compareNum a b), 0)
  | .int sg w => (pick (elemInt sg w x - elemInt sg w y), 0)

/-! ### Polymorphic words -/

/-- An n format. -/
def tagUnsigned (t : Tag) : Bool :=
  match tagKind t with
  | .int false _ => true
  | _ => false

/-- The checks of a polymorphic word over some source fields (R167, R168, R170, R172): `modified` when the modifiers act on
va and vb, `writes` when it has a destination. -/
def polySpec (os : LaneCtx → List Opnd) (modified writes : Bool) (reserved : LaneCtx → Bool) (mismatch : LaneCtx → Tag → Bool)
    (run : LaneCtx → Tag → State × Group × Split) : LaneSpec :=
  { srcs := fun x => (os x).map (fun o => (o, x.wide (os x) o)),
    dest := fun x => if writes then some (tagWide (fmtOr (x.poly (os x)))) else none,
    reserved := fun x => x.roundsInt (os x) || reserved x,
    mismatch := fun x => match x.poly (os x) with
      | some f => (modified && x.w.mods.val != 0 && tagUnsigned f) || mismatch x f
      | none => true,
    held := fun x _ => fmtOr (x.poly (os x)),
    run := fun x => run x (fmtOr (x.poly (os x))) }

def noReserve : LaneCtx → Bool := fun _ => false
def noRule : LaneCtx → Tag → Bool := fun _ _ => false

/-- A polymorphic word of two sources with modifiers (R172, R173). -/
def poly2 (op : Kind → Rounding → Bool → Nat → Nat → Nat × BitVec 5) : LaneSpec :=
  polySpec (fun x => [x.w.va, x.w.vb]) true true noReserve noRule (fun x f =>
    let a := x.src x.w.va f
    let b := x.src x.w.vb f
    let k := tagKind f
    x.put f (fun i => lift2 f (fun p q => op k x.mode x.w.sat (modify k x.modA p) (modify k x.modB q)) (a i) (b i)))

/-- `vadd` (R172). What it checks, and its effect. -/
def specVadd : LaneSpec := poly2 addElem

/-- `vadd` (R172). -/
def execVadd (w : LaneWord) (s : State) : Host.Outcome State Fault Refusal := runLane specVadd w s

/-- `vsub` (R172). What it checks, and its effect. -/
def specVsub : LaneSpec := poly2 subElem

/-- `vsub` (R172). -/
def execVsub (w : LaneWord) (s : State) : Host.Outcome State Fault Refusal := runLane specVsub w s

/-- `vmul` (R172). What it checks, and its effect. -/
def specVmul : LaneSpec := poly2 mulElem

/-- `vmul` (R172). -/
def execVmul (w : LaneWord) (s : State) : Host.Outcome State Fault Refusal := runLane specVmul w s

/-- `vmad`: one rounding (R172). What it checks, and its effect. -/
def specVmad : LaneSpec :=
  polySpec (fun x => [x.w.va, x.w.vb, x.w.vc]) true true noReserve noRule (fun x f =>
    let a := x.src x.w.va f
    let b := x.src x.w.vb f
    let c := x.src x.w.vc f
    let k := tagKind f
    x.put f (fun i => lift3 f (fun p q z => madElem k x.mode x.w.sat (modify k x.modA p) (modify k x.modB q) z)
      (a i) (b i) (c i)))

/-- `vmad`: one rounding (R172). -/
def execVmad (w : LaneWord) (s : State) : Host.Outcome State Fault Refusal := runLane specVmad w s

/-- `vmin` (R173). What it checks, and its effect. -/
def specVmin : LaneSpec := poly2 (fun k _ _ => minMaxElem k false)

/-- `vmin` (R173). -/
def execVmin (w : LaneWord) (s : State) : Host.Outcome State Fault Refusal := runLane specVmin w s

/-- `vmax` (R173). What it checks, and its effect. -/
def specVmax : LaneSpec := poly2 (fun k _ _ => minMaxElem k true)

/-- `vmax` (R173). -/
def execVmax (w : LaneWord) (s : State) : Host.Outcome State Fault Refusal := runLane specVmax w s

/-- A polymorphic word of one source (R174). -/
def poly1 (op : Kind → Bool → Nat → Nat × BitVec 5) : LaneSpec :=
  polySpec (fun x => [x.w.va]) false true noReserve noRule (fun x f =>
    let a := x.src x.w.va f
    x.put f (fun i => lift1 f (op (tagKind f) x.w.sat) (a i)))

/-- `vabs` (R174). What it checks, and its effect. -/
def specVabs : LaneSpec := poly1 (fun k sat => signElem k false sat)

/-- `vabs` (R174). -/
def execVabs (w : LaneWord) (s : State) : Host.Outcome State Fault Refusal := runLane specVabs w s

/-- `vneg` (R174). What it checks, and its effect. -/
def specVneg : LaneSpec := poly1 (fun k sat => signElem k true sat)

/-- `vneg` (R174). -/
def execVneg (w : LaneWord) (s : State) : Host.Outcome State Fault Refusal := runLane specVneg w s

/-- The half of a packed value that vcmp compares, or the whole of another (R175). -/
def cmpPart (f : Tag) (high : Bool) (v : DWord) : Nat :=
  if tagPacked f then (if high then v.toNat / 65536 % 65536 else v.toNat % 65536) else v.toNat

/-- `vcmp` (R84, R175). What it checks, and its effect. -/
def specVcmp : LaneSpec :=
  polySpec (fun x => [x.w.va, x.w.vb]) false false
    (fun x => bitsAt x.w.sub.val 2 1 == 1 && x.unpacked [x.w.va, x.w.vb])
    (fun x f => decide (6 ≤ x.w.mods.val) && tagIsInt f)
    (fun x f =>
      let a := x.src x.w.va f
      let b := x.src x.w.vb f
      let high := bitsAt x.w.sub.val 2 1 == 1
      let res := fun i => condElem (tagKind f) x.w.mods.val (cmpPart f high (a i)) (cmpPart f high (b i))
      x.putCond (Fin.ofNat 4 (x.w.sub.val % 4)) (x.lanes.foldl (fun fl i => fl ||| (res i).2) 0) (fun i => (res i).1))

/-- `vcmp` (R84, R175). -/
def execVcmp (w : LaneWord) (s : State) : Host.Outcome State Fault Refusal := runLane specVcmp w s

/-- `vsel`: bit for bit (R176). What it checks, and its effect. -/
def specVsel : LaneSpec :=
  polySpec (fun x => [x.w.va, x.w.vb]) false true noReserve noRule (fun x f =>
    let a := x.src x.w.va f
    let b := x.src x.w.vb f
    let c := readVc x.s x.g (Fin.ofNat 4 (x.w.sub.val % 4))
    x.put f (fun i => (if c.getLsbD i then a i else b i, 0)))

/-- `vsel`: bit for bit (R176). -/
def execVsel (w : LaneWord) (s : State) : Host.Outcome State Fault Refusal := runLane specVsel w s

/-! ### Scans and reductions (R177, R192) -/

/-- The running result over the active lanes: what each lane takes, and the final value (R177). -/
def scanLanes (op : DWord → DWord → LaneValue) (ident : DWord) (excl : Bool) (x : Nat → DWord) (lanes : List Nat) :
    List (Nat × DWord) × Option DWord × BitVec 5 :=
  lanes.foldl (fun (acc : List (Nat × DWord) × Option DWord × BitVec 5) i =>
    let next : LaneValue := match acc.2.1 with
      | some v => op v (x i)
      | none => (x i, 0)
    let out := if excl then acc.2.1.getD ident else next.1
    (acc.1 ++ [(i, out)], some next.1, acc.2.2 ||| next.2)) ([], none, 0)

/-- The operation of a scan: 0 add, 1 min, 2 max. -/
def scanElem (k : Kind) (mode : Rounding) (sat : Bool) (op x y : Nat) : Nat × BitVec 5 :=
  match op with
  | 0 => addElem k mode sat x y
  | 1 => minMaxElem k false x y
  | _ => minMaxElem k true x y

/-- The identity element of a scan (R177). -/
def identElem (k : Kind) (op : Nat) : Nat :=
  match op, k with
  | 0, _ => 0
  | 1, .flt f => f.inf
  | 1, .int sg w => if sg then 2 ^ (w - 1) - 1 else 2 ^ w - 1
  | _, .flt f => signBit f true + f.inf
  | _, .int sg w => if sg then 2 ^ (w - 1) else 0

/-- The same in both halves of a packed format. -/
def identOf (f : Tag) (op : Nat) : DWord :=
  let e := identElem (tagKind f) op
  BitVec.ofNat 64 (if tagPacked f then e + 65536 * e else e)

/-- The scan of a word. -/
def LaneCtx.scan (x : LaneCtx) (f : Tag) (op : Nat) (excl : Bool) : List (Nat × DWord) × Option DWord × BitVec 5 :=
  scanLanes (lift2 f (scanElem (tagKind f) x.mode x.w.sat op)) (identOf f op) excl (x.src x.w.va f) x.lanes

/-- Add flags to the split of a result. -/
def addFlags (o : State × Group × Split) (fl : BitVec 5) : State × Group × Split :=
  (o.1, o.2.1, { o.2.2 with fpstat := o.2.2.fpstat ||| fl })

/-- `vscan` (R177). What it checks, and its effect. -/
def specVscan : LaneSpec :=
  polySpec (fun x => [x.w.va]) false true noReserve noRule (fun x f =>
    let r := x.scan f (x.w.sub.val % 4) (bitsAt x.w.sub.val 2 1 == 1)
    addFlags (x.put f (fun i => ((tget r.1 i).getD 0, 0))) r.2.2)

/-- `vscan` (R177). -/
def execVscan (w : LaneWord) (s : State) : Host.Outcome State Fault Refusal := runLane specVscan w s

end Sys2Proof.Machine
end

