-- ==== Sys2Proof/Machine/Bitwise.lean ====
section
/-! DEFINITION. The meanings of the integer and bitwise lane instructions, opcodes 0x10 to 0x1C (R178 to R182), and of the
condition and ballot forms (R193, R194). An untyped source that nothing gives a format is read as raw (log entry 25). -/

namespace Sys2Proof.Machine

/-! ### Bitwise (R178) -/

/-- The result tag of a bitwise operation; none where its tag rule is broken (R85, R178). -/
def LaneCtx.bitTag (x : LaneCtx) (os : List Opnd) : Option Tag :=
  match x.ov with
  | some f => if f = .handle then none else some f
  | none =>
    let ts := x.typed os
    if ts.contains .handle then none
    else
      match ts with
      | [] => some .raw
      | t :: l => if l.all (fun u => u == t) then some t else if ts.any tagWide then none else some .raw

/-- The checks of a bitwise word, and its value from those of its sources. -/
def bitSpec (os : LaneCtx → List Opnd) (run : LaneCtx → Tag → State × Group × Split) : LaneSpec :=
  { srcs := fun x => (os x).map (fun o => (o, x.wide (os x) o)),
    dest := fun x => some (tagWide (fmtOr (x.bitTag (os x)))),
    mismatch := fun x => (x.bitTag (os x)).isNone,
    held := fun x k => if x.ov.isNone then (x.tagOf (x.w.source k)).getD (fmtOr (x.bitTag (os x))) else fmtOr x.ov,
    run := fun x => run x (fmtOr (x.bitTag (os x))) }

def bit2 (op : DWord → DWord → DWord) : LaneSpec :=
  bitSpec (fun x => [x.w.va, x.w.vb]) (fun x f =>
    let a := x.src x.w.va f
    let b := x.src x.w.vb f
    x.put f (fun i => (op (a i) (b i), 0)))

/-- `vand` (R178). What it checks, and its effect. -/
def specVand : LaneSpec := bit2 (fun a b => a &&& b)

/-- `vand` (R178). -/
def execVand (w : LaneWord) (s : State) : Host.Outcome State Fault Refusal := runLane specVand w s

/-- `vor` (R178). What it checks, and its effect. -/
def specVor : LaneSpec := bit2 (fun a b => a ||| b)

/-- `vor` (R178). -/
def execVor (w : LaneWord) (s : State) : Host.Outcome State Fault Refusal := runLane specVor w s

/-- `vxor` (R178). What it checks, and its effect. -/
def specVxor : LaneSpec := bit2 (fun a b => a ^^^ b)

/-- `vxor` (R178). -/
def execVxor (w : LaneWord) (s : State) : Host.Outcome State Fault Refusal := runLane specVxor w s

/-- `vnot` (R178). What it checks, and its effect. -/
def specVnot : LaneSpec :=
  bitSpec (fun x => [x.w.va]) (fun x f =>
    let a := x.src x.w.va f
    x.put f (fun i => (~~~(a i), 0)))

/-- `vnot` (R178). -/
def execVnot (w : LaneWord) (s : State) : Host.Outcome State Fault Refusal := runLane specVnot w s

/-! ### Integer forms on va's format (R179, R181) -/

/-- The format of va: the override, its tag, or raw (R85). -/
def LaneCtx.fmtA (x : LaneCtx) : Tag :=
  match x.ov with
  | some f => f
  | none => (x.tagOf x.w.va).getD .raw

/-- Bits of an element of a format. -/
def elemBits (f : Tag) : Nat := if tagPacked f then 16 else if tagWide f then 64 else 32

/-- A shift of one element: 0 left, 1 right logical, 2 right arithmetic (R179). -/
def shiftElem (op w amount x : Nat) : Nat :=
  let x := x % 2 ^ w
  match op with
  | 0 => x * 2 ^ amount % 2 ^ w
  | 1 => x / 2 ^ amount
  | _ => intBits true w false (elemInt true w x / ((2 ^ amount : Nat) : Int))

/-- A shift word (R179): the amount is one register, taken modulo the element width. Under an override the amount is held in that
format; an untyped one, and one under a 64-bit override, which is still one register, is held as n32 (R79, R85; log entry 80). -/
def shiftSpec (op : Nat) : LaneSpec :=
  { srcs := fun x => [(x.w.va, tagWide x.fmtA), (x.w.vb, false)],
    dest := fun x => some (tagWide x.fmtA),
    mismatch := fun x =>
      !([Tag.raw, .i32, .n32, .i16x2, .n16x2, .i64, .n64].contains x.fmtA) ||
      (x.ov.isNone && (match x.tagOf x.w.vb with
        | some t => t != .i32 && t != .n32
        | none => false)),
    held := fun x k => if k = 0 then x.fmtA else match x.ov with
      | some f => if tagWide f then .n32 else f
      | none => (x.tagOf x.w.vb).getD .n32,
    run := fun x =>
      let f := x.fmtA
      let a := x.src x.w.va f
      let b := x.word x.w.vb
      x.put f (fun i => lift1 f (fun v => (shiftElem op (elemBits f) ((b i).toNat % elemBits f) v, 0)) (a i)) }

/-- `vshl` (R179). What it checks, and its effect. -/
def specVshl : LaneSpec := shiftSpec 0

/-- `vshl` (R179). -/
def execVshl (w : LaneWord) (s : State) : Host.Outcome State Fault Refusal := runLane specVshl w s

/-- `vshr` (R179). What it checks, and its effect. -/
def specVshr : LaneSpec := shiftSpec 1

/-- `vshr` (R179). -/
def execVshr (w : LaneWord) (s : State) : Host.Outcome State Fault Refusal := runLane specVshr w s

/-- `vsra` (R179). What it checks, and its effect. -/
def specVsra : LaneSpec := shiftSpec 2

/-- `vsra` (R179). -/
def execVsra (w : LaneWord) (s : State) : Host.Outcome State Fault Refusal := runLane specVsra w s

/-- The formats of vmulhi (R180). -/
def mulhiTag (t : Tag) : Bool := [Tag.i32, .n32, .i64, .n64].contains t

/-- The format of a vmulhi: both sources must carry one of its four tags (R180; log entry 25). -/
def LaneCtx.mulhi (x : LaneCtx) : Option Tag :=
  match x.ov with
  | some f => if mulhiTag f then some f else none
  | none =>
    match x.tagOf x.w.va, x.tagOf x.w.vb with
    | some a, some b => if a = b ∧ mulhiTag a = true then some a else none
    | _, _ => none

/-- The high half of the exact product of two elements. -/
def mulhiElem (sg : Bool) (w x y : Nat) : Nat :=
  intBits sg w false (elemInt sg w x * elemInt sg w y / ((2 ^ w : Nat) : Int))

/-- `vmulhi` (R180). What it checks, and its effect. -/
def specVmulhi : LaneSpec :=
  { srcs := fun x => [(x.w.va, x.wide [x.w.va, x.w.vb] x.w.va), (x.w.vb, x.wide [x.w.va, x.w.vb] x.w.vb)],
      dest := fun x => some (tagWide (fmtOr x.mulhi)),
      mismatch := fun x => x.mulhi.isNone,
      held := fun x _ => fmtOr x.mulhi,
      run := fun x =>
        let f := fmtOr x.mulhi
        let a := x.src x.w.va f
        let b := x.src x.w.vb f
        x.put f (fun i =>
          (BitVec.ofNat 64 (mulhiElem (f == .i32 || f == .i64) (elemBits f) (a i).toNat (b i).toNat), 0)) }

/-- `vmulhi` (R180). -/
def execVmulhi (w : LaneWord) (s : State) : Host.Outcome State Fault Refusal := runLane specVmulhi w s

/-- A bit-counting or reversing word (R181): `single` when the result is one n32 register. -/
def countSpec (single : Bool) (op32 : Word → Word) (op64 : DWord → DWord) : LaneSpec :=
  { srcs := fun x => [(x.w.va, tagWide x.fmtA)],
    dest := fun x => some (!single && tagWide x.fmtA),
    mismatch := fun x => !([Tag.raw, .i32, .n32, .i64, .n64].contains x.fmtA),
    held := fun x _ => x.fmtA,
    run := fun x =>
      let f := x.fmtA
      let a := x.src x.w.va f
      x.put (if single then .n32 else f) (fun i =>
        (if tagWide f then op64 (a i) else (op32 (a i).lo).setWidth 64, 0)) }

/-- `vclz` (R181). What it checks, and its effect. -/
def specVclz : LaneSpec := countSpec true clz clz

/-- `vclz` (R181). -/
def execVclz (w : LaneWord) (s : State) : Host.Outcome State Fault Refusal := runLane specVclz w s

/-- `vpopc` (R181). What it checks, and its effect. -/
def specVpopc : LaneSpec := countSpec true popcount popcount

/-- `vpopc` (R181). -/
def execVpopc (w : LaneWord) (s : State) : Host.Outcome State Fault Refusal := runLane specVpopc w s

/-- `vbrev` (R181). What it checks, and its effect. -/
def specVbrev : LaneSpec := countSpec false bitrev bitrev

/-- `vbrev` (R181). -/
def execVbrev (w : LaneWord) (s : State) : Host.Outcome State Fault Refusal := runLane specVbrev w s

/-! ### Bit fields (R182) -/

/-- Offset and effective width of a field specification (R182). -/
def fieldSpec (v : Word) : Nat × Nat :=
  let o := v.toNat % 32
  (o, min (min (bitsAt v.toNat 8 6) 32) (32 - o))

/-- The checks of a bit-field word: 32-bit sources, with the override rule of R182; `keep` names the source whose tag the
result takes. -/
def fieldWord (os : LaneCtx → List Opnd) (keep : LaneCtx → Opnd) (run : LaneCtx → Nat → Word) : LaneSpec :=
  { srcs := fun x => (os x).map (fun o => (o, false)),
    dest := fun _ => some false,
    mismatch := fun x =>
      match x.ov with
      | some f => tagWide f || f == .handle
      | none => (x.typed (os x)).any (fun t => t != .raw && t != .i32 && t != .n32),
    held := fun x k => if x.ov.isNone then (x.tagOf (x.w.source k)).getD .raw else fmtOr x.ov,
    run := fun x =>
      let tag := if x.ov.isNone then (x.tagOf (keep x)).getD .raw else fmtOr x.ov
      let f := run x
      x.put tag (fun i => ((f i).setWidth 64, 0)) }

/-- The field of vbfe (R182). -/
def extractField (signed : Bool) (a spec : Word) : Word :=
  let (o, w) := fieldSpec spec
  if w = 0 then 0
  else
    let v := a.toNat / 2 ^ o % 2 ^ w
    BitVec.ofInt 32 (elemInt signed w v)

/-- The insertion of vbfi (R182). -/
def insertField (a spec base : Word) : Word :=
  let (o, w) := fieldSpec spec
  let m : Word := BitVec.ofNat 32 ((2 ^ w - 1) * 2 ^ o)
  (base &&& ~~~m) ||| ((a <<< o) &&& m)

/-- `vbfe` (R182). What it checks, and its effect. -/
def specVbfe : LaneSpec :=
  fieldWord (fun x => [x.w.va, x.w.vb]) (fun x => x.w.va) (fun x =>
    let a := x.word x.w.va
    let b := x.word x.w.vb
    fun i => extractField (x.w.sub.val == 1) (a i) (b i))

/-- `vbfe` (R182). -/
def execVbfe (w : LaneWord) (s : State) : Host.Outcome State Fault Refusal := runLane specVbfe w s

/-- `vbfi` (R182). What it checks, and its effect. -/
def specVbfi : LaneSpec :=
  fieldWord (fun x => [x.w.va, x.w.vb, x.w.vc]) (fun x => x.w.vc) (fun x =>
    let a := x.word x.w.va
    let b := x.word x.w.vb
    let c := x.word x.w.vc
    fun i => insertField (a i) (b i) (c i))

/-- `vbfi` (R182). -/
def execVbfi (w : LaneWord) (s : State) : Host.Outcome State Fault Refusal := runLane specVbfi w s

/-! ### Condition registers (R194) -/

/-- A word with no vector register field. -/
def plainSpec (dest : Bool) (run : LaneCtx → State × Group × Split) : LaneSpec :=
  { srcs := fun _ => [], dest := fun _ => if dest then some false else none, mismatch := fun _ => false,
    held := fun _ _ => .raw, run := run }

/-- A condition word: D in sub-op, A and B in the modifiers (R194). -/
def condSpec (op : Bool → Bool → Bool) : LaneSpec :=
  plainSpec false (fun x =>
    let a := readVc x.s x.g (Fin.ofNat 4 (x.w.mods.val % 4))
    let b := readVc x.s x.g (Fin.ofNat 4 (x.w.mods.val / 4))
    x.putCond (Fin.ofNat 4 (x.w.sub.val % 4)) 0 (fun i => op (a.getLsbD i) (b.getLsbD i)))

/-- `vcand` (R194). What it checks, and its effect. -/
def specVcand : LaneSpec := condSpec (fun a b => a && b)

/-- `vcand` (R194). -/
def execVcand (w : LaneWord) (s : State) : Host.Outcome State Fault Refusal := runLane specVcand w s

/-- `vcor` (R194). What it checks, and its effect. -/
def specVcor : LaneSpec := condSpec (fun a b => a || b)

/-- `vcor` (R194). -/
def execVcor (w : LaneWord) (s : State) : Host.Outcome State Fault Refusal := runLane specVcor w s

/-- `vcxor` (R194). What it checks, and its effect. -/
def specVcxor : LaneSpec := condSpec (fun a b => a != b)

/-- `vcxor` (R194). -/
def execVcxor (w : LaneWord) (s : State) : Host.Outcome State Fault Refusal := runLane specVcxor w s

/-- `vcnot` (R194). What it checks, and its effect. -/
def specVcnot : LaneSpec := condSpec (fun a _ => !a)

/-- `vcnot` (R194). -/
def execVcnot (w : LaneWord) (s : State) : Host.Outcome State Fault Refusal := runLane specVcnot w s

/-- `vcmov` (R194). What it checks, and its effect. -/
def specVcmov : LaneSpec := condSpec (fun a _ => a)

/-- `vcmov` (R194). -/
def execVcmov (w : LaneWord) (s : State) : Host.Outcome State Fault Refusal := runLane specVcmov w s

end Sys2Proof.Machine
end

