-- ==== Sys2Proof/Machine/Events.lean ====
section
/-! DEFINITION. The meanings of the steps that no word encodes and that splits, logical time and the caches take by
themselves: results and parks (R43 to R47), merges and releases (R38, R42), barriers (R272), starvation (R57), clock
points (R23), ticks and sweeps (R247, R248, R416), leases and the weir (R251, R252), audits (R221, R222), granules
(R210), invalidations (R208), contexts (R315), retention ranges (R225). A step whose condition does not hold changes
nothing (log entry 15). -/

namespace Sys2Proof.Machine

/-! ### Results (R43, R45) -/

/-- Something that result `k` of a split waits for is outstanding: a galley entry or a peer's reply. -/
def resultHeld (s : State) (r : SplitRef) (k : Nat) : Bool :=
  (s.core r.core).galley.any (fun e => e.ref == r && (match e.kind with
    | .access _ _ (some i) => i == k
    | .reads i _ => i == k
    | _ => false)) ||
  s.remotes.any (fun e => e.2.ref == r && (match e.2.purpose with
    | .load i _ => i == k
    | .atomic (some i) _ => i == k
    | _ => false))

/-- Lanes of a returning result that are written: where a later write has landed, either value stands (R45). -/
def arriving (nonce id reg : Nat) (mask contested : LaneMask) : LaneMask :=
  maskOf (fun i => mask.getLsbD i && (!contested.getLsbD i || Config.freeBit nonce (readIndex id reg i)))

/-- Results in flight that an instruction issued before result `id` has: a write of that result lands on them (R45). -/
def earlier (id : Nat) : Nat → Bool := fun k => decide (k < id)

/-- Write one part of a result; it contests what was issued before it and is still in flight (R45). Where a contested lane takes the
result, the register's tag is that of either write. -/
def deliverWrite (nonce id slot : Nat) (g : Group) (w : RegWrite) : Group :=
  match w with
  | .scalar n v contested =>
    let g := { g with splits := tmod g.splits slot (fun sp => { sp with inflight := contestScalar (earlier id) n sp.inflight }) }
    if contested && !Config.freeBit nonce (readIndex id n 0) then g
    else { g with splits := tmod g.splits slot (fun sp => putScalar sp n v) }
  | .vector n mask contested data tag _ =>
    let old := g.regs.getD n VReg.zero
    let m := arriving nonce id n mask contested
    let tag := if m &&& contested ≠ 0 ∧ Config.freeBit nonce (readIndex id n 97) then tag else old.tag
    contestVector (earlier id) n m tag { g with regs := g.regs.set n { data := mergeLanes m data old.data, tag := tag } }
  | .cond n mask contested bits =>
    let m := arriving nonce id (200 + n) mask contested
    let k : Fin 4 := Fin.ofNat 4 n
    contestCond (earlier id) n m { g with vc := g.vc.set k ((g.vc[k] &&& ~~~m) ||| (bits &&& m)) }

/-- VARIABLE_LATENCY_RESULT: result `k` of a split returns and is written (R43). -/
def execVariableLatencyResult (r : SplitRef) (k : Nat) (s : State) : Host.Outcome State Fault Refusal :=
  onPart s (fun s =>
    match tget s.groups r.gkey with
    | none => s
    | some g =>
      match tget g.splits r.slot with
      | none => s
      | some sp =>
        match sp.inflight.find? (fun f => f.id == k) with
        | none => s
        | some f =>
          if resultHeld s r k then s
          else
            let g := f.writes.foldl (deliverWrite s.fresh k r.slot) g
            s.setGroup r.gkey
              { g with splits := tmod g.splits r.slot (fun sp =>
                  { sp with inflight := sp.inflight.filter (fun x => x.id != k) }) })

/-- STORE_ACKNOWLEDGEMENT: a store or atomic performed at its home, or at a peer, is acknowledged (R246, R258). -/
def execStoreAcknowledgement (r : SplitRef) (k : Nat) (s : State) : Host.Outcome State Fault Refusal :=
  onPart s (fun s =>
    match tget s.acks k, tget s.remotes k with
    | some a, _ => if a.ref = r then { s with acks := tdel s.acks k } else s
    | none, some m =>
      match m.purpose with
      | .store | .atomic none _ => if m.ref = r then { s with remotes := tdel s.remotes k } else s
      | _ => s
    | none, none => s)

/-! ### Parks (R44 to R47) -/

/-- The node of a group has failed, or has left the pool. -/
def nodeGone (s : State) (g : Group) : Bool :=
  match tget s.nodes g.node with
  | some n => n.state == .failed
  | none => true

/-- Go on with a split that waits at or after a park point, if it may (R44, R57, R328, R333). -/
def parkStep (s : State) (r : SplitRef) : State :=
  match tget s.groups r.gkey with
  | none => s
  | some g =>
    match tget g.splits r.slot with
    | none => s
    | some sp =>
      if sp.stopped.isSome then s
      else
        match sp.wait with
        | .park k => if resultsIn s r g sp then finishPark s r k else s
        | .held k => if groupHeld s g && !nodeGone s g then s else finishPark s r k
        | .await k => if nodeGone s g then killSplit s r else if groupHeld s g then s else doAfter s r k
        | .join _ => if nodeGone s g then killSplit s r else s
        | .stall .acks | .stall .both =>
          -- the fault of a revoked window comes before a release that waited for its store completes (R258)
          match sp.deferred.find? (fun d => d.code == .windowRevoked && d.cmd.isNone) with
          | some d => takeDeferred s r { sp with wait := .held .proceed } d .proceed (sp.deferred.filter (fun x => x != d))
          | none => s
        | .ready | .stall _ => s

/-- PARK_POINT_RELEASE (R44, R47, R261). -/
def execParkPointRelease (r : SplitRef) (s : State) : Host.Outcome State Fault Refusal := onPart s (fun s => parkStep s r)

/-- The split has issued as much as R46 allows before its next word. -/
def mustPark (sp : Split) : Bool :=
  match sp.run with
  | some _ => decide (256 ≤ sp.laneCount)
  | none => decide (1024 ≤ sp.scalarCount)

/-- A forced park behaves as spark, with its PCs and its run where they are (R46, R150). -/
def forcePark (s : State) (r : SplitRef) : State :=
  match tget s.groups r.gkey with
  | none => s
  | some g =>
    match tget g.splits r.slot with
    | none => s
    | some sp => if sp.wait == .ready && sp.stopped.isNone && mustPark sp then parkThen s r g sp .proceed else s

/-- FORCED_PARK (R46). -/
def execForcedPark (r : SplitRef) (s : State) : Host.Outcome State Fault Refusal := onPart s (fun s => forcePark s r)

/-! ### Merges and releases (R38, R42) -/

/-- How a split leaves a join or a barrier: held while its group is held (R333). -/
def leaveWait (held : Bool) : Wait := if held then .held .proceed else .ready

/-- What the merged splits have outstanding is outstanding for the split that goes on (R40). -/
def retarget (s : State) (group : Nat) (from_ : List Nat) (slot : Nat) : State :=
  let move := fun (r : SplitRef) => if r.gkey = group ∧ from_.contains r.slot then { r with slot := slot } else r
  s.mapRefs move

/-- SPLIT_MERGE: the splits waiting for a join record merge once no other lane of it is live (R37 to R39); the deferred faults of all of them
are the merged split's (R261, R280). -/
def execSplitMerge (group key : Nat) (s : State) : Host.Outcome State Fault Refusal :=
  onPart s (fun s =>
    match tget s.groups group with
    | none => s
    | some g =>
      match g.joins.find? (fun j => j.id == key) with
      | none => s
      | some j =>
        let waiting := g.splits.filter (fun e => e.2.wait == .join key && e.2.stopped.isNone)
        let there := waiting.foldl (fun m e => m ||| e.2.lanes) (0 : LaneMask)
        if j.lanes &&& ~~~there != 0 then s
        else
          let freed := g.joins.filter (fun x => x.id != key)
          match waiting with
          | [] => s.setGroup group { g with joins := freed }
          | a :: l =>
            let low := l.foldl (fun m e => if lowestLane e.2.lanes < lowestLane m.2.lanes then e else m) a
            let sp := mergeInto low.2 key (Side.ofSplit s a.2) (l.map (fun e => Side.ofSplit s e.2))
            let rest := g.splits.filter (fun e => !(e.2.wait == .join key && e.2.stopped.isNone))
            (retarget s group (waiting.map (fun e => e.1)) low.1).setGroup group
              { g with joins := freed,
                       splits := tput rest low.1
                         { sp with spc := sp.spc + 1, wait := leaveWait (groupHeld s g), deferred := waiting.flatMap (fun e => e.2.deferred) } })

/-- The record for which a split waits at an sjoin, or would once it is no longer stopped or held (R42, R333). -/
def joinWait (g : Group) (slot : Nat) (sp : Split) : Option Nat :=
  match sp.wait with
  | .join id => some id
  | .held .join =>
    match joinFind g slot sp with
    | .record j => some j.id
    | _ => none
  | _ => none

/-- No wait of the group can complete: every live split waits at an sjoin for a record, and no record has all its lanes
there (R42). -/
def joinDeadlock (g : Group) : Bool :=
  !g.splits.isEmpty && g.splits.all (fun e => (joinWait g e.1 e.2).isSome) &&
  g.joins.all (fun j =>
    let there := (g.splits.filter (fun e => joinWait g e.1 e.2 == some j.id)).foldl (fun m e => m ||| e.2.lanes) (0 : LaneMask)
    j.lanes &&& ~~~there != 0)

/-- A split released from its sjoin without merging (R42): a stopped or held one stays so (R333). -/
def releaseJoin (held : Bool) (sp : Split) : Split :=
  let sp := { sp with ustat := sp.ustat ||| 2, spc := sp.spc + 1 }
  match sp.stopped with
  | some st => { sp with wait := .held .proceed, stopped := some { st with kind := .deferred .proceed } }
  | none => { sp with wait := leaveWait held }

/-- JOIN_DEADLOCK_RELEASE (R42). -/
def execJoinDeadlockRelease (group : Nat) (s : State) : Host.Outcome State Fault Refusal :=
  onPart s (fun s =>
    match tget s.groups group with
    | none => s
    | some g =>
      if joinDeadlock g then
        let ids := g.splits.filterMap (fun e => joinWait g e.1 e.2)
        s.setGroup group
          { g with joins := g.joins.filter (fun j => !ids.contains j.id),
                   splits := g.splits.map (fun e => (e.1, releaseJoin (groupHeld s g) e.2)) }
      else s)

/-! ### The workgroup barrier (R272) -/

/-- A split waits at an sbar: stopped and held splits there count (R333). -/
def atBarrier (sp : Split) : Bool := sp.wait == .await .barrier || sp.wait == .held .barrier

/-- A split waits at an sjoin for a join record; one that is held there, and would pass it or swap, does not (R37). -/
def atJoin (g : Group) (slot : Nat) (sp : Split) : Bool := (joinWait g slot sp).isSome

/-- The group has arrived (R272). -/
def groupArrived (g : Group) : Bool :=
  g.splits.any (fun e => atBarrier e.2) && g.splits.all (fun e => atBarrier e.2 || atJoin g e.1 e.2)

/-- A split leaves the barrier. -/
def leaveBarrier (held : Bool) (sp : Split) : Split :=
  if atBarrier sp then
    let sp := { sp with spc := sp.spc + 1 }
    match sp.stopped with
    | some st => { sp with wait := .held .proceed, stopped := some { st with kind := .deferred .proceed } }
    | none => { sp with wait := leaveWait held }
  else sp

/-- BARRIER_COMPLETE (R272, R273). -/
def execBarrierComplete (wg : Nat) (s : State) : Host.Outcome State Fault Refusal :=
  onPart s (fun s =>
    match tget s.wgs wg with
    | none => s
    | some w =>
      let arrived := w.groups.all (fun k =>
        match tget s.groups k with
        | some g => groupArrived g
        | none => true)
      if arrived then
        w.groups.foldl (fun t k => t.modGroup k (fun g =>
          { g with splits := g.splits.map (fun e => (e.1, leaveBarrier (groupHeld s g) e.2)) })) s
      else s)

/-! ### Issue and clocks (R23, R57) -/

/-- STARVATION_PRECEDENCE: a ready split that has not issued for 1,024 cycles goes first on its pipe (R57). -/
def execStarvationPrecedence (r : SplitRef) (s : State) : Host.Outcome State Fault Refusal :=
  onPart s (fun s =>
    match s.split r with
    | none => s
    | some sp =>
      if sp.wait == .ready && sp.stopped.isNone && decide (1024 ≤ s.cyc - sp.lastIssue) then
        s.modCore r.core (fun c =>
          if (tget c.precedence r.pipe).isSome then c else { c with precedence := tput c.precedence r.pipe r })
      else s)

/-- The highest clock point whose predicted power fits the cap; the low point when none does (R412). -/
def cappedPoint (cap : Nat) : ClockPoint :=
  if Config.predictedPower 0 ≤ cap then .high else if Config.predictedPower 1 ≤ cap then .middle else .low

/-- The next lower and the next higher point. -/
def lowerPoint : ClockPoint → ClockPoint
  | .high => .middle | .middle => .low | .low => .low
def higherPoint : ClockPoint → ClockPoint
  | .low => .middle | .middle => .high | .high => .high

/-- The average power over 10 ms exceeds the cap; the average at the next higher point is predicted to fit it: neither is fixed (R412,
log entry 6). -/
def overCap (s : State) : Bool := decide (s.powerCap < Config.freeNat s.fresh 80)
def fitsHigher (s : State) : Bool := Config.freeBit s.fresh 81

/-- A point that Oluvos may choose now (R22, R412): the low one while the part is throttled; else the present one, the next
lower one while the cap is exceeded, and the next higher one where it is predicted to fit. -/
def mayChoose (s : State) (p : ClockPoint) : Bool :=
  if s.throttled then p == .low
  else p == s.issueClock || (overCap s && p == lowerPoint s.issueClock) ||
    (!overCap s && fitsHigher s && p == higherPoint s.issueClock)

/-- CLOCK_POINT_CHANGE, to a point that Oluvos chooses: all dies together; nothing else changes (R22, R23). -/
def execClockPointChange (p : ClockPoint) (s : State) : Host.Outcome State Fault Refusal :=
  onPart s (fun s => if mayChoose s p then { s with issueClock := p } else s)

/-! ### Logical time (R247, R248, R416) -/

/-- LT_TICK: one self-advance of a core for every 1,024 cycles (R247). -/
def execLtTick (core : Nat) (s : State) : Host.Outcome State Fault Refusal :=
  onPart s (fun s =>
    if (s.core core).ticked < s.cyc / 1024 then
      s.modCore core (fun c => { c with lt := c.lt + 1, ticked := c.ticked + 1 })
    else s)

/-- HUB_LT_TICK (R416). -/
def execHubLtTick (s : State) : Host.Outcome State Fault Refusal :=
  onPart s (fun s => if s.hubTicked < s.cyc / 1024 then { s with hubLt := s.hubLt + 1, hubTicked := s.hubTicked + 1 } else s)

/-- A timestamp lies within 2^12 of the end of the floor's range (R248). -/
def nearTop (floor t : BitVec 16) : Bool := decide (2 ^ 14 - 2 ^ 12 ≤ (t - floor).toNat)

/-- Some timestamp is that late. -/
def sweepDue (s : State) : Bool :=
  nearTop s.floor s.hubLt || nearTop s.floor s.idleLt || s.coreTab.any (fun e => nearTop s.floor e.2.lt) ||
  s.lineTs.any (fun e => nearTop s.floor e.2.1 || nearTop s.floor e.2.2)

/-- FLOOR_SWEEP: when some timestamp is that late (R248). -/
def execFloorSweep (s : State) : Host.Outcome State Fault Refusal := onPart s (fun s => if sweepDue s then floorSweep s else s)

/-- ATOMIC_LEASE_EXPIRY (R252). -/
def execAtomicLeaseExpiry (line : Nat) (s : State) : Host.Outcome State Fault Refusal :=
  onPart s (fun s =>
    match tget s.leases line with
    | none => s
    | some l => if l.ends ≤ s.cyc then endLease s line else s)

/-- WEIR_FAR_EXPIRY (R251). -/
def execWeirFarExpiry (line : Nat) (s : State) : Host.Outcome State Fault Refusal :=
  onPart s (fun s =>
    let die := homeDie (128 * line)
    let d := s.die die
    s.setDie die { d with weir := d.weir.map (fun e =>
      if e.line == line && e.far && decide (65536 ≤ s.cyc - e.last) then { e with far := false } else e) })

/-! ### L2 and audits (R219, R222) -/

/-- A line whose due time has passed (R219). -/
def l2Overdue (now : BitVec 20) (l : L2Line) : Bool := l.kind == 1 && decide (2 ^ 19 ≤ (l.due - now).toNat)

/-- L2_OVERDUE_SWEEP (R219). -/
def execL2OverdueSweep (die slice : Nat) (s : State) : Host.Outcome State Fault Refusal :=
  onPart s (fun s =>
    let d := s.die die
    s.setDie die { d with swept := tput d.swept slice (s.cyc / 256),
                          l2 := d.l2.map (fun l => if l.slice == slice && l2Overdue (nowUnits s) l then { l with ovd := true } else l) })

/-- AUDIT_FAIL: record `k` of a slice reaches its deadline unused (R221, R222). -/
def execAuditFail (die slice k : Nat) (s : State) : Host.Outcome State Fault Refusal :=
  onPart s (fun s =>
    let d := s.die die
    match (d.auditRecs.filter (fun a => a.slice == slice))[k]? with
    | none => s
    | some a =>
      if a.deadline ≤ s.cyc / 256 then
        s.setDie die { d with auditRecs := d.auditRecs.erase a,
                              audit := tput d.audit a.ctx (min 255 ((tget d.audit a.ctx).getD 0 + 4)) }
      else s)

/-! ### Granules (R210) -/

/-- Scratchpad bytes that the workgroups of a core hold: allocations take bytes of scratch granules only (R210). -/
def heldBytes (s : State) (core : Nat) : Nat :=
  s.wgs.foldl (fun a e => if e.1 / 64 = core then a + e.2.size else a) 0

/-- The largest granule need of a core's workgroups, resident or bound (R210, R323); 128 KiB each (R16). -/
def granuleNeed (s : State) (core : Nat) : Nat :=
  s.bound.foldl (fun a b => if b.core = core then max a b.granules else a)
    (s.wgs.foldl (fun a e => if e.1 / 64 = core then max a e.2.granules else a) ((heldBytes s core + 131071) / 131072))

/-- GRANULE_TO_SCRATCH: where the core's workgroups need it (R323), the highest L1 way stops taking fills, and once none of its lines is
under an exclusive lease they are dropped and the granule is free for scratchpad; eight ways always remain (R210). A way that stopped
takes fills again once nothing needs its granule. -/
def execGranuleToScratch (core : Nat) (s : State) : Host.Outcome State Fault Refusal :=
  onPart s (fun s =>
    let c := s.core core
    let top := c.ways - 1
    if c.ways ≤ 8 || decide (granuleNeed s core ≤ c.scratchGranules) then (if c.stopping then s.setCore core { c with stopping := false } else s)
    else if c.l1.any (fun l => l.way == top && leased s core l.line) then s.setCore core { c with stopping := true }
    else
      s.setCore core { c with stopping := false, scratchGranules := c.scratchGranules + 1,
                              l1 := c.l1.filter (fun l => l.way != top) })

/-- GRANULE_TO_L1: a scratch-free granule above what the core's workgroups need becomes the next L1 way, every line
invalid (R210). -/
def execGranuleToL1 (core : Nat) (s : State) : Host.Outcome State Fault Refusal :=
  onPart s (fun s =>
    let c := s.core core
    if granuleNeed s core < c.scratchGranules then s.setCore core { c with scratchGranules := c.scratchGranules - 1 } else s)

/-! ### Invalidations (R206 to R208) -/

/-- Remove entries from every translation cache of the part. -/
def dropTlb (s : State) (gone : TlbEntry → Bool) : State :=
  { s with coreTab := s.coreTab.map (fun e => (e.1, { e.2 with tlb := e.2.tlb.filter (fun t => !gone t) })),
           dieTab := s.dieTab.map (fun e => (e.1, { e.2 with tlb := e.2.tlb.filter (fun t => !gone t) })) }

/-- Translation uses the WKEY, ROOT and PART that the context now has (R207). -/
def refreshContext (s : State) (ctx : Nat) : State :=
  let c := s.context ctx
  s.setContext ctx { c with usedWkey := c.wkey, usedRoot := c.root, usedPart := c.part }

/-- An entry that holds a page, for a context: its own, or a global one of its partition. -/
def TlbEntry.holds (e : TlbEntry) (ctx part page : Nat) : Bool := e.hits ctx part page

/-- The contexts that an entry removed from the translation caches may have served: its own; every context of its partition where it was a
global one (R206, R208). -/
def servedBy (s : State) (ctx : Nat) (gone : TlbEntry → Bool) : List Nat :=
  let hit := fun (l : List TlbEntry) => l.any (fun e => gone e && e.g)
  if s.coreTab.any (fun e => hit e.2.tlb) || s.dieTab.any (fun e => hit e.2.tlb) then
    (ctx :: (s.nodes.map (fun e => e.2.ctx)).filter (fun c => (s.context c).usedPart == (s.context ctx).usedPart)).eraseDups
  else [ctx]

/-- A load of the port by this hart waits for the invalidations of these contexts (R208). -/
def noteInvalid (s : State) (l : List Nat) : State :=
  let l := l.map (fun c => (s.curHart, c))
  { s with invalidated := s.invalidated ++ l.filter (fun c => !s.invalidated.contains c) }

/-- INVALIDATE_PAGE: mode 0 (R208). -/
def execInvalidatePage (ctx page : Nat) (s : State) : Host.Outcome State Fault Refusal :=
  onPart s (fun s =>
    let gone := fun (e : TlbEntry) => e.holds ctx (s.context ctx).usedPart (page % 2 ^ 45)
    noteInvalid (dropTlb s gone) (servedBy s ctx gone))

/-- INVALIDATE_CONTEXT: mode 1 (R207, R208). -/
def execInvalidateContext (ctx : Nat) (s : State) : Host.Outcome State Fault Refusal :=
  onPart s (fun s =>
    let gone := fun (e : TlbEntry) => e.ctx == ctx
    noteInvalid (refreshContext (dropTlb s gone) ctx) (servedBy s ctx gone))

/-- INVALIDATE_NONGLOBAL: mode 2 (R208). -/
def execInvalidateNonglobal (ctx : Nat) (s : State) : Host.Outcome State Fault Refusal :=
  onPart s (fun s => noteInvalid (dropTlb s (fun e => e.ctx == ctx && !e.g)) [ctx])

/-- INVALIDATE_ALL: mode 3 (R207, R208). -/
def execInvalidateAll (s : State) : Host.Outcome State Fault Refusal :=
  onPart s (fun s =>
    let s := noteInvalid (dropTlb s (fun _ => true)) (s.contexts.map (fun e => e.1))
    { s with contexts := s.contexts.map (fun e =>
        (e.1, { e.2 with usedWkey := e.2.wkey, usedRoot := e.2.root, usedPart := e.2.part })) })

/-- An access that a context translated is not yet performed at its home: of the render-target unit (R417), or at a peer (R258), where the
node of the access may have left the pool: its partition then stands for its context. -/
def translated (s : State) (ctx : Nat) : Bool :=
  s.rtTiles.any (fun e => e.2.ctx == ctx) || s.rtWrites.any (fun e => !e.2.held && s.nodeCtx e.2.node == ctx) ||
  s.remotes.any (fun e =>
    match tget s.nodes e.2.node with
    | some n => n.ctx == ctx
    | none => e.2.request.part == BitVec.ofNat 12 (s.context ctx).part)

/-- Every invalidation that a hart requested has completed: the caches dropped their entries as it was stored, and no walk is in
progress between steps (R208). -/
def invalidationsDone (s : State) (hart : Nat) : Bool := s.invalidated.all (fun e => e.1 != hart || !translated s e.2)

/-- The load of the port returns 0 to a hart. -/
def portReturns (s : State) (hart : Nat) : State :=
  { s with residentLoads := s.residentLoads ++ [0], invalidated := s.invalidated.filter (fun e => e.1 != hart) }

/-- INVALIDATION_PORT_LOAD: a hart's load of the port returns 0 once every request that the hart stored has completed, and waits until
then (R208). -/
def execInvalidationPortLoad (s : State) : Host.Outcome State Fault Refusal :=
  onPart s (fun s =>
    if invalidationsDone s s.curHart then portReturns s s.curHart
    else { s with portLoads := s.portLoads ++ [s.curHart] })

/-- Loads of the port that wait no longer return. -/
def settlePort (s : State) : State :=
  s.portLoads.foldl (fun s h => if invalidationsDone s h then { portReturns s h with portLoads := s.portLoads.erase h } else s) s

/-! ### Contexts and retention ranges (R222, R225, R315) -/

/-- A context is barred once its GUILT reaches GLIMIT, and stays so until VALID is written 0 (R315). -/
def Context.judged (c : Context) : Context := { c with barred := c.barred || (decide (c.glimit ≤ c.guilt) && !c.unbarred) }

/-- CONTEXT_VALID_WRITE: VALID 1 clears GUILT and the context's audits (R222, R315). -/
def execContextValidWrite (ctx : Nat) (valid : Bool) (s : State) : Host.Outcome State Fault Refusal :=
  onPart s (fun s =>
    let c := s.context ctx
    if valid then
      { s.setContext ctx { c with valid := true, guilt := 0, unbarred := false }.judged with
        dieTab := s.dieTab.map (fun e => (e.1, { e.2 with audit := tdel e.2.audit ctx })) }
    else s.setContext ctx { c with valid := false, barred := false, unbarred := true })

/-- A retention range after a write of one dword of its entry (R223). The counter of misses goes on as it is: no rule says what a write to
the entry makes of it (the model's choice, log entry 86). -/
def writeRetention (r : Retention) (dword : Nat) (v : DWord) : Retention :=
  match dword with
  | 0 => { r with base := bitsAt v.toNat 7 45 }
  | 1 => { r with limit := bitsAt v.toNat 7 45 }
  | 2 => { r with ways := bitsAt v.toNat 0 4, j := bitsAt v.toNat 4 4 }
  | _ => r

/-- ERR of every range: it reserves ways and is disabled for want of them (R223). -/
def markErr (d : Die) : Die :=
  { d with retention := d.retention.map (fun e => (e.1, { e.2 with err := e.2.ways != 0 && (rangeWays d e.1).isNone })) }

/-- RETENTION_RANGE_WRITE: retained lines left outside reserved ways, or outside their range, become unretained in place
(R225). -/
def execRetentionRangeWrite (die range dword : Nat) (value : DWord) (s : State) : Host.Outcome State Fault Refusal :=
  onPart s (fun s =>
    let d := s.die die
    let r := (tget d.retention range).getD { base := 0, limit := 0, ways := 0, j := 0, err := false, misses := 0 }
    let d := markErr { d with retention := tput d.retention range (writeRetention r dword value) }
    let keeps := fun (l : L2Line) =>
      match l.retained with
      | some j =>
        match rangeWays d j, tget d.retention j with
        | some (lo, n), some x => decide (lo ≤ l.way) && decide (l.way < lo + n) && decide (x.base ≤ l.line) && decide (l.line < x.limit)
        | _, _ => false
      | none => true
    s.setDie die { d with l2 := d.l2.map (fun l => if keeps l then l else { l with retained := none }) })

end Sys2Proof.Machine
end

