-- ==== Sys2Proof/Machine/Units.lean ====
section
/-! DEFINITION. Accesses of a core's units that act for a split or a group: the copy engine, the texture and traversal unit
and the render-target unit (R229, R378); descriptors read at issue (R360, R377); the end of a command (R240, R277); xseal
and xwait (R239, R240, R283). -/

namespace Sys2Proof.Machine

/-- Device scope, relaxed, code 31, class 0 (R378). -/
def unitFields : MemFields := { code := 31, scope := .device, order := .relaxed, inv := false, cls := 0, off := 0 }

/-- The fields under which a copy-engine command makes its global accesses (R278, R279). -/
def copyMem (f : CopyFields) : MemFields :=
  { code := f.code, scope := f.scope, order := .relaxed, inv := false, cls := f.cls, off := 0 }

/-- Bytes that one access may take from an address: up to the end of its line. -/
def lineLeft (va : DWord) (n : Nat) : Nat := min n (128 - va.toNat % 128)

/-- A unit's load that overlaps a store of its core not yet acknowledged waits for the acknowledgement: it has come when the load is
performed (R246). -/
def ackOverlaps (s : State) (core pa n : Nat) : State :=
  { s with acks := s.acks.filter (fun e => !(e.2.ref.core == core && !e.2.remote && decide (e.2.pa < pa + n) &&
      decide (pa < e.2.pa + e.2.size))) }

/-- A unit reads bytes of one line through a leaf. Those of the remote region the link engine fetches (R201, R258). -/
def unitLoad (s : State) (w : Who) (m : MemFields) (l : Leaf) (n : Nat) : State × Except FaultCode (List Byte) :=
  match regionOf l.pa with
  | .memory _ =>
    if s.poisonedAt l.pa n then (s, .error .eccUncorrected)
    else
      let (s, b) := loadMem (ackOverlaps s w.ref.core l.pa n) w m l n
      (s, .ok b)
  | .remote rank window _ => (s, peerBytes s rank window l.pa n)
  | _ => (s, .error .permission)

/-- A unit's operation at a peer: it is outstanding until the peer answers, as a store's is (R201, R258). -/
def unitSend (s : State) (w : Who) (pa n : Nat) (op : PeerOp) : State :=
  match regionOf pa with
  | .remote rank window offset =>
    match importGen s rank window with
    | some gen => sendRemote s w rank window offset n 0 gen op 0 false .store
    | none => s
  | _ => s

/-- A unit writes bytes of one line through a leaf. -/
def unitStore (s : State) (w : Who) (m : MemFields) (l : Leaf) (bytes : List Byte) : State :=
  if isMemory l.pa then storeQuiet s w m l bytes else unitSend s w l.pa bytes.length (.write bytes)

/-- Requests of a command's unit that its peers have not answered. -/
def unitsAway (s : State) (c : Command) : Bool := s.remotes.any (fun e => e.2.ref == c.ref && e.2.seq == c.seq)

/-- A read by a unit; a page of this group with a pending entry holds it too (R338). -/
def agentChunk (s : State) (w : Who) (m : MemFields) (va : DWord) (n : Nat) : State × Except FaultCode (List Byte) :=
  if !canonical va then (s, .error .permission)
  else if pageHeld s w.ref.core w.gkey (pageOf va) then (s, .error .pageNotPresent)
  else
    match translate s (some w.ref.core) w.ctx va .load with
    | (s, .error e) => (s, .error e)
    | (s, .ok l) => unitLoad s w m l n

/-- Read `n` bytes, line by line; an error ends the read. -/
def agentRead (s : State) (w : Who) (m : MemFields) (va : DWord) (n : Nat) : State × Except FaultCode (List Byte) :=
  let k := (n + va.toNat % 128 + 127) / 128
  (List.range k).foldl (fun (x : State × Except FaultCode (List Byte)) _ =>
    match x with
    | (s, .error e) => (s, .error e)
    | (s, .ok l) =>
      let at' := va + BitVec.ofNat 64 l.length
      match agentChunk s w m at' (lineLeft at' (n - l.length)) with
      | (s, .error e) => (s, .error e)
      | (s, .ok b) => (s, .ok (l ++ b))) (s, .ok [])

/-- Where bytes of one line may be written. -/
def agentLeaf (s : State) (w : Who) (va : DWord) : State × Except FaultCode Leaf :=
  if !canonical va then (s, .error .permission)
  else if pageHeld s w.ref.core w.gkey (pageOf va) then (s, .error .pageNotPresent)
  else
    match translate s (some w.ref.core) w.ctx va .store with
    | (s, .error e) => (s, .error e)
    | (s, .ok l) =>
      match regionOf l.pa with
      | .memory _ => (s, .ok l)
      | .remote rank window _ => (s, if (importGen s rank window).isSome then .ok l else .error .permission)
      | _ => (s, .error .permission)

/-- Write bytes, line by line; an error ends the write. -/
def agentWrite (s : State) (w : Who) (m : MemFields) (va : DWord) (bytes : List Byte) : State × Except FaultCode Unit :=
  let n := bytes.length
  let k := (n + va.toNat % 128 + 127) / 128
  let r := (List.range k).foldl (fun (x : State × Except FaultCode Nat) _ =>
    match x with
    | (s, .error e) => (s, .error e)
    | (s, .ok i) =>
      let at' := va + BitVec.ofNat 64 i
      let c := lineLeft at' (n - i)
      match agentLeaf s w at' with
      | (s, .error e) => (s, .error e)
      | (s, .ok l) => (unitStore s w m l ((bytes.drop i).take c), .ok (i + c))) (s, .ok 0)
  (r.1, r.2.map (fun _ => ()))

/-- One atomic of a unit (R250 to R252). -/
def agentAtomic (s : State) (w : Who) (m : MemFields) (va : DWord) (op n : Nat) (x : DWord) : State × Except FaultCode DWord :=
  match agentLeaf s w va with
  | (s, .error e) => (s, .error e)
  | (s, .ok l) =>
    if !isMemory l.pa then (unitSend s w l.pa n (.atomic op x 0), .ok (Config.freeWord s.fresh l.pa))
    else if s.poisonedAt l.pa n then (s, .error .eccUncorrected)
    else
      let (s, old, near) := atomicRead s w m l n
      (holdLeased (storeBytes s w m l (toBytes n (atomicNew op n old x 0).toNat)) w m l n near, .ok old)

/-! ### Descriptors read at issue (R360, R377) -/

/-- What an instruction does about a descriptor it reads at issue: it has the bytes, it waits at an absent page with an
entry in the galley, or it faults precisely. -/
inductive DescRead where
  | got (b : List Byte)
  | wait
  | bad (c : FaultCode)
deriving DecidableEq, Repr

/-- The fields under which an image or grid descriptor is read: from the descriptor cache, as an invariant load, or not; whether the
cache has it is free (R366). -/
def cachedFields (s : State) (m : MemFields) : MemFields := { m with inv := Config.freeBit s.fresh 71 }

/-- Read a descriptor of `n` bytes, aligned to as many. -/
def readDescriptor (s : State) (w : Who) (m : MemFields) (va : DWord) (n : Nat) : State × DescRead :=
  if va.toNat % n != 0 then (s, .bad .align)
  else
    match agentRead s w m va n with
    | (s, .ok b) => (s, .got b)
    | (s, .error .pageNotPresent) => (s, .wait)
    | (s, .error e) => (s, .bad e)

/-- Hold an instruction at the page of its descriptor (R377): it is not ready, and issues again after the replay. -/
def holdDescriptor (s : State) (w : Who) (va : DWord) (lanes : LaneMask) : State :=
  let s := s.modSplit w.ref (fun sp => { sp with wait := .stall .descriptor })
  galleyAdd s w.ref.core [w.entry va .descriptor false lanes]

/-! ### Commands (R239, R277) -/

/-- The agent that performs a command. -/
def whoseCommand (s : State) (c : Command) : Who :=
  { ref := c.ref, wg := c.wg, node := c.node, ctx := s.nodeCtx c.node, pcs := c.pcs, seq := c.seq }

/-- A command joins the group's open batch (R239, R277); the split's word has retired. -/
def issueCommand (s : State) (r : SplitRef) (g : Group) (sp : Split) (kind : CmdKind) (ranges : List (Nat × Nat)) (pcs : PcPair) :
    State :=
  let id := s.serial
  let c : Command :=
    { ref := r, node := g.node, wg := g.wg, seq := id, pcs := pcs, kind := kind, page := none, progress := 0, aux := 0,
      sent := false, remote := [], table := g.gatherIssued, cycle := s.cyc }
  let g := { g with openBatch := g.openBatch ++ [id], splits := tput g.splits r.slot sp }
  let s := { s.setGroup r.gkey g with commands := tput s.commands id c, serial := s.serial + 1 }
  s.modCore r.core (fun v =>
    { v with scoreboard := v.scoreboard ++ ranges.map (fun x => { cmd := id, wg := g.wg, lo := x.1, hi := x.2 }) })

/-- A command has performed all its writes (R240, R242): its scoreboard entries are freed. -/
def finishCommand (s : State) (id : Nat) : State :=
  match tget s.commands id with
  | none => s
  | some c =>
    let s := { s with
      commands := tdel s.commands id,
      coreTab := s.coreTab.map (fun e => (e.1, { e.2 with scoreboard := e.2.scoreboard.filter (fun x => x.cmd != id),
                                                          matrix := e.2.matrix.filter (fun x => x.1 != id) })) }
    endWorkgroup s c.wg

/-- A command stops with a fault, which its split takes later (R280, R303); it counts as performed. -/
def stopCommand (s : State) (id : Nat) (code : FaultCode) (addr : DWord) (window : Nat) : State :=
  match tget s.commands id with
  | none => s
  | some c =>
    let s := s.modSplit c.ref (fun sp =>
      { sp with deferred := sp.deferred ++ [{ code := code, pcs := c.pcs, lanes := 0, addr := addr, window := window,
                                              seq := c.seq, cmd := some id }] })
    finishCommand s id

/-- A command of the copy engine stops; a double-bit error is logged (R280, R413). -/
def failCommand (s : State) (id : Nat) (code : FaultCode) (addr : DWord) (window : Nat) : State :=
  match tget s.commands id with
  | some c => stopCommand (logEcc s c.ref.core code) id code addr window
  | none => s

/-- A command stalls at an absent page (R280). -/
def stallCommand (s : State) (id : Nat) (c : Command) (va : DWord) (write : Bool) : State :=
  let s := { s with commands := tput s.commands id { c with page := some (pageOf va) } }
  galleyAdd s c.ref.core [(whoseCommand s c).entry va (.command id) write 0]

/-- BATCH_RETIRE: the group's oldest sealed batch retires once its commands are performed (R240). -/
def execBatchRetire (group : Nat) (s : State) : Host.Outcome State Fault Refusal :=
  onPart s (fun s => s.modGroup group (fun g =>
    match g.batches with
    | [] => g
    | b :: l => if b.2.any (fun c => (tget s.commands c).isSome) then g else { g with batches := l }))

/-- The batch number after a number: 0 is skipped (R239). -/
def nextBatch (n : BitVec 16) : BitVec 16 := if n + 1 = 0 then 1 else n + 1

/-- `xseal` (R239, R283). -/
def execXseal (sd : SReg) (s : State) : Host.Outcome State Fault Refusal :=
  onSplit s (fun r g sp =>
    if 15 ≤ g.batches.length then stallAt s r sp .seal
    else
      s.setGroup r.gkey
        { g with batches := g.batches ++ [(g.batchNo.toNat, g.openBatch)], openBatch := [], batchNo := nextBatch g.batchNo,
                 splits := tput g.splits r.slot (retire s (writeS sp sd (g.batchNo.setWidth 32)) 2) })

/-- Commands of the group that no xwait has covered yet: those of the open batch and of unretired batches. -/
def Group.uncovered (g : Group) : List Nat := g.openBatch ++ g.batches.flatMap (fun b => b.2)

/-- `xwait n`: it waits until at most n sealed batches are unretired, then takes the deferred fault of a command that it
covers and that this split issued (R240, R283, R335). -/
def execXwait (n : Fin 16) (s : State) : Host.Outcome State Fault Refusal :=
  onSplit s (fun r g sp =>
    if n.val < g.batches.length then stallAt s r sp (.batches n.val)
    else
      let covered := fun (d : Deferred) =>
        match d.cmd with
        | some c => !g.uncovered.contains c
        | none => false
      let sp' := retire s sp 2
      match firstDeferred (sp.deferred.filter covered) with
      | none => s.setSplit r sp'
      | some d =>
        takeDeferred s r { sp' with wait := .held .proceed } d .proceed (sp.deferred.filter (fun x => !covered x)))

end Sys2Proof.Machine
end

