-- ==== Sys2Proof/Machine/Image.lean ====
section
/-! DEFINITION. Images (R366 to R369, R372): the descriptor, the tiles of each level, mode bytes and the decoding and
encoding of tiles; xdecomp at its issue (R282). -/

namespace Sys2Proof.Machine

/-- Bytes of a pixel (R366). -/
def ImageDesc.bpp (d : ImageDesc) : Nat := if d.fmt = 1 then 8 else 4

/-- The fields of an image descriptor from its eight dwords (R366). -/
def parseImage (d : List Nat) : ImageDesc :=
  let w := fun i => d.getD i 0
  { base := (BitVec.ofNat 57 (w 0)).signExtend 64, meta_ := (BitVec.ofNat 57 (w 1)).signExtend 64,
    width := bitsAt (w 2) 0 14, height := bitsAt (w 2) 16 14, fmt := bitsAt (w 2) 32 4, levels := bitsAt (w 2) 36 4,
    wrapX := bitsAt (w 2) 40 2, wrapY := bitsAt (w 2) 42 2, lin := bitsAt (w 2) 44 1 == 1, mipLin := bitsAt (w 2) 45 1 == 1,
    clear := BitVec.ofNat 64 (w 3) }

/-- Reserved fields and values of an image descriptor (R366). -/
def imageReserved (d : List Nat) : Bool :=
  let w := fun i => d.getD i 0
  bitsAt (w 0) 57 7 != 0 || bitsAt (w 1) 57 7 != 0 || bitsAt (w 2) 14 2 != 0 || bitsAt (w 2) 30 2 != 0 ||
  decide (4 ≤ bitsAt (w 2) 32 4) || bitsAt (w 2) 40 2 == 3 || bitsAt (w 2) 42 2 == 3 || bitsAt (w 2) 46 18 != 0 ||
  (d.drop 4).any (fun x => x != 0)

/-- Dwords of some bytes. -/
def dwordsIn (n : Nat) (b : List Byte) : List Nat := (List.range n).map (fun i => ofBytes ((b.drop (8 * i)).take 8))

/-- What an instruction finds when it reads an image descriptor at its issue (R366, R377). -/
inductive ImageRead where
  | got (d : ImageDesc)
  | wait
  | bad (c : FaultCode)
deriving DecidableEq, Repr

/-- Read an image descriptor, through the descriptor cache or not (R366): reserved fields before a misaligned BASE (log entry 29). -/
def readImage (s : State) (w : Who) (m : MemFields) (va : DWord) : State × ImageRead :=
  match readDescriptor s w (cachedFields s m) va 64 with
  | (s, .wait) => (s, .wait)
  | (s, .bad c) => (s, .bad c)
  | (s, .got b) =>
    let d := dwordsIn 8 b
    if imageReserved d then (s, .bad .reservedField)
    else if d.getD 0 0 % 256 != 0 then (s, .bad .align)
    else (s, .got (parseImage d))

/-! ### Levels and tiles (R367) -/

/-- Width and height of a level. -/
def ImageDesc.levelW (d : ImageDesc) (m : Nat) : Nat := max 1 ((d.width + 1) / 2 ^ m)
def ImageDesc.levelH (d : ImageDesc) (m : Nat) : Nat := max 1 ((d.height + 1) / 2 ^ m)

/-- Tiles across and down a level. -/
def ImageDesc.tilesW (d : ImageDesc) (m : Nat) : Nat := (d.levelW m + 7) / 8
def ImageDesc.tilesH (d : ImageDesc) (m : Nat) : Nat := (d.levelH m + 7) / 8

/-- The first tile of a level. -/
def ImageDesc.firstTile (d : ImageDesc) (m : Nat) : Nat := (List.range m).foldl (fun a k => a + d.tilesW k * d.tilesH k) 0

/-- Tiles of the image. -/
def ImageDesc.tiles (d : ImageDesc) : Nat := d.firstTile (d.levels + 1)

/-- The tile of a pixel of a level, and the pixel's index in it. -/
def ImageDesc.tileOf (d : ImageDesc) (m x y : Nat) : Nat := d.firstTile m + y / 8 * d.tilesW m + x / 8
def pixelIn (x y : Nat) : Nat := y % 8 * 8 + x % 8

/-- Addresses of a tile's storage and of its mode byte. -/
def ImageDesc.tileVa (d : ImageDesc) (t : Nat) : DWord := d.base + BitVec.ofNat 64 (64 * d.bpp * t)
def ImageDesc.modeVa (d : ImageDesc) (t : Nat) : DWord := d.meta_ + BitVec.ofNat 64 t

/-! ### Decoding (R368, R369) -/

/-- Pixel i of the stored bytes. -/
def storedPixel (d : ImageDesc) (raw : List Byte) (i : Nat) : DWord :=
  BitVec.ofNat 64 (ofBytes ((raw.drop (d.bpp * i)).take d.bpp))

/-- Pixel i of a delta tile of width w (R369). -/
def deltaPixel (raw : List Byte) (w i : Nat) : DWord :=
  let v := ofBytes raw
  BitVec.ofNat 64 ((List.range 4).foldl (fun a c =>
    let x := bitsAt v (32 + (4 * i + c) * w) w
    let delta : Int := if w = 0 then 0 else (BitVec.ofNat w x).toInt
    a + (((bitsAt v (8 * c) 8 : Int) + delta) % 256).toNat * 256 ^ c) 0)

/-- CLEAR as a pixel. -/
def clearPixel (d : ImageDesc) : DWord := if d.bpp = 8 then d.clear else d.clear &&& 0xFFFFFFFF

/-- Pixel i of a tile from its mode byte and storage (R368). -/
def decodePixel (d : ImageDesc) (mode : Nat) (raw : List Byte) (i : Nat) : DWord :=
  if d.meta_ = 0 then storedPixel d raw i
  else
    match bitsAt mode 6 2 with
    | 0 => storedPixel d raw i
    | 1 => clearPixel d
    | 2 => if d.fmt = 0 ∧ bitsAt mode 4 2 != 3 then deltaPixel raw (2 * bitsAt mode 4 2) i else 0
    | _ => 0

/-- The 64 pixels of a tile. -/
def decodeTile (d : ImageDesc) (mode : Nat) (raw : List Byte) : List DWord := (List.range 64).map (decodePixel d mode raw)

/-- The bytes of some pixels, stored plainly. -/
def plainBytes (d : ImageDesc) (px : List DWord) : List Byte := px.flatMap (fun p => toBytes d.bpp p.toNat)

/-! ### Encoding (R372) -/

/-- Deltas of a tile from its first pixel, as signed 8-bit values. -/
def tileDeltas (px : List DWord) : List Int :=
  let base := px.headD 0
  px.flatMap (fun p => (List.range 4).map (fun c => ((p.extractLsb' (8 * c) 8) - (base.extractLsb' (8 * c) 8)).toInt))

/-- A delta tile's storage of width w. -/
def deltaBytes (px : List DWord) (w sectors : Nat) : List Byte :=
  let v := ((tileDeltas px).zipIdx).foldl (fun (a : Nat) (x : Int × Nat) =>
    a + (x.1 % ((2 ^ w : Nat) : Int)).toNat * 2 ^ (32 + x.2 * w)) ((px.headD 0).toNat % 2 ^ 32)
  toBytes (32 * sectors) v

/-- The mode byte, if one is written, and the bytes written from the tile's first byte (R372). -/
def encodeTile (d : ImageDesc) (px : List DWord) (clearKept : Bool) : Option Nat × List Byte :=
  let ds := tileDeltas px
  let within := fun (lo hi : Int) => ds.all (fun x => decide (lo ≤ x) && decide (x ≤ hi))
  if d.meta_ = 0 then (none, plainBytes d px)
  else if d.fmt != 0 then (some 0x08, plainBytes d px)
  else if clearKept then (none, [])
  else if px.all (fun p => p == px.headD 0) then (some 0x81, deltaBytes px 0 1)
  else if within (-2) 1 then (some 0x93, deltaBytes px 2 3)
  else if within (-8) 7 then (some 0xA5, deltaBytes px 4 5)
  else (some 0x08, plainBytes d px)

/-! ### xdecomp (R282) -/

/-- `xdecomp`: the descriptor is read at issue, and the command joins its batch. -/
def execXdecomp (d : Pair) (first count : SReg) (f : CopyFields) (s : State) : Host.Outcome State Fault Refusal :=
  onSplit s (fun r g sp =>
    let w := whoOf s r g sp
    let va := readD s sp d
    if 256 ≤ (s.core r.core).galley.length then stallAt s r sp .galley
    else
      match readImage s w (copyMem f) va with
      | (t, .wait) => holdDescriptor t w va 0
      | (t, .bad c) => faultScalar t r sp 2 c
      | (t, .got img) =>
        issueCommand t r ((tget t.groups r.gkey).getD g) (retire t sp 2)
          (.decomp img (readS s sp first) (readS s sp count) f) [] sp.pcs)

end Sys2Proof.Machine
end

