-- ==== Sys2Proof/Machine/Copy.lean ====
section
/-! DEFINITION. The copy engine (R277 to R285) and mesh emission (R358 to R360): what each command checks at its issue, and
what it does when it is performed. -/

namespace Sys2Proof.Machine

/-! ### Moves (R279, R284) -/

/-- One side of a move: its space, first byte and row stride; `peer` when it must lie in the remote region. -/
structure CopySide where
  spad : Bool
  base : DWord
  stride : DWord
  peer : Bool
deriving DecidableEq, Repr

/-- A move of bytes in rows, and the tags of the requests of its last piece. -/
structure CopyPlan where
  src : CopySide
  dst : CopySide
  len : Nat                      -- bytes of a row
  count : Nat                    -- rows
  total : Nat
  fields : CopyFields
  readTag : BitVec 16
  writeTag : BitVec 16
deriving DecidableEq, Repr

/-- The move that a command makes, if it makes one (R279, R284). -/
def planOf : CmdKind → Option CopyPlan
  | .copy dir d a len rows sd sa f =>
    some { src := { spad := dir == .sg || dir == .ss, base := a, stride := sa, peer := false },
           dst := { spad := dir == .gs || dir == .ss, base := d, stride := sd, peer := false },
           len := len, count := rows, total := len * rows, fields := f, readTag := 0, writeTag := 0 }
  | .put d a count spad f tag =>
    some { src := { spad := spad, base := a, stride := 0, peer := false },
           dst := { spad := false, base := d, stride := 0, peer := true },
           len := count, count := min 1 count, total := count, fields := f, readTag := 0, writeTag := tag }
  | .get d a count spad f tag =>
    some { src := { spad := false, base := a, stride := 0, peer := true },
           dst := { spad := spad, base := d, stride := 0, peer := false },
           len := count, count := min 1 count, total := count, fields := f, readTag := tag, writeTag := 0 }
  | _ => none

/-- The address of byte p of a move on one side: global modulo 2^64, scratchpad modulo 2^32 (R279). -/
def CopySide.place (x : CopySide) (len p : Nat) : DWord :=
  let a := x.base + x.stride * BitVec.ofNat 64 (p / len) + BitVec.ofNat 64 (p % len)
  if x.spad then a.lo.setWidth 64 else a

/-- Bytes from p that lie in one row and in one line of each global side. -/
def CopyPlan.piece (x : CopyPlan) (p : Nat) : Nat :=
  let one := fun (y : CopySide) (n : Nat) => if y.spad then n else lineLeft (y.place x.len p) n
  one x.dst (one x.src (x.len - p % x.len))

/-- The address of a row of one side (R279). -/
def CopySide.row (y : CopySide) (r : Nat) : Nat :=
  let a := y.base + y.stride * BitVec.ofNat 64 r
  if y.spad then a.lo.toNat else a.toNat

/-- The rows of one side, those of a copy of empty rows among them. -/
def CopyPlan.rows (x : CopyPlan) (y : CopySide) : List Nat := (List.range x.count).map y.row

/-- The check at issue (R280, R253): scratchpad bytes inside the allocation, every global row canonical, empty rows too, no active
barrier word in the destination span. -/
def CopyPlan.check (x : CopyPlan) (w : Workgroup) : Option (FaultCode × DWord) :=
  let out := fun (y : CopySide) => y.spad && x.total != 0 && (x.rows y).any (fun a => decide (w.size < a + x.len))
  let bad := fun (y : CopySide) =>
    if y.spad then none else (x.rows y).findSome? (fun a => if canonical (BitVec.ofNat 64 a) then none else some (BitVec.ofNat 64 a))
  if out x.dst || out x.src then some (.scratchRange, 0)
  else
    match bad x.dst, bad x.src with
    | some a, _ => some (.permission, a)
    | none, some a => some (.permission, a)
    | none, none =>
      let l := x.rows x.dst
      let lo := l.foldl min (2 ^ 32)
      let hi := l.foldl max 0 + x.len
      if x.dst.spad && x.total != 0 && touchesObject w lo hi then some (.barrierObjectWrite, 0) else none

/-- The scoreboard entry of a move: its scratchpad destination span (R280). -/
def CopyPlan.ranges (x : CopyPlan) : List (Nat × Nat) :=
  if x.dst.spad && x.total != 0 then
    let l := x.rows x.dst
    [(l.foldl min (2 ^ 32), l.foldl max 0 + x.len)]
  else []

/-- The issue of a move: its check, its room on the scoreboard, then it joins the open batch (R277, R280, R242). -/
def issueMove (s : State) (r : SplitRef) (g : Group) (sp : Split) (kind : CmdKind) : State :=
  match planOf kind, tget s.wgs g.wg with
  | some x, some w =>
    match x.check w with
    | some (c, a) => faultScalar s r sp 2 c 0 a
    | none =>
      if 32 < (s.core r.core).scoreboard.length + x.ranges.length then stallAt s r sp (.entries x.ranges.length)
      else issueCommand s r g (retire s sp 2) kind x.ranges sp.pcs
  | _, _ => s

/-- The operand that a side's register field names: a pair for a global address, a register for an offset (R278). -/
def sideOf (s : State) (sp : Split) (spad : Bool) (n : SReg) : DWord :=
  if spad then (readS s sp n).setWidth 64 else readD s sp (Fin.ofNat 32 (n.val / 2))

/-- A global side's field is odd (R278). -/
def oddPair (spad : Bool) (n : SReg) : Bool := !spad && n.val % 2 == 1

/-- `xcopy` (R278 to R280). -/
def execXcopy (dir : CopyDir) (d a : SReg) (n k : Pair) (f : CopyFields) (s : State) : Host.Outcome State Fault Refusal :=
  onSplit s (fun r g sp =>
    let dSpad := dir == .gs || dir == .ss
    let aSpad := dir == .sg || dir == .ss
    if oddPair dSpad d || oddPair aSpad a then faultScalar s r sp 2 .regRange
    else
      let shape := readD s sp n
      let len := shape.lo.toNat % 2 ^ 24
      let rows := shape.hi.toNat % 2 ^ 12 + 1
      let strides := readD s sp k
      let packed : DWord := BitVec.ofNat 64 len
      let sa : DWord := if k.val = 0 then packed else strides.lo.signExtend 64
      let sd : DWord := if k.val = 0 then packed else strides.hi.signExtend 64
      issueMove s r g sp (.copy dir (sideOf s sp dSpad d) (sideOf s sp aSpad a) len rows sd sa f))

/-- `xput` (R284). -/
def execXput (d : Pair) (a : SReg) (count : SReg) (spad : Bool) (f : CopyFields) (tag : BitVec 16) (s : State) :
    Host.Outcome State Fault Refusal :=
  onSplit s (fun r g sp =>
    if oddPair spad a then faultScalar s r sp 2 .regRange
    else issueMove s r g sp (.put (readD s sp d) (sideOf s sp spad a) (readS s sp count).toNat spad f tag))

/-- `xget` (R284). -/
def execXget (d : SReg) (a : Pair) (count : SReg) (spad : Bool) (f : CopyFields) (tag : BitVec 16) (s : State) :
    Host.Outcome State Fault Refusal :=
  onSplit s (fun r g sp =>
    if oddPair spad d then faultScalar s r sp 2 .regRange
    else issueMove s r g sp (.get (sideOf s sp spad d) (readD s sp a) (readS s sp count).toNat spad f tag))

/-- Commands that a group has issued and that are not yet performed. -/
def State.commandsOf (s : State) (gkey : Nat) : List Nat :=
  (s.commands.filter (fun e => e.2.ref.gkey == gkey)).map (fun e => e.1)

/-- `xsig` (R285): ALIGN at issue; performed after every command that the group issued before it. -/
def execXsig (d v : Pair) (set : Bool) (f : CopyFields) (tag : BitVec 16) (s : State) : Host.Outcome State Fault Refusal :=
  onSplit s (fun r g sp =>
    let a := readD s sp d
    if !canonical a then faultScalar s r sp 2 .permission 0 a
    else if a.toNat % 8 != 0 then faultScalar s r sp 2 .align 0 a
    else
      issueCommand s r g (retire s sp 2) (.signal a (readD s sp v) set f tag (s.commandsOf r.gkey)) [] sp.pcs)

/-! ### Performing a move -/

/-- Where one piece of a global side lies: its leaf, or a remote rank, window and offset. -/
inductive CopyEnd where
  | memory (l : Leaf)
  | away (rank window offset : Nat) (gen : BitVec 16)
  | absent
  | bad (c : FaultCode)
deriving DecidableEq, Repr

/-- Translate one piece of a global side (R260, R280, R284, R338). -/
def copyEnd (s : State) (w : Who) (peer : Bool) (va : DWord) (u : PageUse) : State × CopyEnd :=
  if !canonical va then (s, .bad .permission)
  else if pageHeld s w.ref.core w.gkey (pageOf va) then (s, .absent)
  else
    match translate s (some w.ref.core) w.ctx va u with
    | (s, .error .pageNotPresent) => (s, .absent)
    | (s, .error e) => (s, .bad e)
    | (s, .ok l) =>
      match regionOf l.pa with
      | .memory _ => if peer then (s, .bad .permission) else (s, .memory l)
      | .remote rank window offset =>
        match importGen s rank window with
        | some gen => (s, .away rank window offset gen)
        | none => (s, .bad .permission)
      | _ => (s, .bad .permission)

/-- A command stalls at a page, unless the galley is full: then its engine starts no new page (R280, R339). -/
def copyStall (s : State) (id : Nat) (c : Command) (va : DWord) (write : Bool) : State :=
  if 256 ≤ (s.core c.ref.core).galley.length then s else stallCommand s id c va write

/-- Each source byte is the one that stood there before the command or the one that stands there now (R281). -/
def mixBytes (nonce salt : Nat) (a b : List Byte) : List Byte :=
  ((a.zip b).zipIdx).map (fun x => if Config.freeBit nonce (salt + x.2) then x.1.1 else x.1.2)

/-- Scratchpad bytes of a workgroup. -/
def readScratch (s : State) (wg a n : Nat) : List Byte :=
  match tget s.wgs wg with
  | some w => w.scratch.readBytes a n
  | none => List.replicate n 0

/-- Put bytes of a copy command into a workgroup's scratchpad. -/
def putScratch (s : State) (id wg a : Nat) (b : List Byte) : State :=
  { s with wgs := tmod s.wgs wg (fun w => scratchPut s wg w (some id) a b) }

/-- A request of a command to a peer (R258, R284). -/
def sendFor (s : State) (id : Nat) (w : Who) (rank window offset size p : Nat) (gen : BitVec 16) (op : PeerOp) (tag : BitVec 16) :
    State :=
  let n := s.serial
  let s := sendRemote s w rank window offset size p gen op tag false (.command id)
  { s with commands := tmod s.commands id (fun c => { c with remote := c.remote ++ [n] }) }

/-- A command has moved its bytes up to p. -/
def State.advance (s : State) (id p : Nat) : State :=
  { s with commands := tmod s.commands id (fun c => { c with progress := max c.progress p }) }

/-- The bytes of a piece are read one by one, each a separate access (R235). -/
def loadEach (s : State) (w : Who) (m : MemFields) (l : Leaf) (n : Nat) : State × List Byte :=
  (List.range n).foldl (fun (x : State × List Byte) i =>
    let (s, b) := loadMem x.1 w m { l with pa := l.pa + i } 1
    (s, x.2 ++ b)) (s, [])

/-- The bytes of a piece are written one by one, each a separate access (R235, R246). -/
def storeEach (s : State) (w : Who) (m : MemFields) (l : Leaf) (bytes : List Byte) : State :=
  bytes.zipIdx.foldl (fun s b => storeQuiet s w m { l with pa := l.pa + b.2 } [b.1]) s

/-- Put the bytes of the piece at p into the destination of a move. `again` is the progress to go back to when the page has
gone. -/
def placePiece (s : State) (id : Nat) (c : Command) (x : CopyPlan) (p : Nat) (bytes : List Byte) (again : Nat) : State :=
  let w := whoseCommand s c
  let va := x.dst.place x.len p
  let n := bytes.length
  if x.dst.spad then (putScratch s id c.wg va.toNat bytes).advance id (p + n)
  else
    match copyEnd s w x.dst.peer va .store with
    | (s, .absent) =>
      let c := { c with progress := again }
      copyStall { s with commands := tput s.commands id c } id c va true
    | (s, .bad e) => failCommand s id e va 0
    | (s, .memory l) => (storeEach s w (copyMem x.fields) l bytes).advance id (p + n)
    | (s, .away rank window offset gen) =>
      (sendFor s id w rank window offset n p gen (.write bytes) (if x.total ≤ p + n then x.writeTag else 0)).advance id (p + n)

/-- The destination of a piece that a peer will answer must not be absent now. -/
def destinationAbsent (s : State) (c : Command) (x : CopyPlan) (p : Nat) : Bool :=
  !x.dst.spad && (match (copyEnd s (whoseCommand s c) x.dst.peer (x.dst.place x.len p) .store).2 with
    | .absent => true
    | _ => false)

/-- Move the piece at a command's progress; `s0` is the state in which this performance began. -/
def movePiece (s0 s : State) (id : Nat) (c : Command) (x : CopyPlan) : State :=
  let w := whoseCommand s c
  let p := c.progress
  let n := x.piece p
  let va := x.src.place x.len p
  if x.src.spad then
    placePiece s id c x p (mixBytes s0.fresh p (readScratch s0 c.wg va.toNat n) (readScratch s c.wg va.toNat n)) p
  else
    match copyEnd s w x.src.peer va .load with
    | (s, .absent) => copyStall s id c va false
    | (s, .bad e) => failCommand s id e va 0
    | (s, .memory l) =>
      if s.poisonedAt l.pa n then failCommand s id .eccUncorrected va 0
      else
        let (t, now) := loadEach (ackOverlaps s w.ref.core l.pa n) w (copyMem x.fields) l n
        placePiece t id c x p (mixBytes s0.fresh p (loadEach s0 w (copyMem x.fields) l n).2 now) p
    | (s, .away rank window offset gen) =>
      if destinationAbsent s c x p then copyStall s id c (x.dst.place x.len p) true
      else
        (sendFor s id w rank window offset n p gen .read (if x.total ≤ p + n then x.readTag else 0)).advance id (p + n)

/-- The piece carries a tag, and requests before it are not yet acknowledged: the tag goes with the last one (R284, R403). -/
def tagWaits (c : Command) (x : CopyPlan) : Bool :=
  (x.readTag != 0 || x.writeTag != 0) && decide (x.total ≤ c.progress + x.piece c.progress) && !c.remote.isEmpty

/-- A command whose accesses have all been made: it is done when every peer has answered; until then it has left the part
when what it waits for is at a peer's memory (R257). -/
def endMove (s : State) (id : Nat) (c : Command) (leaves : Bool) : State :=
  if c.remote.isEmpty then finishCommand s id
  else if leaves && !c.sent && !s.remotes.any (fun e => c.remote.contains e.1 && e.2.request.op == .read) then
    endWorkgroup { s with commands := tput s.commands id { c with sent := true } } c.wg
  else s

/-- Move pieces until the move ends or stalls. -/
def moveAll (s0 : State) (id : Nat) (x : CopyPlan) : Nat → State → State
  | 0, s => s
  | fuel + 1, s =>
    match tget s.commands id with
    | none => s
    | some c =>
      if x.total ≤ c.progress then endMove s id c x.dst.peer
      else if c.page.isSome || tagWaits c x then s
      else
        let t := movePiece s0 s id c x
        let stuck : Bool := match tget t.commands id with
          | some d => d.progress == c.progress
          | none => true
        if stuck then t else moveAll s0 id x fuel t

/-- A peer answers a request of a move: the data of a read goes to its destination (R258, R284). -/
def moveAnswered (s : State) (id : Nat) (c : Command) (x : CopyPlan) (m : Remote) (data : List Byte) : State :=
  match m.request.op with
  | .read =>
    let later := s.remotes.filter (fun e => c.remote.contains e.1)
    let again := later.foldl (fun a e => min a e.2.lane) m.lane
    let s' := placePiece s id c x m.lane (data.take m.request.size) again
    match tget s'.commands id with
    | some d =>
      if d.page.isSome || decide (d.progress < c.progress) then
        -- the destination's page has gone: what is not yet placed is read again
        { s' with commands := tput s'.commands id { d with progress := again, remote := [] },
                  remotes := s'.remotes.filter (fun e => !c.remote.contains e.1) }
      else s'
    | none => s'
  | _ => s

/-! ### Signals, decompression and emission when performed (R282, R285, R360) -/

/-- Perform an xsig once every command before it has been performed (R285). -/
def performSignal (s : State) (id : Nat) (c : Command) (d v : DWord) (set : Bool) (tag : BitVec 16) (after : List Nat) : State :=
  if c.progress != 0 then endMove s id c true
  else if after.any (fun k => (tget s.commands k).isSome) then s
  else
    let w := whoseCommand s c
    match copyEnd s w true d .store with
    | (s, .absent) => copyStall s id c d true
    | (s, .bad e) => failCommand s id e d 0
    | (s, .memory _) => s
    | (s, .away rank window offset gen) =>
      let s := (sendFor s id w rank window offset 8 0 gen (if set then .set v else .atomic 0 v 0) tag).advance id 1
      match tget s.commands id with
      | some c => endMove s id c true
      | none => s

/-- The outcome of a unit's access by a command: it goes on, stalls or stops (R280). -/
def commandError (s : State) (id : Nat) (c : Command) (va : DWord) (write : Bool) (e : FaultCode) : State :=
  match e with
  | .pageNotPresent => copyStall s id c va write
  | e => failCommand s id e va 0

/-- The page at which an access of n bytes stops first. -/
def firstAbsent (s : State) (w : Who) (va : DWord) (n : Nat) (u : PageUse) : DWord :=
  ((List.range (n / 4096 + 2)).map (fun k => if k = 0 then va else BitVec.ofNat 64 ((va.toNat / 4096 + k) * 4096))).find? (fun a =>
    pageHeld s w.ref.core w.gkey (pageOf a) || (match (translate s (some w.ref.core) w.ctx a u).2 with
      | .error .pageNotPresent => true
      | _ => false)) |>.getD va

/-- Stored bytes of a tile that its mode byte needs (R368, R369). -/
def tileBytes (img : ImageDesc) (mode : Nat) : Nat :=
  if img.meta_ = 0 then 64 * img.bpp
  else
    match bitsAt mode 6 2 with
    | 0 => 64 * img.bpp
    | 2 => if img.fmt = 0 ∧ bitsAt mode 4 2 != 3 then 4 + 64 * bitsAt mode 4 2 else 0
    | _ => 0

/-- Decompress one tile (R282). -/
def decompTile (s : State) (id : Nat) (c : Command) (img : ImageDesc) (f : CopyFields) (t : Nat) : State :=
  let w := whoseCommand s c
  let m := copyMem f
  let next := fun (s : State) => s.advance id (c.progress + 1)
  if img.tiles ≤ t ∨ img.meta_ = 0 then next s
  else
    match agentRead s w m (img.modeVa t) 1 with
    | (s, .error e) => commandError s id c (img.modeVa t) false e
    | (s, .ok b) =>
      let mode := ofBytes b
      if bitsAt mode 6 2 = 0 ∨ bitsAt mode 6 2 = 3 then next s
      else
        let n := tileBytes img mode
        match agentRead s w m (img.tileVa t) n with
        | (s, .error e) => commandError s id c (firstAbsent s w (img.tileVa t) n .load) false e
        | (s, .ok raw) =>
          match agentWrite s w m (img.tileVa t) (plainBytes img (decodeTile img mode raw)) with
          | (s, .error e) => commandError s id c (firstAbsent s w (img.tileVa t) (64 * img.bpp) .store) true e
          | (s, .ok _) =>
            match agentWrite s w m (img.modeVa t) [0x08] with
            | (s, .error e) => commandError s id c (img.modeVa t) true e
            | (s, .ok _) => next s

/-- Decompress tiles until the command ends or stalls (R282). -/
def decompAll (id : Nat) (img : ImageDesc) (first count : Word) (f : CopyFields) : Nat → State → State
  | 0, s => s
  | fuel + 1, s =>
    match tget s.commands id with
    | none => s
    | some c =>
      if count.toNat ≤ c.progress then (if unitsAway s c then s else finishCommand s id)
      else
        let t := decompTile s id c img f ((first.toNat + c.progress) % 2 ^ 32)
        let stuck : Bool := match tget t.commands id with
          | some d => d.progress == c.progress
          | none => true
        if stuck then t else decompAll id img first count f fuel t

/-- The fields under which gemit writes (R360). -/
def emitFields (code : Fin 32) : MemFields := { unitFields with code := code }

/-- A record as an entry of the buffer: SEQ written, bytes 60 to 63 zero (R360). -/
def emitRecord (s : State) (wg base q i : Nat) : List Byte :=
  (readScratch s wg (base + 64 * i) 56) ++ toBytes 4 ((q + i) % 2 ^ 32) ++ [0, 0, 0, 0]

/-- Emit one record: entry `first + i`, or OVF at or beyond CAP (R360). -/
def emitOne (s : State) (id : Nat) (c : Command) (base q i : Nat) (buf : DWord) (cap : Nat) (desc : DWord) (code : Fin 32) : State :=
  let w := whoseCommand s c
  let next := fun (s : State) => s.advance id (c.progress + 1)
  let slot := c.aux + i
  if cap ≤ slot then
    match agentAtomic s w unitFields (desc + 20) 2 4 1 with
    | (s, .error e) => commandError s id c (desc + 20) true e
    | (s, .ok _) => next s
  else
    let va := buf + BitVec.ofNat 64 (64 * slot)
    match agentWrite s w (emitFields code) va (emitRecord s c.wg base q i) with
    | (s, .error e) => commandError s id c va true e
    | (s, .ok _) => next s

/-- Perform a gemit: progress 0 is the claim, progress i + 1 its record i (R360). -/
def emitAll (id base n q : Nat) (buf : DWord) (cap : Nat) (desc : DWord) (code : Fin 32) : Nat → State → State
  | 0, s => s
  | fuel + 1, s =>
    match tget s.commands id with
    | none => s
    | some c =>
      if n = 0 ∨ n < c.progress then (if unitsAway s c then s else finishCommand s id)
      else
        let t :=
          if c.progress = 0 then
            match agentAtomic s (whoseCommand s c) unitFields (desc + 16) 0 4 (BitVec.ofNat 64 n) with
            | (s, .error e) => commandError s id c (desc + 16) true e
            | (s, .ok old) =>
              { s with commands := tmod s.commands id (fun c => { c with progress := 1, aux := old.toNat % 2 ^ 32 }) }
          else emitOne s id c base q (c.progress - 1) buf cap desc code
        let stuck : Bool := match tget t.commands id with
          | some d => d.progress == c.progress
          | none => true
        if stuck then t else emitAll id base n q buf cap desc code fuel t

/-- What is left of a command starts on a page (R339). -/
def startsPage (c : Command) : Bool :=
  match c.kind with
  | .signal _ _ _ _ _ _ => c.progress == 0
  | k =>
    match planOf k with
    | some x => decide (c.progress < x.total) && !(x.src.spad && x.dst.spad)
    | none => true

/-- Perform a command of the copy engine as far as it goes; while the galley is full the engine starts no new page (R339). -/
def performCopy (s : State) (id : Nat) : State :=
  match tget s.commands id with
  | none => s
  | some c =>
    if c.page.isSome || decide (256 ≤ (s.core c.ref.core).galley.length) && startsPage c then s
    else
      match c.kind with
      | .signal d v set _ tag after => performSignal s id c d v set tag after
      | .decomp img first count f => decompAll id img first count f (count.toNat + 1) s
      | .emit base n q buf cap desc code => emitAll id base n q buf cap desc code (n + 2) s
      | k =>
        match planOf k with
        | some x => moveAll s id x (x.total + 1) s
        | none => s

/-- COPY_COMMAND_PERFORM: the copy engine performs the accesses of command k (R277, R280). -/
def execCopyCommandPerform (k : Nat) (s : State) : Host.Outcome State Fault Refusal := onPart s (fun s => performCopy s k)

/-- A peer answers a request of command `id` (R258, R284, R285). The request has left the table of remote requests. -/
def commandAnswered (s : State) (id n : Nat) (m : Remote) (data : List Byte) : State :=
  match tget s.commands id with
  | none => s
  | some c =>
    let c := { c with remote := c.remote.filter (fun k => k != n) }
    let s := { s with commands := tput s.commands id c }
    match c.kind, planOf c.kind with
    | .signal _ _ _ _ _ _, _ => endMove s id c true
    | _, some x =>
      let s := moveAnswered s id c x m data
      match tget s.commands id with
      | some c => if x.total ≤ c.progress && c.page.isNone then endMove s id c x.dst.peer else s
      | none => s
    | _, none => s

/-! ### gemit at issue (R360) -/

/-- `gemit`: its checks at issue, its descriptor, then it joins the open batch (R357, R360). -/
def execGemit (ss sn sq : SReg) (code : Fin 32) (s : State) : Host.Outcome State Fault Refusal :=
  onSplit s (fun r g sp =>
    match s.nodeOf g, tget s.wgs g.wg with
    | some nd, some wg =>
      let base := (readS s sp ss).toNat
      let n := (readS s sp sn).toNat
      let q := (readS s sp sq).toNat
      let desc := nd.args
      let w := whoOf s r g sp
      if !(nd.desc.gfx && nd.desc.gstage == 1) then faultScalar s r sp 2 .illegalOpcode
      else if base % 64 != 0 then faultScalar s r sp 2 .align
      else if 4096 < n then faultScalar s r sp 2 .reservedField
      else if 0 < n ∧ wg.size < base + 64 * n then faultScalar s r sp 2 .scratchRange
      else if 256 ≤ (s.core r.core).galley.length then stallAt s r sp .galley
      else
        match readDescriptor s w unitFields desc 32 with
        | (t, .wait) => holdDescriptor t w desc 0
        | (t, .bad c) => faultScalar t r sp 2 c 0 desc
        | (t, .got b) =>
          let d := dwordsIn 4 b
          let d0 := d.getD 0 0
          let d1 := d.getD 1 0
          if d0 % 64 != 0 then faultScalar t r sp 2 .align
          else if bitsAt d0 57 7 != 0 ∨ bitsAt d1 32 32 != 0 ∨ bitsAt (d.getD 2 0) 33 31 != 0 ∨ d.getD 3 0 != 0 then
            faultScalar t r sp 2 .reservedField
          else
            let buf : DWord := (BitVec.ofNat 57 d0).signExtend 64
            issueCommand t r ((tget t.groups r.gkey).getD g) (retire t sp 2)
              (.emit base n q buf (d1 % 2 ^ 32) desc code) [] sp.pcs
    | _, _ => s)

end Sys2Proof.Machine
end

