-- ==== Sys2Proof/Machine/Control.lean ====
section
/-! DEFINITION. The meanings of the branches, calls, special registers, masks and condition registers of the scalar
stream (R141 to R143, R151 to R159), and of sgetl and sgetr. -/

namespace Sys2Proof.Machine

/-! ### Branches (R69, R70, R141, R142) -/

/-- A short branch: the scalar PC moves when taken, the lane PC never (R70, R141). -/
def shortBranch (s : State) (off : Word) (taken : State → Split → Bool) : Host.Outcome State Fault Refusal :=
  onSplit s (fun r _ sp =>
    s.setSplit r (retireTo s sp (if taken s sp then sp.spc + off else sp.spc + 1) sp.lpc))

/-- A long branch: both PCs move when taken (R141). -/
def longBranch (s : State) (so lo : BitVec 16) (taken : State → Split → Bool) : Host.Outcome State Fault Refusal :=
  onSplit s (fun r _ sp =>
    s.setSplit r (if taken s sp then retireTo s sp (sp.spc + so.signExtend 32) (sp.lpc + lo.signExtend 32)
                  else retire s sp 2))

/-- The comparison of two registers (R141). -/
def cmpTaken (c : Cond) (sa sb : SReg) (s : State) (sp : Split) : Bool := condHolds c (readS s sp sa) (readS s sp sb)

/-- The mask conditions (R69). -/
def maskZero (s : State) (sp : Split) : Bool := execMask s sp == 0
def maskFull (s : State) (sp : Split) : Bool := execMask s sp == sp.lanes

/-- No result in flight of the split writes s60, s61 or s62. -/
def maskSettled (sp : Split) : Bool :=
  !sp.inflight.any (fun f => f.writes.any (fun w =>
    match w with
    | .scalar n _ _ => decide (60 ≤ n) && decide (n ≤ 62)
    | _ => false))

/-- A branch on the mask waits until every earlier write of s60 to s62 has completed (R142). -/
def onMask (s : State) (o : Host.Outcome State Fault Refusal) : Host.Outcome State Fault Refusal :=
  match s.running with
  | some (_, _, sp) => if maskSettled sp then o else onSplit s (fun r _ sp => stallAt s r sp .mask)
  | none => o

/-- `sbeq` (R141). -/
def execSbeq (sa sb : SReg) (off : BitVec 14) (s : State) : Host.Outcome State Fault Refusal :=
  shortBranch s (off.signExtend 32) (cmpTaken .eq sa sb)

/-- `sbeq`, the long form (R141). -/
def execSbeqLong (sa sb : SReg) (so lo : BitVec 16) (s : State) : Host.Outcome State Fault Refusal :=
  longBranch s so lo (cmpTaken .eq sa sb)

/-- `sbne` (R141). -/
def execSbne (sa sb : SReg) (off : BitVec 14) (s : State) : Host.Outcome State Fault Refusal :=
  shortBranch s (off.signExtend 32) (cmpTaken .ne sa sb)

/-- `sbne`, the long form (R141). -/
def execSbneLong (sa sb : SReg) (so lo : BitVec 16) (s : State) : Host.Outcome State Fault Refusal :=
  longBranch s so lo (cmpTaken .ne sa sb)

/-- `sblt` (R141). -/
def execSblt (sa sb : SReg) (off : BitVec 14) (s : State) : Host.Outcome State Fault Refusal :=
  shortBranch s (off.signExtend 32) (cmpTaken .lt sa sb)

/-- `sblt`, the long form (R141). -/
def execSbltLong (sa sb : SReg) (so lo : BitVec 16) (s : State) : Host.Outcome State Fault Refusal :=
  longBranch s so lo (cmpTaken .lt sa sb)

/-- `sbge` (R141). -/
def execSbge (sa sb : SReg) (off : BitVec 14) (s : State) : Host.Outcome State Fault Refusal :=
  shortBranch s (off.signExtend 32) (cmpTaken .ge sa sb)

/-- `sbge`, the long form (R141). -/
def execSbgeLong (sa sb : SReg) (so lo : BitVec 16) (s : State) : Host.Outcome State Fault Refusal :=
  longBranch s so lo (cmpTaken .ge sa sb)

/-- `sbltu` (R141). -/
def execSbltu (sa sb : SReg) (off : BitVec 14) (s : State) : Host.Outcome State Fault Refusal :=
  shortBranch s (off.signExtend 32) (cmpTaken .ltu sa sb)

/-- `sbltu`, the long form (R141). -/
def execSbltuLong (sa sb : SReg) (so lo : BitVec 16) (s : State) : Host.Outcome State Fault Refusal :=
  longBranch s so lo (cmpTaken .ltu sa sb)

/-- `sbgeu` (R141). -/
def execSbgeu (sa sb : SReg) (off : BitVec 14) (s : State) : Host.Outcome State Fault Refusal :=
  shortBranch s (off.signExtend 32) (cmpTaken .geu sa sb)

/-- `sbgeu`, the long form (R141). -/
def execSbgeuLong (sa sb : SReg) (so lo : BitVec 16) (s : State) : Host.Outcome State Fault Refusal :=
  longBranch s so lo (cmpTaken .geu sa sb)

/-- `sbr` (R69, R141). -/
def execSbr (off : BitVec 22) (s : State) : Host.Outcome State Fault Refusal := shortBranch s (off.signExtend 32) (fun _ _ => true)

/-- `sbr`, the long form (R69, R141). -/
def execSbrLong (so lo : BitVec 16) (s : State) : Host.Outcome State Fault Refusal := longBranch s so lo (fun _ _ => true)

/-- `sbmz` (R69, R141). -/
def execSbmz (off : BitVec 22) (s : State) : Host.Outcome State Fault Refusal := onMask s (shortBranch s (off.signExtend 32) maskZero)

/-- `sbmz`, the long form (R69, R141). -/
def execSbmzLong (so lo : BitVec 16) (s : State) : Host.Outcome State Fault Refusal := onMask s (longBranch s so lo maskZero)

/-- `sbmnz` (R69, R141). -/
def execSbmnz (off : BitVec 22) (s : State) : Host.Outcome State Fault Refusal :=
  onMask s (shortBranch s (off.signExtend 32) (fun s sp => !maskZero s sp))

/-- `sbmnz`, the long form (R69, R141). -/
def execSbmnzLong (so lo : BitVec 16) (s : State) : Host.Outcome State Fault Refusal :=
  onMask s (longBranch s so lo (fun s sp => !maskZero s sp))

/-- `sbmall` (R69, R141). -/
def execSbmall (off : BitVec 22) (s : State) : Host.Outcome State Fault Refusal := onMask s (shortBranch s (off.signExtend 32) maskFull)

/-- `sbmall`, the long form (R69, R141). -/
def execSbmallLong (so lo : BitVec 16) (s : State) : Host.Outcome State Fault Refusal := onMask s (longBranch s so lo maskFull)

/-- `sbmnall` (R69, R141). -/
def execSbmnall (off : BitVec 22) (s : State) : Host.Outcome State Fault Refusal :=
  onMask s (shortBranch s (off.signExtend 32) (fun s sp => !maskFull s sp))

/-- `sbmnall`, the long form (R69, R141). -/
def execSbmnallLong (so lo : BitVec 16) (s : State) : Host.Outcome State Fault Refusal :=
  onMask s (longBranch s so lo (fun s sp => !maskFull s sp))

/-! ### Calls and returns (R143) -/

/-- Write a return pair; s[0:1] takes nothing at all, not even s1 (R143). -/
def writeReturn (sp : Split) (pd : Pair) (spc lpc : Word) : Split :=
  if pd.val = 0 then sp else writeD sp pd (DWord.ofWords lpc spc)

/-- `scall` (R143). -/
def execScall (pd : Pair) (so lo : BitVec 16) (s : State) : Host.Outcome State Fault Refusal :=
  onSplit s (fun r _ sp =>
    s.setSplit r (retireTo s (writeReturn sp pd (sp.spc + 2) sp.lpc) (sp.spc + so.signExtend 32) (sp.lpc + lo.signExtend 32)))

/-- `scalli`: the target is read before the return pair is written (R143). -/
def execScalli (pd pa : Pair) (s : State) : Host.Outcome State Fault Refusal :=
  onSplit s (fun r _ sp =>
    let t := readD s sp pa
    s.setSplit r (retireTo s (writeReturn sp pd (sp.spc + 1) sp.lpc) t.lo t.hi))

/-- `sret` (R143). -/
def execSret (pa : Pair) (s : State) : Host.Outcome State Fault Refusal :=
  onSplit s (fun r _ sp =>
    let t := readD s sp pa
    s.setSplit r (retireTo s sp t.lo t.hi))

/-! ### Special registers (R92, R93, R151, R152) -/

/-- The reuse clock of a group's workgroup. -/
def rckOf (s : State) (g : Group) : BitVec 16 :=
  match tget s.wgs g.wg with
  | some w => w.rck
  | none => 0

/-- A special register other than cyc, zero-extended (R92, R93). -/
def readSpecial (s : State) (r : SplitRef) (g : Group) (sp : Split) (k : SpecialReg) : Word :=
  match k with
  | .cyc => 0
  | .rck => (rckOf s g).setWidth 32
  | .lt => (s.core r.core).lt.setWidth 32
  | .lease => (s.core r.core).lease.setWidth 32
  | .ustat => sp.ustat.setWidth 32
  | .fpstat => sp.fpstat.setWidth 32
  | .splitid => BitVec.ofNat 32 r.slot
  | .rptidx => sp.rptidx.setWidth 32

/-- `sgetsr`: cyc fills the pair that sd begins, the others one register (R92, R151). A read of lease, whose access R93 calls privileged
RW, faults in no node: R92 names a fate for a privileged write only; the model's choice (log entry 76). -/
def execSgetsr (sd : SReg) (k : SpecialReg) (s : State) : Host.Outcome State Fault Refusal :=
  onSplit s (fun r g sp =>
    let sp' := if k = .cyc then writeD sp (Fin.ofNat 32 (sd.val / 2)) (BitVec.ofNat 64 s.cyc)
               else writeS sp sd (readSpecial s r g sp k)
    s.setSplit r (retire s sp' 1))

/-- `ssetsr`: a read-only register, and a privileged write from an unprivileged node, raise PERMISSION (R92); a write of
lt is the ltbase write (R249); a write of 0 to lease sets 1 (R93). -/
def execSsetsr (k : SpecialReg) (sa : SReg) (s : State) : Host.Outcome State Fault Refusal :=
  onSplit s (fun r g sp =>
    let v := readS s sp sa
    match k with
    | .ustat => s.setSplit r (retire s { sp with ustat := v.setWidth 2 } 1)
    | .fpstat => s.setSplit r (retire s { sp with fpstat := v.setWidth 5 } 1)
    | .lt => if privileged s g then (ltbase s (v.setWidth 16)).setSplit r (retire s sp 1) else faultScalar s r sp 1 .permission
    | .lease =>
      if privileged s g then
        let x : BitVec 16 := v.setWidth 16
        (s.modCore r.core (fun c => { c with lease := if x = 0 then 1 else x })).setSplit r (retire s sp 1)
      else faultScalar s r sp 1 .permission
    | .cyc | .rck | .splitid | .rptidx => faultScalar s r sp 1 .permission)

/-- Width of work-identifier field k of a node, and the bits below it (R53). -/
def fieldAt (n : Node) (k : Nat) : Nat × Nat := ((n.desc.w.take k).foldl (· + ·) 0, n.desc.w.getD k 0)

/-- Field k of a group's work identifier: zero for k = 0 and in a free-thread node (R56, R153). -/
def swidValue (s : State) (g : Group) (k : Nat) : Word :=
  match tget s.nodes g.node with
  | none => 0
  | some n =>
    if k = 0 ∨ n.desc.free then 0
    else BitVec.ofNat 32 (bitsAt g.wid.toNat (fieldAt n k).1 (fieldAt n k).2)

/-- `swid` (R56, R153). -/
def execSwid (sd : SReg) (k : Fin 6) (s : State) : Host.Outcome State Fault Refusal :=
  onSplit s (fun r g sp => s.setSplit r (retire s (writeS sp sd (swidValue s g k.val)) 1))

/-! ### The reuse clock (R154, R155, R214) -/

/-- CPT after a tick of total T, D cycles after the last (R214). -/
def cptAfter (cpt d t : Nat) : Nat :=
  let q := min (d / t) 65535
  let c : Int := (cpt : Int) + ((q : Int) - (cpt : Int)) / 8
  max c.toNat 1

/-- A tick of a workgroup's clock (R154, R214). -/
def tick (cyc t : Nat) (w : Workgroup) : Workgroup :=
  if t = 0 then w
  else
    { w with rck := BitVec.ofNat 16 (w.rck.toNat + t), cpt := BitVec.ofNat 16 (cptAfter w.cpt.toNat (cyc - w.lastTick) t),
             lastTick := cyc }

/-- `stick` (R154, R155): sa adds its whole value, and the sum is cut to 16 bits. -/
def execStick (sa : SReg) (imm : BitVec 14) (s : State) : Host.Outcome State Fault Refusal :=
  onSplit s (fun r g sp =>
    { s.setSplit r (retire s sp 1) with
      wgs := tmod s.wgs g.wg (tick s.cyc ((readS s sp sa).toNat + imm.toNat)) })

/-! ### Exec masks and condition registers (R156, R157) -/

/-- Write {s62, s61, s60} by an instruction (R156, R132). -/
def writeMask (sp : Split) (m : LaneMask) : Split :=
  writeS (writeS (writeS sp 60 (beatOf m 0)) 61 (beatOf m 1)) 62 (beatOf m 2)

/-- `sexec.set` (R156). -/
def execSexecSet (n : Fin 4) (s : State) : Host.Outcome State Fault Refusal :=
  onSplit s (fun r g sp => s.setSplit r (retire s (writeMask sp (readVc s g n)) 1))

/-- `sexec.and` (R156). -/
def execSexecAnd (n : Fin 4) (s : State) : Host.Outcome State Fault Refusal :=
  onSplit s (fun r g sp => s.setSplit r (retire s (writeMask sp (execMask s sp &&& readVc s g n)) 1))

/-- `sexec.andn` (R156). -/
def execSexecAndn (n : Fin 4) (s : State) : Host.Outcome State Fault Refusal :=
  onSplit s (fun r g sp => s.setSplit r (retire s (writeMask sp (execMask s sp &&& ~~~readVc s g n)) 1))

/-- `sgetc` (R157). -/
def execSgetc (sd : SReg) (n : Fin 4) (beat : Fin 3) (s : State) : Host.Outcome State Fault Refusal :=
  onSplit s (fun r g sp => s.setSplit r (retire s (writeS sp sd (beatOf (readVc s g n) beat.val)) 1))

/-- The lanes of one beat. -/
def beatMask (k : Nat) : LaneMask := BitVec.ofNat 96 ((2 ^ 32 - 1) * 2 ^ (32 * k))

/-- A word as the bits of one beat. -/
def beatBits (v : Word) (k : Nat) : LaneMask := BitVec.ofNat 96 (v.toNat * 2 ^ (32 * k))

/-- `ssetc`: only lanes of the split's lane set (R157). -/
def execSsetc (n : Fin 4) (beat : Fin 3) (sa : SReg) (s : State) : Host.Outcome State Fault Refusal :=
  onSplit s (fun r g sp =>
    let g := { g with splits := tput g.splits r.slot (retire s sp 1) }
    s.setGroup r.gkey (writeVc g n (sp.lanes &&& beatMask beat.val) (beatBits (readS s sp sa) beat.val)))

/-! ### Exact accumulators (R131, R159) -/

/-- VAL as a number. -/
def Exact.value (x : Exact) : Q := (Q.ofInt x.sum.toInt).scale (-149)

/-- The f32 read of an accumulator (R131). -/
def exactF32 (x : Exact) : FloatResult :=
  if x.nan || (x.pinf && x.ninf) then ⟨0x7FC00000, flagNV⟩
  else if x.pinf then ⟨0x7F800000, 0⟩
  else if x.ninf then ⟨0xFF800000, 0⟩
  else deliver .f32 .rne false false x.value

/-- The i32 read of an accumulator (R131). -/
def exactI32 (x : Exact) : Word × BitVec 5 :=
  if x.nan || (x.pinf && x.ninf) then (0, flagNV)
  else if x.pinf then (0x7FFFFFFF, flagNV)
  else if x.ninf then (0x80000000, flagNV)
  else
    let (n, f) := floatToInt .rne (-2147483648) 2147483647 (.fin (decide (x.value.num < 0)) x.value.abs)
    (BitVec.ofInt 32 n, f)

/-- `sxget.f32` (R131, R159). -/
def execSxgetF32 (sd : SReg) (n : Fin 2) (s : State) : Host.Outcome State Fault Refusal :=
  onSplit s (fun r g sp =>
    let x := exactF32 g.xa[n]
    s.setSplit r (retire s { writeS sp sd (BitVec.ofNat 32 x.bits) with fpstat := sp.fpstat ||| x.flags } 1))

/-- `sxget.i32` (R131, R159). -/
def execSxgetI32 (sd : SReg) (n : Fin 2) (s : State) : Host.Outcome State Fault Refusal :=
  onSplit s (fun r g sp =>
    let x := exactI32 g.xa[n]
    s.setSplit r (retire s { writeS sp sd x.1 with fpstat := sp.fpstat ||| x.2 } 1))

/-! ### Lane values and the reply slot (R158, R164) -/

/-- A scalar result issued now: its registers are named as destinations (R39, R43); `awaited` is [96] while its value has not come. -/
def issueResult (sp : Split) (id : Nat) (ws : List RegWrite) (awaited : List Nat) : Split := withResult (markDest sp ws) id ws awaited

/-- The writes of a scalar register that takes a value; s0 takes none (R132). -/
def scalarResult (n : SReg) (v : Word) : List RegWrite := [.scalar n.val v false]

/-- `sgetl`: a variable-latency read of one element (R43, R158). -/
def getLane (s : State) (sd : SReg) (va : Fin 128) (lane : Split → Nat) : Host.Outcome State Fault Refusal :=
  onSplit s (fun r g sp =>
    if g.regs.length ≤ va.val then faultScalar s r sp 2 .regRange
    else
      let v := (readV s g va.val).data.toArray.getD (lane sp) 0
      { s.setSplit r (retire s (issueResult sp s.serial (scalarResult sd v) []) 2) with serial := s.serial + 1 })

/-- `sgetl`, the lane in the word (R158). -/
def execSgetlImm (sd : SReg) (va : Fin 128) (lane : Fin 96) (s : State) : Host.Outcome State Fault Refusal :=
  getLane s sd va (fun _ => lane.val)

/-- `sgetl`, the lane in a register: 96 or more gives 0 (R158). -/
def execSgetlReg (sd : SReg) (va : Fin 128) (sb : SReg) (s : State) : Host.Outcome State Fault Refusal :=
  getLane s sd va (fun sp => (readS s sp sb).toNat)

/-- `sgetr`: a variable-latency read of a dword of the reply slot (R164), a load, which waits for an acquire before it (R232). -/
def execSgetr (pd : Pair) (k : Fin 8) (s : State) : Host.Outcome State Fault Refusal :=
  onSplit s (fun r g sp =>
    if acquireHeld s r then stallAt s r sp .loads else
    let (t, v) := replyDword s r.core (s.nodeCtx g.node) g.region k.val
    { t.setSplit r (retire s (issueResult sp s.serial
        [.scalar (2 * pd.val) v.lo false, .scalar (2 * pd.val + 1) v.hi false] []) 1) with serial := s.serial + 1 })

end Sys2Proof.Machine
end

