-- ==== Sys2Proof/Machine/Transcend.lean ====
section
/-! DEFINITION. Approximations of the transcendental functions with stated error, and the results that the bounds of R119
permit (log entry 12). Fixed-point numbers are integers over a power of two. -/

namespace Sys2Proof.Machine

/-- floor(2^320 × ln 2). -/
def ln2Fixed : Int := 1480553391661173448385607439722553250922680800745876974795605978609098082859138712941075737848984

/-- floor(2^320 × π). -/
def piFixed : Int := 6710401180212168915155840974220003240804194089427148950727106424351713218671805380099500388914039

/-- The sum of the series whose next term is the last times `t` over `d k`, with `p` fraction bits. -/
def seriesFrom (p : Nat) (t : Int) (d : Nat → Int) : Nat → Nat → Int → Int → Int
  | 0, _, _, acc => acc
  | n + 1, k, term, acc =>
    let next := term * t / ((2 ^ p : Nat) : Int) / d k
    seriesFrom p t d n (k + 1) next (acc + next)

/-- The magnitude is below 2^-60: there the first terms of a series say more than fixed-point numbers do. -/
def Q.small (x : Q) : Bool := x.abs.lt (Q.pow2 (-60))

/-- An approximation, and a bound on its error. -/
abbrev Approx := Q × Q

/-- 2^x for a rational x between −2000 and 2000, within 2^-250 of its own size; near 0, within x^2 of 1 + x ln 2. -/
def exp2Approx (x : Q) : Approx :=
  if x.small then
    (((Q.ofInt 1).add (x.mul ((Q.ofInt ln2Fixed).scale (-320)))), x.mul x)
  else
    let n := x.floor
    let r := (x.num - n * x.den) * ((2 ^ 320 : Nat) : Int) / x.den      -- fraction, 320 bits
    let t := r * ln2Fixed / ((2 ^ 320 : Nat) : Int)
    let s := seriesFrom 320 t (fun k => (k : Int)) 70 1 ((2 ^ 320 : Nat) : Int) ((2 ^ 320 : Nat) : Int)
    let y := (Q.ofInt s).scale (n - 320)
    (y, y.scale (-250))

/-- The sum z + z^3/3 + z^5/5 + ..., 320 fraction bits: the inverse hyperbolic tangent of z; `w` is z squared. -/
def atanhFrom (w : Int) : Nat → Nat → Int → Int → Int
  | 0, _, _, acc => acc
  | n + 1, k, term, acc =>
    let next := term * w / ((2 ^ 320 : Nat) : Int)
    atanhFrom w n (k + 2) next (acc + next / (k + 2 : Nat))

/-- log2 of a positive rational, within 2^-250: its exponent, and the logarithm of the rest as 2 atanh((m - 1) / (m + 1)). -/
def log2Approx (x : Q) : Q :=
  let e := x.log2
  let m := x.scale (-e)
  let z := (m.num - m.den) * ((2 ^ 320 : Nat) : Int) / (m.num + m.den)
  let a := atanhFrom (z * z / ((2 ^ 320 : Nat) : Int)) 100 1 z z
  (Q.ofInt (e * ((2 ^ 320 : Nat) : Int) + 2 * a * ((2 ^ 320 : Nat) : Int) / ln2Fixed)).scale (-320)

/-- The remainder of x by 2π, between −π and π, with 256 fraction bits. -/
def reduceAngle (x : Q) : Int :=
  let y := x.num * ((2 ^ 320 : Nat) : Int) / x.den
  let k := (y + piFixed) / (2 * piFixed)
  (y - k * (2 * piFixed)) / ((2 ^ 64 : Nat) : Int)

/-- The sine of a rational, within 2^-240 for arguments up to 2^16; near 0, within x^5 / 120 of x - x^3 / 6. -/
def sinApprox (x : Q) : Approx :=
  if x.small then
    let c := x.mul (x.mul x)
    (x.sub (c.mul ⟨1, 6⟩), (c.mul (x.mul x)).abs.mul ⟨1, 120⟩)
  else
    let r := reduceAngle x
    let t := -(r * r / ((2 ^ 256 : Nat) : Int))
    ((Q.ofInt (seriesFrom 256 t (fun k => ((2 * k) * (2 * k + 1) : Nat)) 60 1 r r)).scale (-256), Q.pow2 (-240))

/-- The cosine of a rational, within 2^-240 for arguments up to 2^16; near 0, within x^4 / 24 of 1 - x^2 / 2. -/
def cosApprox (x : Q) : Approx :=
  if x.small then
    let c := x.mul x
    ((Q.ofInt 1).sub (c.mul ⟨1, 2⟩), (c.mul c).mul ⟨1, 24⟩)
  else
    let r := reduceAngle x
    let t := -(r * r / ((2 ^ 256 : Nat) : Int))
    let one : Int := ((2 ^ 256 : Nat) : Int)
    ((Q.ofInt (seriesFrom 256 t (fun k => ((2 * k - 1) * (2 * k) : Nat)) 60 1 one one)).scale (-256), Q.pow2 (-240))

/-- A bound in ulp at an approximated value: the ulp at the smallest magnitude that the value may have, so never more
than the ulp at the exact value (R119, log entry 12). -/
def ulpBound (f : FloatFmt) (n : Nat) (x err : Q) : Q := (Q.ofInt n).mul (ulpAt f (x.abs.sub err))

/-- A result within n ulp (R119). -/
def withinUlp (f : FloatFmt) (sat : Bool) (n cand : Nat) (x err : Q) : FloatResult :=
  boundedResult f sat cand x (ulpBound f n x err) err

/-- A positive rational is a power of two. -/
def Q.isPow2 (q : Q) : Bool := !q.isZero && q.eq (Q.pow2 q.log2)

/-- The value is representable exactly. -/
def exactly (f : FloatFmt) (q : Q) : Option FloatResult :=
  let r := roundFloat f .rne false (decide (q.num < 0)) q.abs
  if r.flags = 0 then some r else none

/-- An exact case where the result is representable, else a result within 1 ulp (R119). -/
def exactOr (f : FloatFmt) (sat isExact : Bool) (cand : Nat) (x err : Q) : FloatResult :=
  match if isExact then exactly f x else none with
  | some r => r
  | none => withinUlp f sat 1 cand x err

/-- `vrcp` (R117, R119). -/
def rcpResult (f : FloatFmt) (sat : Bool) (cand : Nat) (a : Num) : FloatResult :=
  match a with
  | .nan s => nanResult f (if s then flagNV else 0)
  | .inf n => zeroResult f n
  | .fin n q =>
    if q.isZero then infResult f n sat flagDZ
    else exactOr f sat q.isPow2 cand ((Q.ofInt (if n then -1 else 1)).div q) ⟨0, 1⟩

/-- `vrsq` (R115, R117, R119). -/
def rsqResult (f : FloatFmt) (sat : Bool) (cand : Nat) (a : Num) : FloatResult :=
  match a with
  | .nan s => nanResult f (if s then flagNV else 0)
  | .inf n => if n then nanResult f flagNV else zeroResult f false
  | .fin n q =>
    if q.isZero then infResult f n sat flagDZ
    else if n then nanResult f flagNV
    else
      let x := sqrtQ 200 ((Q.ofInt 1).div q)
      exactOr f sat (q.isPow2 && q.log2 % 2 == 0) cand x (x.scale (-198))

/-- `vexp2` (R119). -/
def exp2Result (f : FloatFmt) (sat : Bool) (cand : Nat) (a : Num) : FloatResult :=
  match a with
  | .nan s => nanResult f (if s then flagNV else 0)
  | .inf n => if n then zeroResult f false else infResult f false sat 0
  | .fin _ _ =>
    let x := a.toQ
    if (Q.ofInt 1024).le x then overflowResult f .rne sat false
    else if x.le (Q.ofInt (-1024)) then withinUlp f sat 1 cand (Q.pow2 (-1024)) ⟨0, 1⟩
    else if x.eq (Q.ofInt x.floor) then exactOr f sat true cand (Q.pow2 x.floor) ⟨0, 1⟩
    else
      let y := exp2Approx x
      withinUlp f sat 1 cand y.1 y.2

/-- `vlog2` (R115, R117, R119). `vlog2` of 1 is +0: R114 names the sign of a zero product, quotient, sum and rounded
value only, and the sign here is the model's choice (log entry 12). -/
def log2Result (f : FloatFmt) (sat : Bool) (cand : Nat) (a : Num) : FloatResult :=
  match a with
  | .nan s => nanResult f (if s then flagNV else 0)
  | .inf n => if n then nanResult f flagNV else infResult f false sat 0
  | .fin n q =>
    if q.isZero then infResult f true sat flagDZ
    else if n then nanResult f flagNV
    else if q.isPow2 then deliver f .rne sat false (Q.ofInt q.log2)
    else withinUlp f sat 1 cand (log2Approx q) (Q.pow2 (-250))

/-- A finite candidate within −1 and 1. -/
def unitCandidate (f : FloatFmt) (cand : Nat) : FloatResult :=
  let c := cand % 2 ^ f.width
  match decodeFloat f c with
  | .fin _ q => ⟨if q.le (Q.ofInt 1) then c else 0, flagNX⟩
  | _ => ⟨0, flagNX⟩

/-- `vsin` and `vcos` of a non-zero value by its size (R119). -/
def angleResult (f : FloatFmt) (sat : Bool) (cand : Nat) (x : Q) (y : Approx) : FloatResult :=
  if (x.abs.scale 320).le (Q.ofInt piFixed) then withinUlp f sat 2 cand y.1 y.2
  else if x.abs.le (Q.ofInt 65536) then boundedResult f sat cand y.1 (Q.pow2 (-20)) y.2
  else unitCandidate f cand

/-- `vsin` (R119). -/
def sinResult (f : FloatFmt) (sat : Bool) (cand : Nat) (a : Num) : FloatResult :=
  match a with
  | .nan s => nanResult f (if s then flagNV else 0)
  | .inf _ => nanResult f flagNV
  | .fin n q => if q.isZero then zeroResult f n else angleResult f sat cand a.toQ (sinApprox a.toQ)

/-- `vcos` (R119). -/
def cosResult (f : FloatFmt) (sat : Bool) (cand : Nat) (a : Num) : FloatResult :=
  match a with
  | .nan s => nanResult f (if s then flagNV else 0)
  | .inf _ => nanResult f flagNV
  | .fin _ q => if q.isZero then deliver f .rne false false (Q.ofInt 1) else angleResult f sat cand a.toQ (cosApprox a.toQ)

end Sys2Proof.Machine
end

