-- ==== Sys2Proof/Machine/Float.lean ====
section
/-! DEFINITION. The meanings of the floating lane instructions, opcodes 0x20 to 0x2C (R119, R183, R184). -/

namespace Sys2Proof.Machine

/-- Formats of vdiv, vsqrt, vround, vfract, vclass and vldexp (R183). -/
def fullFloat (t : Tag) : Bool := [Tag.f32, .f16x2, .bf16x2, .f64].contains t

/-- Formats of the transcendental forms (R183). -/
def shortFloat (t : Tag) : Bool := [Tag.f32, .f16x2, .bf16x2].contains t

/-- The format of a floating word (R85, R183); none where its tag rule is broken. -/
def LaneCtx.floatTag (x : LaneCtx) (ok : Tag → Bool) (os : List Opnd) : Option Tag :=
  match x.ov with
  | some f => if ok f then some f else none
  | none =>
    match x.typed os with
    | [] => none
    | t :: l => if ok t && l.all (fun u => u == t) then some t else none

/-- The layout of a floating format; f32 for the others, which no word reaches. -/
def floatOf (t : Tag) : FloatFmt :=
  match tagKind t with
  | .flt f => f
  | .int _ _ => .f32

/-- The checks of a floating word; `result` is the tag of its result. -/
def floatSpec (ok : Tag → Bool) (os : LaneCtx → List Opnd) (result : Tag → Tag)
    (run : LaneCtx → Tag → Nat → LaneValue) : LaneSpec :=
  { srcs := fun x => (os x).map (fun o => (o, x.wide (os x) o)),
    dest := fun x => some (tagWide (result (fmtOr (x.floatTag ok (os x))))),
    reserved := fun x => x.roundsInt (os x),
    mismatch := fun x => (x.floatTag ok (os x)).isNone,
    held := fun x _ => fmtOr (x.floatTag ok (os x)),
    run := fun x =>
      let f := fmtOr (x.floatTag ok (os x))
      x.put (result f) (run x f) }

/-- A floating word of one source, with its modifiers. -/
def float1 (ok : Tag → Bool) (result : Tag → Tag) (op : LaneCtx → FloatFmt → Nat → Nat × BitVec 5) : LaneSpec :=
  floatSpec ok (fun x => [x.w.va]) result (fun x f =>
    let a := x.src x.w.va f
    fun i => lift1 f (fun v => op x (floatOf f) (modify (tagKind f) x.modA v)) (a i))

/-- `vdiv` (R183). What it checks, and its effect. -/
def specVdiv : LaneSpec :=
  floatSpec fullFloat (fun x => [x.w.va, x.w.vb]) id (fun x f =>
    let a := x.src x.w.va f
    let b := x.src x.w.vb f
    let k := tagKind f
    let t := floatOf f
    fun i => lift2 f (fun p q =>
      ofResult (fdiv t x.mode x.w.sat (decodeFloat t (modify k x.modA p)) (decodeFloat t (modify k x.modB q)))) (a i) (b i))

/-- `vdiv` (R183). -/
def execVdiv (w : LaneWord) (s : State) : Host.Outcome State Fault Refusal := runLane specVdiv w s

/-- `vsqrt` (R183). What it checks, and its effect. -/
def specVsqrt : LaneSpec :=
  float1 fullFloat id (fun x t v => ofResult (fsqrt t x.mode x.w.sat (decodeFloat t v)))

/-- `vsqrt` (R183). -/
def execVsqrt (w : LaneWord) (s : State) : Host.Outcome State Fault Refusal := runLane specVsqrt w s

/-- A transcendental word: its free candidate is read for each lane and half (R11, R119). -/
def transSpec (op : FloatFmt → Bool → Nat → Num → FloatResult) : LaneSpec :=
  floatSpec shortFloat (fun x => [x.w.va]) id (fun x f =>
    let a := x.src x.w.va f
    let k := tagKind f
    let t := floatOf f
    fun i =>
      let one := fun (h v : Nat) =>
        ofResult (op t x.w.sat (Config.freeWord x.s.fresh (2 * i + h)).toNat (decodeFloat t (modify k x.modA v)))
      if tagPacked f then
        let lo := one 0 ((a i).toNat % 65536)
        let hi := one 1 ((a i).toNat / 65536 % 65536)
        (BitVec.ofNat 64 (lo.1 + 65536 * hi.1), lo.2 ||| hi.2)
      else
        let r := one 0 (a i).toNat
        (BitVec.ofNat 64 r.1, r.2))

/-- `vrcp` (R119). What it checks, and its effect. -/
def specVrcp : LaneSpec := transSpec rcpResult

/-- `vrcp` (R119). -/
def execVrcp (w : LaneWord) (s : State) : Host.Outcome State Fault Refusal := runLane specVrcp w s

/-- `vrsq` (R119). What it checks, and its effect. -/
def specVrsq : LaneSpec := transSpec rsqResult

/-- `vrsq` (R119). -/
def execVrsq (w : LaneWord) (s : State) : Host.Outcome State Fault Refusal := runLane specVrsq w s

/-- `vexp2` (R119). What it checks, and its effect. -/
def specVexp2 : LaneSpec := transSpec exp2Result

/-- `vexp2` (R119). -/
def execVexp2 (w : LaneWord) (s : State) : Host.Outcome State Fault Refusal := runLane specVexp2 w s

/-- `vlog2` (R119). What it checks, and its effect. -/
def specVlog2 : LaneSpec := transSpec log2Result

/-- `vlog2` (R119). -/
def execVlog2 (w : LaneWord) (s : State) : Host.Outcome State Fault Refusal := runLane specVlog2 w s

/-- `vsin` (R119). What it checks, and its effect. -/
def specVsin : LaneSpec := transSpec sinResult

/-- `vsin` (R119). -/
def execVsin (w : LaneWord) (s : State) : Host.Outcome State Fault Refusal := runLane specVsin w s

/-- `vcos` (R119). What it checks, and its effect. -/
def specVcos : LaneSpec := transSpec cosResult

/-- `vcos` (R119). -/
def execVcos (w : LaneWord) (s : State) : Host.Outcome State Fault Refusal := runLane specVcos w s

/-- va rounded to an integral value in its own format; zeros and infinities unchanged; no NX (R183). -/
def roundIntegral (t : FloatFmt) (mode : Rounding) (v : Nat) : Nat × BitVec 5 :=
  match decodeFloat t v with
  | .nan s => (t.nan, if s then flagNV else 0)
  | .inf _ => (v, 0)
  | .fin n q =>
    if q.isZero then (v, 0)
    else
      let m := roundMag mode n q
      if m = 0 then (signBit t n, 0) else ((roundFloat t .rne false n (Q.ofInt m)).bits, 0)

/-- `vround` (R183). What it checks, and its effect. -/
def specVround : LaneSpec := float1 fullFloat id (fun x t v => roundIntegral t x.mode v)

/-- `vround` (R183). -/
def execVround (w : LaneWord) (s : State) : Host.Outcome State Fault Refusal := runLane specVround w s

/-- The encoding of 1 in a format. -/
def oneBits (t : FloatFmt) : Nat := t.bias * 2 ^ t.man

/-- rne(va − floor(va)), never 1 (R183). -/
def fractElem (t : FloatFmt) (v : Nat) : Nat × BitVec 5 :=
  match decodeFloat t v with
  | .nan s => (t.nan, if s then flagNV else 0)
  | .inf _ => (t.nan, flagNV)
  | .fin n q =>
    let a := (Num.fin n q).toQ
    let r := deliver t .rne false false (a.sub (Q.ofInt a.floor))
    (if r.bits = oneBits t then oneBits t - 1 else r.bits, r.flags)

/-- `vfract` (R183). What it checks, and its effect. -/
def specVfract : LaneSpec := float1 fullFloat id (fun _ t v => fractElem t v)

/-- `vfract` (R183). -/
def execVfract (w : LaneWord) (s : State) : Host.Outcome State Fault Refusal := runLane specVfract w s

/-- The class mask (R184). -/
def classMask (t : FloatFmt) (v : Nat) : Nat :=
  match decodeFloat t v with
  | .nan s => if s then 256 else 512
  | .inf n => if n then 1 else 128
  | .fin n q =>
    if q.isZero then (if n then 8 else 16)
    else if q.lt (Q.pow2 t.emin) then (if n then 4 else 32)
    else if n then 2 else 64

/-- `vclass` (R183, R184). What it checks, and its effect. -/
def specVclass : LaneSpec :=
  float1 fullFloat (fun f => if tagPacked f then .n16x2 else .n32) (fun _ t v => (classMask t v, 0))

/-- `vclass` (R183, R184). -/
def execVclass (w : LaneWord) (s : State) : Host.Outcome State Fault Refusal := runLane specVclass w s

/-- An exact product: a NaN, an invalid case, an infinity or a signed number. -/
def productOf (a b : Num) : Num :=
  let neg := a.isNeg != b.isNeg
  if a.isNan || b.isNan || (a.isInf && b.isZero) || (a.isZero && b.isInf) then .nan false
  else if a.isInf || b.isInf then .inf neg
  else .fin neg (a.toQ.mul b.toQ).abs

/-- lo × lo + hi × hi + c, exact, rounded once to f32 (R183, R114, R115). -/
def dot2 (mode : Rounding) (sat : Bool) (al bl ah bh c : Num) : FloatResult :=
  let ops := [al, bl, ah, bh, c]
  let invalid := (al.isInf && bl.isZero) || (al.isZero && bl.isInf) || (ah.isInf && bh.isZero) || (ah.isZero && bh.isInf)
  if ops.any Num.isNan then nanResult .f32 (if invalid || ops.any Num.signals then flagNV else 0)
  else if invalid then nanResult .f32 flagNV
  else
    let terms := [productOf al bl, productOf ah bh, c]
    let infs := terms.filter Num.isInf
    if infs.any Num.isNeg && infs.any (fun t => !t.isNeg) then nanResult .f32 flagNV
    else if !infs.isEmpty then infResult .f32 (infs.any Num.isNeg) sat 0
    else
      let zeroNeg := if terms.all Num.isZero && terms.all Num.isNeg then true
        else if terms.all Num.isZero && terms.all (fun t => !t.isNeg) then false else mode == .rdn
      deliver .f32 mode sat zeroNeg (terms.foldl (fun q t => q.add t.toQ) ⟨0, 1⟩)

/-- The format of vdot2's packed sources (R85, R183). -/
def dotTag (t : Tag) : Bool := t == .f16x2 || t == .bf16x2

/-- `vdot2` (R183). What it checks, and its effect. -/
def specVdot2 : LaneSpec :=
  { srcs := fun x => [(x.w.va, x.wide [x.w.va, x.w.vb] x.w.va), (x.w.vb, x.wide [x.w.va, x.w.vb] x.w.vb), (x.w.vc, false)],
      dest := fun _ => some false,
      reserved := fun x => x.roundsInt [x.w.va, x.w.vb],
      mismatch := fun x => (x.floatTag dotTag [x.w.va, x.w.vb]).isNone ||
        (x.ov.isNone && (match x.tagOf x.w.vc with
          | some t => t != .f32
          | none => false)),
      held := fun x k => if k = 2 then .f32 else fmtOr (x.floatTag dotTag [x.w.va, x.w.vb]),
      run := fun x =>
        let f := fmtOr (x.floatTag dotTag [x.w.va, x.w.vb])
        let k := tagKind f
        let t := floatOf f
        let a := x.src x.w.va f
        let b := x.src x.w.vb f
        let c := x.src x.w.vc .f32
        x.put .f32 (fun i =>
          let half := fun (m : Nat) (v : DWord) (h : Nat) => decodeFloat t (modify k m (v.toNat / 65536 ^ h % 65536))
          let r := dot2 x.mode x.w.sat (half x.modA (a i) 0) (half x.modB (b i) 0) (half x.modA (a i) 1)
            (half x.modB (b i) 1) (decodeFloat .f32 (c i).toNat)
          (BitVec.ofNat 64 r.bits, r.flags)) }

/-- `vdot2` (R183). -/
def execVdot2 (w : LaneWord) (s : State) : Host.Outcome State Fault Refusal := runLane specVdot2 w s

/-- va × 2^e, rounded once (R183); exponents beyond every format's range act as that range's end. -/
def ldexpElem (t : FloatFmt) (mode : Rounding) (sat : Bool) (v : Nat) (e : Int) : Nat × BitVec 5 :=
  match decodeFloat t v with
  | .nan s => (t.nan, if s then flagNV else 0)
  | .inf _ => (v, 0)
  | .fin n q =>
    let e := if e < -4400 then -4400 else if 4400 < e then 4400 else e
    if q.isZero then (v, 0) else ofResult (roundFloat t mode sat n (q.scale e))

/-- `vldexp` (R183). What it checks, and its effect. -/
def specVldexp : LaneSpec :=
  { srcs := fun x => [(x.w.va, x.wide [x.w.va] x.w.va), (x.w.vb, false)],
      dest := fun x => some (tagWide (fmtOr (x.floatTag fullFloat [x.w.va]))),
      reserved := fun x => x.roundsInt [x.w.va],
      mismatch := fun x => (x.floatTag fullFloat [x.w.va]).isNone ||
        (x.ov.isNone && (match x.tagOf x.w.vb with
          | some t => t != .i32
          | none => false)),
      held := fun x k => if k = 0 then fmtOr (x.floatTag fullFloat [x.w.va]) else .i32,
      run := fun x =>
        let f := fmtOr (x.floatTag fullFloat [x.w.va])
        let a := x.src x.w.va f
        let b := x.word x.w.vb
        x.put f (fun i => lift1 f (fun v =>
          ldexpElem (floatOf f) x.mode x.w.sat (modify (tagKind f) x.modA v) (b i).toInt) (a i)) }

/-- `vldexp` (R183). -/
def execVldexp (w : LaneWord) (s : State) : Host.Outcome State Fault Refusal := runLane specVldexp w s

end Sys2Proof.Machine
end

