-- ==== Sys2Proof/Machine/Convert.lean ====
section
/-! DEFINITION. The meanings of the conversions, tag forms and moves, opcodes 0x30 to 0x3B (R185 to R190), and of the
cross-lane, reduction, ballot and exact-accumulator forms, opcodes 0x40 to 0x52 (R191 to R197). -/

namespace Sys2Proof.Machine

/-! ### Conversions (R185) -/

/-- The destination tag of a vcvt or vtag. -/
def LaneCtx.subTag (x : LaneCtx) : Tag := (Tag.ofNumber x.w.sub.val).getD .raw

/-- The source format of a vcvt, va's tag or the override (R185); none where its tag rule is broken. An untyped va names none, beside a
typed vb too, whose format R78 would give it: the model's choice (log entry 80). -/
def LaneCtx.cvtFrom (x : LaneCtx) : Option Tag :=
  match x.ov with
  | some f => if tagComputes f then some f else none
  | none =>
    match x.tagOf x.w.va with
    | some t => if tagComputes t then some t else none
    | none => none

/-- The source of a vcvt is packed, by the override or by va's tag. -/
def LaneCtx.cvtPacked (x : LaneCtx) : Bool :=
  match x.ov with
  | some f => tagPacked f
  | none =>
    match x.tagOf x.w.va with
    | some t => tagPacked t
    | none => false

/-- The conversion takes two unpacked sources into a packed destination. -/
def LaneCtx.cvtTwo (x : LaneCtx) : Bool := tagPacked x.subTag && !x.cvtPacked

/-- The conversion is between integer formats, which take no rounding (R170). -/
def LaneCtx.cvtIntegers (x : LaneCtx) : Bool := tagIsInt (fmtOr x.cvtFrom) && tagIsInt x.subTag

/-- One element converted (R112, R113, R116, R185). -/
def convertElem (src dst : Kind) (mode : Rounding) (sat : Bool) (v : Nat) : Nat × BitVec 5 :=
  match src, dst with
  | .flt f, .flt t =>
    let a := decodeFloat f v
    if f = t ∧ !a.isNan then (v, 0) else ofResult (fconvert t mode sat a)
  | .flt f, .int sg w =>
    let lo : Int := if sg then -((2 ^ (w - 1) : Nat) : Int) else 0
    let hi : Int := if sg then ((2 ^ (w - 1) : Nat) : Int) - 1 else ((2 ^ w : Nat) : Int) - 1
    let r := floatToInt mode lo hi (decodeFloat f v)
    ((r.1 % ((2 ^ w : Nat) : Int)).toNat, r.2)
  | .int sg w, .flt t => ofResult (fconvert t mode sat (Num.ofInt (elemInt sg w v)))
  | .int sg w, .int sd wd => (intBits sd wd sat (elemInt sg w v), 0)

/-- The value of a vcvt in one lane. -/
def LaneCtx.convert (x : LaneCtx) (f : Tag) (a b : DWord) : LaneValue :=
  let t := x.subTag
  let one := convertElem (tagKind f) (tagKind t) x.mode x.w.sat
  let pair := fun (p q : Nat) =>
    let lo := one p
    let hi := one q
    ((BitVec.ofNat 64 (lo.1 + 65536 * hi.1), lo.2 ||| hi.2) : LaneValue)
  let halfOf := fun (v : DWord) (h : Nat) => v.toNat / 65536 ^ h % 65536
  if tagPacked t then (if tagPacked f then pair (halfOf a 0) (halfOf a 1) else pair a.toNat b.toNat)
  else
    let r := one (if tagPacked f then halfOf a (bitsAt x.w.mods.val 0 1) else a.toNat)
    (BitVec.ofNat 64 r.1, r.2)

/-- `vcvt` (R185). H and, outside the two-source shape, vb and its hold bit must be zero, and so must the rounding between integer
formats (R170). An untyped vb takes va's format (log entry 80). What it checks, and its effect. -/
def specVcvt : LaneSpec :=
  { srcs := fun x =>
        let wide := fun o => x.wide [x.w.va] o
        (x.w.va, wide x.w.va) :: (if x.cvtTwo then [(x.w.vb, x.wide [x.w.va, x.w.vb] x.w.vb)] else []),
      dest := fun x => some (tagWide x.subTag),
      reserved := fun x =>
        (bitsAt x.w.mods.val 0 1 == 1 && !(x.cvtPacked && !tagPacked x.subTag)) ||
        (!x.cvtTwo && (x.raw.vb != .v 0 || bitsAt x.w.hold.val 1 1 == 1)) || (x.cvtIntegers && x.w.rnd.val != 0),
      mismatch := fun x => x.cvtFrom.isNone ||
        (x.cvtTwo && x.ov.isNone && (x.tagOf x.w.vb).isSome && x.tagOf x.w.vb != x.tagOf x.w.va),
      held := fun x _ => fmtOr x.cvtFrom,
      run := fun x =>
        let f := fmtOr x.cvtFrom
        let a := x.src x.w.va f
        let b := x.src x.w.vb f
        x.put x.subTag (fun i => x.convert f (a i) (b i)) }

/-- `vcvt` (R185). H and, outside the two-source shape, vb and its hold bit must be zero. -/
def execVcvt (w : LaneWord) (s : State) : Host.Outcome State Fault Refusal := runLane specVcvt w s

/-- `vtag`: the bits unchanged under a new tag (R186); under a 64-bit tag the literal, which has no pair, is zero-extended (log entry 80).
What it checks, and its effect. -/
def specVtag : LaneSpec :=
  { srcs := fun x => [(x.w.va, tagWide x.subTag || (match x.tagOf x.w.va with
        | some t => tagWide t
        | none => false))],
      dest := fun x => some (tagWide x.subTag),
      mismatch := fun x => x.tagOf x.w.va == some .handle,
      held := fun x _ => if tagWide x.subTag then x.subTag else (x.tagOf x.w.va).getD x.subTag,
      run := fun x =>
        let a : Nat → DWord := match x.w.va with
          | .lit => fun _ => x.w.w2.setWidth 64
          | o => x.src o x.subTag
        x.put x.subTag (fun i => (a i, 0)) }

/-- `vtag`: the bits unchanged under a new tag (R186). -/
def execVtag (w : LaneWord) (s : State) : Host.Outcome State Fault Refusal := runLane specVtag w s

/-- `vgettag` (R187): never TAG_MISMATCH; a source of a 64-bit tag is held as its raw 32 bits (log entry 80). What it checks, and its effect. -/
def specVgettag : LaneSpec :=
  { srcs := fun x => [(x.w.va, false)],
      dest := fun _ => some false,
      mismatch := fun _ => false,
      held := fun x _ => match x.tagOf x.w.va with
        | some t => if tagWide t then .raw else t
        | none => .raw,
      run := fun x =>
        let t : DWord := BitVec.ofNat 64 (match x.tagOf x.w.va with
          | some t => tagNumber t
          | none => 0)
        x.put .n32 (fun _ => (t, 0)) }

/-- `vgettag` (R187): never TAG_MISMATCH. -/
def execVgettag (w : LaneWord) (s : State) : Host.Outcome State Fault Refusal := runLane specVgettag w s

/-! ### Moves (R188 to R190) -/

/-- `vmov` (R188). An override of 12 sets tag 12, as R188 tags the copy, though R186 leaves that tag to graphics: the model's choice (log
entry 80). What it checks, and its effect. -/
def specVmov : LaneSpec :=
  { srcs := fun x => [(x.w.va, tagWide x.fmtA)],
      dest := fun x => some (tagWide x.fmtA),
      mismatch := fun _ => false,
      held := fun x _ => x.fmtA,
      run := fun x =>
        let a := x.src x.w.va x.fmtA
        x.put x.fmtA (fun i => (a i, 0)) }

/-- `vmov` (R188). -/
def execVmov (w : LaneWord) (s : State) : Host.Outcome State Fault Refusal := runLane specVmov w s

/-- `vli` (R189): HI writes the odd register of the pair alone, and tags both. An override of 12 sets tag 12, as R189 tags the result,
though R186 leaves that tag to graphics: the model's choice (log entry 80). What it checks, and its effect. -/
def specVli : LaneSpec :=
  { srcs := fun _ => [],
      dest := fun x => some (tagWide (fmtOr x.ov)),
      mismatch := fun _ => false,
      held := fun x _ => fmtOr x.ov,
      run := fun x =>
        let f := fmtOr x.ov
        let v := x.src .lit f
        if x.w.sub.val = 1 then
          match x.w.vd with
          | .v n =>
            if x.snap = 0 then (x.s, x.g, x.sp)
            else
              let g := writeV (writeV x.g n.val 0 (Vector.replicate 96 0) f) (n.val + 1) x.act (Vector.replicate 96 x.w.w2) f
              (x.s, g, x.own g)
          | _ => (x.s, x.g, x.sp)
        else x.put f (fun i => (v i, 0)) }

/-- `vli` (R189): HI writes the odd register of the pair alone, and tags both. -/
def execVli (w : LaneWord) (s : State) : Host.Outcome State Fault Refusal := runLane specVli w s

/-- `vlane` (R190). What it checks, and its effect. -/
def specVlane : LaneSpec :=
  plainSpec true (fun x =>
    x.put .n32 (fun i => (BitVec.ofNat 64 (match x.w.sub.val with
      | 0 => i
      | 1 => i % 32
      | _ => i / 32), 0)))

/-- `vlane` (R190). -/
def execVlane (w : LaneWord) (s : State) : Host.Outcome State Fault Refusal := runLane specVlane w s

/-- `vmovc` (R190). What it checks, and its effect. -/
def specVmovc : LaneSpec :=
  plainSpec true (fun x =>
    let c := readVc x.s x.g (Fin.ofNat 4 (x.w.sub.val % 4))
    x.put .n32 (fun i => (if c.getLsbD i then 1 else 0, 0)))

/-- `vmovc` (R190). -/
def execVmovc (w : LaneWord) (s : State) : Host.Outcome State Fault Refusal := runLane specVmovc w s

/-! ### Cross-lane (R191) -/

/-- The tag of va, raw for an untyped source (R191). -/
def LaneCtx.tagA (x : LaneCtx) : Tag := (x.tagOf x.w.va).getD .raw

/-- A cross-lane word: `pick` says which lane each lane reads, none for zero; `useB` when vb is a source. -/
def crossSpec (useB : LaneCtx → Bool) (mismatch : LaneCtx → Bool) (pick : LaneCtx → Nat → Option Nat) : LaneSpec :=
  { srcs := fun x => (x.w.va, tagWide x.tagA) :: (if useB x then [(x.w.vb, false)] else []),
    dest := fun x => some (tagWide x.tagA),
    mismatch := mismatch,
    held := fun x k => if k = 0 then x.tagA else (x.tagOf x.w.vb).getD .n32,
    run := fun x =>
      let a : Nat → DWord := match x.w.va with
        | .lit => fun _ => x.w.w2.setWidth 64
        | o => x.src o x.tagA
      let p := pick x
      x.put x.tagA (fun i => (match p i with
        | some k => a k
        | none => 0, 0)) }

/-- `vxch` (R191). What it checks, and its effect. -/
def specVxch : LaneSpec :=
  crossSpec (fun _ => false) (fun _ => false) (fun x =>
    let d := 2 ^ x.w.sub.val
    fun i => some (if i ^^^ d ≤ 95 then i ^^^ d else i))

/-- `vxch` (R191). -/
def execVxch (w : LaneWord) (s : State) : Host.Outcome State Fault Refusal := runLane specVxch w s

/-- `vperm` (R191). What it checks, and its effect. -/
def specVperm : LaneSpec :=
  crossSpec (fun _ => true)
    (fun x => match x.tagOf x.w.vb with
      | some t => t != .i32 && t != .n32
      | none => false)
    (fun x =>
      let b := x.word x.w.vb
      fun i => if (b i).toNat < 96 then some (b i).toNat else none)

/-- `vperm` (R191). -/
def execVperm (w : LaneWord) (s : State) : Host.Outcome State Fault Refusal := runLane specVperm w s

/-- `vrot` (R191). What it checks, and its effect. -/
def specVrot : LaneSpec :=
  crossSpec (fun _ => true) (fun _ => false) (fun x =>
    let k := (x.word x.w.vb 0).toNat
    fun i => some ((i + k) % 96))

/-- `vrot` (R191). -/
def execVrot (w : LaneWord) (s : State) : Host.Outcome State Fault Refusal := runLane specVrot w s

/-- `vbcast` and `vbcast.first` (R191). What it checks, and its effect. -/
def specVbcast : LaneSpec :=
  crossSpec (fun x => x.w.sub.val == 0) (fun _ => false) (fun x =>
    let k := if x.w.sub.val = 0 then (x.word x.w.vb 0).toNat else lowestLane x.act
    fun _ => if k < 96 then some k else none)

/-- `vbcast` and `vbcast.first` (R191). -/
def execVbcast (w : LaneWord) (s : State) : Host.Outcome State Fault Refusal := runLane specVbcast w s

/-- The format of a vred: polymorphic for add, min and max, bitwise for the others (R192). -/
def LaneCtx.redTag (x : LaneCtx) : Option Tag :=
  if x.w.sub.val < 3 then x.poly [x.w.va] else x.bitTag [x.w.va]

/-- The final value of a vred over the active lanes, with the flags of its steps. -/
def LaneCtx.reduce (x : LaneCtx) (f : Tag) : DWord × BitVec 5 :=
  let r := match x.w.sub.val with
    | 3 => scanLanes (fun a b => (a &&& b, 0)) 0 false (x.src x.w.va f) x.lanes
    | 4 => scanLanes (fun a b => (a ||| b, 0)) 0 false (x.src x.w.va f) x.lanes
    | 5 => scanLanes (fun a b => (a ^^^ b, 0)) 0 false (x.src x.w.va f) x.lanes
    | op => x.scan f op false
  (r.2.1.getD 0, r.2.2)

/-- `vred` (R192). What it checks, and its effect. -/
def specVred : LaneSpec :=
  { srcs := fun x => [(x.w.va, x.wide [x.w.va] x.w.va)],
      dest := fun x => some (tagWide (fmtOr x.redTag)),
      reserved := fun x => match x.redTag with
        | some f => tagIsInt f && x.w.rnd.val != 0
        | none => false,
      mismatch := fun x => x.redTag.isNone,
      held := fun x _ => fmtOr x.redTag,
      run := fun x =>
        let f := fmtOr x.redTag
        let r := x.reduce f
        addFlags (x.put f (fun _ => (r.1, 0))) r.2 }

/-- `vred` (R192). -/
def execVred (w : LaneWord) (s : State) : Host.Outcome State Fault Refusal := runLane specVred w s

/-- `vballot` (R193). What it checks, and its effect. -/
def specVballot : LaneSpec :=
  plainSpec true (fun x =>
    let c := readVc x.s x.g (Fin.ofNat 4 (x.w.sub.val % 4))
    let v := beatOf (c &&& x.act) (x.w.sub.val / 4)
    x.put .n32 (fun _ => (v.setWidth 64, 0)))

/-- `vballot` (R193). -/
def execVballot (w : LaneWord) (s : State) : Host.Outcome State Fault Refusal := runLane specVballot w s

/-! ### Exact accumulators (R129 to R131, R195 to R197) -/

/-- Add a value to an accumulator (R130): a finite value by its exact multiple of 2^-149. -/
def Exact.add (e : Exact) (v : Num) : Exact :=
  match v with
  | .nan _ => { e with nan := true }
  | .inf n => if n then { e with ninf := true } else { e with pinf := true }
  | .fin _ _ =>
    let q := v.toQ.scale 149
    { e with sum := e.sum + BitVec.ofInt 320 (q.num / q.den) }

/-- The values of one lane of a source (R195). -/
def exactTerms (f : Tag) (v : DWord) : List Num :=
  match tagKind f with
  | .int sg w => [Num.ofInt (elemInt sg w v.toNat)]
  | .flt t =>
    if tagPacked f then [decodeFloat t (v.toNat % 65536), decodeFloat t (v.toNat / 65536 % 65536)] else [decodeFloat t v.toNat]

/-- The accepted formats of vxadd. -/
def exactTag (t : Tag) : Bool := [Tag.i32, .f32, .f16x2, .bf16x2].contains t

/-- `vxadd` (R130, R195). What it checks, and its effect. -/
def specVxadd : LaneSpec :=
  { srcs := fun x => [(x.w.va, x.wide [x.w.va] x.w.va)],
      mismatch := fun x => (x.floatTag exactTag [x.w.va]).isNone,
      held := fun x _ => fmtOr (x.floatTag exactTag [x.w.va]),
      run := fun x =>
        let f := fmtOr (x.floatTag exactTag [x.w.va])
        let a := x.src x.w.va f
        let n : Fin 2 := Fin.ofNat 2 x.w.sub.val
        let e := x.lanes.foldl (fun e i => (exactTerms f (a i)).foldl Exact.add e) x.g.xa[n]
        (x.s, { x.g with xa := x.g.xa.set n e }, x.sp) }

/-- `vxadd` (R130, R195). -/
def execVxadd (w : LaneWord) (s : State) : Host.Outcome State Fault Refusal := runLane specVxadd w s

/-- `vxget` (R131, R196). What it checks, and its effect. -/
def specVxget : LaneSpec :=
  plainSpec true (fun x =>
    let e := x.g.xa[(Fin.ofNat 2 (x.w.sub.val % 2) : Fin 2)]
    let (v, fl, t) : Word × BitVec 5 × Tag :=
      if x.w.sub.val / 2 = 1 then ((exactI32 e).1, (exactI32 e).2, .i32)
      else (BitVec.ofNat 32 (exactF32 e).bits, (exactF32 e).flags, .f32)
    addFlags (x.put t (fun _ => (v.setWidth 64, 0))) (if x.act = 0 then 0 else fl))

/-- `vxget` (R131, R196). -/
def execVxget (w : LaneWord) (s : State) : Host.Outcome State Fault Refusal := runLane specVxget w s

/-- `vxclr`: whatever the exec mask (R197). What it checks, and its effect. -/
def specVxclr : LaneSpec :=
  plainSpec false (fun x =>
    (x.s, { x.g with xa := x.g.xa.set (Fin.ofNat 2 x.w.sub.val : Fin 2) Exact.zero }, x.sp))

/-- `vxclr`: whatever the exec mask (R197). -/
def execVxclr (w : LaneWord) (s : State) : Host.Outcome State Fault Refusal := runLane specVxclr w s

end Sys2Proof.Machine
end

