-- ==== Sys2Proof/Machine/LaneMem.lean ====
section
/-! DEFINITION. The meanings of the lane loads, stores and atomics, global and scratchpad (R259 to R263, R266 to R270). -/

namespace Sys2Proof.Machine

/-! ### Addresses (R259) -/

/-- The memory fields of a lane word. -/
def LaneCtx.mem (x : LaneCtx) : MemFields :=
  (memFieldsOf x.w.w2.toNat).getD
    { code := 31, scope := .device, order := .relaxed, inv := false, cls := 0, off := 0 }

/-- A field that stands for an absent term (R259). -/
def absent (o : Opnd) : Bool := o == .lit

/-- The tag rule of a 64-bit base: 0, 8 or 9 (R259). -/
def baseTagBad (t : Option Tag) : Bool :=
  match t with
  | some t => t != .raw && t != .i64 && t != .n64
  | none => false

/-- The tag rule of an index and of a scratchpad base: 0, 1 or 2 (R259). -/
def wordTagBad (t : Option Tag) : Bool :=
  match t with
  | some t => t != .raw && t != .i32 && t != .n32
  | none => false

/-- The index of a lane, 0 when absent. -/
def LaneCtx.indexOf (x : LaneCtx) : Nat → Word := if absent x.w.vb then fun _ => 0 else x.word x.w.vb

/-- Addresses of the lanes (R259): global, or scratchpad modulo 2^32. -/
def LaneCtx.address (x : LaneCtx) (scratch : Bool) : Nat → DWord :=
  let idx := x.indexOf
  if scratch then
    let base : Nat → Word := if absent x.w.va then fun _ => 0 else x.word x.w.va
    fun i => (base i + idx i + x.mem.off.signExtend 32).setWidth 64
  else
    let base := x.src x.w.va .n64
    fun i => base i + (idx i).signExtend 64 + x.mem.off.signExtend 64

/-- Source fields of an address, for the range checks. -/
def LaneCtx.addressSrcs (x : LaneCtx) (scratch : Bool) : List (Opnd × Bool) :=
  (if scratch && absent x.w.va then [] else [(x.w.va, !scratch)]) ++ (if absent x.w.vb then [] else [(x.w.vb, false)])

/-- A tag rule of the address is broken. -/
def LaneCtx.addressTagBad (x : LaneCtx) (scratch : Bool) : Bool :=
  (if scratch then !absent x.w.va && wordTagBad (x.tagOf x.w.va) else baseTagBad (x.tagOf x.w.va)) ||
  (!absent x.w.vb && wordTagBad (x.tagOf x.w.vb))

/-- Helper lanes of a pixel wave perform no store and no atomic (R365). -/
def Group.helper (g : Group) (i : Nat) : Bool := g.pix.any (fun p => p.1 == i && !p.2.covered)

/-- The data field, out of range when it names the literal (R77, R268). -/
def dataField (o : Opnd) : Opnd := if o = .lit then .rsv 0 else o

/-! ### Checks and waits at issue -/

/-- The first failing access of a fault, for the address it reports. -/
def faultAddr (l : List Access) (bad : Access → Bool) : DWord :=
  match l.find? bad with
  | some a => a.va
  | none => 0

/-- The accesses that a word performs of those that its active lanes make: a helper lane only loads (R365). -/
def LaneCtx.performs (x : LaneCtx) (l : List Access) : List Access := l.filter (fun a => a.op == .load || !x.g.helper a.lane)

/-- The faults of R260 at issue, of every active lane, helper lanes among them; then those of R253, of what is performed. -/
def accessFault (x : LaneCtx) (scratch : Bool) (l : List Access) : Option (FaultCode × DWord) :=
  if scratch then
    match tget x.s.wgs x.g.wg with
    | none => none
    | some w =>
      let fault := fun (write : Bool) (l : List Access) =>
        (scratchCheck w write l).map (fun c => (c, faultAddr l (fun a => scratchCheck w write [a] == some c)))
      (fault false l).or (fault true ((x.performs l).filter (fun a => a.op != .load)))
  else (globalCheck l).map (fun c => (c, faultAddr l (fun a => globalCheck [a] == some c)))

/-- Why a scratchpad instruction waits at issue (R231, R232, R242, R339). -/
def scratchStall (s : State) (w : Who) (m : MemFields) (l : List Access) : Option Stall :=
  if decide (256 ≤ (s.core w.ref.core).galley.length) then some .galley
  else if (m.order == .release || m.order == .acqRel) && releaseWaits s w.ref m.scope then some .acks
  else if acquireHeld s w.ref then some .loads
  else
    (l.find? (fun a => scoreboardBlocks s w.ref.core w.wg a.va.toNat (a.va.toNat + a.size))).map
      (fun a => .scoreboard a.va.toNat (a.va.toNat + a.size))

/-- The issuing agent of a lane word. -/
def LaneCtx.who (x : LaneCtx) : Who := whoOf x.s x.r x.g x.sp

/-! ### The word -/

/-- Put a group and a split into the state, act, and take them out again. -/
def throughState (s : State) (r : SplitRef) (g : Group) (sp : Split) (f : State → State) : State × Group × Split :=
  let s' := f (s.setGroup r.gkey { g with splits := tput g.splits r.slot sp })
  match tget s'.groups r.gkey with
  | none => (s', g, sp)
  | some g' => (s', g', (tget g'.splits r.slot).getD sp)

/-- Set the tag of a vector register at issue, and give the old one (R166, R267). -/
def setTag (g : Group) (n : Nat) (t : Tag) : Group :=
  { g with regs := g.regs.set n { g.regs.getD n VReg.zero with tag := t } }

/-- The result of a lane word joins those in flight (R43, R45): its tag is written at issue, its lanes when it returns. A helper lane
of vatom performs nothing, so nothing returns to it and it keeps its bits (R269, R365; log entry 27). -/
def laneResult (x : LaneCtx) (tag : Tag) (lanes : LaneMask) : Group × Split :=
  match x.w.vd with
  | .v n =>
    if x.snap = 0 then (x.g, x.sp)
    else
      let regs := if tagWide tag then [n.val, n.val + 1] else [n.val]
      let ws := regs.map (fun k =>
        RegWrite.vector k lanes 0 (Vector.replicate 96 0) tag (x.g.regs.getD k VReg.zero).tag)
      let sp := x.sp
      let g := regs.foldl (fun g k => setTag g k tag) { x.g with splits := tput x.g.splits x.r.slot sp }
      let sp := (tget g.splits x.r.slot).getD sp
      (g, if lanes = 0 then sp else withResult sp x.s.serial ws ((List.range 96).filter (fun i => lanes.getLsbD i)))
  | _ => (x.g, x.sp)

/-- A lane memory word with its accesses, data source and result tag: the order of the checks is that of R90 and R260. -/
def memSpec (scratch : LaneCtx → Bool) (srcs : LaneCtx → List (Opnd × Bool)) (mismatch : LaneCtx → Bool)
    (result : LaneCtx → Option Tag) (accs : LaneCtx → List Access) (order : LaneCtx → List Access → List Access)
    (held : LaneCtx → Tag) : LaneSpec :=
  { srcs := fun x => x.addressSrcs (scratch x) ++ srcs x,
    dest := fun x => (result x).map tagWide,
    mismatch := fun x => x.addressTagBad (scratch x) || mismatch x,
    own := fun x => accessFault x (scratch x) (accs x),
    held := fun x _ => held x,
    stall := fun x =>
      if scratch x then scratchStall x.s x.who x.mem (x.performs (accs x)) else memoryStall x.s x.who x.mem (x.performs (accs x)),
    run := fun x =>
      let l := order x (x.performs (accs x))
      let id := (result x).map (fun _ => x.s.serial)
      let (g, sp) := match result x with
        | some t => laneResult x t (lanesOf l)
        | none => (x.g, x.sp)
      throughState { x.s with serial := x.s.serial + 1 } x.r g sp (fun s =>
        if scratch x then scratchAll s x.who id l else performAll s x.who x.mem id l) }

/-- Size and extension of a width code (R266). -/
def widthOf (sub : Nat) : Nat × Ext :=
  match sub with
  | 0 => (1, .sign) | 1 => (1, .zero) | 2 => (2, .sign) | 3 => (2, .zero) | 4 => (4, .zero) | _ => (8, .zero)

/-- The result tag of a load (R267). -/
def loadTag (x : LaneCtx) : Tag :=
  match x.ov with
  | some f => f
  | none =>
    match x.w.sub.val with
    | 0 => .i32 | 1 => .n32 | 2 => .i32 | 3 => .n32 | 4 => .raw | _ => .n64

/-- One load for each active lane. -/
def loadAccs (scratch : Bool) (x : LaneCtx) : List Access :=
  let a := x.address scratch
  let (n, e) := widthOf x.w.sub.val
  x.lanes.map (fun i => { lane := i, va := a i, size := n, op := .load, data := 0, compare := 0, ext := e })

def loadSpec (scratch : Bool) : LaneSpec :=
  memSpec (fun _ => scratch) (fun _ => []) (fun _ => false) (fun x => some (loadTag x)) (loadAccs scratch) (fun _ l => l)
    (fun _ => .raw)

/-- `vld` (R267). What it checks, and its effect. -/
def specVld : LaneSpec := loadSpec false

/-- `vld` (R267). -/
def execVld (w : LaneWord) (s : State) : Host.Outcome State Fault Refusal := runLane specVld w s

/-- `vlds` (R267). What it checks, and its effect. -/
def specVlds : LaneSpec := loadSpec true

/-- `vlds` (R267). -/
def execVlds (w : LaneWord) (s : State) : Host.Outcome State Fault Refusal := runLane specVlds w s

/-- One store for each active lane. -/
def storeAccs (scratch : Bool) (x : LaneCtx) : List Access :=
  let a := x.address scratch
  let n := (widthOf x.w.sub.val).1
  let d := x.src x.w.vc (if n = 8 then .n64 else .raw)
  x.lanes.map (fun i =>
    { lane := i, va := a i, size := n, op := .store, data := d i, compare := 0, ext := .zero })

/-- The tag under which vc is held; a dword is a 64-bit format. -/
def heldData (x : LaneCtx) (wide : Bool) : Tag := if wide then .n64 else (x.tagOf x.w.vc).getD .raw

def storeSpec (scratch : Bool) : LaneSpec :=
  memSpec (fun _ => scratch) (fun x => [(dataField x.w.vc, x.w.sub.val == 5)]) (fun _ => false) (fun _ => none)
    (storeAccs scratch) (fun _ l => storeSplit l) (fun x => heldData x (x.w.sub.val == 5))

/-- `vst` (R262, R268). What it checks, and its effect. -/
def specVst : LaneSpec := storeSpec false

/-- `vst` (R262, R268). -/
def execVst (w : LaneWord) (s : State) : Host.Outcome State Fault Refusal := runLane specVst w s

/-- `vsts` (R262, R268). What it checks, and its effect. -/
def specVsts : LaneSpec := storeSpec true

/-- `vsts` (R262, R268). -/
def execVsts (w : LaneWord) (s : State) : Host.Outcome State Fault Refusal := runLane specVsts w s

/-! ### Atomics (R269, R270) -/

/-- A dword atomic, and one at the scratchpad. -/
def LaneCtx.atomWide (x : LaneCtx) : Bool := bitsAt x.w.mods.val 0 1 == 1
def LaneCtx.atomScratch (x : LaneCtx) : Bool := bitsAt x.w.mods.val 1 1 == 1

/-- The data tags an atomic accepts (R269). -/
def atomTagOk (op : Nat) (wide : Bool) (t : Tag) : Bool :=
  if op = 10 then t == (if wide then .f64 else .f32)
  else if op = 8 ∨ op = 9 then
    (if wide then tagWide t else decide (tagNumber t ≤ 7) || t == .narrow)
  else if wide then t == .i64 || t == .n64
  else t == .raw || t == .i32 || t == .n32

/-- The tag of a vatom's result (R269). -/
def atomResult (x : LaneCtx) : Tag :=
  if x.w.sub.val = 10 then (if x.atomWide then .f64 else .f32)
  else
    match x.tagOf x.w.vc with
    | some t => t
    | none => if x.atomWide then .n64 else .n32

/-- One atomic for each active lane; cas compares with vd. -/
def atomAccs (x : LaneCtx) : List Access :=
  let a := x.address x.atomScratch
  let f : Tag := if x.atomWide then .n64 else .raw
  let d := x.src x.w.vc f
  let c : Nat → DWord := if x.w.sub.val = 9 then x.src x.w.vd f else fun _ => 0
  x.lanes.map (fun i =>
    { lane := i, va := a i, size := if x.atomWide then 8 else 4, op := .atomic x.w.sub.val, data := d i, compare := c i,
      ext := .zero })

def atomSpec (result : LaneCtx → Option Tag) : LaneSpec :=
  memSpec LaneCtx.atomScratch (fun x => [(dataField x.w.vc, x.atomWide)])
    (fun x => match x.tagOf x.w.vc with
      | some t => !atomTagOk x.w.sub.val x.atomWide t
      | none => false)
    result atomAccs (fun x l => freeOrder x.s.fresh 0 l) (fun x => heldData x x.atomWide)

/-- `vatom` (R269, R270). What it checks, and its effect. -/
def specVatom : LaneSpec :=
  atomSpec (fun x => some (if x.atomWide == tagWide (atomResult x) then atomResult x else if x.atomWide then .n64 else .n32))

/-- `vatom` (R269, R270). -/
def execVatom (w : LaneWord) (s : State) : Host.Outcome State Fault Refusal := runLane specVatom w s

/-- `vatomn` (R269, R270). What it checks, and its effect. -/
def specVatomn : LaneSpec := atomSpec (fun _ => none)

/-- `vatomn` (R269, R270). -/
def execVatomn (w : LaneWord) (s : State) : Host.Outcome State Fault Refusal := runLane specVatomn w s

end Sys2Proof.Machine
end

