-- ==== Sys2Proof/Machine/Texture.lean ====
section
/-! DEFINITION. The texture unit (R376 to R384): texel reads, sampling, hash grids; vvis (R375) and vqswap (R376). -/

namespace Sys2Proof.Machine

/-! ### Graphics words (R377) -/

/-- A vector register of a multi-register operand; anything else is out of range (R377). -/
def onlyVector (o : Opnd) : Opnd :=
  match o with
  | .v n => .v n
  | _ => .rsv 0

/-- `n` registers from an operand, each of which must be a vector register below the allotment (R377). -/
def manyRegs (o : Opnd) (n : Nat) : List (Opnd × Bool) := (List.range n).map (fun k => (shiftOpnd (onlyVector o) k, false))

/-- Register k of a multi-register operand. -/
def regAt (o : Opnd) (k : Nat) : Opnd := shiftOpnd (onlyVector o) k

/-- Range checks of some operands, for every repetition before the first (R149). -/
def rangesOk (x : LaneCtx) (l : List (Opnd × Bool)) : Bool :=
  let at' := fun (d : Nat) => l.all (fun e => srcInRange x.g.regs.length (shiftOpnd e.1 d) e.2)
  match (runOf x.sp).rep with
  | some (count, stride) => if x.sp.rptidx = 0 then (List.range count).all (fun j => at' (j * stride)) else at' 0
  | none => at' 0

/-- A typed operand whose tag is not among some. -/
def tagNot (x : LaneCtx) (o : Opnd) (l : List Tag) : Bool :=
  match x.tagOf o with
  | some t => !l.contains t
  | none => false

/-- How a graphics word ends past the checks of R90: a fault of its own, in a state that has read a descriptor; a wait; or its effect,
with the advance of the run. -/
inductive GfxEnd where
  | fault (s : State) (code : FaultCode) (addr : DWord)
  | wait (s : State)
  | issued (s : State)

/-- What a graphics word checks before its own faults (R90, R392), and what follows. -/
structure GfxSpec where
  illegal : LaneCtx → Bool := fun _ => false
  regs : LaneCtx → List (Opnd × Bool)
  mismatch : LaneCtx → Bool
  rest : LaneCtx → GfxEnd

/-- The first fault of a graphics word that its fields alone give, and the lanes it reports (R90): the exec mask for ILLEGAL_OPCODE, else
the active lanes (R345). -/
def gfxFault (p : GfxSpec) (x : LaneCtx) : Option (FaultCode × LaneMask) :=
  if p.illegal x then some (.illegalOpcode, x.snap)
  else if !rangesOk x (p.regs x) then some (.regRange, x.act)
  else if p.mismatch x then some (.tagMismatch, x.act)
  else none

/-- The fault that one of the next `n` repetitions would raise, each seeing the results of those before it, the last of which left a
state (R148, R149; log entry 16). -/
def gfxLater (p : GfxSpec) (raw : LaneWord) (r : SplitRef) : Nat → State → Option (FaultCode × DWord × LaneMask)
  | 0, _ => none
  | n + 1, s =>
    match tget s.groups r.gkey, s.split r with
    | some g, some sp =>
      let x := { laneCtx s r g sp raw with ahead := true }
      match gfxFault p x with
      | some (c, l) => some (c, 0, l)
      | none =>
        match p.rest x with
        | .fault _ c a => some (c, a, x.act)
        | .issued s => gfxLater p raw r n s
        | .wait _ => none
    | _, _ => none

/-- The repetitions that stand behind the first of an armed word. -/
def LaneCtx.behind (x : LaneCtx) : Nat :=
  match (runOf x.sp).rep with
  | some (count, _) => if x.sp.rptidx = 0 then count - 1 else 0
  | none => 0

/-- Run a graphics word that holds nothing in the latch (R377); the checks of every repetition are made before the first (R149). -/
def runGfx (p : GfxSpec) (w : LaneWord) (s : State) : Host.Outcome State Fault Refusal :=
  onSplit s (fun r g sp =>
    let x := laneCtx s r g sp w
    match gfxFault p x with
    | some (c, l) => faultLane s r sp c 0 l
    | none =>
      match p.rest x with
      | .fault s c a => faultLane s r sp c a x.act
      | .wait s => s
      | .issued t =>
        match gfxLater p w r x.behind t with
        | some (c, a, l) => faultLane s r sp c a l
        | none => t)

/-- Waits at issue of the units' reads (R261, R339); a repetition that is looked at ahead of its issue waits for none. -/
def LaneCtx.unitStall (x : LaneCtx) : Option Stall :=
  if x.ahead then none
  else if 256 ≤ (x.s.core x.r.core).galley.length then some .galley
  else if acquireHeld x.s x.r then some .loads else none

/-- The address in the scalar pair va. -/
def LaneCtx.pairVa (x : LaneCtx) : DWord := x.src x.w.va .n64 0

/-- The fault address of a descriptor: its own when the read of it fails (R345). -/
def descAddr (va : DWord) (n : Nat) (c : FaultCode) : DWord :=
  match c with
  | .permission | .eccUncorrected => va
  | .align => if va.toNat % n != 0 then va else 0
  | _ => 0

/-- Go on with an image descriptor, wait for it, or fault (R366, R377). -/
def LaneCtx.withImage (x : LaneCtx) (f : State → ImageDesc → GfxEnd) : GfxEnd :=
  match x.unitStall with
  | some c => .wait (stallAt x.s x.r x.sp c)
  | none =>
    match readImage x.s x.who unitFields x.pairVa with
    | (s, .wait) => .wait (holdDescriptor s x.who x.pairVa x.act)
    | (s, .bad c) => .fault s c (descAddr x.pairVa 64 c)
    | (s, .got d) => f s d

/-! ### Texels (R367 to R369, R379) -/

/-- The mode byte of a tile as the units read it; 0 where the image has none. -/
def readMode (s : State) (w : Who) (d : ImageDesc) (t : Nat) : State × Except (FaultCode × DWord) Nat :=
  if d.meta_ = 0 then (s, .ok 0)
  else
    match agentRead s w unitFields (d.modeVa t) 1 with
    | (s, .error e) => (s, .error (e, d.modeVa t))
    | (s, .ok b) => (s, .ok (ofBytes b))

/-- The bits of a pixel of a level. -/
def readPixel (s : State) (w : Who) (d : ImageDesc) (m x y : Nat) : State × Except (FaultCode × DWord) DWord :=
  let t := d.tileOf m x y
  let i := pixelIn x y
  match readMode s w d t with
  | (s, .error e) => (s, .error e)
  | (s, .ok mode) =>
    let plain := d.meta_ = 0 ∨ bitsAt mode 6 2 = 0
    let va := if plain then d.tileVa t + BitVec.ofNat 64 (d.bpp * i) else d.tileVa t
    let n := if plain then d.bpp else tileBytes d mode
    match agentRead s w unitFields va n with
    | (s, .error e) => (s, .error (e, va))
    | (s, .ok raw) => (s, .ok (if plain then BitVec.ofNat 64 (ofBytes raw) else decodePixel d mode raw i))

/-- Channels of a pixel as numbers (R379). -/
def channels (d : ImageDesc) (px : DWord) : List Num :=
  match d.fmt with
  | 0 => (List.range 4).map (fun c => .fin false ⟨(bitsAt px.toNat (8 * c) 8 : Nat), 255⟩)
  | 1 => (List.range 4).map (fun c => decodeFloat .f16 (bitsAt px.toNat (16 * c) 16))
  | _ => [decodeFloat .f32 (px.toNat % 2 ^ 32)]

/-- Result registers of a sample. -/
def channelCount (d : ImageDesc) : Nat := if d.fmt ≤ 1 then 4 else 1

/-! ### f32 values (R112 to R115) -/

/-- Rounded once to f32 (R112, R115). -/
def f32Of (x : Num) : Word := BitVec.ofNat 32 (fconvert .f32 .rne false x).bits

/-- The f32 value of a word. -/
def numOf (w : Word) : Num := decodeFloat .f32 w.toNat

/-- rne of a sum, a product and a fused multiply-add of f32 words. -/
def addF (a b : Word) : Word := BitVec.ofNat 32 (fadd .f32 .rne false (numOf a) (numOf b)).bits
def mulF (a b : Word) : Word := BitVec.ofNat 32 (fmul .f32 .rne false (numOf a) (numOf b)).bits
def subF (a b : Word) : Word := BitVec.ofNat 32 (fadd .f32 .rne false (numOf a) (numOf b).negate).bits

/-! ### Sampling (R379, R380) -/

/-- A coordinate; a non-finite one counts as 0 (R379). -/
def coordOf (w : Word) : Q :=
  match numOf w with
  | .fin n q => if n then q.neg else q
  | _ => ⟨0, 1⟩

/-- Wrap an index (R379). -/
def wrapIndex (mode : Nat) (k : Int) (n : Nat) : Nat :=
  match mode with
  | 0 => (k % (n : Int)).toNat
  | 1 => (max 0 (min k ((n : Int) - 1))).toNat
  | _ =>
    let s := (k % (2 * n : Int)).toNat
    if s < n then s else 2 * n - 1 - s

/-- Round a number to a multiple of 1/256; the multiple (R379). -/
def grid256 (q : Q) : Int := roundInt .rne (q.scale 8)

/-- Index and weight (of 256) of each texel that a level's axis takes; weight zero is left out. -/
def axisTaps (lin : Bool) (c : Q) (n : Nat) : List (Int × Nat) :=
  let x := (c.mul (Q.ofInt n)).sub ⟨1, 2⟩
  if lin then
    let i := x.floor
    let a := (grid256 (x.sub (Q.ofInt i))).toNat
    [(i, 256 - a), (i + 1, a)].filter (fun t => t.2 != 0)
  else [((x.add ⟨1, 2⟩).floor, 256)]

/-- The texels of a sample: level, column, row and weight of 2^24. -/
def sampleTaps (d : ImageDesc) (u v : Word) (a0 g : Nat) : List (Nat × Nat × Nat × Nat) :=
  let lin := d.lin && d.fmt != 3
  let level := fun (m wt : Nat) =>
    (axisTaps lin (coordOf v) (d.levelH m)).flatMap (fun j =>
      (axisTaps lin (coordOf u) (d.levelW m)).map (fun i =>
        (m, wrapIndex d.wrapX i.1 (d.levelW m), wrapIndex d.wrapY j.1 (d.levelH m), wt * i.2 * j.2)))
  (if g = 256 then [] else level a0 (256 - g)) ++ (if g = 0 then [] else level (a0 + 1) g)

/-- The weighted sum of the texels of a sample, channel by channel (R379). -/
def sampleSum (d : ImageDesc) (l : List (Nat × DWord)) : List Word :=
  match d.fmt, l with
  | 3, e :: _ => [e.2.lo]
  | _, _ =>
    (List.range (channelCount d)).map (fun c =>
      let terms := l.map (fun e => termOf (.fin false ⟨e.1, 2 ^ 24⟩) ((channels d e.2).getD c (.fin false ⟨0, 1⟩)))
      match terms with
      | [] => 0
      | t :: ts => f32Of (ts.foldl sumOf t))

/-- The level of detail as a level and a weight of 256 for the next (R380): λ is given times 2^28, clamped. -/
def levelPlan (d : ImageDesc) (lam : Q) : Nat × Nat :=
  let top := Q.ofInt d.levels
  let lam := if lam.lt ⟨0, 1⟩ then ⟨0, 1⟩ else if top.lt lam then top else lam
  if !d.mipLin || d.fmt == 3 then ((lam.add ⟨1, 2⟩).floor.toNat, 0)
  else
    let a := lam.floor.toNat
    if d.levels ≤ a then (d.levels, 0) else (a, (grid256 (lam.sub (Q.ofInt a))).toNat)

/-- The greatest of the four rates of a quad (R380). -/
def quadRate (d : ImageDesc) (u v : Nat → Word) (q : Nat) : Q :=
  let diff := fun (f : Nat → Word) (k : Nat) => ((coordOf (f (4 * q + k))).sub (coordOf (f (4 * q)))).abs
  let w := Q.ofInt (d.levelW 0)
  let h := Q.ofInt (d.levelH 0)
  [(diff u 1).mul w, (diff u 2).mul w, (diff v 1).mul h, (diff v 2).mul h].foldl (fun (a : Q) x => if a.lt x then x else a) ⟨0, 1⟩

/-- λ of a lane (R380): of the values within 2^-8 that the part may use, one is free. -/
def LaneCtx.lambda (x : LaneCtx) (d : ImageDesc) (u v : Nat → Word) (i : Nat) : Q :=
  match x.w.sub.val with
  | 2 =>
    match numOf x.w.w2 with
    | .nan _ => ⟨0, 1⟩
    | .inf n => if n then ⟨-1, 1⟩ else Q.ofInt 16
    | .fin n q => if n then q.neg else q
  | 1 =>
    if x.g.composed then ⟨0, 1⟩
    else
      let rho := quadRate d u v (i / 4)
      if rho.isZero then ⟨-1, 1⟩
      else
        let off : Int := (Config.freeNat x.s.fresh (i / 4 + 900) % (2 * (2 ^ 20 - 1) + 1) : Nat) - (2 ^ 20 - 1 : Int)
        (log2Approx rho).add ((Q.ofInt off).scale (-28))
  | _ => ⟨0, 1⟩

/-! ### Hash grids (R382 to R384) -/

/-- floor(N0 * b^l) (R382). -/
def GridDesc.res (d : GridDesc) (l : Nat) : Nat :=
  let b := (numOf d.grow).toQ
  let p := (List.range l).foldl (fun (a : Q) _ => a.mul b) (Q.ofInt d.nbase)
  p.floor.toNat

/-- Dimensions and features. -/
def GridDesc.dims (d : GridDesc) : Nat := if d.d3 then 3 else 2
def GridDesc.feats (d : GridDesc) : Nat := if d.f4 then 4 else 2

/-- The fields of a grid descriptor (R382). -/
def parseGrid (d : List Nat) : GridDesc :=
  let w := fun i => d.getD i 0
  { table := (BitVec.ofNat 57 (w 0)).signExtend 64, grad := (BitVec.ofNat 57 (w 3)).signExtend 64, d3 := bitsAt (w 1) 0 1 == 1,
    levels := bitsAt (w 1) 4 4 + 1, logt := bitsAt (w 1) 8 5, f4 := bitsAt (w 1) 16 1 == 1, nbase := bitsAt (w 1) 32 16,
    grow := BitVec.ofNat 32 (w 2) }

/-- Reserved fields and values of a grid descriptor (R382). -/
def gridReserved (d : List Nat) : Bool :=
  let w := fun i => d.getD i 0
  let g := parseGrid d
  let finite : Bool := match numOf g.grow with
    | .fin false q => (Q.ofInt 1).le q
    | _ => false
  bitsAt (w 0) 57 7 != 0 || bitsAt (w 1) 1 3 != 0 || bitsAt (w 1) 13 3 != 0 || bitsAt (w 1) 17 15 != 0 ||
  bitsAt (w 1) 48 16 != 0 || bitsAt (w 2) 32 32 != 0 || bitsAt (w 3) 57 7 != 0 || decide (25 ≤ g.logt) || g.nbase == 0 ||
  !finite || (List.range g.levels).any (fun l => decide (2 ^ 31 ≤ g.res l))

/-- Cell and fraction of a coordinate at a level (R383). -/
def gridCell (n : Nat) (w : Word) : Nat × Word :=
  let x : Q := match numOf w with
    | .nan _ => ⟨0, 1⟩
    | .inf neg => if neg then ⟨0, 1⟩ else ⟨1, 1⟩
    | .fin neg q => if neg then ⟨0, 1⟩ else if (Q.ofInt 1).lt q then ⟨1, 1⟩ else q
  let p := x.mul (Q.ofInt n)
  let c := min p.floor.toNat (n - 1)
  let f := p.sub (Q.ofInt c)
  (c, f32Of (.fin false f))

/-- Entry and weight of corner e of a lane's cell at a level (R383). -/
def gridCorner (d : GridDesc) (l : Nat) (coord : List Word) (e : Nat) : Nat × Word :=
  let n := d.res l
  let cells := (List.range d.dims).map (fun a => gridCell n (coord.getD a 0))
  let w := (cells.zipIdx).foldl (fun (w : Word) c =>
    mulF w (if bitsAt e c.2 1 = 1 then c.1.2 else subF 0x3F800000 c.1.2)) 0x3F800000
  let q := fun (a : Nat) => if a < d.dims then (cells.getD a (0, 0)).1 + bitsAt e a 1 else 0
  let t := 2 ^ d.logt
  let idx :=
    if (n + 1) ^ d.dims ≤ t then q 0 + q 1 * (n + 1) + q 2 * (n + 1) ^ 2
    else ((q 0 % 2 ^ 32) ^^^ (q 1 * 0x9F3B5A27 % 2 ^ 32) ^^^ (q 2 * 0xE6C1D2B5 % 2 ^ 32)) % t
  (idx, w)

/-- The place of feature 0 of an entry, in features (R382). -/
def GridDesc.slot (d : GridDesc) (l idx : Nat) : Nat := (l * 2 ^ d.logt + idx) * d.feats

/-- The features of one level for a lane (R383). -/
def gridLevel (s : State) (w : Who) (d : GridDesc) (coord : List Word) (l : Nat) : State × Except (FaultCode × DWord) (List Word) :=
  (List.range (2 ^ d.dims)).foldl (fun (x : State × Except (FaultCode × DWord) (List Word)) e =>
    match x with
    | (s, .error c) => (s, .error c)
    | (s, .ok acc) =>
      let (idx, wt) := gridCorner d l coord e
      let va := d.table + BitVec.ofNat 64 (2 * d.slot l idx)
      match agentRead s w unitFields va (2 * d.feats) with
      | (s, .error c) => (s, .error (c, va))
      | (s, .ok b) =>
        (s, .ok ((acc.zipIdx).map (fun a =>
          let f := f32Of (decodeFloat .f16 (ofBytes ((b.drop (2 * a.2)).take 2)))
          addF a.1 (mulF wt f))))) (s, .ok (List.replicate d.feats 0))

/-! ### A lane's reads (R378) -/

/-- Perform the reads of one lane: the words of its destination registers, or the error and where it met it. -/
def unitValue (s : State) (w : Who) (o : UnitOp) : State × Except (FaultCode × DWord) (List Word) :=
  match o with
  | .texel d x y m =>
    if d.levels < m ∨ x < 0 ∨ y < 0 ∨ (d.levelW m : Int) ≤ x ∨ (d.levelH m : Int) ≤ y then (s, .ok [0, 0])
    else
      match readPixel s w d m x.toNat y.toNat with
      | (s, .error e) => (s, .error e)
      | (s, .ok px) => (s, .ok [px.lo, px.hi])
  | .sample d u v a0 g =>
    let r := (sampleTaps d u v a0 g).foldl (fun (x : State × Except (FaultCode × DWord) (List (Nat × DWord))) t =>
      match x with
      | (s, .error e) => (s, .error e)
      | (s, .ok l) =>
        match readPixel s w d t.1 t.2.1 t.2.2.1 with
        | (s, .error e) => (s, .error e)
        | (s, .ok px) => (s, .ok (l ++ [(t.2.2.2, px)]))) (s, .ok [])
    (r.1, r.2.map (sampleSum d))
  | .grid d coord =>
    (List.range d.levels).foldl (fun (x : State × Except (FaultCode × DWord) (List Word)) l =>
      match x with
      | (s, .error e) => (s, .error e)
      | (s, .ok acc) =>
        match gridLevel s w d coord l with
        | (s, .error e) => (s, .error e)
        | (s, .ok v) => (s, .ok (acc ++ v))) (s, .ok [])

/-- Give a result its words for a lane, one for each vector register it writes. -/
def InFlight.fillWords (f : InFlight) (lane : Nat) (l : List Word) : InFlight :=
  { f with awaited := f.awaited.filter (fun i => i != lane),
           writes := (f.writes.zipIdx).map (fun e =>
             match e.1 with
             | .vector r m c d t o => .vector r m c (setLane d lane (l.getD e.2 0)) t o
             | w => w) }

/-- Perform the reads of some lanes of an instruction; the lanes that meet an absent page go to the galley, one entry for
each page (R261, R336, R378). -/
def performReads (s : State) (w : Who) (id : Nat) (jobs : List (Nat × UnitOp)) : State :=
  let (s, held) := jobs.foldl (fun (x : State × List (DWord × Nat × UnitOp)) j =>
    match unitValue x.1 w j.2 with
    | (s, .ok v) => (s.modResult w.ref id (fun f => f.fillWords j.1 v), x.2)
    | (s, .error (.pageNotPresent, va)) => (s, x.2 ++ [(va, j)])
    | (s, .error (c, va)) => ((s.defer w c j.1 va 0 none).modResult w.ref id (fun f => f.dropLane j.1), x.2)) (s, [])
  if held.isEmpty then s
  else
    let pages := held.foldl (fun (p : List Nat) h => if p.contains (pageOf h.1) then p else p ++ [pageOf h.1]) []
    galleyAdd s w.ref.core (pages.map (fun p =>
      let mine := held.filter (fun h => pageOf h.1 == p)
      w.entry ((mine.map (fun h => h.1)).headD 0) (.reads id (mine.map (fun h => h.2))) false (mine.foldl (fun m h => m ||| BitVec.ofNat 96 (2 ^ h.2.1)) 0)))

/-- A result that writes several vector registers: tags at issue, lanes when it returns (R166, R378). Lanes in `lanes` only
join the result of a register for which `takes` holds. -/
def manyResult (x : LaneCtx) (regs : List (Nat × Tag × LaneMask)) (conds : List RegWrite) (awaited : Bool) : Group × Split :=
  if x.snap = 0 then (x.g, x.sp)
  else
    let ws := regs.map (fun r =>
      RegWrite.vector r.1 r.2.2 0 (Vector.replicate 96 0) r.2.1 (x.g.regs.getD r.1 VReg.zero).tag)
    let g := regs.foldl (fun g r => setTag g r.1 r.2.1) { x.g with splits := tput x.g.splits x.r.slot x.sp }
    let sp := (tget g.splits x.r.slot).getD x.sp
    (g, if x.act = 0 then sp else withResult sp x.s.serial (ws ++ conds) (if awaited then x.lanes else []))

/-- The number of the first destination register. -/
def LaneCtx.destNo (x : LaneCtx) : Nat :=
  match x.w.vd with
  | .v n => n.val
  | _ => 0

/-- Issue a texture-unit word whose results go to `n` registers with a tag, then perform its reads. -/
def issueReads (x : LaneCtx) (s : State) (n : Nat) (tag : Tag) (job : Nat → UnitOp) : State :=
  let (g, sp) := manyResult { x with s := s } ((List.range n).map (fun k => (x.destNo + k, tag, x.act))) [] true
  let (s, g, sp) := throughState { s with serial := s.serial + 1 } x.r g sp (fun t =>
    performReads t { x.who with seq := s.serial } s.serial (x.lanes.map (fun i => (i, job i))))
  retireLane s x.r g sp x.w.p

/-! ### The words -/

/-- `vtex` (R379, R380). What it checks, and its effect. -/
def specVtex : GfxSpec :=
  { regs := fun x => [(x.w.va, true), (x.w.vb, false), (x.w.vc, false)] ++ manyRegs x.w.vd 1,
      mismatch := fun x => tagNot x x.w.vb [.f32] || tagNot x x.w.vc [.f32],
      rest := fun x => x.withImage (fun s d =>
        if !rangesOk x (manyRegs x.w.vd (channelCount d)) then .fault s .regRange 0
        else
          let u := x.word x.w.vb
          let v := x.word x.w.vc
          .issued (issueReads x s (channelCount d) (if d.fmt = 3 then .n32 else .f32) (fun i =>
            let p := levelPlan d (x.lambda d u v i)
            .sample d (u i) (v i) p.1 p.2))) }

/-- `vtex` (R379, R380). -/
def execVtex (w : LaneWord) (s : State) : Host.Outcome State Fault Refusal := runGfx specVtex w s

/-- `vtexld` (R381). What it checks, and its effect. -/
def specVtexld : GfxSpec :=
  { regs := fun x => [(x.w.va, true), (x.w.vb, false), (x.w.vc, false)] ++ manyRegs x.w.vd 1,
      mismatch := fun x => tagNot x x.w.vb [.i32, .n32] || tagNot x x.w.vc [.i32, .n32],
      rest := fun x => x.withImage (fun s d =>
        let wide := d.fmt == 1
        if wide && !rangesOk x [(onlyVector x.w.vd, true)] then .fault s .regRange 0
        else
          let a := x.word x.w.vb
          let b := x.word x.w.vc
          .issued (issueReads x s (if wide then 2 else 1) (if wide then .n64 else .n32) (fun i =>
            .texel d (a i).toInt (b i).toInt x.w.sub.val))) }

/-- `vtexld` (R381). -/
def execVtexld (w : LaneWord) (s : State) : Host.Outcome State Fault Refusal := runGfx specVtexld w s

/-- Go on with a grid descriptor, wait for it, or fault (R377, R382). -/
def LaneCtx.withGrid (x : LaneCtx) (f : State → GridDesc → GfxEnd) : GfxEnd :=
  match x.unitStall with
  | some c => .wait (stallAt x.s x.r x.sp c)
  | none =>
    if x.pairVa.toNat % 64 != 0 then .fault x.s .align x.pairVa
    else match readDescriptor x.s x.who (cachedFields x.s unitFields) x.pairVa 32 with
    | (s, .wait) => .wait (holdDescriptor s x.who x.pairVa x.act)
    | (s, .bad c) => .fault s c (descAddr x.pairVa 32 c)
    | (s, .got b) => if gridReserved (dwordsIn 4 b) then .fault s .reservedField 0 else f s (parseGrid (dwordsIn 4 b))

/-- The coordinates of a lane. -/
def LaneCtx.coords (x : LaneCtx) (d : GridDesc) (i : Nat) : List Word :=
  (List.range d.dims).map (fun a => x.word (regAt x.w.vb a) i)

/-- Some register of a multi-register operand is not tagged f32. -/
def LaneCtx.notF32 (x : LaneCtx) (o : Opnd) (n : Nat) : Bool := (List.range n).any (fun k => tagNot x (regAt o k) [.f32])

/-- `vhgrid` (R383). What it checks, and its effect. -/
def specVhgrid : GfxSpec :=
  { regs := fun x => [(x.w.va, true)] ++ manyRegs x.w.vb 2 ++ manyRegs x.w.vd 1,
      mismatch := fun x => x.notF32 x.w.vb 2,
      rest := fun x => x.withGrid (fun s d =>
        let n := d.levels * d.feats
        if !rangesOk x (manyRegs x.w.vb d.dims ++ manyRegs x.w.vd n) then .fault s .regRange 0
        else if x.notF32 x.w.vb d.dims then .fault s .tagMismatch 0
        else .issued (issueReads x s n .f32 (fun i => .grid d (x.coords d i)))) }

/-- `vhgrid` (R383). -/
def execVhgrid (w : LaneWord) (s : State) : Host.Outcome State Fault Refusal := runGfx specVhgrid w s

/-- The contributions of a vhgsc: entry in the gradient table, lane and value, in lane order and then corner order (R384). -/
def scatterTerms (x : LaneCtx) (d : GridDesc) : List (Nat × Nat × Word) :=
  (x.lanes.filter (fun i => !x.g.helper i)).flatMap (fun i =>
    (List.range (2 ^ d.dims)).flatMap (fun e =>
      (List.range d.levels).flatMap (fun l =>
        let (idx, wt) := gridCorner d l (x.coords d i) e
        (List.range d.feats).map (fun k =>
          (d.slot l idx + k, i, mulF wt (x.word (regAt x.w.vc (l * d.feats + k)) i))))))

/-- One atomic add for each entry, of the contributions summed left to right (R384). -/
def scatterAccs (x : LaneCtx) (d : GridDesc) : List Access :=
  let terms := scatterTerms x d
  let entries := terms.foldl (fun (l : List Nat) t => if l.contains t.1 then l else l ++ [t.1]) []
  entries.filterMap (fun e =>
    match terms.filter (fun t => t.1 == e) with
    | [] => none
    | t :: ts =>
      some { lane := t.2.1, va := d.grad + BitVec.ofNat 64 (4 * e), size := 4, op := .atomic 10,
             data := ((ts.foldl (fun a y => addF a y.2.2) t.2.2).setWidth 64), compare := 0, ext := .zero })

/-- A release waits for the earlier accesses of every split of the group (R384). -/
def groupReleaseWaits (s : State) (r : SplitRef) (g : Group) (sc : Scope) : Bool :=
  g.splits.any (fun e => releaseWaits s { r with slot := e.1 } sc)

/-- `vhgsc` (R384). What it checks, and its effect. -/
def specVhgsc : GfxSpec :=
  { regs := fun x => [(x.w.va, true)] ++ manyRegs x.w.vb 2 ++ manyRegs x.w.vc 2,
      mismatch := fun x => x.notF32 x.w.vb 2 || x.notF32 x.w.vc 2,
      rest := fun x => x.withGrid (fun s d =>
        let n := d.levels * d.feats
        if !rangesOk x (manyRegs x.w.vb d.dims ++ manyRegs x.w.vc n) then .fault s .regRange 0
        else if x.notF32 x.w.vb d.dims || x.notF32 x.w.vc n then .fault s .tagMismatch 0
        else if !x.ahead && groupReleaseWaits s x.r x.g x.mem.scope then .wait (stallAt s x.r x.sp .acks)
        else
          let l := scatterAccs x d
          let bad := l.filter (fun a => !canonical a.va)
          let (s, g, sp) := throughState { s with serial := s.serial + 1 } x.r x.g x.sp (fun t =>
            performAll (bad.foldl (fun t a => t.defer x.who .permission a.lane a.va 0 none) t) { x.who with seq := s.serial } x.mem
              none (freeOrder x.s.fresh 0 (l.filter (fun a => canonical a.va))))
          .issued (retireLane s x.r g sp x.w.p)) }

/-- `vhgsc` (R384). -/
def execVhgsc (w : LaneWord) (s : State) : Host.Outcome State Fault Refusal := runGfx specVhgsc w s

/-- One unsigned maximum for each active lane (R375); every one is checked, and a helper lane's is not performed (R365). -/
def visAccs (x : LaneCtx) : List Access :=
  let a := x.address false
  let d := x.src x.w.vc .n64
  x.lanes.map (fun i =>
    { lane := i, va := a i, size := 8, op := .atomic 11, data := d i, compare := 0, ext := .zero })

/-- `vvis` (R375). What it checks, and its effect. -/
def specVvis : LaneSpec :=
  memSpec (fun _ => false) (fun x => [(dataField x.w.vc, true)]) (fun x => tagNot x x.w.vc [.n64]) (fun _ => none) visAccs
      (fun x l => freeOrder x.s.fresh 0 l) (fun _ => .raw)

/-- `vvis` (R375). -/
def execVvis (w : LaneWord) (s : State) : Host.Outcome State Fault Refusal := runLane specVvis w s

/-- `vqswap`: partners l XOR 1, 2 or 3 (R376). What it checks, and its effect. -/
def specVqswap : LaneSpec :=
  crossSpec (fun _ => false) (fun _ => false) (fun x =>
    let d := x.w.sub.val + 1
    fun i => some (i ^^^ d))

/-- `vqswap`: partners l XOR 1, 2 or 3 (R376). -/
def execVqswap (w : LaneWord) (s : State) : Host.Outcome State Fault Refusal := runLane specVqswap w s

end Sys2Proof.Machine
end

