-- ==== Sys2Proof/Machine/Rays.lean ====
section
/-! DEFINITION. The traversal unit: vtrace, the leaf and box tests, ray records and mailboxes (R385 to R389). -/

namespace Sys2Proof.Machine

/-! ### The leaf test (R387) -/

/-- Component a of three. -/
def axis3 (l : List Num) (a : Nat) : Num := l.getD a (.nan false)

/-- rne of a difference, a quotient and a fused q − s × z, to f32. -/
def rneSub (a b : Num) : Num := numOf (f32Of (sumOf a b.negate))
def rneDiv (a b : Num) : Num := numOf (f32Of (quotOf a b))
def rneFused (q s z : Num) : Num := numOf (f32Of (sumOf q (termOf s z).negate))

/-- a × b − c × d, exact. -/
def cross2 (a b c d : Num) : Num := sumOf (termOf a b) (termOf c d).negate

/-- a ≤ b and a < b; false with a NaN. -/
def numLe (a b : Num) : Bool := !a.isNan && !b.isNan && decide (compareNum a b ≤ 0)
def numLt (a b : Num) : Bool := !a.isNan && !b.isNan && decide (compareNum a b < 0)

/-- The axis of largest |d|, the lowest on ties. -/
def mainAxis (d : List Num) : Nat :=
  let m := fun a => (axis3 d a).magnitude
  let k := if numLt (m 0) (m 1) then 1 else 0
  if numLt (m k) (m 2) then 2 else k

/-- A hit: t, b1 and b2. -/
structure LeafHit where
  t : Word
  b1 : Word
  b2 : Word
deriving DecidableEq, Repr

/-- The test of one leaf: origin, direction, interval and the nine vertex words (R387). -/
def leafTest (o d : List Num) (tmin tmax : Num) (v : List Num) : Option LeafHit :=
  let kz := mainAxis d
  let x := (kz + 1) % 3
  let y := (x + 1) % 3
  let flip := numLt (axis3 d kz) (.fin false ⟨0, 1⟩)
  let kx := if flip then y else x
  let ky := if flip then x else y
  let sx := rneDiv (axis3 d kx) (axis3 d kz)
  let sy := rneDiv (axis3 d ky) (axis3 d kz)
  let sz := rneDiv (.fin false ⟨1, 1⟩) (axis3 d kz)
  let point := fun (p : Nat) =>
    let q := fun (a : Nat) => rneSub (v.getD (3 * p + a) (.nan false)) (axis3 o a)
    (rneFused (q kx) sx (q kz), rneFused (q ky) sy (q kz), numOf (f32Of (termOf sz (q kz))))
  let a := point 0
  let b := point 1
  let c := point 2
  let u := cross2 c.1 b.2.1 c.2.1 b.1
  let w2 := cross2 a.1 c.2.1 a.2.1 c.1
  let w3 := cross2 b.1 a.2.1 b.2.1 a.1
  let zero : Num := .fin false ⟨0, 1⟩
  let neg := numLt u zero || numLt w2 zero || numLt w3 zero
  let pos := numLt zero u || numLt zero w2 || numLt zero w3
  let sum := sumOf (sumOf u w2) w3
  let t := f32Of (quotOf (sumOf (sumOf (termOf u a.2.2) (termOf w2 b.2.2)) (termOf w3 c.2.2)) sum)
  if (neg && pos) || sum.isZero then none
  else if numLe tmin (numOf t) && numLe (numOf t) tmax then
    some { t := t, b1 := f32Of (quotOf w2 sum), b2 := f32Of (quotOf w3 sum) }
  else none

/-! ### The box test (R388) -/

/-- The segment meets a box: min x, y, z, max x, y, z. -/
def boxMet (o d : List Num) (tmin tmax : Num) (box : List Num) : Bool :=
  let r := (List.range 3).foldl (fun (x : Bool × Num × Num) a =>
    let lo := axis3 box a
    let hi := box.getD (3 + a) (.nan false)
    let oa := axis3 o a
    let da := axis3 d a
    if da.isZero then (x.1 && numLe lo oa && numLe oa hi, x.2)
    else
      let t1 := quotOf (sumOf lo oa.negate) da
      let t2 := quotOf (sumOf hi oa.negate) da
      let near := if da.isNeg then t2 else t1
      let far := if da.isNeg then t1 else t2
      (x.1 && !near.isNan && !far.isNan, if numLt x.2.1 near then near else x.2.1, if numLt far x.2.2 then far else x.2.2))
    (true, tmin, tmax)
  r.1 && numLe r.2.1 r.2.2

/-! ### Traversal (R385, R388) -/

/-- The best hit so far: its t, primitive id and leaf address, b1 and b2. -/
structure Best where
  hit : LeafHit
  prim : Nat
  leaf : Nat
deriving DecidableEq, Repr

/-- The smaller t first, then the lower primitive id, then the lower leaf address (R388). -/
def bestOf (a b : Best) : Best :=
  let c := compareNum (numOf a.hit.t) (numOf b.hit.t)
  if c < 0 ∨ (c = 0 ∧ (a.prim < b.prim ∨ (a.prim = b.prim ∧ a.leaf ≤ b.leaf))) then a else b

/-- How a traversal ends. -/
inductive RayEnd where
  | record (b : Option Best)
  | special (prim : Word)                       -- 0xFFFFFFFE or 0xFFFFFFFD
  | failed (c : FaultCode) (va : DWord)
  | absent (va : DWord)
deriving DecidableEq, Repr

/-- The f32 words of some bytes. -/
def numsOf (b : List Byte) (first n : Nat) : List Num :=
  (List.range n).map (fun i => decodeFloat .f32 (ofBytes ((b.drop (first + 4 * i)).take 4)))

/-- A child of a node: its box, its kind and its address (R385). -/
structure Child where
  box : List Num
  kind : Nat
  va : DWord
deriving DecidableEq, Repr

/-- Child c of a node; none where the reference is empty (R385). -/
def childOf (b : List Byte) (c : Nat) : Option Child :=
  let r := ofBytes ((b.drop (96 + 8 * c)).take 8)
  if bitsAt r 62 2 = 0 then none
  else some { box := numsOf b (24 * c) 6, kind := bitsAt r 62 2, va := (BitVec.ofNat 57 r).signExtend 64 }

/-- Bytes of a record, and its alignment (R385). -/
def recordSize (kind : Nat) : Nat := if kind = 1 then 128 else 48
def recordBad (kind : Nat) (va : DWord) : Bool := kind == 3 || va.toNat % (if kind = 1 then 128 else 16) != 0

/-- The triangle lies inside a box. -/
def insideBox (tri box : List Num) : Bool :=
  (List.range 9).all (fun i => numLe (box.getD (i % 3) (.nan false)) (tri.getD i (.nan false)) &&
    numLe (tri.getD i (.nan false)) (box.getD (3 + i % 3) (.nan false)))

/-- Below some records stands a leaf that the ray hits, though only by the rounding of R387, and that lies inside every box on the way to
it: the box test may not lose it (R388). Each record goes with the boxes above it; `fuel` counts the records looked at. -/
def hidesHit (s : State) (w : Who) (o d : List Num) (tmin tmax : Num) : Nat → List (Child × List (List Num)) → Bool
  | _, [] => false
  | 0, _ :: _ => false
  | fuel + 1, (x, boxes) :: rest =>
    if recordBad x.kind x.va then hidesHit s w o d tmin tmax fuel rest
    else
      match (agentRead s w unitFields x.va (recordSize x.kind)).2 with
      | .error _ => hidesHit s w o d tmin tmax fuel rest
      | .ok b =>
        if x.kind = 1 then
          hidesHit s w o d tmin tmax fuel (((List.range 4).filterMap (childOf b)).map (fun y => (y, y.box :: boxes)) ++ rest)
        else
          ((leafTest o d tmin tmax (numsOf b 0 9)).isSome && boxes.all (insideBox (numsOf b 0 9))) || hidesHit s w o d tmin tmax fuel rest

/-- The children of a node that the traversal goes on to: those whose boxes the segment meets or that hold a hit which may not be lost, and
others as the unit chooses (R388). -/
def childrenOf (s : State) (w : Who) (salt : Nat) (o d : List Num) (tmin tmax : Num) (b : List Byte) : List (Nat × DWord) :=
  (List.range 4).filterMap (fun c =>
    (childOf b c).bind (fun x =>
      if boxMet o d tmin tmax x.box || Config.freeBit s.fresh (salt * 4 + c) || hidesHit s w o d tmin tmax 65536 [(x, [x.box])] then
        some (x.kind, x.va)
      else none))

/-- Visit the records of a stack, in depth order; `fuel` counts the visits left (R388). -/
def traverse (s : State) (w : Who) (o d : List Num) (tmin tmax : Num) : Nat → List (Nat × DWord) → Option Best → State × RayEnd
  | _, [], best => (s, .record best)
  | 0, _ :: _, _ => (s, .special 0xFFFFFFFD)
  | fuel + 1, (kind, va) :: rest, best =>
    let size := recordSize kind
    if recordBad kind va then (s, .special 0xFFFFFFFE)
    else
      match agentRead s w unitFields va size with
      | (s, .error .pageNotPresent) => (s, .absent (firstAbsent s w va size .load))
      | (s, .error c) => (s, .failed c va)
      | (s, .ok b) =>
        if fuel = 0 then (s, .special 0xFFFFFFFD)
        else if kind = 1 then traverse s w o d tmin tmax fuel (childrenOf s w va.toNat o d tmin tmax b ++ rest) best
        else
          let found := (leafTest o d tmin tmax (numsOf b 0 9)).map (fun h =>
            ({ hit := h, prim := ofBytes ((b.drop 36).take 4), leaf := va.toNat } : Best))
          let best := match best, found with
            | some x, some y => some (bestOf x y)
            | some x, none => some x
            | none, f => f
          traverse s w o d tmin tmax fuel rest best

/-- +∞ as f32. -/
def plusInf : Word := 0x7F800000

/-- The record of a ray that hit nothing, or ended for another reason (R388). -/
def missRecord (ticket prim : Word) : RayRec := { ticket := ticket, t := plusInf, prim := prim, b1 := 0, b2 := 0 }

/-- The agent of a ray. -/
def whoseRay (s : State) (key : Nat) (g : Group) (y : Ray) : Who :=
  { ref := refOf key y.slot, wg := g.wg, node := g.node, ctx := s.nodeCtx g.node, pcs := y.pcs, seq := y.seq }

/-- Traverse a ray whole (R388). -/
def traceRay (s : State) (key : Nat) (g : Group) (y : Ray) : State × RayEnd :=
  let v := y.ray.map numOf
  let o := v.take 3
  let d := (v.drop 3).take 3
  if v.any Num.isNan || d.all Num.isZero then (s, .record none)
  else traverse s (whoseRay s key g y) o d (v.getD 6 (.nan false)) (v.getD 7 (.nan false)) 65536 [(1, y.root)] none

/-- A ray ends and its record arrives in the lane's mailbox (R386, R389). -/
def recordArrives (s : State) (key : Nat) (y : Ray) (r : RayRec) : State :=
  s.modGroup key (fun g => { g with rays := g.rays.filter (fun z => z.id != y.id), mailbox := g.mailbox ++ [(y.lane, r)] })

/-- A ray has been traversed: its record is on its way. -/
def rayEnds (s : State) (key : Nat) (y : Ray) (r : RayRec) : State :=
  s.modGroup key (fun g => { g with rays := g.rays.map (fun z => if z.id = y.id then { z with record := some r } else z) })

/-- Perform the reads of ray k of a group, in the place of its `vtrace` in the split's program order (R229); at an absent page it stalls
in the galley (R388). -/
def followRay (s : State) (key k : Nat) : State :=
  match tget s.groups key with
  | none => s
  | some g =>
    match g.rays.find? (fun y => y.id == k) with
    | none => s
    | some y =>
      let w := whoseRay s key g y
      match traceRay s key g y with
      | (s, .record none) => rayEnds s key y (missRecord y.ticket 0xFFFFFFFF)
      | (s, .record (some b)) =>
        rayEnds s key y { ticket := y.ticket, t := b.hit.t, prim := BitVec.ofNat 32 b.prim, b1 := b.hit.b1, b2 := b.hit.b2 }
      | (s, .special p) => rayEnds s key y (missRecord y.ticket p)
      | (s, .failed c va) => rayEnds (s.defer w c y.lane va 0 none) key y (missRecord y.ticket 0xFFFFFFFE)
      | (s, .absent va) =>
        galleyAdd s (key / 256)
          [w.entry va (.ray k) false (BitVec.ofNat 96 (2 ^ y.lane))]

/-- RAY_RECORD_ARRIVAL: the record of ray k of a group, once it has been traversed, arrives in its lane's mailbox (R386, R389). -/
def execRayRecordArrival (group k : Nat) (s : State) : Host.Outcome State Fault Refusal :=
  onPart s (fun s =>
    match tget s.groups group with
    | none => s
    | some g =>
      match g.rays.find? (fun y => y.id == k) with
      | none => s
      | some y =>
        match y.record with
        | some r => recordArrives s group y r
        | none => s)

/-! ### vtrace (R386) -/

/-- Slots that a lane holds, and that the group holds: rays in flight and records not popped. -/
def Group.laneSlots (g : Group) (i : Nat) : Nat :=
  (g.rays.filter (fun y => y.lane == i)).length + (g.mailbox.filter (fun m => m.1 == i)).length
def Group.slots (g : Group) : Nat := g.rays.length + g.mailbox.length

/-- Launch the ray of a lane, if it has a slot: the group, and the lane's ticket. -/
def launchRay (x : LaneCtx) (root : DWord) (g : Group) (i : Nat) : Group × Word :=
  if 8 ≤ g.laneSlots i ∨ 256 ≤ g.slots then (g, 0)
  else
    let t := nextTicket (g.rayTickets.getD i 0)
    let y : Ray :=
      { id := x.s.serial + i, slot := x.r.slot, lane := i, ticket := t, root := root,
        ray := (List.range 8).map (fun k => x.word (regAt x.w.vb k) i), pcs := x.sp.pcs, seq := x.s.serial, record := none }
    ({ g with rays := g.rays ++ [y], rayTickets := g.rayTickets.set i t }, t)

/-- `vtrace` (R386). What it checks, and its effect. -/
def specVtrace : GfxSpec :=
  { regs := fun x => [(x.w.va, true)] ++ manyRegs x.w.vb 8 ++ manyRegs x.w.vd 1,
      mismatch := fun x => x.notF32 x.w.vb 8,
      rest := fun x =>
        match x.unitStall with
        | some c => .wait (stallAt x.s x.r x.sp c)
        | none =>
          let (g, tickets) := x.lanes.foldl (fun (a : Group × List (Nat × Word)) i =>
            let (g, t) := launchRay x x.pairVa a.1 i
            (g, a.2 ++ [(i, t)])) (x.g, [])
          let (s, g, sp) := { x with g := g }.put .handle (fun i =>
            (match tickets.find? (fun (e : Nat × Word) => e.1 == i) with
             | some e => e.2.setWidth 64
             | none => 0, 0))
          let (s, g, sp) := throughState { s with serial := s.serial + 96 } x.r g sp (fun t =>
            (x.lanes.map (fun i => x.s.serial + i)).foldl (fun t k => followRay t x.r.gkey k) t)
          .issued (retireLane s x.r g sp x.w.p) }

/-- `vtrace` (R386). -/
def execVtrace (w : LaneWord) (s : State) : Host.Outcome State Fault Refusal := runGfx specVtrace w s

/-! ### vmbox (R389) -/

/-- The record that a lane pops. -/
def Group.firstRecord (g : Group) (i : Nat) : Option RayRec := (g.mailbox.find? (fun m => m.1 == i)).map (fun m => m.2)

/-- Take the first record of each of some lanes out of a mailbox. -/
def popRecords : List (Nat × RayRec) → List Nat → List (Nat × RayRec)
  | [], _ => []
  | m :: l, lanes => if lanes.contains m.1 then popRecords l (lanes.filter (fun i => i != m.1)) else m :: popRecords l lanes

/-- `vmbox` (R389): the records are popped at issue, and the registers and bits written when the results return. What it checks, and its effect. -/
def specVmbox : GfxSpec :=
  { regs := fun x => manyRegs x.w.vd 5,
      mismatch := fun _ => false,
      rest := fun x =>
        let have_ := x.act &&& maskOf (fun i => (x.g.firstRecord i).isSome)
        let n := bitsAt x.w.sub.val 0 2
        let v := x.destNo
        let cond : RegWrite := .cond n x.act 0 have_
        let (g, sp) := manyResult x
          [(v, .handle, x.act), (v + 1, .f32, have_), (v + 2, .n32, have_), (v + 3, .f32, have_), (v + 4, .f32, have_)] [cond] false
        let g := { g with mailbox := popRecords g.mailbox x.lanes }
        let s := { x.s with serial := x.s.serial + 1 }
        let (s, g, sp) := throughState s x.r g sp (fun t =>
          x.lanes.foldl (fun t i =>
            t.modResult x.r x.s.serial (fun f =>
              match x.g.firstRecord i with
              | some r => f.fillWords i [r.ticket, r.t, r.prim, r.b1, r.b2]
              | none => f.fillWords i [0])) t)
        .issued (retireLane s x.r g sp x.w.p) }

/-- `vmbox` (R389): the records are popped at issue, and the registers and bits written when the results return. -/
def execVmbox (w : LaneWord) (s : State) : Host.Outcome State Fault Refusal := runGfx specVmbox w s

end Sys2Proof.Machine
end

