-- ==== Sys2Proof/Machine/Pool.lean ====
section
/-! DEFINITION. Contexts that offend (R315), accesses of the hub die's units (R228, R416), node descriptors (R316, R317),
placement of workgroups and groups (R31, R33, R49, R53 to R55, R319 to R325, R348), failure of nodes (R328). -/

namespace Sys2Proof.Machine

/-! ### Contexts (R315) -/

/-- Add to a context's GUILT, which saturates at 255. -/
def chargeBy (s : State) (ctx n : Nat) : State :=
  let c := s.context ctx
  s.setContext ctx { c with guilt := min 255 (c.guilt + n) }.judged

def charge (s : State) (ctx : Nat) : State := chargeBy s ctx 1

/-! ### Accesses of the hub's units -/

/-- A 57-bit address field as an address (log entry 23). -/
def address57 (x : Nat) : DWord := (BitVec.ofNat 57 x).signExtend 64

/-- Read bytes of one page in a context, with acquire, at the hub's logical time (R313, R314, R416); those of the remote region the link
engine fetches (R201). -/
def hubRead (s : State) (ctx : Nat) (va : DWord) (n : Nat) : State × Except FaultCode (List Byte) :=
  if !canonical va then (s, .error .permission)
  else
    match translate s none ctx va .load with
    | (s, .error e) => (s, .error e)
    | (s, .ok l) =>
      match regionOf l.pa with
      | .memory _ =>
        if s.poisonedAt l.pa n then (s, .error .eccUncorrected)
        else
          let (s, b) := homeRead s none l.key l.pa n
          (s, .ok b)
      | .remote rank window _ => (s, peerBytes s rank window l.pa n)
      | .control _ | .hole => (s, .error .permission)

/-- The dwords of some bytes. -/
def dwordsOf : Nat → List Byte → List Nat
  | 0, _ => []
  | n + 1, b => ofBytes (b.take 8) :: dwordsOf n (b.drop 8)

/-- Read at most a page of bytes, which may straddle a page: each part is translated and checked on its own (R200, R361). -/
def hubBytes (s : State) (ctx : Nat) (va : DWord) (n : Nat) : State × Except FaultCode (List Byte) :=
  let here := 4096 - va.toNat % 4096
  if n ≤ here then hubRead s ctx va n
  else
    match hubRead s ctx va here with
    | (s, .error e) => (s, .error e)
    | (s, .ok a) =>
      match hubRead s ctx (va + BitVec.ofNat 64 here) (n - here) with
      | (s, .error e) => (s, .error e)
      | (s, .ok b) => (s, .ok (a ++ b))

/-- Read dwords. -/
def hubDwords (s : State) (ctx : Nat) (va : DWord) (n : Nat) : State × Except FaultCode (List Nat) :=
  let (s, r) := hubBytes s ctx va (8 * n)
  (s, r.map (dwordsOf n))

/-! ### Node descriptors (R316, R317, R357) -/

/-- Byte j of two dwords. -/
def byteOf (lo hi j : Nat) : Nat := if j < 8 then bitsAt lo (8 * j) 8 else bitsAt hi (8 * (j - 8)) 8

/-- A descriptor's fields from its 32 dwords (R316). -/
def parseDesc (addr : Nat) (d : List Nat) : Desc :=
  let w := fun i => d.getD i 0
  let six := w 6
  { addr := addr, scode := bitsAt (w 0) 0 57, lcode := bitsAt (w 1) 0 57,
    w := (List.range 6).map (fun k => bitsAt (w 2) (6 * k) 6),
    n := (List.range 6).map (fun k => bitsAt (w (3 + k / 2)) (32 * (k % 2)) 32 + 1),
    allot := 8 * 2 ^ bitsAt six 0 3, limit := bitsAt six 3 2 + 1, q := bitsAt six 5 6, acct := bitsAt six 11 7,
    aff := bitsAt six 18 3, prio := bitsAt six 21 3, coop := bitsAt six 24 1 == 1, free := bitsAt six 25 1 == 1,
    pair := bitsAt six 26 1 == 1, multi := bitsAt six 27 1 == 1, localDone := bitsAt six 28 1 == 1,
    gfx := bitsAt six 29 1 == 1, gstage := bitsAt six 30 4, scratch := bitsAt (w 7) 0 32, calltab := bitsAt (w 8) 0 57,
    calllen := bitsAt (w 9) 0 16, sigop := bitsAt (w 9) 16 2, domain := bitsAt (w 9) 18 14, signal := bitsAt (w 10) 0 57,
    sigval := BitVec.ofNat 64 (w 11), preds := bitsAt (w 12) 0 16,
    succ := (List.range (bitsAt (w 12) 16 5)).map (byteOf (w 13) (w 14)), raw := d.map (BitVec.ofNat 64) }

/-- Reserved fields of the dwords are zero, and no reserved value is used (R316, R317). -/
def descReservedOk (d : List Nat) : Bool :=
  let w := fun i => d.getD i 0
  let six := w 6
  bitsAt (w 0) 0 8 == 0 && bitsAt (w 0) 57 7 == 0 && bitsAt (w 1) 0 8 == 0 && bitsAt (w 1) 57 7 == 0 && bitsAt (w 2) 36 28 == 0 &&
  decide (bitsAt six 0 3 ≤ 4) && decide (bitsAt six 5 6 ≤ 32) && decide (bitsAt six 11 7 ≤ 64) &&
  decide (2 ≤ bitsAt six 18 3) && decide (bitsAt six 18 3 ≤ 6) && decide (bitsAt six 30 4 ≤ 3) && bitsAt six 34 30 == 0 &&
  bitsAt (w 7) 32 32 == 0 && bitsAt (w 8) 0 3 == 0 && bitsAt (w 8) 57 7 == 0 && decide (bitsAt (w 9) 16 2 ≤ 1) &&
  bitsAt (w 9) 32 32 == 0 && bitsAt (w 10) 57 7 == 0 && bitsAt (w 12) 21 43 == 0 && decide (bitsAt (w 12) 16 5 ≤ 16) && w 15 == 0 &&
  (List.range 8).all (fun p => bitsAt (w (16 + 2 * p)) 57 7 == 0 && bitsAt (w (17 + 2 * p)) 34 30 == 0)

/-- The highest field in use (R53). -/
def topField (d : Desc) : Nat := ((List.range 6).filter (fun k => d.w.getD k 0 != 0)).getLastD 0

/-- The work identifier keeps R53. -/
def widOk (d : Desc) : Bool :=
  (List.range 6).all (fun k => decide (d.n.getD k 1 ≤ 2 ^ d.w.getD k 0)) && decide (d.w.foldl (· + ·) 0 ≤ 64) &&
  decide (d.n.getD 0 1 ≤ 96) && decide (7 ≤ d.w.getD 0 0) && decide (d.n.getD 1 1 ≤ 16)

/-- The stage and its flags agree (R357). -/
def stageOk (d : Desc) : Bool :=
  (d.gfx == (d.gstage != 0)) &&
  (match d.gstage with
   | 1 => !d.free
   | 2 => d.free && !d.coop && !d.pair && !d.multi
   | 3 => d.free
   | _ => true)

/-- A multi-chip node names a registered domain, and its top field counts the domain's parts (R53, R317). DESIGN CHOICE (log entry 82):
a top field f0 or f1, which lanes and groups number, is malformed; the spec does not say what a chip rank there would mean. -/
def multiOk (s : State) (d : Desc) : Bool :=
  !d.multi ||
  (match tget s.domains d.domain with
   | some x => decide (2 ≤ topField d) && d.n.getD (topField d) 1 == x.size
   | none => false)

/-- A descriptor that may launch (R317). In pair mode the top field of a multi-chip node may be f2, which R53 then makes the twin's index and
the chip rank at once: accepted, as no limit of R53 forbids it (the model's choice, log entry 87). -/
def descOk (s : State) (raw : List Nat) (d : Desc) : Bool :=
  descReservedOk raw && widOk d && multiOk s d && stageOk d && decide (d.scratch ≤ d.q * 131072) && d.scratch % 256 == 0 &&
  !(d.free && (d.coop || d.pair)) && (!d.pair || d.n.getD 2 1 == 2) && d.signal % 8 == 0 && d.succ.all (fun x => x != 0)

/-! ### Work identifiers (R53 to R55) -/

/-- Bits below field k. -/
def fieldBase (d : Desc) (k : Nat) : Nat := (d.w.take k).foldl (· + ·) 0

/-- The rank that the top field takes on this part, for a multi-chip node. -/
def rankField (n : Node) : Option (Nat × Nat) := n.multi.map (fun m => (topField n.desc, m.rank))

/-- Identifier bits of fields `k` and up, for the index-th combination in ascending order. -/
def widFrom (n : Node) (k idx : Nat) : Nat :=
  ((List.range 6).foldl (fun (a : Nat × Nat) f =>
    if f < k then a
    else
      match rankField n with
      | some (t, r) => if f = t then (a.1 + r * 2 ^ fieldBase n.desc f, a.2) else
          (a.1 + a.2 % n.desc.n.getD f 1 * 2 ^ fieldBase n.desc f, a.2 / n.desc.n.getD f 1)
      | none => (a.1 + a.2 % n.desc.n.getD f 1 * 2 ^ fieldBase n.desc f, a.2 / n.desc.n.getD f 1)) (0, idx)).1

/-- The first field that varies between the workgroups of a node: f2, or f1 in a free-thread node (R48, R54). -/
def firstField (d : Desc) : Nat := if d.free then 1 else 2

/-- Workgroups that this part launches for a node (R54, R55); a pixel node launches its waves instead. -/
def totalWorkgroups (n : Node) : Nat :=
  if n.desc.gstage = 2 then 0
  else
    (List.range 6).foldl (fun a f =>
      if f < firstField n.desc then a
      else
        match rankField n with
        | some (t, _) => if f = t then a else a * n.desc.n.getD f 1
        | none => a * n.desc.n.getD f 1) 1

/-- The affinity set of a workgroup: its fields from AFF up (R55). -/
def affinitySet (d : Desc) (wid : Nat) : Nat := wid / 2 ^ fieldBase d d.aff

/-! ### The parts of a workgroup still to be placed -/

/-- A group to be placed: where its registers, lanes and PCs come from. -/
structure Seed where
  wid : DWord
  lanes : LaneMask
  s23 : DWord
  s45 : DWord
  pcs : PcPair
  regs : List VReg
  vc0 : LaneMask
  composed : Bool
  conts : List (List (BitVec 16))
  mailbox : List (Nat × RayRec)
  tickets : List Word
  pix : List (Nat × PixInfo)
deriving DecidableEq, Repr

/-- Lanes whose f0 lies below the node's count (R31). -/
def launchLanes (d : Desc) : LaneMask := maskOf (fun i => decide (i < d.n.getD 0 1))

/-- The first registers of an allotment; the others are zero and raw (R33). -/
def padRegs (allot : Nat) (l : List VReg) : List VReg := (List.range allot).map (fun i => l.getD i VReg.zero)

/-- The seed of an ordinary group: R33, and R49 in a free-thread node. -/
def groupSeed (n : Node) (wid : Nat) : Seed :=
  let id := fun (i : Nat) => wid + i
  let own : List VReg :=
    if n.desc.free then
      [{ data := Vector.ofFn (fun i : Fin 96 => if i.val < n.desc.n.getD 0 1 then BitVec.ofNat 32 (id i.val) else 0), tag := .n64 },
       { data := Vector.ofFn (fun i : Fin 96 => if i.val < n.desc.n.getD 0 1 then BitVec.ofNat 32 (id i.val / 2 ^ 32) else 0), tag := .n64 }]
    else []
  { wid := BitVec.ofNat 64 wid, lanes := launchLanes n.desc, s23 := n.args, s45 := if n.desc.free then 0 else BitVec.ofNat 64 wid,
    pcs := { spc := 0, lpc := 0 }, regs := own, vc0 := 0, composed := false, conts := [], mailbox := [], tickets := [], pix := [] }

/-- The seed of a pixel wave (R364). -/
def waveSeed (n : Node) (w : Wave) : Seed :=
  let col := fun (k : Nat) (t : Tag) =>
    ({ data := Vector.ofFn (fun i : Fin 96 => (w.regs.getD k []).getD i.val 0), tag := t } : VReg)
  { wid := 0, lanes := w.lanes, s23 := n.args, s45 := 0, pcs := { spc := 0, lpc := 0 },
    regs := [col 0 .n64, col 1 .n64, col 2 .f32, col 3 .f32, col 4 .f32, col 5 .n32],
    vc0 := maskOf (fun i => w.pix.any (fun p => p.1 == i && p.2.covered)), composed := false, conts := [], mailbox := [],
    tickets := [], pix := w.pix }

/-- The scalar registers of a new group (R33). -/
def launchRegs (x : Seed) : Vector Word 64 :=
  ((((Vector.replicate 64 (0 : Word)).set 2 x.s23.lo).set 3 x.s23.hi).set 4 x.s45.lo).set 5 x.s45.hi

/-- The split of a new group, in slot 0 (R31, R33). -/
def launchSplit (cyc : Nat) (x : Seed) : Split :=
  setMask
    { s := launchRegs x, spc := x.pcs.spc, lpc := x.pcs.lpc, lanes := x.lanes, fpstat := 0, ustat := 0, arrival := none,
      written := [], armed := none, run := none, rptidx := 0, wait := .ready, stopped := none, inflight := [], deferred := [],
      laneCount := 0, scalarCount := 0, lastIssue := cyc } x.lanes

/-- A new group (R33, R51, R239, R161). -/
def launchGroup (n : Node) (node wg region order base cyc : Nat) (x : Seed) : Group :=
  { node := node, wg := wg, wid := x.wid, region := region, order := order, placed := order, base := base, composed := x.composed,
    regs := padRegs n.desc.allot x.regs, vc := #v[x.vc0, 0, 0, 0], xa := Vector.replicate 2 Exact.zero,
    latch := Vector.replicate 3 none, splits := [(0, launchSplit cyc x)], limit := n.desc.limit, joins := [], deferrals := [],
    gather := [], gatherIssued := [], edited := false, openBatch := [], batchNo := 1, batches := [], ticket := 1, upcall := none,
    conts := if x.conts.isEmpty then List.replicate 96 [] else x.conts, mailbox := x.mailbox, rays := [],
    rayTickets := if x.tickets.isEmpty then List.replicate 96 0 else x.tickets, pix := x.pix, sect := none, ordered := false,
    wave := order }

/-! ### Registers of a pipe (R321, R322) -/

/-- Blocks in use on a pipe: first register and size. -/
def blocksOf (s : State) (core pipe : Nat) : List (Nat × Nat) :=
  (s.groups.filter (fun e => e.1 / 32 == core * 8 + pipe)).map (fun e => (e.2.base, e.2.regs.length))

/-- A range of registers holds no block. -/
def rangeFree (blocks : List (Nat × Nat)) (lo n : Nat) : Bool :=
  blocks.all (fun b => decide (b.1 + b.2 ≤ lo) || decide (lo + n ≤ b.1))

/-- The lowest free buddy block of exactly this size: free, its buddy not (R321). -/
def buddyAt (blocks : List (Nat × Nat)) (size : Nat) : Option Nat :=
  ((List.range (512 / size)).map (fun i => i * size)).find? (fun a =>
    rangeFree blocks a size && (size == 512 || !rangeFree blocks (a / (2 * size) * (2 * size)) (2 * size)))

/-- Where a block of `allot` registers goes: the smallest free block that holds it, at the lowest address (R321). -/
def findBlock (blocks : List (Nat × Nat)) (allot : Nat) : Option Nat :=
  ([8, 16, 32, 64, 128, 256, 512].filter (fun z => decide (allot ≤ z))).findSome? (buddyAt blocks)

/-- The pipe that takes a group, and the block: fewest resident groups, then the lowest number (R321). `more` lists the
blocks already given out on each pipe. -/
def choosePipe (s : State) (core allot : Nat) (more : List (Nat × Nat × Nat)) : Option (Nat × Nat) :=
  let option := fun (p : Nat) =>
    let blocks := blocksOf s core p ++ (more.filter (fun m => m.1 == p)).map (fun m => m.2)
    if 32 ≤ blocks.length then none else (findBlock blocks allot).map (fun a => (blocks.length, p, a))
  let found := (List.range Config.pipes).filterMap option
  (found.foldl (fun (b : Option (Nat × Nat × Nat)) x =>
    match b with
    | none => some x
    | some y => if x.1 < y.1 then some x else some y) none).map (fun x => x.2)

/-- Blocks for the groups of a workgroup, one after another; none when some group finds none. -/
def chooseBlocks (s : State) (core allot : Nat) : Nat → List (Nat × Nat × Nat) → Option (List (Nat × Nat × Nat))
  | 0, more => some more
  | k + 1, more =>
    match choosePipe s core allot more with
    | none => none
    | some (p, a) => chooseBlocks s core allot k (more ++ [(p, a, allot)])

/-! ### The save area (R348) -/

/-- Units of a context that are not allotted. -/
def freeUnits (s : State) (ctx : Nat) : List Nat :=
  (List.range (s.saveEntry ctx).units).filter (fun u => !s.regions.contains (ctx, u))

/-- Units of a workgroup region. -/
def wgUnits (acct scratch : Nat) : Nat := (4096 + 16384 * acct + scratch + 65535) / 65536

/-- First units at which a run of `n` free units begins. -/
def freeRuns (free : List Nat) (n : Nat) : List Nat := free.filter (fun u => (List.range n).all (fun i => free.contains (u + i)))

/-- Which of the free regions is taken is not fixed (log entry 28). -/
def pick (nonce salt : Nat) (l : List Nat) : Option Nat := l[Config.freeNat nonce salt % (max 1 l.length)]?

/-- Disjoint runs of `n` units that some free units, in ascending order, hold. -/
def runsCount (n : Nat) (free : List Nat) : Nat :=
  (free.foldl (fun (a : Option Nat × Nat × Nat) u =>
    let len := if a.1 = some u then a.2.1 + 1 else 1
    if n ≤ len then (some (u + 1), 0, a.2.2 + 1) else (some (u + 1), len, a.2.2)) (none, 0, 0)).2.2

/-- Free units hold the regions of `ahead` workgroups of this shape, and `more` units besides (R325, R348). -/
def roomFor (units groups ahead more : Nat) (free : List Nat) : Bool :=
  decide (ahead = 0 ∨ ahead ≤ runsCount units free) && decide (more + ahead * (units + groups) ≤ free.length)

/-- Units for `k` groups, taken from some free ones so that `ahead` further workgroups keep room for theirs. -/
def pickGroups (nonce units groups ahead : Nat) : Nat → List Nat → Option (List Nat)
  | 0, _ => some []
  | k + 1, free =>
    match pick nonce (k + 50) (free.filter (fun u => decide (u < 65536) && roomFor units groups ahead k (free.filter (fun x => x != u)))) with
    | none => none
    | some u => (pickGroups nonce units groups ahead k (free.filter (fun x => x != u))).map (fun l => u :: l)

/-- The region of a workgroup and those of its groups; none when the area has no room for them and for those of `ahead` further
workgroups that are placed with it. -/
def allotRegions (s : State) (ctx units groups ahead : Nat) : Option (Nat × List Nat) :=
  let free := freeUnits s ctx
  let without := fun (w : Nat) => free.filter (fun x => !(decide (w ≤ x) && decide (x < w + units)))
  match pick s.fresh 49 ((freeRuns free units).filter (fun u => decide (u < 65536) && roomFor units groups ahead groups (without u))) with
  | none => none
  | some w => (pickGroups s.fresh units groups ahead groups (without w)).map (fun l => (w, l))

/-! ### Fit (R320) -/

/-- Scratchpad bytes of a node's workgroup, rounded up to 256 (R104, R209). -/
def scratchBytes (d : Desc) : Nat := (d.scratch + 255) / 256 * 256

/-- What a workgroup asks of a core. -/
structure Want where
  node : Nat
  groups : Nat
  allot : Nat
  q : Nat
  scratch : Nat
  acct : Nat
deriving DecidableEq, Repr

/-- Workgroups of a core. -/
def coreWgs (s : State) (core : Nat) : List (Nat × Workgroup) := s.wgs.filter (fun e => e.1 / 64 == core)

/-- The core has a workgroup slot and accumulator tiles for it, and takes placements. -/
def fitsRoom (s : State) (c : Nat) (w : Want) : Bool :=
  !(s.core c).noPlacement && decide ((coreWgs s c).length < 64) &&
  decide ((coreWgs s c).foldl (fun a e => a + e.2.tileCount) 0 + w.acct ≤ 64)

/-- Everything fits but perhaps the granules. -/
def fitsBut (s : State) (c : Nat) (w : Want) : Bool := fitsRoom s c w && (chooseBlocks s c w.allot w.groups []).isSome

/-- Granules that the core must have for the workgroup: Q, and room for its bytes (R210). -/
def granulesFor (s : State) (c : Nat) (w : Want) : Nat := max w.q ((heldBytes s c + w.scratch + 131071) / 131072)

/-- The workgroup fits the core as it is (R320). -/
def fits (s : State) (c : Nat) (w : Want) : Bool := fitsBut s c w && decide (granulesFor s c w ≤ (s.core c).scratchGranules)

/-- A die is reserved against a node by another of at least its priority (R324). -/
def reservedAgainst (s : State) (node : Nat) (n : Node) (die : Nat) : Bool :=
  s.nodes.any (fun e => e.1 != node && e.2.state != .failed && e.2.reserves.contains die && decide (n.desc.prio ≤ e.2.desc.prio))

/-- The die that the affinity set of a workgroup has, if one is chosen (R55). -/
def setDie (n : Node) (wid : Nat) : Option Nat := if n.desc.aff = 6 then none else tget n.dies (affinitySet n.desc wid)

/-- Cores that a workgroup of a node may go to. -/
def candidateCores (s : State) (node : Nat) (n : Node) (wid : Nat) : List Nat :=
  (List.range Config.cores).filter (fun c =>
    (match setDie n wid with
     | some d => dieOf c == d
     | none => true) && !reservedAgainst s node n (dieOf c) && (!n.desc.pair || c % 2 == 0))

/-- What a node's workgroup asks. -/
def wantOf (node : Nat) (n : Node) : Want :=
  { node := node, groups := if n.desc.free then 1 else n.desc.n.getD 1 1, allot := n.desc.allot, q := n.desc.q,
    scratch := scratchBytes n.desc, acct := n.desc.acct }

/-- A core and its twin fit a pair (R320). -/
def fitsPair (s : State) (pair : Bool) (f : State → Nat → Want → Bool) (c : Nat) (w : Want) : Bool :=
  f s c w && (!pair || f s (c + 1) w)

/-- The core that takes a workgroup: fewest resident workgroups, then the lowest number (R320). -/
def bestCore (s : State) (l : List Nat) : Option Nat :=
  l.foldl (fun b c =>
    match b with
    | none => some c
    | some x => if (coreWgs s c).length < (coreWgs s x).length then some c else some x) none

/-- The core whose change of split needs the fewest granules, the lowest number first (R323). -/
def fewestGranules (need : Nat → Nat) (cores : List Nat) : Option Nat :=
  cores.foldl (fun b c =>
    match b with
    | none => some c
    | some x => if need c < need x then some c else some x) none

/-- Granules that a core lacks for a workgroup. -/
def lacking (s : State) (c : Nat) (w : Want) : Nat := granulesFor s c w - (s.core c).scratchGranules

/-- The cores that a node's work is bound to. -/
def boundCores (s : State) (node : Nat) (work : Work) : List Nat :=
  (s.bound.filter (fun b => b.node == node && b.work == work)).map (fun b => b.core)

/-- A binding ends: of a node's fresh work, of its saved work, or of its composed groups of an index. -/
def unbind (s : State) (node : Nat) (of_ : Work → Bool) : State := { s with bound := s.bound.filter (fun b => !(b.node == node && of_ b.work)) }

/-- The core for a workgroup of a node, or none. A bound workgroup waits for its own core (R323). -/
def coreFor (s : State) (node : Nat) (n : Node) (work : Work) (wid : Nat) (w : Want) : Option Nat :=
  let cs := candidateCores s node n wid
  let own := boundCores s node work
  let cs := if own.isEmpty || n.desc.coop then cs else cs.filter (fun c => own.contains c)
  bestCore s (cs.filter (fun c => fitsPair s n.desc.pair fits c w))

/-! ### Placing (R319, R321, R348) -/

/-- The next group slot of a pipe (R321). -/
def freeGslot (s : State) (core pipe : Nat) : Nat :=
  (firstFree ((s.groups.filter (fun e => e.1 / 32 == core * 8 + pipe)).map (fun e => e.1 % 32)) 0 32).getD 0

/-- Zero the reply slot of a region as it is allotted (R348). -/
def zeroReply (s : State) (ctx region : Nat) : State :=
  homeWrite s none (s.context ctx).wkey (replySlot s ctx region) (List.replicate 64 0) (some ctx)

/-- Put groups on a core, one for each seed, with the blocks and regions chosen for them. -/
def placeGroups (s : State) (n : Node) (node core wg : Nat) : List Seed → List (Nat × Nat × Nat) → List Nat → State
  | x :: xs, b :: bs, u :: us =>
    let k := groupKey core b.1 (freeGslot s core b.1)
    let g := launchGroup n node wg u s.serial b.2.1 s.cyc x
    let s := { s with groups := tput s.groups k g, serial := s.serial + 1, regions := (n.ctx, u) :: s.regions,
                      wgs := tmod s.wgs wg (fun w => { w with groups := w.groups ++ [k] }) }
    placeGroups (zeroReply s n.ctx u) n node core wg xs bs us
  | _, _, _ => s

/-- Place a workgroup of a node on a core where it fits: its slot, region and groups (R319 to R321, R348), the acquire of
R257, and the clock of R214. -/
def placeWorkgroup (s : State) (node : Nat) (n : Node) (core : Nat) (wid : Nat) (seeds : List Seed) (twin : Option Nat)
    (follower : Bool) (ahead : Nat) : State :=
  let slot := (firstFree ((coreWgs s core).map (fun e => e.1 % 64)) 0 64).getD 0
  let key := wgKey core slot
  let units := wgUnits n.desc.acct (scratchBytes n.desc)
  match chooseBlocks s core n.desc.allot seeds.length [], allotRegions s n.ctx units seeds.length ahead with
  | some blocks, some (wr, gr) =>
    let w : Workgroup :=
      { node := node, wid := BitVec.ofNat 64 wid, order := s.serial, region := wr, units := units, scratch := [],
        size := scratchBytes n.desc, objects := [], rck := 0, cpt := 256, lastTick := s.cyc, tiles := [],
        tileCount := n.desc.acct, granules := n.desc.q, twin := twin, follower := follower, groups := [], preempt := none, overwritten := [] }
    let s := { s with wgs := tput s.wgs key w, regions := (List.range units).map (fun i => (n.ctx, wr + i)) ++ s.regions }
    placeGroups (s.raiseLt (some core) n.carried) n node core key seeds blocks gr
  | _, _ => s

/-- Workgroups that are placed with the next one of a node: the rest of a cooperative one, the follower of a pair (R60, R325). -/
def placedWith (n : Node) : Nat := if n.desc.coop then totalWorkgroups n - (n.next + 1) else if n.desc.pair then 1 else 0

/-- The area has room for a workgroup's regions, and for those placed with it (R325, R348). -/
def regionsFit (s : State) (n : Node) (groups : Nat) : Bool :=
  (allotRegions s n.ctx (wgUnits n.desc.acct (scratchBytes n.desc)) groups (placedWith n)).isSome

/-- A node has placed a workgroup: its reservation ends, its wait counts again, and its affinity set has a die (R55, R324). -/
def placedOne (s : State) (node core wid : Nat) : State :=
  s.modNode node (fun n =>
    { n with reserves := [], waitFrom := s.cyc, begun := some (n.begun.getD s.fresh),
             dies := if n.desc.aff = 6 then n.dies else tput n.dies (affinitySet n.desc wid) (dieOf core) })

/-- A placement moves the node on: its next workgroup, and the end of its binding (R323). -/
def advanceNode (s : State) (node : Nat) (count core wid : Nat) : State :=
  unbind ((placedOne s node core wid).modNode node (fun n => { n with next := n.next + count })) node (fun w => w == .fresh)

/-- Place the next workgroup of a node, if it fits somewhere; a pair is placed together (R60, R319). Where f2 is the chip rank both twins
have the same identifier (log entry 87). -/
def placeNext (s : State) (node : Nat) (n : Node) : Option State :=
  if n.desc.gstage = 2 then
    match n.waves with
    | [] => none
    | w :: rest =>
      match coreFor s node n .fresh 0 (wantOf node n) with
      | none => none
      | some c =>
        if regionsFit s n 1 then
          let s := placeWorkgroup s node n c 0 [waveSeed n w] none false 0
          some ((advanceNode s node 0 c 0).modNode node (fun n => { n with waves := rest }))
        else none
  else if totalWorkgroups n ≤ n.next then none
  else
    let wid := widFrom n (firstField n.desc) n.next
    let seeds := fun (wid : Nat) =>
      if n.desc.free then [groupSeed n wid]
      else (List.range (n.desc.n.getD 1 1)).map (fun g => groupSeed n (wid + g * 2 ^ fieldBase n.desc 1))
    match coreFor s node n .fresh wid (wantOf node n) with
    | none => none
    | some c =>
      if !regionsFit s n (seeds wid).length then none
      else if n.desc.pair then
        let wid2 := widFrom n 2 (n.next + 1)
        let key := fun (c : Nat) => wgKey c ((firstFree ((coreWgs s c).map (fun e => e.1 % 64)) 0 64).getD 0)
        let s := placeWorkgroup s node n c wid (seeds wid) (some (key (c + 1))) false (placedWith n)
        let s := placeWorkgroup s node n (c + 1) wid2 (seeds wid2) (some (key c)) true (placedWith n - 1)
        some (advanceNode s node 2 c wid)
      else
        let s := placeWorkgroup s node n c wid (seeds wid) none false (placedWith n)
        some (advanceNode s node 1 c wid)

/-! ### Failure (R328) -/

/-- The NODE_ERROR message (R345), at the sluice of die 0 (R343). -/
def nodeError (s : State) (n : Node) (code : Nat) : State :=
  s.post 0 (message (msgHeader 4 code n.ctx { core := 0, pipe := 0, gslot := 0, slot := 0 } 0) (BitVec.ofNat 64 (n.queue % 4096))
    (BitVec.ofNat 64 n.pos.toNat) 0 0 (BitVec.ofNat 64 n.desc.addr))

/-- A split that ends at once when its node fails: it waits at a park point, or is stopped or held (R328). -/
def endsNow (sp : Split) : Bool :=
  sp.stopped.isSome ||
  (match sp.wait with
   | .held _ | .await _ | .join _ => true
   | _ => false)

/-- A split of a group has an unanswered fault; `terminal` says which kinds count. -/
def stopOf (g : Group) (slot : Nat) : Option Stop :=
  match tget g.splits slot with
  | some sp => sp.stopped
  | none => none

/-- The unanswered fault of a split of a saved group: one for which RESUME or RETRY has been stored is answered (R334). -/
def SavedWg.stopOf (v : SavedWg) (g : Group) (slot : Nat) : Option Stop :=
  if v.actions.any (fun x => x.2.region == g.region && x.2.slot == slot) then none else Machine.stopOf g slot

/-- A saved group with the stops that have been answered cleared. -/
def SavedWg.answered (v : SavedWg) (g : Group) : Group :=
  { g with splits := g.splits.map (fun e => (e.1, if (v.stopOf g e.1).isSome then e.2 else { e.2 with stopped := none })) }

/-- A saved group ends: its region is freed unless a FAULT of it is unanswered (R334, R348). -/
def dropSavedGroup (s : State) (ctx : Nat) (g : Group) : State :=
  let s := { s with orphans := s.orphans ++ orphansOf ctx g g.splits }
  if s.orphans.any (fun o => o.ctx == ctx && o.region == g.region) then s
  else { s with regions := s.regions.filter (fun e => e != (ctx, g.region)) }

/-- A saved workgroup is discarded (R328). -/
def dropSaved (s : State) (k : Nat) : State :=
  match tget s.saved k with
  | none => s
  | some v =>
    let s := v.groups.foldl (fun s g => dropSavedGroup s v.ctx (v.answered g)) { s with saved := tdel s.saved k }
    { s with regions := s.regions.filter (fun e =>
        !(e.1 == v.ctx && decide (v.wg.region ≤ e.2) && decide (e.2 < v.wg.region + v.wg.units))) }

/-- No workgroup of the node has run: it is a share of a multi-chip launch before its START (R329). -/
def Node.unstarted (n : Node) : Bool :=
  match n.multi with
  | some m => !m.started
  | none => false

/-- A node fails (R328): nothing more of it is placed, its saved workgroups go, its parked splits end, the others end at
their next park points (those of a share that has not started have issued nothing, and end at once), its upcalls are discarded, and an
error event is posted. -/
def failNode (s : State) (node code : Nat) : State :=
  match tget s.nodes node with
  | none => s
  | some n =>
    if n.state = .failed then s
    else
      let s := ((s.saved.filter (fun e => e.2.wg.node == node)).map (fun e => e.1)).foldl dropSaved s
      let s := { s with
        nodes := tput s.nodes node { n with state := .failed, waves := [], reserves := [], multi := n.multi.map (fun (m : Multi) => { m with code := code }) },
        bound := s.bound.filter (fun b => b.node != node),
        threads := s.threads.filter (fun t => t.node != node),
        groups := s.groups.map (fun (e : Nat × Group) => if e.2.node = node then (e.1, { e.2 with upcall := none }) else e) }
      let keys := (s.groups.filter (fun (e : Nat × Group) => e.2.node == node)).map (fun e => e.1)
      nodeError (answerReleases (keys.foldl (fun s k => killSplits s k (fun _ sp => endsNow sp || n.unstarted)) s)) n code

/-- NODE_FAIL (R328). -/
def execNodeFail (node : Nat) (code : FaultCode) (s : State) : Host.Outcome State Fault Refusal :=
  onPart s (fun s => failNode s node code.number)

/-! ### The pool's work (R319, R323, R325) -/

/-- A node may have workgroups placed: it is ready, and a share of a multi-chip launch has started, or is to be placed
whole before it starts (R329). -/
def mayPlace (n : Node) : Bool :=
  match n.multi with
  | some m => (n.state == .ready && m.started) || (n.state != .failed && n.desc.coop && m.launched.isSome && !m.aborted)
  | none => n.state == .ready

/-- Ready nodes in the order of R319: priority, then the time they became ready. -/
def readyOrder (s : State) : List (Nat × Node) :=
  (s.nodes.filter (fun e => mayPlace e.2)).foldl (fun (l : List (Nat × Node)) (e : Nat × Node) =>
    let before := fun (x : Nat × Node) => decide (e.2.desc.prio < x.2.desc.prio) ||
      (x.2.desc.prio == e.2.desc.prio && decide (x.2.readyAt ≤ e.2.readyAt))
    l.takeWhile before ++ e :: l.dropWhile before) []

/-- Place the workgroups of a cooperative node one after another, those of one affinity set only where `set` names it, each by `place`; none
when one finds no place. -/
def placeRun (place : State → Nat → Node → Option State) (node : Nat) (set : Option Nat) : Nat → State → Option State
  | 0, s => some s
  | k + 1, s =>
    match tget s.nodes node with
    | none => some s
    | some n =>
      if totalWorkgroups n ≤ n.next || set.any (fun x => x != affinitySet n.desc (widFrom n (firstField n.desc) n.next)) then some s
      else (place s node n).bind (placeRun place node set k)

/-- Place the workgroups of the next affinity set of a node, all on the first die that takes them all. -/
def placeSet (place : State → Nat → Node → Option State) (s : State) (node : Nat) (n : Node) : Option State :=
  let set := affinitySet n.desc (widFrom n (firstField n.desc) n.next)
  (List.range Config.dies).findSome? (fun d =>
    placeRun place node (some set) (totalWorkgroups n) (s.modNode node (fun n => { n with dies := tput n.dies set d })))

/-- Place all the workgroups of a cooperative node that are left, or none (R325): one affinity set after another, each on a die that takes
all of it. The sets are alike, so that no other choice of dies takes more of them. -/
def placeWhole (place : State → Nat → Node → Option State) (node : Nat) : Nat → State → Option State
  | 0, s => some s
  | k + 1, s =>
    match tget s.nodes node with
    | none => some s
    | some n =>
      if totalWorkgroups n ≤ n.next then some s
      else if n.desc.aff = 6 then placeRun place node none (totalWorkgroups n) s
      else (placeSet place s node n).bind (placeWhole place node k)

/-- The next work of a node that waits to be placed: its saved workgroups re-enter the pool as unplaced work of it, in ascending order of
identifier with the others (R319, R353). -/
def nextWork (s : State) (node : Nat) (n : Node) : Option (Work × Nat) :=
  let fresh := if n.desc.gstage = 2 then (if n.waves.isEmpty then none else some 0)
    else if n.next < totalWorkgroups n then some (widFrom n (firstField n.desc) n.next) else none
  let saved := (s.saved.filter (fun e => e.2.wg.node == node && !e.2.hold)).foldl (fun (b : Option (Nat × Nat)) e =>
    match b with
    | none => some (e.1, e.2.wg.wid.toNat)
    | some x => if e.2.wg.wid.toNat < x.2 then some (e.1, e.2.wg.wid.toNat) else some x) none
  match saved, fresh with
  | some (id, w), some f => if w ≤ f then some (.saved id, w) else some (.fresh, f)
  | some (id, w), none => some (.saved id, w)
  | none, some f => some (.fresh, f)
  | none, none => none

/-- The part as it would be for a context with nothing resident, every granule that may be one a scratch granule
(R325). -/
def idlePart (s : State) (ctx : Nat) : State :=
  { s with wgs := [], groups := [], bound := [], nodes := s.nodes.map (fun e => (e.1, { e.2 with reserves := [] })),
           regions := s.regions.filter (fun r => r.1 != ctx),
           coreTab := (List.range Config.cores).map (fun c => (c, { s.core c with scratchGranules := 32 })) }

/-- The part with the granules that a workgroup lacks on some cores (R323). -/
def widen (s : State) (w : Want) (cores : List Nat) : State :=
  cores.foldl (fun s c => s.modCore c (fun v => { v with scratchGranules := max v.scratchGranules (granulesFor s c w) })) s

/-- The granules that a placement would use beyond those the cores have (R323). -/
def missingGranules (s t : State) (node : Nat) (work : Work) : List Bound :=
  (List.range Config.cores).filterMap (fun c =>
    let need := granuleNeed t c
    if (s.core c).scratchGranules < need then some { node := node, work := work, core := c, granules := need } else none)

/-- Place the next workgroup of a node, or the whole of a cooperative one. -/
def placeNode (s : State) (node : Nat) (n : Node) : Option State :=
  if n.desc.coop then (if n.next = 0 then placeWhole placeNext node (totalWorkgroups n) s else none) else placeNext s node n

/-- The bindings of a workgroup, or of a pair, to a core. -/
def bindTo (s : State) (node : Nat) (work : Work) (pair : Bool) (w : Want) (c : Nat) : State :=
  { s with bound := s.bound ++ (if pair then [c, c + 1] else [c]).map (fun c =>
      { node := node, work := work, core := c, granules := granulesFor s c w }) }

/-- The cores where a workgroup fits once its granules are there, and what each lacks: both of a pair (R323). -/
def bindCore (s : State) (pair : Bool) (w : Want) (cores : List Nat) : Option Nat :=
  let ok := fun (c : Nat) => fitsBut s c w && decide (granulesFor s c w ≤ 32)
  fewestGranules (fun c => lacking s c w + (if pair then lacking s (c + 1) w else 0))
    (cores.filter (fun c => ok c && (!pair || ok (c + 1))))

/-- The workgroup that a node places next, as its identifier. -/
def nextWid (n : Node) : Nat := if n.desc.gstage = 2 then 0 else widFrom n (firstField n.desc) n.next

/-- Place the next workgroup of a node as the part is, or else after the change of split that needs the fewest granules (R320, R323). -/
def placeWider (s : State) (node : Nat) (n : Node) : Option State :=
  match placeNext s node n with
  | some t => some t
  | none =>
    (bindCore s n.desc.pair (wantOf node n) (candidateCores s node n (nextWid n))).bind (fun c =>
      placeNext (widen s (wantOf node n) (if n.desc.pair then [c, c + 1] else [c])) node n)

/-- Bind a workgroup that fits only after a change of split (R323): to the core that needs the fewest granules, the lowest
number first; a cooperative node to all the cores it needs, chosen so for one workgroup after another. -/
def bindNode (s : State) (node : Nat) (n : Node) : State :=
  if !(boundCores s node .fresh).isEmpty || (placeNode s node n).isSome then s
  else if n.desc.coop then
    match (if n.next = 0 then placeWhole placeWider node (totalWorkgroups n) s else none) with
    | some t => { s with bound := s.bound ++ missingGranules s t node .fresh }
    | none => s
  else
    let work : Bool := if n.desc.gstage = 2 then !n.waves.isEmpty else decide (n.next < totalWorkgroups n)
    let w := wantOf node n
    match bindCore s n.desc.pair w (candidateCores s node n (nextWid n)) with
    | none => s
    | some c => if work && regionsFit s n w.groups then bindTo s node .fresh n.desc.pair w c else s

/-- The part without the reservations of other nodes: they keep work from dies where it fits (R320, R324). -/
def unreserved (s : State) (node : Nat) : State :=
  { s with nodes := s.nodes.map (fun e => if e.1 = node then e else (e.1, { e.2 with reserves := [] })) }

/-- A cooperative node that could not fit an idle part fails with COOP_NO_ROOM; one that could, but does not fit now,
reserves (R325). -/
def coopCheck (s : State) (node : Nat) (n : Node) : State :=
  if !n.desc.coop || n.next != 0 || (placeNode (unreserved s node) node n).isSome then s
  else if (placeNode (idlePart s n.ctx) node n).isNone then failNode s node FaultCode.coopNoRoom.number
  else s.modNode node (fun n => { n with reserves := List.range Config.dies })

end Sys2Proof.Machine
end

