-- ==== Sys2Proof/Machine/Target.lean ====
section
/-! DEFINITION. Render targets and raster order: vrtw and the render-target unit (R370 to R372, R417), gfence.rt (R256,
R373), vordb and vorde (R374); the rasteriser (R361 to R364). -/

namespace Sys2Proof.Machine

/-! ### Pixel waves (R357) -/

/-- The group belongs to a pixel node: its groups are pixel waves (R357, R365). -/
def pixelWave (s : State) (g : Group) : Bool := nodeFlag s g (fun d => d.gfx && d.gstage == 2)

/-- What a lane of a pixel wave carries (R365). -/
def Group.pixOf (g : Group) (i : Nat) : Option PixInfo := (g.pix.find? (fun p => p.1 == i)).map (fun p => p.2)

/-! ### Translations of the unit (R417) -/

/-- The leaf of an address through the translations a write made. -/
def mapLeaf (maps : List PageMap) (va : DWord) : Option Leaf :=
  (maps.find? (fun m => m.page == pageOf va)).map (fun m => { pa := m.pa + va.toNat % 4096, cls := m.cls, key := m.key })

/-- Add the translations of some addresses to those at hand; the first that fails, with its address. -/
def mapPages (s : State) (w : Who) : List DWord → List PageMap → State × Except (FaultCode × DWord) (List PageMap)
  | [], maps => (s, .ok maps)
  | va :: l, maps =>
    if maps.any (fun m => m.page == pageOf va) then mapPages s w l maps
    else
      match agentLeaf s w va with
      | (s, .error e) => (s, .error (e, va))
      | (s, .ok f) => mapPages s w l (maps ++ [{ page := pageOf va, pa := f.pa - va.toNat % 4096, key := f.key, cls := f.cls }])

/-- The addresses that a vrtw translates for a pixel: its first byte, and its tile's mode byte (R417). -/
def pixelVas (d : ImageDesc) (px py : Nat) : List DWord :=
  let t := d.tileOf 0 px py
  (d.tileVa t + BitVec.ofNat 64 (d.bpp * pixelIn px py)) :: (if d.meta_ = 0 then [] else [d.modeVa t])

/-- The addresses of all a tile's pages: the first and last byte of its storage, and its mode byte. -/
def tileVas (d : ImageDesc) (t : Nat) : List DWord :=
  [d.tileVa t, d.tileVa t + BitVec.ofNat 64 (64 * d.bpp - 1)] ++ (if d.meta_ = 0 then [] else [d.modeVa t])

/-- The split of a wave that a fault of a write issued in slot `slot` goes to: that one, or the lowest that is left (R417). -/
def waveSplit (g : Group) (slot : Nat) : Option Nat :=
  if (tget g.splits slot).isSome then some slot else (g.splits.head?).map (fun e => e.1)

/-- Where the split that a write belongs to now is: in the group where it issued, or where its wave was restored since; one that is
not resident is nowhere. -/
def writeRef (s : State) (x : RtWrite) : SplitRef :=
  let mine := s.groups.filter (fun e => e.2.wave == x.wave)
  match (mine.find? (fun e => e.1 == x.ref.gkey)).or mine.head? with
  | some e => refOf e.1 ((waveSplit e.2 x.ref.slot).getD 4)
  | none => { x.ref with slot := 4 }

/-- The agent of a write. -/
def whoseWrite (s : State) (x : RtWrite) : Who :=
  { ref := writeRef s x, wg := x.wg, node := x.node, ctx := s.nodeCtx x.node, pcs := x.pcs, seq := x.order }

/-- A deferred fault of a split of a saved wave (R261). -/
def deferSaved (s : State) (wave slot : Nat) (d : Deferred) : State :=
  { s with saved := s.saved.map (fun e => (e.1, { e.2 with groups := e.2.groups.map (fun g =>
      if g.wave = wave then
        { g with splits := tmod g.splits ((waveSplit g slot).getD 4) (fun sp => { sp with deferred := sp.deferred ++ [d] }) }
      else g) })) }

/-- A wave is saved. -/
def savedWave (s : State) (wave : Nat) : Bool := s.saved.any (fun e => e.2.groups.any (fun g => g.wave == wave))

/-- A fault that the render-target unit finds in a write is deferred to its wave; when that has ended, the node fails for a
double-bit error (R417). -/
def deferWrite (s : State) (x : RtWrite) (code : FaultCode) (va : DWord) : State :=
  let w := whoseWrite s x
  if (s.split w.ref).isSome then s.defer w code x.lane va 0 none
  else if savedWave s x.wave then
    deferSaved s x.wave x.ref.slot
      { code := code, pcs := x.pcs, lanes := BitVec.ofNat 96 (2 ^ x.lane), addr := va, window := 0, seq := x.order, cmd := none }
  else if code = .eccUncorrected then failNode s x.node code.number
  else s

/-- A galley entry that holds some writes at a page (R417). -/
def renderEntry (w : Who) (va : DWord) (ids : List Nat) (lanes : LaneMask) : GalleyEntry :=
  w.entry va (.render ids) true lanes

/-- Translate the pages of some writes; those at an absent page are held, one entry for each page; one that may not be made
is dropped, with a deferred fault (R417). -/
def translateWrites (s : State) (w : Who) (ids : List Nat) : State :=
  let (s, held) := ids.foldl (fun (a : State × List (DWord × Nat × Nat)) id =>
    match tget a.1.rtWrites id with
    | none => a
    | some x =>
      match mapPages a.1 w (pixelVas x.image x.px x.py) [] with
      | (s, .ok maps) => ({ s with rtWrites := tput s.rtWrites id { x with held := false, maps := maps } }, a.2)
      | (s, .error (.pageNotPresent, va)) =>
        ({ s with rtWrites := tput s.rtWrites id { x with held := true } }, a.2 ++ [(va, id, x.lane)])
      | (s, .error (c, va)) => (deferWrite { s with rtWrites := tdel s.rtWrites id } x c va, a.2)) (s, [])
  let pages := held.foldl (fun (p : List Nat) h => if p.contains (pageOf h.1) then p else p ++ [pageOf h.1]) []
  if pages.isEmpty then s
  else
    galleyAdd s w.ref.core (pages.map (fun p =>
      let mine := held.filter (fun h => pageOf h.1 == p)
      renderEntry w ((mine.map (fun h => h.1)).headD 0) (mine.map (fun h => h.2.1)) (mine.foldl (fun m h => m ||| BitVec.ofNat 96 (2 ^ h.2.2)) 0)))

/-! ### vrtw (R370) -/

/-- Lanes of a word in ascending raster position, then lane (R371). -/
def rasterSort (l : List (Nat × PixInfo)) : List (Nat × PixInfo) :=
  l.foldl (fun (o : List (Nat × PixInfo)) e =>
    o.takeWhile (fun x => !rasterBefore e.2 x.2) ++ e :: o.dropWhile (fun x => !rasterBefore e.2 x.2)) []

/-- `vrtw` (R370, R417). What it checks, and its effect. -/
def specVrtw : GfxSpec :=
  { illegal := fun x => !pixelWave x.s x.g,
      regs := fun x => [(x.w.va, true), (dataField x.w.vc, false)],
      mismatch := fun x => x.tagOf x.w.vc == some .handle,
      rest := fun x => x.withImage (fun s d =>
        let keep := x.w.mods.val
        let wide := d.fmt == 1
        if 2 ≤ d.fmt ∧ keep / 2 != 0 then .fault s .reservedField 0
        else if wide && !rangesOk x [(onlyVector x.w.vc, true)] then .fault s .regRange 0
        else if wide && x.tagOf (regAt x.w.vc 1) == some .handle then .fault s .tagMismatch 0
        else
          let data := x.src x.w.vc (if wide then .n64 else .raw)
          let lanes := rasterSort (x.lanes.filterMap (fun i =>
            match x.g.pixOf i with
            | some p => if p.covered && decide (p.px ≤ d.width) && decide (p.py ≤ d.height) then some (i, p) else none
            | none => none))
          let base := s.serial
          let writes := (lanes.zipIdx).map (fun e =>
            let i := e.1.1
            let p := e.1.2
            (base + e.2, ({ node := x.g.node, wave := x.g.wave, wg := x.g.wg, ref := x.r, order := base + e.2, seq := p.seq, slot := p.slot,
                            lane := i, px := p.px, py := p.py, image := d, data := data i, keep := keep, maps := [], held := true,
                            pcs := x.sp.pcs } : RtWrite)))
          let s := { s with serial := base + writes.length + 1, rtWrites := writes.foldl (fun t e => tput t e.1 e.2) s.rtWrites }
          let (s, g, sp) := throughState s x.r x.g x.sp (fun t =>
            translateWrites t { x.who with seq := base } (writes.map (fun e => e.1)))
          .issued (retireLane s x.r g sp x.w.p)) }

/-- `vrtw` (R370, R417). -/
def execVrtw (w : LaneWord) (s : State) : Host.Outcome State Fault Refusal := runGfx specVrtw w s

/-! ### Applying writes (R371) -/

/-- Write a comes before write b on their pixel (R371): issue order within a wave, raster order between waves. -/
def writeBefore (a b : RtWrite) : Bool :=
  if a.wave = b.wave then decide (a.order < b.order)
  else decide (a.seq < b.seq) || (a.seq == b.seq && (decide (a.slot < b.slot) || (a.slot == b.slot && decide (a.order < b.order))))

/-- The write may be applied now (R371). -/
def mayApply (s : State) (x : RtWrite) : Bool :=
  !x.held &&
  !earlierLanes s x.node x.wave { seq := x.seq, slot := x.slot, px := x.px, py := x.py, covered := true } (fun _ => false) &&
  !s.rtWrites.any (fun e => e.2.node == x.node && e.2.px == x.px && e.2.py == x.py && e.2.image == x.image && writeBefore e.2 x)

/-- The channels of a pixel after a write: those of `keep` stay (R370). -/
def keepChannels (d : ImageDesc) (keep : Nat) (old new : DWord) : DWord :=
  match d.fmt with
  | 0 => BitVec.ofNat 64 ((List.range 4).foldl (fun a c =>
      a + bitsAt (if bitsAt keep c 1 = 1 then old else new).toNat (8 * c) 8 * 2 ^ (8 * c)) 0)
  | 1 => BitVec.ofNat 64 ((List.range 4).foldl (fun a c =>
      a + bitsAt (if bitsAt keep c 1 = 1 then old else new).toNat (16 * c) 16 * 2 ^ (16 * c)) 0)
  | _ => (if bitsAt keep 0 1 = 1 then old else new) &&& 0xFFFFFFFF

/-- Some channel is written. -/
def writesChannel (d : ImageDesc) (keep : Nat) : Bool := if d.fmt ≤ 1 then keep != 15 else bitsAt keep 0 1 == 0

/-- The tile that the unit holds for an image. -/
def heldTile (s : State) (node : Nat) (d : ImageDesc) (t : Nat) : Option (Nat × RtTile) :=
  s.rtTiles.find? (fun e => e.2.node == node && e.2.image == d && e.2.tile == t)

/-- Read bytes through translations at hand, line by line, at the home L2: a tile is read after every write to it that was
applied before (R371). -/
def readMapped (s : State) (w : Who) (maps : List PageMap) (va : DWord) (n : Nat) : State × Except FaultCode (List Byte) :=
  let k := (n + va.toNat % 128 + 127) / 128
  (List.range k).foldl (fun (x : State × Except FaultCode (List Byte)) _ =>
    match x with
    | (s, .error e) => (s, .error e)
    | (s, .ok l) =>
      let a := va + BitVec.ofNat 64 l.length
      let c := lineLeft a (n - l.length)
      match mapLeaf maps a with
      | none => (s, .error .permission)
      | some f =>
        match unitLoad s w { unitFields with scope := .system } f c with
        | (s, .error e) => (s, .error e)
        | (s, .ok b) => (s, .ok (l ++ b))) (s, .ok [])

/-- Write bytes through translations at hand. -/
def writeMapped (s : State) (w : Who) (maps : List PageMap) (va : DWord) (bytes : List Byte) : State :=
  let n := bytes.length
  let k := (n + va.toNat % 128 + 127) / 128
  ((List.range k).foldl (fun (x : State × Nat) _ =>
    let a := va + BitVec.ofNat 64 x.2
    let c := lineLeft a (n - x.2)
    match mapLeaf maps a with
    | none => (x.1, x.2 + c)
    | some f => (unitStore x.1 w unitFields f ((bytes.drop x.2).take c), x.2 + c)) (s, 0)).1

/-- Read a tile's mode byte and pixels (R368, R372). -/
def readTile (s : State) (w : Who) (d : ImageDesc) (t : Nat) (maps : List PageMap) : State × Except FaultCode (Nat × List DWord) :=
  match (if d.meta_ = 0 then (s, .ok [0]) else readMapped s w maps (d.modeVa t) 1) with
  | (s, .error e) => (s, .error e)
  | (s, .ok m) =>
    let mode := ofBytes m
    match readMapped s w maps (d.tileVa t) (tileBytes d mode) with
    | (s, .error e) => (s, .error e)
    | (s, .ok raw) => (s, .ok (mode, decodeTile d mode raw))

/-- Every write pending in a tile is dropped for a double-bit error, or because a peer refuses the read: a deferred fault on each wave, or
the failure of the node of one that has ended (R417). -/
def dropTileWrites (s : State) (node : Nat) (d : ImageDesc) (t : Nat) (e : FaultCode) : State :=
  let gone := s.rtWrites.filter (fun e => e.2.node == node && e.2.image == d && d.tileOf 0 e.2.px e.2.py == t)
  let s := { s with rtWrites := s.rtWrites.filter (fun e => !gone.any (fun g => g.1 == e.1)) }
  gone.foldl (fun (s : State) (g : Nat × RtWrite) => deferWrite s g.2 e (d.tileVa t)) s

/-- Apply a write to a tile that the unit holds. -/
def applyTo (s : State) (id : Nat) (x : RtWrite) (key : Nat) (tile : RtTile) : State :=
  let i := pixelIn x.px x.py
  let px := keepChannels x.image x.keep (tile.pixels.getD i 0) x.data
  { s with
    rtWrites := tdel s.rtWrites id,
    rtTiles := tput s.rtTiles key
      { tile with pixels := tile.pixels.set i px, touched := tile.touched || writesChannel x.image x.keep,
                  maps := tile.maps ++ x.maps.filter (fun m => !tile.maps.any (fun y => y.page == m.page)),
                  waves := if tile.waves.contains x.wave then tile.waves else tile.waves ++ [x.wave] } }

/-- RT_WRITE_APPLY: write k is applied once those before it are and the lanes before it have ended (R371); the unit reads the
tile first if it does not hold it (R372). -/
def execRtWriteApply (k : Nat) (s : State) : Host.Outcome State Fault Refusal :=
  onPart s (fun s =>
    match tget s.rtWrites k with
    | none => s
    | some x =>
      if !mayApply s x then s
      else
        let t := x.image.tileOf 0 x.px x.py
        match heldTile s x.node x.image t with
        | some (key, tile) => applyTo s k x key tile
        | none =>
          let w := whoseWrite s x
          let part := s
          match mapPages s w (tileVas x.image t) x.maps with
          | (s, .error (.pageNotPresent, va)) =>
            if 256 ≤ (s.core w.ref.core).galley.length then part
            else
              galleyAdd { s with rtWrites := tput s.rtWrites k { x with held := true } } w.ref.core
                [renderEntry w va [k] (BitVec.ofNat 96 (2 ^ x.lane))]
          | (s, .error (c, va)) => deferWrite { s with rtWrites := tdel s.rtWrites k } x c va
          | (s, .ok maps) =>
            match readTile s w x.image t maps with
            | (s, .error e) => dropTileWrites s x.node x.image t e
            | (s, .ok (mode, pixels)) =>
              applyTo { s with serial := s.serial + 1 } k x s.serial
                { node := x.node, image := x.image, tile := t, ctx := w.ctx, ref := x.ref, wg := x.wg, maps := maps, pixels := pixels,
                  touched := false, state := if x.image.meta_ = 0 then 0 else bitsAt mode 6 2, waves := [] })

/-- The time of the last write to the bytes of a tile (R256): the latest WTS of their lines. -/
def tileTime (s : State) (maps : List PageMap) (va : DWord) (n : Nat) : BitVec 16 :=
  (List.range ((n + va.toNat % 128 + 127) / 128)).foldl (fun t i =>
    match mapLeaf maps (va + BitVec.ofNat 64 (128 * i - (if i = 0 then 0 else va.toNat % 128))) with
    | some f => tsMax t (s.ts (f.pa / 128)).1
    | none => t) s.floor

/-- The writes that waves made to a tile are performed: each one's core moves past them, that of a saved wave when it is restored
(R246, R256, R373). -/
def raiseWaves (s : State) (waves : List Nat) (t : BitVec 16) : State :=
  let s := s.groups.foldl (fun (s : State) (e : Nat × Group) => if waves.contains e.2.wave then s.raiseLt (some (e.1 / 256)) t else s) s
  { s with saved := s.saved.map (fun e =>
      (e.1, if e.2.groups.any (fun g => waves.contains g.wave) then { e.2 with time := tsMax e.2.time t } else e.2)) }

/-- TILE_WRITE_BACK: the unit encodes tile k and writes it back, its data before its mode byte (R372). -/
def execTileWriteBack (k : Nat) (s : State) : Host.Outcome State Fault Refusal :=
  onPart s (fun s =>
    match tget s.rtTiles k with
    | none => s
    | some t =>
      let w : Who := { ref := t.ref, wg := t.wg, node := t.node, ctx := t.ctx, pcs := { spc := 0, lpc := 0 }, seq := k }
      let (mode, bytes) := encodeTile t.image t.pixels (t.state == 1 && !t.touched)
      let s := writeMapped s w t.maps (t.image.tileVa t.tile) bytes
      let s := match mode with
        | some m => writeMapped s w t.maps (t.image.modeVa t.tile) [BitVec.ofNat 8 m]
        | none => s
      let time := tsMax (tileTime s t.maps (t.image.tileVa t.tile) (max 1 bytes.length))
        (if mode.isSome then tileTime s t.maps (t.image.modeVa t.tile) 1 else s.floor)
      raiseWaves { s with rtTiles := tdel s.rtTiles k } t.waves time)

/-! ### gfence.rt, vordb and vorde (R256, R373, R374) -/

/-- `gfence.rt` (R256, R373). -/
def execGfenceRt (s : State) : Host.Outcome State Fault Refusal :=
  onSplit s (fun r g sp =>
    if !targetsDone s g.wave then stallAt s r sp .render
    else
      match fenceStall s r .release .device with
      | some c => stallAt s r sp c
      | none => s.setSplit r (retire s sp 1))

/-- `vordb`: a park point, after which the wave holds a section (R374). What it checks, and its effect. -/
def specVordb : GfxSpec :=
  { illegal := fun x => !pixelWave x.s x.g, regs := fun _ => [], mismatch := fun _ => false,
      rest := fun x =>
        -- a PK park after the run's last word falls together with the park of a vordb there
        let sp := { x.sp with run := x.sp.run.map (fun u => { u with pk := u.pk && decide (2 ≤ u.left) }) }
        let s := retireLane x.s x.r x.g sp false
        match tget s.groups x.r.gkey, s.split x.r with
        | some g, some sp => .issued (parkThen s x.r g sp .order)
        | _, _ => .issued s }

/-- `vordb`: a park point, after which the wave holds a section (R374). -/
def execVordb (w : LaneWord) (s : State) : Host.Outcome State Fault Refusal := runGfx specVordb w s

/-- `vorde`: it waits for the wave's writes, releases, and ends the section (R374). What it checks, and its effect. -/
def specVorde : GfxSpec :=
  { illegal := fun x => !pixelWave x.s x.g, regs := fun _ => [], mismatch := fun _ => false,
      rest := fun x =>
        if x.g.sect.isNone then .issued (retireLane x.s x.r x.g x.sp x.w.p)
        else if !x.ahead && !targetsDone x.s x.g.wave then .wait (stallAt x.s x.r x.sp .render)
        else if !x.ahead && groupReleaseWaits x.s x.r x.g .device then .wait (stallAt x.s x.r x.sp .acks)
        else .issued <| retireLane (releaseOrder x.s x.g.node x.r.core) x.r { x.g with sect := none, ordered := true } x.sp x.w.p }

/-- `vorde`: it waits for the wave's writes, releases, and ends the section (R374). -/
def execVorde (w : LaneWord) (s : State) : Host.Outcome State Fault Refusal := runGfx specVorde w s

/-! ### The rasteriser (R361 to R364) -/

/-- A vertex after snapping: X, Y in 1/256 pixel, z and iw (R362). -/
structure Vertex where
  x : Int
  y : Int
  z : Num
  iw : Num
deriving DecidableEq, Repr

/-- A primitive ready for coverage: its vertices in positive order, its area, USER, SEQ and slot. -/
structure Prim where
  v : List Vertex
  area : Int
  user : Word
  seq : Nat
  slot : Nat
deriving DecidableEq, Repr

/-- Snap a coordinate; none when it discards the entry. -/
def snap (w : Word) : Option Int :=
  match numOf w with
  | .fin n q =>
    let i := roundInt .rne ((if n then q.neg else q).scale 8)
    if 2 ^ 24 ≤ i.natAbs then none else some i
  | _ => none

/-- Word k of an entry. -/
def entryWord (b : List Byte) (k : Nat) : Word := BitVec.ofNat 32 (ofBytes ((b.drop (4 * k)).take 4))

/-- A vertex of an entry. -/
def vertexOf (b : List Byte) (j : Nat) : Option Vertex :=
  match snap (entryWord b (4 * j)), snap (entryWord b (4 * j + 1)) with
  | some x, some y => some { x := x, y := y, z := numOf (entryWord b (4 * j + 2)), iw := numOf (entryWord b (4 * j + 3)) }
  | _, _ => none

/-- The double area from vertex a to b, seen from c. -/
def edgeOf (a b : Vertex) (sx sy : Int) : Int := (b.x - a.x) * (sy - a.y) - (b.y - a.y) * (sx - a.x)

/-- Set up an entry (steps 1 to 3 of R362); none when it is discarded. -/
def setupPrim (b : List Byte) (slot : Nat) : Option Prim :=
  match vertexOf b 0, vertexOf b 1, vertexOf b 2 with
  | some v0, some v1, some v2 =>
    let a := edgeOf v0 v1 v2.x v2.y
    let cull := (entryWord b 13).toNat
    if a = 0 ∨ (0 < a ∧ bitsAt cull 0 1 = 1) ∨ (a < 0 ∧ bitsAt cull 1 1 = 1) then none
    else
      some { v := if a < 0 then [v0, v2, v1] else [v0, v1, v2], area := if a < 0 then -a else a, user := entryWord b 12,
             seq := (entryWord b 14).toNat, slot := slot }
  | _, _, _ => none

/-- Vertex j of a primitive. -/
def Prim.at (p : Prim) (j : Nat) : Vertex := p.v.getD j { x := 0, y := 0, z := .fin false ⟨0, 1⟩, iw := .fin false ⟨0, 1⟩ }

/-- The edge value opposite vertex i at a pixel's sample (step 4 of R362). -/
def Prim.edge (p : Prim) (i px py : Nat) : Int :=
  edgeOf (p.at ((i + 1) % 3)) (p.at ((i + 2) % 3)) (256 * px + 128 : Nat) (256 * py + 128 : Nat)

/-- A pixel is covered (step 5 of R362). -/
def Prim.covers (p : Prim) (px py : Nat) : Bool :=
  (List.range 3).all (fun i =>
    let e := p.edge i px py
    let a := p.at ((i + 1) % 3)
    let b := p.at ((i + 2) % 3)
    decide (0 < e) || (e == 0 && (decide (0 < b.y - a.y) || (b.y - a.y == 0 && decide (b.x - a.x < 0)))))

/-- A signed number as an exact value. -/
def numRatio (n d : Int) : Num := .fin (decide (n < 0)) ⟨n.natAbs, d.natAbs⟩

/-- The six words of a lane of a pixel wave (R364). -/
def Prim.laneWords (p : Prim) (px py : Nat) : List Word :=
  let ratio := fun (i : Nat) => numRatio (p.edge i px py) p.area
  let per := fun (i : Nat) => termOf (ratio i) (p.at i).iw
  let sum := sumOf (sumOf (per 0) (per 1)) (per 2)
  let bary := fun (i : Nat) => if sum.isZero then (0 : Word) else f32Of (quotOf (per i) sum)
  let z := fun (i : Nat) => termOf (ratio i) (p.at i).z
  [BitVec.ofNat 32 (px % 65536 + py % 65536 * 65536), BitVec.ofNat 32 p.seq, bary 1, bary 2,
   f32Of (sumOf (sumOf (z 0) (z 1)) (z 2)), p.user]

/-- The pixel of lane i of a wave on tile (tx, ty) (R363). -/
def lanePixel (tx ty i : Nat) : Nat × Nat :=
  let q := i / 4
  (8 * tx + 2 * (q % 4) + i % 2, 8 * ty + 2 * (q / 4) + i / 2 % 2)

/-- The wave of a primitive on a tile; none when it covers no pixel there (R363). -/
def Prim.wave (p : Prim) (width height tx ty : Nat) : Option Wave :=
  let hit := fun (i : Nat) =>
    let (px, py) := lanePixel tx ty i
    decide (px ≤ width) && decide (py ≤ height) && p.covers px py
  let lanes := (List.range 64).filter (fun i => (List.range 4).any (fun k => hit (i / 4 * 4 + k)))
  if lanes.isEmpty then none
  else
    let words := (List.range 64).map (fun i => if lanes.contains i then p.laneWords (lanePixel tx ty i).1 (lanePixel tx ty i).2 else [])
    some { seq := p.seq, slot := p.slot, lanes := maskOf (fun i => lanes.contains i),
           pix := lanes.map (fun i => (i, { seq := p.seq, slot := p.slot, px := (lanePixel tx ty i).1, py := (lanePixel tx ty i).2,
                                            covered := hit i })),
           regs := (List.range 6).map (fun k => words.map (fun l => l.getD k 0)) }

/-- Primitives in ascending SEQ, then slot. -/
def primOrder (l : List Prim) : List Prim :=
  l.foldl (fun (o : List Prim) p => o.takeWhile (fun x => decide (x.seq ≤ p.seq)) ++ p :: o.dropWhile (fun x => decide (x.seq ≤ p.seq))) []

/-- The waves of a pixel node, in launch order (R363). -/
def wavesOf (l : List Prim) (width height : Nat) : List Wave :=
  let tw := (width + 1 + 7) / 8
  let th := (height + 1 + 7) / 8
  let l := primOrder l
  (List.range (tw * th)).flatMap (fun t => l.filterMap (fun p => p.wave width height (t % tw) (t / tw)))

/-- What the rasteriser reads: the raster descriptor, the emit descriptor and the entries (R361). -/
def readRaster (s : State) (n : Node) : State × Except FaultCode (List Nat × List (List Byte)) :=
  match hubDwords s n.ctx n.args 4 with
  | (s, .error e) => (s, .error e)
  | (s, .ok r) =>
    match hubDwords s n.ctx (address57 (r.getD 0 0 % 2 ^ 57)) 4 with
    | (s, .error e) => (s, .error e)
    | (s, .ok d) =>
      let count := min (d.getD 2 0 % 2 ^ 32) (d.getD 1 0 % 2 ^ 32)
      let buf := address57 (d.getD 0 0 % 2 ^ 57)
      (List.range count).foldl (fun (x : State × Except FaultCode (List Nat × List (List Byte))) i =>
        match x with
        | (s, .error e) => (s, .error e)
        | (s, .ok (r, l)) =>
          match hubBytes s n.ctx (buf + BitVec.ofNat 64 (64 * i)) 64 with
          | (s, .error e) => (s, .error e)
          | (s, .ok b) => (s, .ok (r, l ++ [b]))) (s, .ok (r, []))

/-- Reserved bits of a raster descriptor and of an entry (R359, R361). -/
def rasterReserved (r : List Nat) : Bool :=
  bitsAt (r.getD 0 0) 57 7 != 0 || bitsAt (r.getD 1 0) 14 2 != 0 || bitsAt (r.getD 1 0) 30 34 != 0 || r.getD 2 0 != 0 || r.getD 3 0 != 0
def primitiveReserved (b : List Byte) : Bool := bitsAt (entryWord b 13).toNat 2 30 != 0 || entryWord b 15 != 0

/-- RASTERISER_START: when a pixel node starts, its waves are formed, or the node fails (R361 to R364). -/
def execRasteriserStart (node : Nat) (s : State) : Host.Outcome State Fault Refusal :=
  onPart s (fun s =>
    match tget s.nodes node with
    | none => s
    | some n =>
      if n.desc.gstage != 2 || !n.desc.gfx || n.rasterised || n.state != .ready then s
      else if n.desc.allot < 8 then failNode s node FaultCode.regRange.number
      else
        match readRaster { s with hubLt := tsMax s.hubLt n.carried } n with
        | (s, .error e) => failNode s node e.number
        | (s, .ok (r, entries)) =>
          if rasterReserved r || entries.any primitiveReserved then failNode s node FaultCode.reservedField.number
          else
            let prims := (entries.zipIdx).filterMap (fun e => setupPrim e.1 e.2)
            s.modNode node (fun n =>
              { n with rasterised := true, waves := wavesOf prims (bitsAt (r.getD 1 0) 0 14) (bitsAt (r.getD 1 0) 16 14) }))

end Sys2Proof.Machine
end

