-- ==== Sys2Proof/Machine/Faults.lean ====
section
/-! DEFINITION. What the resident kernel answers: actions on faults (R333 to R335), replay and failure of held accesses
(R336 to R341), the sluices (R342, R343), replies to upcalls (R346); the raster-order watchdog (R355, R356). -/

namespace Sys2Proof.Machine

/-! ### Actions (R334) -/

/-- The group of a region. -/
def groupOfRegion (s : State) (ctx region : Nat) : Option (Nat × Group) :=
  s.groups.find? (fun e => e.2.region == region && s.nodeCtx e.2.node == ctx)

/-- RESUME of a stopped split: it goes on after its faulting word, or after the park point of a deferred fault (R334). -/
def resumeSplit (s : State) (r : SplitRef) (g : Group) (sp : Split) (x : Stop) : State :=
  match x.kind with
  | .scalar skip =>
    s.setSplit r { sp with stopped := none, armed := none, spc := sp.spc + BitVec.ofNat 32 skip, wait := .ready }
  | .lane =>
    let run := runOf sp
    let sp := { sp with stopped := none, lpc := sp.lpc + 1, rptidx := 0, wait := .ready }
    if run.left ≤ 1 then endRun s r g sp run.pk
    else s.setSplit r { sp with run := some { run with left := run.left - 1, rep := none } }
  | .deferred _ => s.setSplit r { sp with stopped := none }
  | .terminal => s

/-- RETRY of a stopped split: its faulting word issues again (R334). -/
def retrySplit (s : State) (r : SplitRef) (sp : Split) (x : Stop) : State :=
  match x.kind with
  | .scalar _ | .lane => s.setSplit r { sp with stopped := none, wait := .ready }
  | .deferred _ => s.setSplit r { sp with stopped := none }
  | .terminal => s

/-- RESUME or RETRY of the split at a place, if it has an unanswered fault. -/
def answerSplit (s : State) (retry : Bool) (r : SplitRef) : State :=
  match tget s.groups r.gkey with
  | none => s
  | some g =>
    match tget g.splits r.slot with
    | none => s
    | some sp =>
      match sp.stopped with
      | none => s
      | some x => if retry then retrySplit s r sp x else resumeSplit s r g sp x

/-- Unanswered FAULT messages of ended splits that an action names (R334). -/
def namedOrphan (a : ActionArgs) (o : Orphan) : Bool := o.ctx == a.ctx && o.region == a.region && o.slot == a.slot

/-- The region of a group that has ended is freed once nothing of it is unanswered (R334, R348). -/
def freeRegion (s : State) (ctx region : Nat) : State :=
  if s.orphans.any (fun o => o.ctx == ctx && o.region == region) || (groupOfRegion s ctx region).isSome ||
     s.saved.any (fun e => e.2.ctx == ctx && e.2.groups.any (fun g => g.region == region)) then s
  else { s with regions := s.regions.filter (fun e => e != (ctx, region)) }

/-- Answer the FAULT message of a split that has ended. -/
def answerOrphan (s : State) (a : ActionArgs) : State :=
  freeRegion { s with orphans := s.orphans.filter (fun o => !namedOrphan a o) } a.ctx a.region

/-- The saved workgroup that holds the group of a region, with that group. -/
def savedGroup (s : State) (ctx region : Nat) : Option (Nat × SavedWg × Group) :=
  s.saved.findSome? (fun e =>
    if e.2.ctx = ctx then (e.2.groups.find? (fun g => g.region == region)).map (fun g => (e.1, e.2, g)) else none)

/-- A store of RESUME or RETRY for the fault of a split that has ended (R334). -/
def goOnOrphan (s : State) (a : ActionArgs) : State :=
  if s.orphans.any (fun o => namedOrphan a o && !o.terminal) then answerOrphan s a else s

/-- A store of RESUME or RETRY (R334): to a resident group at once, to a saved one when it is restored. -/
def goOn (s : State) (retry : Bool) (a : ActionArgs) : State :=
  match groupOfRegion s a.ctx a.region with
  | some (k, g) => if (stopOf g a.slot).isSome then answerSplit s retry (refOf k a.slot) else goOnOrphan s a
  | none =>
    match savedGroup s a.ctx a.region with
    | some (k, v, g) =>
      if (v.stopOf g a.slot).isSome then
        { s with saved := tput s.saved k { v with actions := v.actions ++ [(if retry then .retry else .resume, a)] } }
      else goOnOrphan s a
    | none => goOnOrphan s a

/-- RESUME (R334). -/
def execResume (a : ActionArgs) (s : State) : Host.Outcome State Fault Refusal := onPart s (fun s => goOn s false a)

/-- RETRY (R334). -/
def execRetry (a : ActionArgs) (s : State) : Host.Outcome State Fault Refusal := onPart s (fun s => goOn s true a)

/-- A stop that has been answered. -/
def clearStop (g : Group) (slot : Nat) : Group :=
  { g with splits := tmod g.splits slot (fun sp => { sp with stopped := none }) }

/-- A saved workgroup without groups ends; the two of a twin pair end together, and one whose twin still has groups stays (R60, R300). -/
def endSaved (s : State) (k : Nat) (v : SavedWg) : State :=
  let drop := fun (s : State) (k : Nat) => (dropSaved s k).modNode v.wg.node (fun n => { n with ended := n.ended + 1 })
  match v.wg.twin.bind (fun t => (tget s.saved t).map (fun x => (t, x))) with
  | none => answerReleases (drop s k)
  | some (t, x) => if x.groups.isEmpty then answerReleases (drop (drop s k) t) else s

/-- A saved group ends, a release to the sections of later waves (R334, R374); its workgroup ends with its last group. -/
def endSavedGroup (s : State) (k : Nat) (v : SavedWg) (g : Group) (slot : Nat) : State :=
  let rest := v.groups.filter (fun x => x.wave != g.wave)
  let s := dropSavedGroup { s with saved := tput s.saved k { v with groups := rest } } v.ctx (clearStop (v.answered g) slot)
  let s := s.modNode v.wg.node (fun n => { n with released := tsMax n.released v.time })
  if rest.isEmpty then endSaved s k v else s

/-- A store of END_GROUP or END_NODE: every split of the group ends as at sexit (R334); with END_NODE the node fails with the
fault's code (R328). -/
def endByAction (s : State) (node : Bool) (a : ActionArgs) : State :=
  let fail := fun (s : State) (n : Nat) (c : FaultCode) => if node then failNode s n c.number else s
  let orphan := s.orphans.find? (namedOrphan a)
  match groupOfRegion s a.ctx a.region with
  | some (k, g) =>
    match stopOf g a.slot, orphan with
    | some x, _ => fail (killSplits (s.setGroup k (clearStop g a.slot)) k (fun _ _ => true)) g.node x.code
    | none, some o => fail (killSplits (answerOrphan s a) k (fun _ _ => true)) o.node o.code
    | none, none => s
  | none =>
    match savedGroup s a.ctx a.region with
    | some (k, v, g) =>
      match v.stopOf g a.slot, orphan with
      | some x, _ => fail (endSavedGroup s k v g a.slot) g.node x.code
      | none, some o => fail (endSavedGroup (answerOrphan s a) k v g a.slot) o.node o.code
      | none, none => s
    | none =>
      match orphan with
      | some o => fail (answerOrphan s a) o.node o.code
      | none => s

/-- END_GROUP (R334). -/
def execEndGroup (a : ActionArgs) (s : State) : Host.Outcome State Fault Refusal := onPart s (fun s => endByAction s false a)

/-- END_NODE (R328, R334). -/
def execEndNode (a : ActionArgs) (s : State) : Host.Outcome State Fault Refusal := onPart s (fun s => endByAction s true a)

/-! ### Replay (R338, R340, R341) -/

/-- The agent of an entry. -/
def GalleyEntry.who (e : GalleyEntry) : Who := { ref := e.ref, wg := e.wg, node := e.node, ctx := e.ctx, pcs := e.pcs, seq := e.seq }

/-- A split that waits at issue for a held read issues again. -/
def reissue (s : State) (r : SplitRef) (c : Stall) : State :=
  s.modSplit r (fun sp => if sp.wait = .stall c then { sp with wait := .ready } else sp)

/-- Perform what an entry holds (R341): accesses that meet an absent page again make entries again. -/
def replayEntry (s : State) (e : GalleyEntry) : State :=
  match e.kind with
  | .access accs m result => performAll s e.who m result accs
  | .fetch => reissue s e.ref .fetch
  | .descriptor => reissue s e.ref .descriptor
  | .command id =>
    match tget s.commands id with
    | some c => performCopy { s with commands := tput s.commands id { c with page := none } } id
    | none => s
  | .reads result jobs => performReads s e.who result jobs
  | .ray id => followRay s e.ref.gkey id
  | .render ids => translateWrites s e.who ids

/-- The first entry that a REPLAY has reached and that no earlier entry of its group precedes (R338): the entries before it,
itself, and those after it. -/
def nextReplay : List GalleyEntry → List GalleyEntry → Option (List GalleyEntry × GalleyEntry × List GalleyEntry)
  | _, [] => none
  | before, e :: l =>
    if e.go && !before.any (fun x => x.ref.gkey == e.ref.gkey) then some (before, e, l) else nextReplay (before ++ [e]) l

/-- Set the galley of a core. -/
def setGalley (s : State) (core : Nat) (l : List GalleyEntry) : State := s.modCore core (fun c => { c with galley := l })

/-- Replay one entry of a core: the group's later entries do not hold it up, and what it makes stands in its place. -/
def replayOne (s : State) (core : Nat) : Option State :=
  match nextReplay [] (s.core core).galley with
  | none => none
  | some (l1, e, l2) =>
    let others := (l1 ++ l2).filter (fun x => x.ref.gkey != e.ref.gkey)
    let s := replayEntry (setGalley s core others) e
    some (setGalley s core (l1 ++ ((s.core core).galley.drop others.length) ++ l2))

/-- Replay the entries of a core that may go, one after another; `fuel` bounds their number. -/
def replayCore (core : Nat) : Nat → State → State
  | 0, s => s
  | n + 1, s =>
    match replayOne s core with
    | some s => replayCore core n s
    | none => s

/-- The core, context and page of a PAGE message (R344, R345). -/
def pageOfMessage (m : List DWord) : Option (Nat × Nat × Nat) :=
  let h := (m.headD 0).toNat
  if bitsAt h 0 8 = 2 then some (bitsAt h 32 2 * Config.coresPerDie + bitsAt h 26 6, bitsAt h 16 10, pageOf (m.getD 1 0)) else none

/-- A PAGE message that waits for a slot goes, its page having been resumed meanwhile (R340). -/
def dropPageMessage (s : State) (core ctx page : Nat) : State :=
  let q := s.sluice (dieOf core)
  if q.waiting.any (fun m => pageOfMessage m == some (core, ctx, page)) then
    s.setSluice (dieOf core) { q with waiting := q.waiting.filter (fun m => pageOfMessage m != some (core, ctx, page)) }
  else s

/-- A resume has reached a core: its message is answered, and pages that still have entries are posted again (R340). -/
def afterResume (s : State) (core ctx page : Nat) : State :=
  let s := replayCore core (s.core core).galley.length (dropPageMessage s core ctx page)
  postPages (s.modCore core (fun c => { c with pages := c.pages.filter (fun p => p != (ctx, page)) })) core

/-- The entry is of this context and page. -/
def GalleyEntry.on (e : GalleyEntry) (ctx page : Nat) : Bool := e.ctx == ctx && e.page == page

/-- REPLAY: every entry of the page, on every core, walks again and is performed (R338, R340, R341). -/
def execReplay (ctx page : Nat) (s : State) : Host.Outcome State Fault Refusal :=
  onPart s (fun s =>
    (s.coreTab.map (fun e => e.1)).foldl (fun s core =>
      let s := s.modCore core (fun c => { c with galley := c.galley.map (fun e => if e.on ctx page then { e with go := true } else e) })
      afterResume s core ctx page) s)

/-! ### FAIL (R133, R341) -/

/-- A precise PAGE_NOT_PRESENT at the word that waits for a held read: a lane word of a run, or a scalar word, whose fetch faults once the
results of its split are in (R75, R89, R133). -/
def failWord (s : State) (r : SplitRef) (c : Stall) (skip : Nat) (addr : DWord) (lanes : LaneMask) : State :=
  match s.split r with
  | none => s
  | some sp =>
    if sp.wait != .stall c then s
    else if sp.run.isSome then faultLane s r sp .pageNotPresent addr lanes
    else if c == .fetch && !sp.inflight.isEmpty then s.setSplit r { sp with wait := .stall (.failing skip addr) }
    else faultScalar s r sp skip .pageNotPresent 0 addr

/-- Byte address of a scalar word and of a lane word of a node (R61). -/
def scalarVa (d : Desc) (spc : Word) : DWord := address57 d.scode + BitVec.ofNat 64 (4 * spc.toNat)
def laneVa (d : Desc) (lpc : Word) : DWord := address57 d.lcode + BitVec.ofNat 64 (12 * lpc.toNat)

/-- Scalar words that a fault at the fetch of `va` covers: one at the word itself, two at its literal (R334). -/
def fetchSkip (s : State) (e : GalleyEntry) : Nat :=
  match tget s.nodes e.node with
  | some n => if e.va = scalarVa n.desc e.pcs.spc then 1 else 2
  | none => 1

/-- Lanes of an entry that FAIL leaves without effect take the deferred fault (R341). -/
def failLanes (s : State) (e : GalleyEntry) (result : Option Nat) (l : List (Nat × DWord)) : State :=
  l.foldl (fun s x =>
    let s := s.defer e.who .pageNotPresent x.1 x.2 0 none
    match result with
    | some id => s.modResult e.ref id (fun f => f.dropLane x.1)
    | none => s) s

/-- What an entry's lanes perform under FAIL: nothing, and a fault (R341, R388, R417). -/
def failEntry (s : State) (e : GalleyEntry) : State :=
  match e.kind with
  | .access accs _ result => failLanes s e result (accs.map (fun a => (a.lane, a.va)))
  | .reads result jobs => failLanes s e (some result) (jobs.map (fun j => (j.1, e.va)))
  | .fetch => failWord s e.ref .fetch (fetchSkip s e) e.va e.lanes
  | .descriptor => failWord s e.ref .descriptor 2 e.va e.lanes
  | .command id => failCommand s id .pageNotPresent e.va 0
  | .ray id =>
    match tget s.groups e.ref.gkey with
    | none => s
    | some g =>
      match g.rays.find? (fun y => y.id == id) with
      | none => s
      | some y =>
        recordArrives (s.defer e.who .pageNotPresent y.lane e.va 0 none) e.ref.gkey y (missRecord y.ticket 0xFFFFFFFE)
  | .render ids =>
    ids.foldl (fun s id =>
      match tget s.rtWrites id with
      | some x => deferWrite { s with rtWrites := tdel s.rtWrites id } x .pageNotPresent e.va
      | none => s) s

/-- FAIL: every entry of the page, on every core, performs nothing and faults (R341). -/
def execFail (ctx page : Nat) (s : State) : Host.Outcome State Fault Refusal :=
  onPart s (fun s =>
    (s.coreTab.map (fun e => e.1)).foldl (fun s core =>
      let l := (s.core core).galley
      let s := setGalley s core (l.filter (fun e => !e.on ctx page))
      afterResume ((l.filter (fun e => e.on ctx page)).foldl failEntry s) core ctx page) s)

/-! ### Sluices (R342, R343) -/

/-- A message that waited for a slot, as it is posted now: a PAGE message reports the entries at its posting, and goes where its page has
none left (R340, R345). -/
def postedNow (s : State) (m : List DWord) : Option (List DWord) :=
  match pageOfMessage m with
  | some (core, ctx, page) => pageMessage s core ctx page
  | none => some m

/-- MESSAGE_POST: the first message that waits for a slot is posted; with none, the first FAULT message whose release is complete (R340,
R343). -/
def execMessagePost (die : Nat) (s : State) : Host.Outcome State Fault Refusal :=
  onPart s (fun s =>
    let q := s.sluice die
    match q.waiting with
    | m :: l =>
      if 0 < q.free then
        match postedNow s m with
        | some m => s.setSluice die ({ q with waiting := l }.post m (messageTime s m))
        | none => s.setSluice die { q with waiting := l }
      else s
    | [] =>
      match q.held.find? (fun x => !accessesOut s x.1) with
      | some x => (s.setSluice die { q with held := q.held.erase x }).post die x.2
      | none => s)

/-- SLUICE_HEAD_WRITE: a HEAD behind its old value or past TAIL is ignored (R342). -/
def execSluiceHeadWrite (die : Nat) (value : Word) (s : State) : Host.Outcome State Fault Refusal :=
  onPart s (fun s =>
    let q := s.sluice die
    if (value - q.head).toNat ≤ (q.tail - q.head).toNat then s.setSluice die { q with head := value } else s)

/-! ### Replies (R346) -/

/-- The reply of a group's outstanding upcall becomes present when the ticket is its own (R346). -/
def Group.replied (g : Group) (ticket : Word) : Group :=
  match g.upcall with
  | some u => if u.ticket = ticket then { g with upcall := some { u with present := true } } else g
  | none => g

/-- REPLY_PORT_WRITE (R346): to a resident group or a saved one; otherwise it is ignored. -/
def execReplyPortWrite (region ctx : Nat) (ticket : Word) (s : State) : Host.Outcome State Fault Refusal :=
  onPart s (fun s =>
    match groupOfRegion s ctx region with
    | some (k, g) => s.setGroup k (g.replied ticket)
    | none =>
      match savedGroup s ctx region with
      | some (k, v, g) =>
        { s with saved := tput s.saved k { v with groups := v.groups.map (fun x => if x.wave = g.wave then x.replied ticket else x) } }
      | none => s)

/-! ### The watchdog of raster-ordered sections (R356) -/

/-- The split that a terminal fault of a group names: the lowest without an unanswered fault, or the lowest (R335). -/
def terminalSlot (g : Group) : Option Nat :=
  match (g.splits.find? (fun e => e.2.stopped.isNone)) with
  | some e => some e.1
  | none => g.splits.head?.map (fun e => e.1)

/-- ORDERED_TIMEOUT: a section held for 2^20 cycles. The fault is terminal: every split ends as at sexit, and the section is
released (R356). -/
def execOrderedTimeout (group : Nat) (s : State) : Host.Outcome State Fault Refusal :=
  onPart s (fun s =>
    match tget s.groups group with
    | none => s
    | some g =>
      match g.sect, terminalSlot g with
      | some t, some slot =>
        if s.cyc - t < 2 ^ 20 then s
        else
          let r := refOf group slot
          let s := takeFault s r .terminal
            { code := .orderedTimeout,
              lanes := match s.split r with
                | some sp => execMask s sp
                | none => 0,
              pcs := match s.split r with
                | some sp => sp.pcs
                | none => { spc := 0, lpc := 0 } }
          killSplits s group (fun _ _ => true)
      | _, _ => s)

end Sys2Proof.Machine
end

