-- ==== Sys2Proof/Machine/Save.lean ====
section
/-! DEFINITION. Pre-emption (R351 to R354): requests, the save of a workgroup to its regions (R349, R350), and its restore on
any core that fits. Where the layout of a field is not given, log entry 17 fixes it. -/

namespace Sys2Proof.Machine

/-! ### Requests (R351, R352) -/

/-- Workgroups taken with some of them: twins, and the whole of a cooperative node (R351). -/
def takenWith (s : State) (keys : List Nat) : List Nat :=
  (s.wgs.filter (fun (e : Nat × Workgroup) =>
    keys.contains e.1 || (match e.2.twin with
      | some t => keys.contains t
      | none => false) ||
    keys.any (fun k =>
      match tget s.wgs k, tget s.nodes e.2.node with
      | some w, some n => n.desc.coop && w.node == e.2.node
      | _, _ => false))).map (fun e => e.1)

/-- A request of the pre-emption port on some workgroups (R351, R352). -/
def preempt (s : State) (ctx : Nat) (hold : Bool) (tag : Word) (keys : List Nat) : State :=
  let id := s.serial
  let taken := takenWith s keys
  let mark := fun (w : Workgroup) =>
    match w.preempt with
    | some p => { w with preempt := some { hold := p.hold || hold, requests := id :: p.requests } }
    | none => { w with preempt := some { hold := hold, requests := [id] } }
  answerRequests
    { s with serial := s.serial + 1, requests := tput s.requests id (ctx, tag),
             wgs := s.wgs.map (fun e => if taken.contains e.1 then (e.1, mark e.2) else e) }

/-- PREEMPT_CONTEXT: mode 0 (R351). -/
def execPreemptContext (ctx : Nat) (hold : Bool) (tag : Word) (s : State) : Host.Outcome State Fault Refusal :=
  onPart s (fun s =>
    preempt s ctx hold tag ((s.wgs.filter (fun (e : Nat × Workgroup) => s.nodeCtx e.2.node == ctx)).map (fun e => e.1)))

/-- PREEMPT_WORKGROUP: mode 1, the workgroup of the group whose handle REGION is (R351). -/
def execPreemptWorkgroup (ctx region : Nat) (hold : Bool) (tag : Word) (s : State) : Host.Outcome State Fault Refusal :=
  onPart s (fun s =>
    preempt s ctx hold tag (match groupOfRegion s ctx region with
      | some (_, g) => [g.wg]
      | none => []))

/-- RELEASE_HELD: mode 2 (R351, R353). -/
def execReleaseHeld (ctx : Nat) (tag : Word) (s : State) : Host.Outcome State Fault Refusal :=
  onPart s (fun s =>
    let id := s.serial
    answerReleases
      { s with serial := s.serial + 1, releases := tput s.releases id (ctx, tag),
               saved := s.saved.map (fun e =>
                 if e.2.ctx = ctx ∧ e.2.hold then (e.1, { e.2 with hold := false, released := some id }) else e) })

/-! ### Images (R349, R350) -/

/-- Bytes at an offset of a region. -/
abbrev Piece := Nat × List Byte

/-- What a split goes on with, as a byte. -/
def afterCode : After → Nat
  | .proceed => 0 | .brvSplit .. => 1 | .brvDefer .. => 2 | .join => 3 | .exit => 4 | .dissolve .. => 5 | .trap _ => 6
  | .reply .. => 7 | .barrier => 8 | .object .. => 9 | .order => 10

/-- A wait state as a byte. -/
def waitCode : Wait → Nat
  | .ready => 0 | .park k => 16 + afterCode k | .held k => 32 + afterCode k | .await k => 48 + afterCode k | .join _ => 64
  | .stall _ => 80

/-- A split record (R349): the order of its fields is the rule's. -/
def splitBytes (sp : Split) : List Byte :=
  let rep := match sp.run with
    | some r => r.rep.getD (0, 0)
    | none => sp.armed.getD (0, 0)
  wordBytes sp.s.toList ++ wordBytes [sp.spc, sp.lpc] ++ toBytes 12 sp.lanes.toNat ++
    [sp.fpstat.setWidth 8, sp.ustat.setWidth 8, sp.rptidx, BitVec.ofNat 8 rep.1, BitVec.ofNat 8 rep.2,
     BitVec.ofNat 8 (waitCode sp.wait)] ++ arrivalBytes sp.arrival ++ sp.written.flatMap (fun e => toBytes 8 e.2.toNat)

/-- The bits of the slots for which `p` holds. -/
def slotBits (l : Table Split) (p : Split → Bool) : Nat := l.foldl (fun a e => if p e.2 then a + 2 ^ e.1 else a) 0

/-- An exact accumulator with its flags. -/
def exactBytes (x : Exact) : List Byte :=
  padTo 64 (toBytes 40 x.sum.toNat ++ [BitVec.ofNat 8 ((if x.nan then 1 else 0) + (if x.pinf then 2 else 0) + (if x.ninf then 4 else 0))])

/-- A group's region as a save writes it (R349, R391). -/
def groupImage (wgRegion : Nat) (g : Group) : List Piece :=
  [(0, toBytes 1 (slotBits g.splits (fun _ => true)) ++ toBytes 1 (slotBits g.splits (fun sp => sp.stopped.isSome)) ++
       toBytes 1 (slotBits g.splits (fun sp => match sp.wait with
         | .held _ => true
         | _ => false)) ++ toBytes 1 g.regs.length ++ toBytes 8 g.order ++ toBytes 2 wgRegion)] ++
  g.splits.map (fun e => (0x80 + 512 * e.1, splitBytes e.2)) ++
  [(0x880, g.joins.flatMap (fun j => padTo 32 (wordBytes [j.pcs.spc, j.pcs.lpc] ++ toBytes 12 j.lanes.toNat))),
   (0x900, g.deferrals.reverse.flatMap (fun d => padTo 320 (deferralBytes d))),
   (0x1D00, g.vc.toList.flatMap (fun m => padTo 16 (toBytes 12 m.toNat))), (0x1D40, g.xa.toList.flatMap exactBytes),
   (0x1DC0, wordBytes ((List.range 64).map (fun i => g.gather.getD i (BitVec.ofNat 32 i)))),
   (0x1F00, g.regs.map (fun r => BitVec.ofNat 8 (tagNumber r.tag))),
   (0x2000, g.conts.flatMap (fun l => padTo 8 (l.flatMap (fun i => toBytes 2 i.toNat)))),
   -- R391: ticket, lane, t, primitive id, b1 and b2 of the records in arrival order; the ticket counts
   (0x2400, g.mailbox.flatMap (fun m =>
     wordBytes [m.2.ticket, BitVec.ofNat 32 m.1, m.2.t, m.2.prim, m.2.b1, m.2.b2])),
   (0x3C00, wordBytes ((List.range 96).map (fun i => g.rayTickets.getD i 0))),
   (0x4000, g.regs.flatMap (fun r => wordBytes r.data.toList))]

/-- The instance state of the workgroup barrier: for each group, four bits that say which splits wait at it (R272, R350). -/
def barrierState (groups : List Group) : Nat := groups.foldr (fun g a => a * 16 + slotBits g.splits atBarrier) 0

/-- A workgroup's region as a save writes it (R350). -/
def workgroupImage (w : Workgroup) (barrier elapsed : Nat) : List Piece :=
  [(0, toBytes 2 w.rck.toNat ++ toBytes 2 w.cpt.toNat ++ toBytes 8 elapsed ++ toBytes 32 barrier ++
       w.objects.flatMap (toBytes 4)),
   (0x1000, (List.range (w.tileCount * 4096)).flatMap (fun i => toBytes 4 ((tget w.tiles i).getD 0).toNat)),
   (0x1000 + 16384 * w.tileCount, w.scratch.readBytes 0 w.size)]

/-- Write a piece to the save area under WKEY, in halves of lines, for a core (R348, R353). -/
def writePiece (s : State) (core ctx base : Nat) (p : Piece) : State :=
  (List.range ((p.2.length + 63) / 64)).foldl (fun s i =>
    let pa := base + p.1 + 64 * i
    if isMemory pa then homeWrite s (some core) (s.context ctx).wkey pa ((p.2.drop (64 * i)).take 64) (some ctx) else s) s

/-- Read bytes of the save area for a core (R348, R353). -/
def readPiece (s : State) (core ctx pa n : Nat) : State × List Byte :=
  (List.range ((n + 63) / 64)).foldl (fun (x : State × List Byte) i =>
    let (s, b) := homeRead x.1 (some core) (x.1.context ctx).wkey (pa + 64 * i) (min 64 (n - 64 * i))
    (s, x.2 ++ b)) (s, [])

/-! ### Save (R352) -/

/-- A split waits where a save takes it: stopped, or at a park point, with no result in flight. -/
def savable (sp : Split) : Bool :=
  sp.inflight.isEmpty && (sp.stopped.isSome || (match sp.wait with
    | .held _ | .await _ | .join _ => true
    | _ => false))

/-- A group meets steps 1 to 3 of R352. -/
def groupQuiet (s : State) (k : Nat) : Bool :=
  match tget s.groups k with
  | none => true
  | some g =>
    g.splits.all (fun e => savable e.2) && g.rays.isEmpty && g.sect.isNone && !s.acks.any (fun e => e.2.gkey == k) &&
    !s.remotes.any (fun e => e.2.gkey == k) && !(s.core (k / 256)).galley.any (fun e => e.ref.gkey == k)

/-- A workgroup that is to be pre-empted may be saved (R299, R352). -/
def saveReady (s : State) (k : Nat) (w : Workgroup) : Bool :=
  w.preempt.isSome && w.groups.all (groupQuiet s) && !s.commands.any (fun e => e.2.wg == k) &&
  (match tget s.nodes w.node with
   | some n => n.state != .failed
   | none => false)

/-- No split of a group that leaves the core is the one that a pipe issued from last (R57). -/
def forgetIssued (s : State) (core : Nat) (keys : List Nat) : State :=
  let keep := fun (l : Table SplitRef) => l.filter (fun e => !keys.contains e.2.gkey)
  s.modCore core (fun c => { c with lastIssued := keep c.lastIssued, precedence := keep c.precedence })

/-- Save a workgroup under a number and free its core's resources (R352, R217); the regions stay its own. -/
def saveWorkgroup (s : State) (k : Nat) (w : Workgroup) (twin : Option Nat) : State :=
  let core := k / 64
  let ctx := s.nodeCtx w.node
  let elapsed := s.cyc - w.lastTick
  let groups := (w.groups.filterMap (fun x => tget s.groups x)).map emptyLatch
  let s := groups.foldl (fun s g => (groupImage w.region g).foldl (fun s p => writePiece s core ctx (unitBase s ctx g.region) p) s) s
  let s := (workgroupImage w (barrierState groups) elapsed).foldl (fun s p => writePiece s core ctx (unitBase s ctx w.region) p) s
  let s := s.modCore core (fun v => { v with l1 := v.l1.map (fun l => if l.owner = k % 64 then { l with overdue := true } else l) })
  let s := forgetIssued s core w.groups
  let hold : Bool := match w.preempt with
    | some p => p.hold
    | none => false
  { s with
    groups := s.groups.filter (fun e => !w.groups.contains e.1), wgs := tdel s.wgs k,
    saved := tput s.saved s.serial
      { wg := { w with preempt := none, lastTick := elapsed, groups := [], twin := twin }, groups := groups, hold := hold,
        time := (s.core core).lt, actions := [], released := none, ctx := ctx, barrier := barrierState groups },
    serial := s.serial + 1 }

/-- WORKGROUP_SAVE: a workgroup, with its twin, is saved once both may be; then PREEMPTED follows where it was the last of a
request (R352). -/
def execWorkgroupSave (wg : Nat) (s : State) : Host.Outcome State Fault Refusal :=
  onPart s (fun s =>
    match tget s.wgs wg with
    | none => s
    | some w =>
      let other := w.twin.bind (fun t => (tget s.wgs t).map (fun v => (t, v)))
      match other with
      | none => if saveReady s wg w && !w.groups.isEmpty then answerRequests (saveWorkgroup s wg w none) else s
      | some (t, v) =>
        if saveReady s wg w && saveReady s t v && !(w.groups.isEmpty && v.groups.isEmpty) then
          answerRequests (saveWorkgroup (saveWorkgroup s wg w (some (s.serial + 1))) t v (some s.serial))
        else s)

/-! ### Restore (R353, R354) -/

/-- The word at a byte of some bytes. -/
def wordAt (b : List Byte) (i : Nat) : Word := BitVec.ofNat 32 (ofBytes ((b.drop i).take 4))

/-- A split with the fields that the resident kernel may edit as the save area holds them (R354). -/
def editedSplit (sp : Split) (b : List Byte) : Split :=
  { sp with s := Vector.ofFn (fun i : Fin 64 => if mergesReg i.val then wordAt b (4 * i.val) else sp.s[i]),
            spc := wordAt b 256, lpc := wordAt b 260, fpstat := ((b.getD 276 0).setWidth 5), ustat := ((b.getD 277 0).setWidth 2) }

/-- A group with those fields of its live splits, and its vector registers, as the save area holds them. -/
def editedGroup (s : State) (core ctx : Nat) (g : Group) : State × Group :=
  let base := unitBase s ctx g.region
  let (s, splits) := g.splits.foldl (fun (x : State × Table Split) e =>
    let (s, b) := readPiece x.1 core ctx (base + 0x80 + 512 * e.1) 512
    (s, x.2 ++ [(e.1, editedSplit e.2 b)])) (s, [])
  let (s, regs) := (g.regs.zipIdx).foldl (fun (x : State × List VReg) e =>
    let (s, b) := readPiece x.1 core ctx (base + 0x4000 + 384 * e.2) 384
    (s, x.2 ++ [{ e.1 with data := Vector.ofFn (fun i : Fin 96 => wordAt b (4 * i.val)) }])) (s, [])
  (s, { g with splits := splits, regs := regs })

/-- Every piece of an image stands in the save area as it would be written. -/
def imageStands (s : State) (core ctx base : Nat) (l : List Piece) : Bool :=
  l.all (fun p => (readPiece s core ctx (base + p.1) p.2.length).2 == p.2)

/-- A group whose saved image was edited where it may not be faults on its first fetch (R354). -/
def faultEdited (s : State) (k : Nat) : State := s.modGroup k (fun g => { g with edited := true })

/-- A restored split has not issued since its restore (R57); but a scallx that its park held keeps the time at which it issued, by which
its threads arrive (R51). -/
def restoredIssue (cyc : Nat) (sp : Split) : Split :=
  match sp.wait with
  | .held (.dissolve _ _ _ _) => sp
  | _ => { sp with lastIssue := cyc }

/-- Put a saved group on a core, in its block, under its own region (R353). -/
def restoreGroup (s : State) (core wg wgRegion ctx : Nat) (b : Nat × Nat × Nat) (g : Group) : State :=
  let k := groupKey core b.1 (freeGslot s core b.1)
  let (s, g) := editedGroup s core ctx g
  let g := { g with wg := wg, placed := s.serial, base := b.2.1, splits := g.splits.map (fun e => (e.1, restoredIssue s.cyc e.2)) }
  let s := { s with groups := tput s.groups k g, wgs := tmod s.wgs wg (fun w => { w with groups := w.groups ++ [k] }), serial := s.serial + 1 }
  if imageStands s core ctx (unitBase s ctx g.region) (groupImage wgRegion g) then s else faultEdited s k

/-- Whether the workgroup's own region was edited outside the scratchpad image. -/
def workgroupStands (s : State) (core ctx : Nat) (w : Workgroup) (barrier elapsed : Nat) : Bool :=
  imageStands s core ctx (unitBase s ctx w.region) (workgroupImage w barrier elapsed)

/-- Splits of a restored group go on from the park points at which they were saved, where they may: a present reply takes
effect before any of them issues (R346). -/
def wakeGroup (s : State) (k : Nat) : State :=
  match tget s.groups k with
  | none => s
  | some g => g.splits.foldl (fun s e => parkStep s (refOf k e.1)) s

/-- A state in which saved workgroups have been put back, their groups, and the actions stored meanwhile. -/
structure Restored where
  state : State
  keys : List Nat
  actions : List (Action × ActionArgs)

/-- The restored groups go on: the actions stored meanwhile act (R334), and the splits leave the park points at which they were saved. -/
def Restored.goOn (x : Restored) : State :=
  x.keys.foldl wakeGroup (x.actions.foldl (fun s a => Machine.goOn s (a.1 == .retry) a.2) x.state)

/-- One more workgroup is put back. -/
def Restored.and (x y : Restored) : Restored := { y with keys := x.keys ++ y.keys, actions := x.actions ++ y.actions }

/-- Put a saved workgroup on a core where it fits: an acquire of its save (R353). Its groups go on once all that is restored with it
stands, a twin among it (R60). -/
def restoreOn (s : State) (id : Nat) (v : SavedWg) (n : Node) (core : Nat) (twin : Option Nat) : Option Restored :=
  match chooseBlocks s core n.desc.allot v.groups.length [] with
  | none => none
  | some blocks =>
    let slot := (firstFree ((coreWgs s core).map (fun e => e.1 % 64)) 0 64).getD 0
    let key := wgKey core slot
    let s := s.raiseLt (some core) v.time
    let (s, image) := readPiece s core v.ctx (unitBase s v.ctx v.wg.region + 0x1000 + 16384 * v.wg.tileCount) v.wg.size
    let w : Workgroup :=
      { v.wg with
        scratch := Memory.writeBytes [] 0 image, lastTick := s.cyc - v.wg.lastTick, twin := twin, overwritten := [] }
    let stands := workgroupStands s core v.ctx w v.barrier v.wg.lastTick
    let s := { s with saved := tdel s.saved id, wgs := tput s.wgs key w }
    let s := (v.groups.zip blocks).foldl (fun s x => restoreGroup s core key v.wg.region v.ctx x.2 x.1) s
    let keys := match tget s.wgs key with
      | some w => w.groups
      | none => []
    let s := if stands then s else keys.foldl faultEdited s
    some { state := placedOne s v.wg.node core v.wg.wid.toNat, keys := keys, actions := v.actions }

/-- What a saved workgroup asks of a core. -/
def savedWant (n : Node) (v : SavedWg) : Want :=
  { node := v.wg.node, groups := v.groups.length, allot := n.desc.allot, q := v.wg.granules, scratch := v.wg.size,
    acct := v.wg.tileCount }

/-- The cores for a saved workgroup by itself: one of a pair whose twin has ended keeps its half of a pair of cores; a bound one waits
for its own core (R323). -/
def savedCores (s : State) (n : Node) (id : Nat) (v : SavedWg) : List Nat :=
  let own := boundCores s v.wg.node (.saved id)
  (candidateCores s v.wg.node { n with desc := { n.desc with pair := false } } v.wg.wid.toNat).filter (fun c =>
    (own.isEmpty || n.desc.coop || own.contains c) && (!n.desc.pair || c % 2 == (if v.wg.follower then 1 else 0)))

/-- The core for a saved pair's leader. -/
def savedPairCore (s : State) (n : Node) (a b : SavedWg) : Option Nat :=
  bestCore s ((candidateCores s a.wg.node n a.wg.wid.toNat).filter (fun c => fits s c (savedWant n a) && fits s (c + 1) (savedWant n b)))

/-- Restore a saved workgroup, with its twin if that is saved too; none when it fits nowhere. -/
def restoreOne (s : State) (id : Nat) : Option Restored :=
  match tget s.saved id with
  | none => some { state := s, keys := [], actions := [] }
  | some v =>
    match tget s.nodes v.wg.node with
    | none => none
    | some n =>
      if v.hold || !mayPlace n then none
      else
        match v.wg.twin.bind (fun t => (tget s.saved t).map (fun x => (t, x))) with
        | none => (bestCore s ((savedCores s n id v).filter (fun c => fits s c (savedWant n v)))).bind (fun c => restoreOn s id v n c none)
        | some (t, x) =>
          let lead := if v.wg.follower then (t, x) else (id, v)
          let follow := if v.wg.follower then (id, v) else (t, x)
          (savedPairCore s n lead.2 follow.2).bind (fun c =>
            let key := fun (c : Nat) => wgKey c ((firstFree ((coreWgs s c).map (fun e => e.1 % 64)) 0 64).getD 0)
            (restoreOn s lead.1 lead.2 n c (some (key (c + 1)))).bind (fun x =>
              (restoreOn x.state follow.1 follow.2 n (c + 1) (some (key c))).map x.and))

/-- The saved workgroups placed with one: all of a cooperative node, once none of it waits to be saved (R325, R351). -/
def restoreSet (s : State) (id : Nat) (v : SavedWg) (n : Node) : List Nat :=
  if n.desc.coop then
    if s.wgs.any (fun (e : Nat × Workgroup) => e.2.node == v.wg.node && e.2.preempt.isSome) then []
    else (s.saved.filter (fun e => e.2.wg.node == v.wg.node)).map (fun e => e.1)
  else [id]

/-- Restore some saved workgroups together, each by `one`, or none. -/
def restoreWith (one : State → Nat → Option Restored) (s : State) (ids : List Nat) : Option State :=
  (ids.foldl (fun (x : Option Restored) id => x.bind (fun y => (one y.state id).map y.and))
    (some { state := s, keys := [], actions := [] })).map Restored.goOn

/-- Restore some saved workgroups together, or none. -/
def restoreAll (s : State) (ids : List Nat) : Option State := restoreWith restoreOne s ids

/-- The core whose change of split lets a saved pair in, its leader there, with the fewest granules (R323). -/
def savedPairBind (s : State) (n : Node) (a b : SavedWg) : Option Nat :=
  let ok := fun (c : Nat) (v : SavedWg) => fitsBut s c (savedWant n v) && decide (granulesFor s c (savedWant n v) ≤ 32)
  fewestGranules (fun c => lacking s c (savedWant n a) + lacking s (c + 1) (savedWant n b))
    ((candidateCores s a.wg.node n a.wg.wid.toNat).filter (fun c => ok c a && ok (c + 1) b))

/-- The part after the change of split that lets a saved workgroup in, with its twin, with the fewest granules (R323). -/
def savedWider (s : State) (n : Node) (id : Nat) (v : SavedWg) : Option State :=
  match v.wg.twin.bind (fun t => tget s.saved t) with
  | none => (bindCore s false (savedWant n v) (savedCores s n id v)).map (fun c => widen s (savedWant n v) [c])
  | some x =>
    let a := if v.wg.follower then x else v
    let b := if v.wg.follower then v else x
    (savedPairBind s n a b).map (fun c => widen (widen s (savedWant n a) [c]) (savedWant n b) [c + 1])

/-- Restore a saved workgroup as the part is, or else after the change of split that needs the fewest granules (R320, R323). -/
def restoreWider (s : State) (id : Nat) : Option Restored :=
  match restoreOne s id with
  | some x => some x
  | none =>
    (tget s.saved id).bind (fun v => (tget s.nodes v.wg.node).bind (fun n => (savedWider s n id v).bind (fun t => restoreOne t id)))

/-- Bind a saved workgroup that fits only after a change of split, a pair or the whole of a cooperative node together
(R323). -/
def bindSaved (s : State) (n : Node) (id : Nat) (v : SavedWg) (ids : List Nat) : State :=
  if v.hold || !(boundCores s v.wg.node (.saved id)).isEmpty then s
  else if n.desc.pair || n.desc.coop then
    match restoreWith restoreWider s ids with
    | some t => { s with bound := s.bound ++ missingGranules s t v.wg.node (.saved id) }
    | none => s
  else
    match bindCore s false (savedWant n v) (savedCores s n id v) with
    | some c => bindTo s v.wg.node (.saved id) false (savedWant n v) c
    | none => s

/-! ### A node's next work (R319, R353) -/

/-- The saved workgroups that go with a node's next work, when that is one of them. -/
def savedSet (s : State) (node : Nat) (n : Node) : List Nat :=
  match nextWork s node n with
  | some (.saved id, _) =>
    match tget s.saved id with
    | some v => restoreSet s id v n
    | none => []
  | _ => []

/-- Place the next work of a node, if it fits: a fresh workgroup, or a saved one, restored with those that go with it; RESTORED follows
where it was the last of a release (R353). -/
def placeWork (s : State) (node : Nat) (n : Node) : Option State :=
  match nextWork s node n with
  | some (.saved _, _) =>
    match savedSet s node n with
    | [] => none
    | ids => (restoreAll s ids).map (fun s => answerReleases (unbind s node (fun w => match w with
        | .saved _ => true
        | _ => false)))
  | some _ => placeNode s node n
  | none => none

end Sys2Proof.Machine
end

