-- ==== Sys2Proof/Machine/Compose.lean ====
section
/-! DEFINITION. The composing unit (R50 to R52, R390): waiting threads of one call-table index form a new group, which is
placed as a workgroup of its free-thread node (R48). -/

namespace Sys2Proof.Machine

/-- Order of arrival: the time the scallx issued, the launch order of the issuing group, the lane (R51). -/
def arrivedBefore (a b : Thread) : Bool :=
  decide (a.cycle < b.cycle) ||
  (a.cycle == b.cycle && (decide (a.order < b.order) || (a.order == b.order && decide (a.lane < b.lane))))

/-- Sorted order among the threads of one index: coherence key, then arrival (R51). -/
def threadBefore (a b : Thread) : Bool := decide (a.key < b.key) || (a.key == b.key && arrivedBefore a b)

/-- Insert a thread in sorted order. -/
def insertThread (t : Thread) : List Thread → List Thread
  | [] => [t]
  | a :: l => if threadBefore t a then t :: a :: l else a :: insertThread t l

/-- The waiting threads of a node at an index, sorted. -/
def waitingThreads (s : State) (node index : Nat) : List Thread :=
  (s.threads.filter (fun t => t.node == node && t.index == index)).foldl (fun l t => insertThread t l) []

/-- The threads that fill the next group: at most 96, holding at most 256 ray slots (R51, R390). -/
def fillGroup : Nat → Nat → List Thread → List Thread
  | 0, _, _ => []
  | _, _, [] => []
  | n + 1, slots, t :: l => if slots + t.mailbox.length ≤ 256 then t :: fillGroup n (slots + t.mailbox.length) l else []

/-- No split of the node remains that could still call: none resident or saved, and none still to be placed, the waves of a pixel node
among them (R51). -/
def noCaller (s : State) (node : Nat) (n : Node) : Bool :=
  !s.groups.any (fun (e : Nat × Group) => e.2.node == node) && !s.saved.any (fun e => e.2.wg.node == node) &&
  decide (totalWorkgroups n ≤ n.next) && n.waves.isEmpty && (n.desc.gstage != 2 || n.rasterised)

/-- The group is due (R51). -/
def groupDue (s : State) (node : Nat) (n : Node) (all picked : List Thread) : Bool :=
  decide (96 ≤ picked.length) ||
  (match all[picked.length]? with
   | some t => decide (256 < (picked.foldl (fun a x => a + x.mailbox.length) 0) + t.mailbox.length)
   | none => false) ||
  picked.any (fun t => decide (512 ≤ s.cyc - t.cycle)) || noCaller s node n

/-- Register k of the new group: each lane's value, zero where it carried none (R51). A register has one tag, while R51 gives each lane
the tag it carried, and tag 0 where it carried none: where these differ, the register has one of them, which one is not fixed: the
model's choice (log entry 6). -/
def composedReg (nonce : Nat) (l : List Thread) (k : Nat) : VReg :=
  let tags := l.map (fun t => ((t.regs[k]?).map (fun r => r.2)).getD .raw)
  let data : Lanes := Vector.ofFn (fun i : Fin 96 =>
    match l[i.val]? with
    | some t => ((t.regs[k]?).map (fun r => r.1)).getD 0
    | none => 0)
  { data := data,
    tag := match tags with
      | [] => .raw
      | a :: _ => if tags.all (fun t => t == a) then a else tags.getD (Config.freeNat nonce (900 + k) % tags.length) a }

/-- The seed of a composed group (R51, R390): lanes 0, 1, 2 and so on, at the entry pair of the index. -/
def composedSeed (nonce : Nat) (n : Node) (l : List Thread) (pcs : PcPair) : Seed :=
  { wid := 0, lanes := maskOf (fun i => decide (i < l.length)), s23 := n.args, s45 := 0, pcs := pcs,
    regs := (List.range 32).map (composedReg nonce l), vc0 := 0, composed := true,
    conts := (List.range 96).map (fun i => ((l[i]?).map (fun t => t.stack)).getD []),
    mailbox := (l.zipIdx).flatMap (fun e => e.1.mailbox.map (fun r => (e.2, r))),
    tickets := (List.range 96).map (fun i => ((l[i]?).map (fun t => t.ticket)).getD 0),
    pix := (l.zipIdx).filterMap (fun e => e.1.pix.map (fun p => (e.2, p))) }

/-- The entry pair of an index in the node's call table: {scalar PC, lane PC}, the scalar PC at the lower address (R316). -/
def callEntry (s : State) (n : Node) (index : Nat) : State × Option PcPair :=
  match hubDwords s n.ctx (address57 n.desc.calltab + BitVec.ofNat 64 (8 * index)) 1 with
  | (s, .ok d) =>
    let x : DWord := BitVec.ofNat 64 (d.getD 0 0)
    (s, some { spc := x.lo, lpc := x.hi })
  | (s, .error _) => (s, none)

/-- Bind a composed group that fits only after a change of split (R323). -/
def bindComposed (s : State) (node index : Nat) (n : Node) : State :=
  if !(boundCores s node (.composed index)).isEmpty then s
  else
    match bindCore s false (wantOf node n) (candidateCores s node n 0) with
    | some c => bindTo s node (.composed index) false (wantOf node n) c
    | none => s

/-- The threads of the next group of an index (R51). -/
def nextThreads (s : State) (node index : Nat) : List Thread := fillGroup 96 0 (waitingThreads s node index)

/-- The next group of an index is due (R51). -/
def indexDue (s : State) (node : Nat) (n : Node) (index : Nat) : Bool :=
  n.state != .failed && !(nextThreads s node index).isEmpty &&
  groupDue s node n (waitingThreads s node index) (nextThreads s node index)

/-- The indices of a node whose next group is due. -/
def dueIndices (s : State) (node : Nat) (n : Node) : List Nat :=
  ((s.threads.filter (fun t => t.node == node)).map (fun t => t.index)).eraseDups.filter (indexDue s node n)

/-- Place the next group of an index, if it fits (R51, R320). DESIGN CHOICE (log entry 82): a composed group has no work identifier, and is
placed as identifier 0, on the die of that affinity set. -/
def placeComposed (s : State) (node : Nat) (n : Node) (index : Nat) : Option State :=
  match coreFor s node n (.composed index) 0 (wantOf node n) with
  | none => none
  | some c =>
    if !regionsFit s n 1 then none
    else
      match callEntry s n index with
      | (_, none) => none
      | (s, some pcs) =>
        let l := nextThreads s node index
        let s := placeWorkgroup s node n c 0 [composedSeed s.fresh n l pcs] none false 0
        some (unbind (placedOne { s with threads := s.threads.filter (fun t => !l.contains t) } node c 0) node (fun w => w == .composed index))

/-! ### The pool's turn (R319, R51, R353) -/

/-- Place the next unplaced work of a node, if some of it fits: a group of the composing unit, which stands as identifier 0 (log entry 82),
before its next fresh or saved workgroup (R319). -/
def placeFirst (s : State) (node : Nat) (n : Node) : Option (Work × State) :=
  match (dueIndices s node n).findSome? (fun i => (placeComposed s node n i).map (fun t => (Work.composed i, t))) with
  | some x => some x
  | none => (nextWork s node n).bind (fun w => (placeWork s node n).map (fun t => (w.1, t)))

/-- Bind the next work of a node where only granules are wanting (R323). -/
def bindWork (s : State) (node : Nat) (n : Node) : State :=
  match nextWork s node n with
  | some (.saved id, _) =>
    match tget s.saved id with
    | some v => if (placeWork s node n).isSome then s else bindSaved s n id v (savedSet s node n)
    | none => s
  | some _ => bindNode s node n
  | none => s

/-- Bind the due groups of a node that fit nowhere, where only granules are wanting (R323). -/
def bindDue (s : State) (node : Nat) (n : Node) : State :=
  (dueIndices s node n).foldl (fun s i => if (placeComposed s node n i).isSome then s else bindComposed s node i n) s

/-- Cooperative nodes are judged, and workgroups bound. -/
def poolJudged (s : State) : State :=
  let s := (readyOrder s).foldl (fun s e => coopCheck s e.1 e.2) s
  (readyOrder s).foldl (fun s e => bindDue (bindWork s e.1 e.2) e.1 e.2) s

/-- The first ready node whose next work fits, that work, and its placement (R319). -/
def firstPlaced (s : State) : Option (Nat × Work × State) :=
  (readyOrder s).findSome? (fun e => (placeFirst s e.1 e.2).map (fun x => (e.1, x)))

/-- The saved workgroups that the pool places next, with the placement: none where the next work is no saved one. -/
def firstRestored (s : State) : Option (List Nat × State) :=
  match firstPlaced s with
  | some (node, .saved _, t) => (tget s.nodes node).map (fun n => (savedSet s node n, t))
  | _ => none

/-- WORKGROUP_PLACEMENT: cooperative nodes are judged and workgroups bound; then the first ready node whose next
work fits has it placed, where that is a fresh workgroup (R319 to R325). -/
def execWorkgroupPlacement (s : State) : Host.Outcome State Fault Refusal :=
  onPart s (fun s =>
    let s := poolJudged s
    match firstPlaced s with
    | some (_, .fresh, t) => t
    | _ => s)

/-- COMPOSE_RELEASE: the next group of an index is released once it is due, the pool has room for it, and it comes first among the unplaced
work of the ready nodes (R51, R52, R319). -/
def execComposeRelease (node index : Nat) (s : State) : Host.Outcome State Fault Refusal :=
  onPart s (fun s =>
    match firstPlaced s with
    | some (k, .composed i, t) => if k = node ∧ i = index then t else s
    | _ => s)

/-- What comes before a due group in the pool's order is placed, and then the group, as far as there is room (R52). -/
def composeUntil (node index : Nat) : Nat → State → State
  | 0, s => s
  | k + 1, s =>
    match firstPlaced s with
    | some (n, w, t) => if n = node ∧ w = .composed index then t else composeUntil node index k t
    | none => s

/-- A group that has been due for longer than R52 allows is released as soon as there is room for it. -/
def composeOverdue (node index : Nat) (s : State) : Host.Outcome State Fault Refusal :=
  .next (match tget s.nodes node with
    | some n => if indexDue s node n index then composeUntil node index (64 * Config.cores) (poolJudged s) else s
    | none => s)

/-- WORKGROUP_RESTORE: saved workgroup k is placed on a core that fits and restored, once it comes first among the unplaced work of the
ready nodes (R319, R353). -/
def execWorkgroupRestore (k : Nat) (s : State) : Host.Outcome State Fault Refusal :=
  onPart s (fun s =>
    match firstRestored s with
    | some (ids, t) => if ids.contains k then t else s
    | none => s)

/-- The identifier of the work that a node waits to place; none where it has none (R319, R324). -/
def waitingWid (s : State) (node : Nat) (n : Node) : Option Nat :=
  match nextWork s node n with
  | some (_, wid) => some wid
  | none => if (dueIndices s node n).isEmpty then none else some 0

/-- DIE_RESERVATION: a ready node that has placed nothing for 2^20 cycles, because none of its work fits, whatever other nodes reserve,
reserves its die, or every die when its affinity set has none (R324). -/
def execDieReservation (node : Nat) (s : State) : Host.Outcome State Fault Refusal :=
  onPart s (fun s =>
    match tget s.nodes node with
    | none => s
    | some n =>
      match waitingWid s node n with
      | none => s
      | some wid =>
        if mayPlace n && decide (2 ^ 20 ≤ s.cyc - n.waitFrom) && (placeFirst (unreserved s node) node n).isNone then
          s.setNode node { n with reserves := match setDie n wid with
            | some d => [d]
            | none => List.range Config.dies }
        else s)

/-- The wait of a node that has no work to place counts from the present cycle (R324). -/
def noteWaits (s : State) : State :=
  { s with nodes := s.nodes.map (fun e => if (waitingWid s e.1 e.2).isNone then (e.1, { e.2 with waitFrom := s.cyc }) else e) }


/-! ### Compaction (R322) -/

/-- A group is parked: every split waits at a park point, a join, a barrier or a reply, with no result in flight. -/
def groupParked (g : Group) : Bool :=
  g.rays.isEmpty && g.splits.all (fun e => e.2.inflight.isEmpty &&
    (e.2.stopped.isSome || (match e.2.wait with
      | .park _ | .held _ | .await _ | .join _ => true
      | _ => false)))

/-- Move blocks out of a window, each to the smallest free block outside it; none when one finds no place. -/
def moveBlocks (lo n : Nat) : List (Nat × Nat) → List (Nat × Nat) → Option (List (Nat × Nat))
  | _, [] => some []
  | blocks, b :: rest =>
    -- the window counts as taken
    match findBlock ((lo, n) :: blocks) b.2 with
    | none => none
    | some a => (moveBlocks lo n ((a, b.2) :: blocks) rest).map (fun l => (b.1, a) :: l)

/-- Blocks inside a window. -/
def inWindow (lo n : Nat) (b : Nat × Nat) : Bool := decide (lo ≤ b.1) && decide (b.1 + b.2 ≤ lo + n)

/-- The moves that open a window, if every block in it may move; `given` lists blocks set aside for other groups of the workgroup. -/
def windowMoves (s : State) (core pipe lo n : Nat) (given : List (Nat × Nat)) : Option (List (Nat × Nat)) :=
  let blocks := blocksOf s core pipe ++ given
  let inside := blocks.filter (fun b => !rangeFree [b] lo n)
  let parked := s.groups.all (fun (e : Nat × Group) => e.1 / 32 != core * 8 + pipe || !inWindow lo n (e.2.base, e.2.regs.length) || groupParked e.2)
  if inside.all (inWindow lo n) && parked && rangeFree given lo n then moveBlocks lo n (blocks.filter (fun b => !inWindow lo n b)) inside else none

/-- The window of a pipe that compaction opens for `allot` registers: the lowest one, where the pipe holds as many free registers and a
group slot. -/
def windowOf (s : State) (core pipe allot : Nat) (given : List (Nat × Nat)) : Option (List (Nat × Nat)) :=
  let blocks := blocksOf s core pipe ++ given
  if allot = 0 ∨ 512 < blocks.foldl (fun a b => a + b.2) 0 + allot ∨ 32 ≤ blocks.length then none
  else (List.range (512 / allot)).findSome? (fun i => windowMoves s core pipe (i * allot) allot given)

/-- Blocks of the groups of a workgroup, as far as they can be given; none when all can. -/
def blocksShort (s : State) (core allot : Nat) : Nat → List (Nat × Nat × Nat) → Option (List (Nat × Nat × Nat))
  | 0, _ => none
  | k + 1, more =>
    match choosePipe s core allot more with
    | none => some more
    | some (p, a) => blocksShort s core allot k (more ++ [(p, a, allot)])

/-- The part with those workgroups of a cooperative node placed that find a place (R325). -/
def placedPart (node : Nat) : Nat → State → State
  | 0, s => s
  | k + 1, s =>
    match tget s.nodes node with
    | none => s
    | some n =>
      if totalWorkgroups n ≤ n.next then s
      else
        match placeNext s node n with
        | some t => placedPart node k t
        | none => s

/-- The part with those of some saved workgroups restored that find a place, and the first that finds none. -/
def restoredPart : List Nat → State → State × Option Nat
  | [], s => (s, none)
  | id :: l, s =>
    match restoreOne s id with
    | some x => restoredPart l x.state
    | none => (s, some id)

/-- What of a node's next work finds no place: the part with what goes with it placed, and the saved workgroup, if it is one (R325). -/
def stuckWork (s : State) (node : Nat) (n : Node) (work : Work) : State × Option SavedWg :=
  match work with
  | .saved _ =>
    let (t, id) := restoredPart (savedSet s node n) s
    (t, id.bind (fun i => tget t.saved i))
  | _ => (if n.desc.coop && n.next == 0 then placedPart node (totalWorkgroups n) s else s, none)

/-- The unplaced work of the pool that fits nowhere: the part with the work placed that goes with it, what each piece asks, and its cores
(R319, R51). -/
def unplaced (s : State) : List (State × Want × List Nat) :=
  (readyOrder s).filterMap (fun e =>
    match nextWork s e.1 e.2 with
    | none => none
    | some (work, _) =>
      if (placeWork s e.1 e.2).isSome then none
      else
        let (t, saved) := stuckWork s e.1 e.2 work
        let n := (tget t.nodes e.1).getD e.2
        let w := match saved with
          | some v => savedWant n v
          | none => wantOf e.1 n
        let cores := candidateCores t e.1 n (match saved with
          | some v => v.wg.wid.toNat
          | none => nextWid n)
        some (t, w, if n.desc.pair then cores ++ cores.map (fun c => c + 1) else cores)) ++
  (readyOrder s).flatMap (fun e =>
    ((dueIndices s e.1 e.2).filter (fun i => (coreFor s e.1 e.2 (.composed i) 0 (wantOf e.1 e.2)).isNone)).map (fun _ =>
      (s, wantOf e.1 e.2, candidateCores s e.1 e.2 0)))

/-- On this core some unplaced group of `allot` registers fails to fit only for want of an aligned block (R322): the blocks that the other
groups of its workgroup take, and the part with what goes with it placed. -/
def wantsBlock (s : State) (core allot : Nat) : Option (State × List (Nat × Nat × Nat)) :=
  (unplaced s).findSome? (fun x =>
    let t := x.1
    let w := x.2.1
    if w.allot = allot ∧ x.2.2.contains core = true ∧ fitsRoom t core w = true ∧ granulesFor t core w ≤ (t.core core).scratchGranules then
      (blocksShort t core allot w.groups []).map (fun l => (t, l))
    else none)

/-- The pipe whose window compaction opens: fewest resident groups, then the lowest number, among those with a window (R321, R322). -/
def compactPipe (s : State) (core allot : Nat) (given : List (Nat × Nat × Nat)) : Option (Nat × List (Nat × Nat)) :=
  ((List.range Config.pipes).filterMap (fun p =>
    let own := (given.filter (fun m => m.1 == p)).map (fun m => m.2)
    (windowOf s core p allot own).map (fun w => ((blocksOf s core p).length + own.length, p, w)))).foldl
    (fun (b : Option (Nat × Nat × List (Nat × Nat))) x =>
      match b with
      | none => some x
      | some y => if x.1 < y.1 then some x else some y) none |>.map (fun x => x.2)

/-- COMPACTION: where a group of `allot` registers fails to fit a core only for want of an aligned block, the lowest window that parked
blocks can leave is opened on the pipe that R321 picks (R322). -/
def execCompaction (core pipe allot : Nat) (s : State) : Host.Outcome State Fault Refusal :=
  onPart s (fun s =>
    match (wantsBlock s core allot).bind (fun x => compactPipe x.1 core allot x.2) with
    | none => s
    | some (p, moves) =>
      if p != pipe then s
      else
        { s with groups := s.groups.map (fun e =>
            if e.1 / 32 = core * 8 + pipe then
              match moves.find? (fun m => m.1 == e.2.base) with
              | some m => (e.1, { e.2 with base := m.2 })
              | none => e
            else e) })
end Sys2Proof.Machine
end

