-- ==== Sys2Proof/Decode.lean ====
section
/-! DEFINITION. The decoder of scalar words, long forms, lane words and Xcmd words, total on any words and
answering the fault code of R75 and R89 for what is no instruction; the encoder; well-formedness; and the decoder on
the numbers of spec/opcode_table.json. The order of the checks is that of R90. -/

namespace Sys2Proof

/-- The register named by a six-bit field (R63). -/
def sreg (x : Nat) : SReg := Fin.ofNat 64 x

/-- The pair whose even register a six-bit field names (R61). -/
def pairOf (x : Nat) : Pair := Fin.ofNat 32 (x / 2)

/-- Reserved bits and reserved field values raise RESERVED_FIELD (R75). -/
def reservedUnless (ok : Bool) (k : Except FaultCode Instr) : Except FaultCode Instr :=
  if ok then k else .error .reservedField

/-- Fields that need an even register raise REG_RANGE when odd (R75). -/
def evenOnly (xs : List Nat) (k : Except FaultCode Instr) : Except FaultCode Instr :=
  if xs.all (fun x => x % 2 == 0) then k else .error .regRange

/-- Condition numbering of R67. -/
def Cond.ofField? : Nat → Option Cond
  | 0 => some .eq | 1 => some .ne | 2 => some .lt | 3 => some .ge | 4 => some .ltu | 5 => some .geu
  | _ => none

def Cond.field : Cond → Nat
  | .eq => 0 | .ne => 1 | .lt => 2 | .ge => 3 | .ltu => 4 | .geu => 5

/-- Special-register numbering of R92. -/
def SpecialReg.ofField? : Nat → Option SpecialReg
  | 0 => some .cyc | 1 => some .rck | 2 => some .lt | 3 => some .lease | 4 => some .ustat | 5 => some .fpstat
  | 6 => some .splitid | 7 => some .rptidx
  | _ => none

def SpecialReg.field : SpecialReg → Nat
  | .cyc => 0 | .rck => 1 | .lt => 2 | .lease => 3 | .ustat => 4 | .fpstat => 5 | .splitid => 6 | .rptidx => 7

/-- Copy directions of R279. -/
def CopyDir.ofField : Nat → CopyDir
  | 0 => .gs | 1 => .sg | 2 => .gg | _ => .ss

def CopyDir.field : CopyDir → Nat
  | .gs => 0 | .sg => 1 | .gg => 2 | .ss => 3

/-- Whether the destination of a copy is global, and whether its source is (R279). -/
def CopyDir.globalDst : CopyDir → Bool
  | .sg | .gg => true
  | _ => false

def CopyDir.globalSrc : CopyDir → Bool
  | .gs | .gg => true
  | _ => false

/-! ### Scalar words -/

/-- Major 0x00 (R66). -/
def decodeAlu32 (d a b f : Nat) : Except FaultCode Instr :=
  match f with
  | 0x0 => .ok (.sadd (sreg d) (sreg a) (sreg b))
  | 0x1 => .ok (.ssub (sreg d) (sreg a) (sreg b))
  | 0x2 => .ok (.sand (sreg d) (sreg a) (sreg b))
  | 0x3 => .ok (.sor (sreg d) (sreg a) (sreg b))
  | 0x4 => .ok (.sxor (sreg d) (sreg a) (sreg b))
  | 0x5 => .ok (.sandn (sreg d) (sreg a) (sreg b))
  | 0x6 => .ok (.ssll (sreg d) (sreg a) (sreg b))
  | 0x7 => .ok (.ssrl (sreg d) (sreg a) (sreg b))
  | 0x8 => .ok (.ssra (sreg d) (sreg a) (sreg b))
  | 0x9 => .ok (.smul (sreg d) (sreg a) (sreg b))
  | 0xa => .ok (.smulh (sreg d) (sreg a) (sreg b))
  | 0xb => .ok (.smulhu (sreg d) (sreg a) (sreg b))
  | 0xc => .ok (.sdiv (sreg d) (sreg a) (sreg b))
  | 0xd => .ok (.sdivu (sreg d) (sreg a) (sreg b))
  | 0xe => .ok (.srem (sreg d) (sreg a) (sreg b))
  | 0xf => .ok (.sremu (sreg d) (sreg a) (sreg b))
  | 0x10 => .ok (.smin (sreg d) (sreg a) (sreg b))
  | 0x11 => .ok (.smax (sreg d) (sreg a) (sreg b))
  | 0x12 => .ok (.sminu (sreg d) (sreg a) (sreg b))
  | 0x13 => .ok (.smaxu (sreg d) (sreg a) (sreg b))
  | 0x14 => reservedUnless (b == 0) (.ok (.sclz (sreg d) (sreg a)))
  | 0x15 => reservedUnless (b == 0) (.ok (.spop (sreg d) (sreg a)))
  | 0x16 => reservedUnless (b == 0) (.ok (.sbrev (sreg d) (sreg a)))
  | 0x17 => reservedUnless (b == 0) (.ok (.sctz (sreg d) (sreg a)))
  | _ => .error .illegalOpcode

/-- Major 0x01 (R66). -/
def decodeAlu64 (d a b f : Nat) : Except FaultCode Instr :=
  match f with
  | 0x0 => evenOnly [d, a, b] (.ok (.saddD (pairOf d) (pairOf a) (pairOf b)))
  | 0x1 => evenOnly [d, a, b] (.ok (.ssubD (pairOf d) (pairOf a) (pairOf b)))
  | 0x2 => evenOnly [d, a, b] (.ok (.sandD (pairOf d) (pairOf a) (pairOf b)))
  | 0x3 => evenOnly [d, a, b] (.ok (.sorD (pairOf d) (pairOf a) (pairOf b)))
  | 0x4 => evenOnly [d, a, b] (.ok (.sxorD (pairOf d) (pairOf a) (pairOf b)))
  | 0x5 => evenOnly [d, a, b] (.ok (.sandnD (pairOf d) (pairOf a) (pairOf b)))
  | 0x6 => evenOnly [d, a, b] (.ok (.ssllD (pairOf d) (pairOf a) (pairOf b)))
  | 0x7 => evenOnly [d, a, b] (.ok (.ssrlD (pairOf d) (pairOf a) (pairOf b)))
  | 0x8 => evenOnly [d, a, b] (.ok (.ssraD (pairOf d) (pairOf a) (pairOf b)))
  | 0x9 => evenOnly [d, a, b] (.ok (.smulD (pairOf d) (pairOf a) (pairOf b)))
  | 0xa => evenOnly [d, a, b] (.ok (.smulhD (pairOf d) (pairOf a) (pairOf b)))
  | 0xb => evenOnly [d, a, b] (.ok (.smulhuD (pairOf d) (pairOf a) (pairOf b)))
  | 0xc => evenOnly [d, a, b] (.ok (.sdivD (pairOf d) (pairOf a) (pairOf b)))
  | 0xd => evenOnly [d, a, b] (.ok (.sdivuD (pairOf d) (pairOf a) (pairOf b)))
  | 0xe => evenOnly [d, a, b] (.ok (.sremD (pairOf d) (pairOf a) (pairOf b)))
  | 0xf => evenOnly [d, a, b] (.ok (.sremuD (pairOf d) (pairOf a) (pairOf b)))
  | 0x10 => evenOnly [d, a, b] (.ok (.sminD (pairOf d) (pairOf a) (pairOf b)))
  | 0x11 => evenOnly [d, a, b] (.ok (.smaxD (pairOf d) (pairOf a) (pairOf b)))
  | 0x12 => evenOnly [d, a, b] (.ok (.sminuD (pairOf d) (pairOf a) (pairOf b)))
  | 0x13 => evenOnly [d, a, b] (.ok (.smaxuD (pairOf d) (pairOf a) (pairOf b)))
  | 0x14 => reservedUnless (b == 0) (evenOnly [d, a] (.ok (.sclzD (pairOf d) (pairOf a))))
  | 0x15 => reservedUnless (b == 0) (evenOnly [d, a] (.ok (.spopD (pairOf d) (pairOf a))))
  | 0x16 => reservedUnless (b == 0) (evenOnly [d, a] (.ok (.sbrevD (pairOf d) (pairOf a))))
  | 0x17 => reservedUnless (b == 0) (evenOnly [d, a] (.ok (.sctzD (pairOf d) (pairOf a))))
  | _ => .error .illegalOpcode

/-- Major 0x02 (R67). -/
def decodeCompare (d a b f : Nat) : Except FaultCode Instr :=
  match Cond.ofField? (f % 16) with
  | none => .error .reservedField
  | some c =>
    if f / 16 = 0 then .ok (.scc c (sreg d) (sreg a) (sreg b))
    else reservedUnless (f / 16 == 1) (evenOnly [a, b] (.ok (.sccD c (sreg d) (pairOf a) (pairOf b))))

/-- Major 0x03 (R68). -/
def decodeControl (d a b f : Nat) : Except FaultCode Instr :=
  match f with
  | 0x00 => reservedUnless (d == 0 && a == 0 && b == 0) (.ok .spark)
  | 0x01 => reservedUnless (d == 0 && a == 0 && b == 0) (.ok .sexit)
  | 0x02 => reservedUnless (d == 0 && a == 0 && b == 0) (.ok .sjoin)
  | 0x03 => reservedUnless (d == 0 && b == 0) (evenOnly [a] (.ok (.sret (pairOf a))))
  | 0x04 => reservedUnless (b == 0) (evenOnly [d, a] (.ok (.scalli (pairOf d) (pairOf a))))
  | 0x05 =>
    match SpecialReg.ofField? b with
    | none => .error .reservedField
    | some r => reservedUnless (a == 0) (evenOnly (if r = .cyc then [d] else []) (.ok (.sgetsr (sreg d) r)))
  | 0x06 =>
    match SpecialReg.ofField? d with
    | none => .error .reservedField
    | some r => reservedUnless (b == 0) (.ok (.ssetsr r (sreg a)))
  | 0x07 => reservedUnless (a == 0 && decide (b < 6)) (.ok (.swid (sreg d) (Fin.ofNat 6 b)))
  | 0x08 => reservedUnless (d == 0 && a == 0 && decide (b < 4)) (.ok (.sexecSet (Fin.ofNat 4 b)))
  | 0x09 => reservedUnless (d == 0 && a == 0 && decide (b < 4)) (.ok (.sexecAnd (Fin.ofNat 4 b)))
  | 0x0A => reservedUnless (d == 0 && a == 0 && decide (b < 4)) (.ok (.sexecAndn (Fin.ofNat 4 b)))
  | 0x0B => reservedUnless (a == 0 && decide (b / 16 < 3) && b / 4 % 4 == 0)
      (.ok (.sgetc (sreg d) (Fin.ofNat 4 b) (Fin.ofNat 3 (b / 16))))
  | 0x0C => reservedUnless (d == 0 && decide (b / 16 < 3) && b / 4 % 4 == 0)
      (.ok (.ssetc (Fin.ofNat 4 b) (Fin.ofNat 3 (b / 16)) (sreg a)))
  | 0x0D => reservedUnless (a == 0 && decide (b < 2)) (.ok (.sxgetF32 (sreg d) (Fin.ofNat 2 b)))
  | 0x0E => reservedUnless (a == 0 && decide (b < 2)) (.ok (.sxgetI32 (sreg d) (Fin.ofNat 2 b)))
  | 0x0F => reservedUnless (d == 0 && b == 0) (evenOnly [a] (.ok (.supwait (pairOf a))))
  | 0x10 => reservedUnless (a == 0 && decide (b < 8)) (evenOnly [d] (.ok (.sgetr (pairOf d) (Fin.ofNat 8 b))))
  | _ => .error .illegalOpcode

/-- Major 0x04 (R68). -/
def decodeBarrier (d a b f : Nat) : Except FaultCode Instr :=
  match f with
  | 0x00 => reservedUnless (d == 0 && a == 0 && b == 0) (.ok .sbar)
  | 0x01 => reservedUnless (d == 0) (.ok (.sbinit (sreg a) (sreg b)))
  | 0x02 => reservedUnless (d == 0 && b == 0) (.ok (.sbarrive (sreg a)))
  | 0x03 => reservedUnless (d == 0 && b == 0) (.ok (.sbwait (sreg a)))
  | 0x04 => reservedUnless (d == 0 && b == 0) (.ok (.sbfree (sreg a)))
  | 0x08 =>
    match Scope.ofField? (b % 8) with
    | none => .error .reservedField
    | some sc => reservedUnless (d == 0 && a == 0 && b / 8 % 2 == 0 && b / 16 != 0) (.ok (.sfence (Order.ofField (b / 16)) sc))
  | 0x09 => reservedUnless (d == 0 && a == 0 && b == 0) (.ok .gfenceRt)
  | _ => .error .illegalOpcode

/-- Short branches on the exec mask, major 0x20 (R69). -/
def decodeMaskBranch (w : Nat) : Except FaultCode Instr :=
  let off := BitVec.ofNat 22 w
  match bitsAt w 22 4 with
  | 0 => .ok (.sbr off)
  | 1 => .ok (.sbmz off)
  | 2 => .ok (.sbmnz off)
  | 3 => .ok (.sbmall off)
  | 4 => .ok (.sbmnall off)
  | _ => .error .reservedField

/-- The operation numbers of scalar atomics, 32-bit (R71). -/
def decodeAtomW (op : Nat) (d base q : Nat) (m : MemFields) : Except FaultCode Instr :=
  match op with
  | 0 => evenOnly [base] (.ok (.satomAddW (sreg d) (pairOf base) (sreg q) m))
  | 1 => evenOnly [base] (.ok (.satomAndW (sreg d) (pairOf base) (sreg q) m))
  | 2 => evenOnly [base] (.ok (.satomOrW (sreg d) (pairOf base) (sreg q) m))
  | 3 => evenOnly [base] (.ok (.satomXorW (sreg d) (pairOf base) (sreg q) m))
  | 4 => evenOnly [base] (.ok (.satomMinW (sreg d) (pairOf base) (sreg q) m))
  | 5 => evenOnly [base] (.ok (.satomMaxW (sreg d) (pairOf base) (sreg q) m))
  | 6 => evenOnly [base] (.ok (.satomMinuW (sreg d) (pairOf base) (sreg q) m))
  | 7 => evenOnly [base] (.ok (.satomMaxuW (sreg d) (pairOf base) (sreg q) m))
  | 8 => evenOnly [base] (.ok (.satomXchgW (sreg d) (pairOf base) (sreg q) m))
  | 9 => evenOnly [base, q] (.ok (.satomCasW (sreg d) (pairOf base) (pairOf q) m))
  | _ => evenOnly [base] (.ok (.satomFaddW (sreg d) (pairOf base) (sreg q) m))

/-- The operation numbers of scalar atomics, 64-bit (R71, R265). -/
def decodeAtomD (op : Nat) (d base q : Nat) (m : MemFields) : Except FaultCode Instr :=
  match op with
  | 0 => evenOnly [d, base] (.ok (.satomAddD (pairOf d) (pairOf base) (sreg q) m))
  | 1 => evenOnly [d, base] (.ok (.satomAndD (pairOf d) (pairOf base) (sreg q) m))
  | 2 => evenOnly [d, base] (.ok (.satomOrD (pairOf d) (pairOf base) (sreg q) m))
  | 3 => evenOnly [d, base] (.ok (.satomXorD (pairOf d) (pairOf base) (sreg q) m))
  | 4 => evenOnly [d, base] (.ok (.satomMinD (pairOf d) (pairOf base) (sreg q) m))
  | 5 => evenOnly [d, base] (.ok (.satomMaxD (pairOf d) (pairOf base) (sreg q) m))
  | 6 => evenOnly [d, base] (.ok (.satomMinuD (pairOf d) (pairOf base) (sreg q) m))
  | 7 => evenOnly [d, base] (.ok (.satomMaxuD (pairOf d) (pairOf base) (sreg q) m))
  | 8 => evenOnly [d, base] (.ok (.satomXchgD (pairOf d) (pairOf base) (sreg q) m))
  | 9 => if q % 4 = 0 then evenOnly [d, base] (.ok (.satomCasD (pairOf d) (pairOf base) (Fin.ofNat 16 (q / 4)) m))
         else .error .regRange
  | _ => evenOnly [d, base] (.ok (.satomFaddD (pairOf d) (pairOf base) (sreg q) m))

/-- The kind of a scalar memory function (R263, R264). -/
def scalarMemKind (f : Nat) : MemKind :=
  if f = 0x22 ∨ f = 0x23 ∨ f = 0x28 ∨ f = 0x29 then .store else if f < 0x30 then .load else .atomic

/-- Scalar loads, stores and atomics of major 0x3E (R71, R264, R265): `x`, `y` and `z` are the three fields. -/
def decodeScalarMem (f x y z : Nat) (m : MemFields) : Except FaultCode Instr :=
  match f with
  | 0x20 => evenOnly [y] (.ok (.sldW (sreg x) (pairOf y) (sreg z) m))
  | 0x21 => evenOnly [x, y] (.ok (.sldD (pairOf x) (pairOf y) (sreg z) m))
  | 0x22 => evenOnly [y] (.ok (.sstW (sreg x) (pairOf y) (sreg z) m))
  | 0x23 => evenOnly [x, y] (.ok (.sstD (pairOf x) (pairOf y) (sreg z) m))
  | 0x24 => evenOnly [y] (.ok (.sldB (sreg x) (pairOf y) (sreg z) m))
  | 0x25 => evenOnly [y] (.ok (.sldBu (sreg x) (pairOf y) (sreg z) m))
  | 0x26 => evenOnly [y] (.ok (.sldH (sreg x) (pairOf y) (sreg z) m))
  | 0x27 => evenOnly [y] (.ok (.sldHu (sreg x) (pairOf y) (sreg z) m))
  | 0x28 => evenOnly [y] (.ok (.sstB (sreg x) (pairOf y) (sreg z) m))
  | 0x29 => evenOnly [y] (.ok (.sstH (sreg x) (pairOf y) (sreg z) m))
  | _ => if f < 0x40 then decodeAtomW (f - 0x30) x y z m else decodeAtomD (f - 0x40) x y z m

/-- The long branches on the exec mask (R69, R71). -/
def decodeLongMaskBranch (c : Nat) (so lo : BitVec 16) : Except FaultCode Instr :=
  match c with
  | 0 => .ok (.sbrLong so lo)
  | 1 => .ok (.sbmzLong so lo)
  | 2 => .ok (.sbmnzLong so lo)
  | 3 => .ok (.sbmallLong so lo)
  | 4 => .ok (.sbmnallLong so lo)
  | _ => .error .reservedField

/-- The long compare-branches (R71). -/
def decodeLongCompare (a b c : Nat) (so lo : BitVec 16) : Except FaultCode Instr :=
  match c with
  | 0 => .ok (.sbeqLong (sreg a) (sreg b) so lo)
  | 1 => .ok (.sbneLong (sreg a) (sreg b) so lo)
  | 2 => .ok (.sbltLong (sreg a) (sreg b) so lo)
  | 3 => .ok (.sbgeLong (sreg a) (sreg b) so lo)
  | 4 => .ok (.sbltuLong (sreg a) (sreg b) so lo)
  | 5 => .ok (.sbgeuLong (sreg a) (sreg b) so lo)
  | _ => .error .reservedField

/-- Major 0x3E: `f` is the function, `x`, `y`, `z` the three fields of [17:0], `r` the whole of [17:0], `lit` the
literal (R71, R72). -/
def decodeLongScalar (f x y z r lit : Nat) : Except FaultCode Instr :=
  let so := BitVec.ofNat 16 (bitsAt lit 16 16)
  let lo := BitVec.ofNat 16 lit
  match f with
  | 0x00 => reservedUnless (y == 0 && z == 0) (.ok (.sli (sreg x) (BitVec.ofNat 32 lit)))
  | 0x08 => if bitsAt r 14 4 < 5 then reservedUnless (bitsAt r 0 14 == 0) (decodeLongMaskBranch (bitsAt r 14 4) so lo)
            else .error .reservedField
  | 0x09 => reservedUnless (z % 8 == 0) (decodeLongCompare x y (z / 8) so lo)
  | 0x0A => reservedUnless (y == 0 && z == 0) (evenOnly [x] (.ok (.scall (pairOf x) so lo)))
  | 0x10 => .ok (.sbrv (Fin.ofNat 4 (bitsAt r 16 2)) (BitVec.ofNat 12 (bitsAt r 4 12))
      (BitVec.ofNat 12 (bitsAt r 0 4 * 256 + bitsAt lit 24 8)) (BitVec.ofNat 12 (bitsAt lit 12 12)) (BitVec.ofNat 12 lit))
  | 0x18 =>
    if bitsAt lit 31 1 = 1 then
      reservedUnless (bitsAt lit 16 15 == 0 && z == 0) (evenOnly [x, y] (.ok (.supcallWait (pairOf x) (pairOf y) lo)))
    else reservedUnless (bitsAt lit 16 15 == 0) (evenOnly [x, y] (.ok (.supcall (sreg z) (pairOf x) (pairOf y) lo)))
  | 0x50 => reservedUnless (y == 0 && z == 0 && bitsAt lit 7 17 == 0 && decide (bitsAt lit 0 7 < 96))
      (if bitsAt lit 24 8 < 128 then .ok (.sgetlImm (sreg x) (Fin.ofNat 128 (bitsAt lit 24 8)) (Fin.ofNat 96 (bitsAt lit 0 7)))
       else .error .reservedField)
  | 0x51 => reservedUnless (z == 0 && bitsAt lit 0 24 == 0)
      (if bitsAt lit 24 8 < 128 then .ok (.sgetlReg (sreg x) (Fin.ofNat 128 (bitsAt lit 24 8)) (sreg y))
       else .error .reservedField)
  | 0x58 =>
    reservedUnless (r == 0 && bitsAt lit 9 7 == 0 && bitsAt lit 6 2 == 0 && decide (bitsAt lit 0 6 ≤ 32)
        && (bitsAt lit 8 1 == 0 || bitsAt lit 24 8 == 0))
      (if bitsAt lit 24 8 < 128 ∧ bitsAt lit 16 8 < 128 then
         if bitsAt lit 8 1 = 1 then .ok (.scallxRet (Fin.ofNat 128 (bitsAt lit 16 8)) (Fin.ofNat 33 (bitsAt lit 0 6)))
         else .ok (.scallx (Fin.ofNat 128 (bitsAt lit 24 8)) (Fin.ofNat 128 (bitsAt lit 16 8)) (Fin.ofNat 33 (bitsAt lit 0 6)))
       else .error .reservedField)
  | _ =>
    if (0x20 ≤ f ∧ f ≤ 0x29) ∨ (0x30 ≤ f ∧ f ≤ 0x3A) ∨ (0x40 ≤ f ∧ f ≤ 0x4A) then
      match memFieldsOf lit with
      | none => .error .reservedField
      | some m => reservedUnless (m.globalOk (scalarMemKind f)) (decodeScalarMem f x y z m)
    else .error .illegalOpcode

/-- The common fields of a copy-engine literal (R278). -/
def copyFieldsOf (lit : Nat) (cls : Nat) : Option CopyFields :=
  match Scope.ofField? (bitsAt lit 24 3) with
  | none => none
  | some sc => if h : cls < 3 then some { code := Fin.ofNat 32 (bitsAt lit 27 5), scope := sc, cls := ⟨cls, h⟩ } else none

/-- Scopes of the remote commands (R284, R285). -/
def Scope.remote : Scope → Bool
  | .peer | .system => true
  | _ => false

/-- Major 0x3F (R73, R278, R304, R360). -/
def decodeLongCommand (f x y z lit : Nat) : Except FaultCode Instr :=
  match f with
  | 0x00 => reservedUnless (bitsAt lit 0 25 == 0) (.ok (.mma (sreg x) (sreg y) (sreg z) (Fin.ofNat 4 (bitsAt lit 30 2))
      (Fin.ofNat 4 (bitsAt lit 28 2)) (bitsAt lit 27 1 == 1) (bitsAt lit 26 1 == 1) (bitsAt lit 25 1 == 1)))
  | 0x01 => reservedUnless (bitsAt lit 0 25 == 0) (.ok (.mmaPair (sreg x) (sreg y) (sreg z) (Fin.ofNat 4 (bitsAt lit 30 2))
      (Fin.ofNat 4 (bitsAt lit 28 2)) (bitsAt lit 27 1 == 1) (bitsAt lit 26 1 == 1) (bitsAt lit 25 1 == 1)))
  | 0x02 => reservedUnless (x == 0 && lit == 0) (.ok (.mzero (sreg y) (sreg z)))
  | 0x03 => reservedUnless (y == 0 && bitsAt lit 0 31 == 0) (.ok (.mload (sreg x) (sreg z) (bitsAt lit 31 1 == 1)))
  | 0x04 => reservedUnless (y == 0 && bitsAt lit 0 28 == 0)
      (.ok (.mdrain (sreg x) (sreg z) (bitsAt lit 31 1 == 1) (Fin.ofNat 4 (bitsAt lit 29 2)) (bitsAt lit 28 1 == 1)))
  | 0x05 => reservedUnless (x == 0 && y == 0 && z == 0 && bitsAt lit 0 24 == 0)
      (if bitsAt lit 24 8 < 128 then .ok (.mgidx (Fin.ofNat 128 (bitsAt lit 24 8))) else .error .reservedField)
  | 0x10 =>
    match copyFieldsOf lit (bitsAt lit 19 2) with
    | none => .error .reservedField
    | some cf =>
      let dir := CopyDir.ofField (bitsAt lit 22 2)
      reservedUnless (bitsAt lit 21 1 == 0 && bitsAt lit 0 13 == 0)
        (evenOnly ([z, bitsAt lit 13 6] ++ (if dir.globalDst then [x] else []) ++ (if dir.globalSrc then [y] else []))
          (.ok (.xcopy dir (sreg x) (sreg y) (pairOf z) (pairOf (bitsAt lit 13 6)) cf)))
  | 0x11 =>
    match copyFieldsOf lit (bitsAt lit 19 2) with
    | none => .error .reservedField
    | some cf => reservedUnless (bitsAt lit 21 3 == 0 && bitsAt lit 0 19 == 0)
        (evenOnly [x] (.ok (.xdecomp (pairOf x) (sreg y) (sreg z) cf)))
  | 0x12 => reservedUnless (y == 0 && z == 0 && lit == 0) (.ok (.xseal (sreg x)))
  | 0x13 => reservedUnless (x == 0 && y == 0 && decide (z < 16) && lit == 0) (.ok (.xwait (Fin.ofNat 16 z)))
  | 0x14 =>
    match copyFieldsOf lit 0 with
    | none => .error .reservedField
    | some cf => reservedUnless (bitsAt lit 16 6 == 0 && decide (bitsAt lit 22 2 < 2) && cf.scope.remote)
        (evenOnly (if bitsAt lit 22 2 = 0 then [x, y] else [x])
          (.ok (.xput (pairOf x) (sreg y) (sreg z) (bitsAt lit 22 2 == 1) cf (BitVec.ofNat 16 lit))))
  | 0x15 =>
    match copyFieldsOf lit 0 with
    | none => .error .reservedField
    | some cf => reservedUnless (bitsAt lit 16 6 == 0 && decide (bitsAt lit 22 2 < 2) && cf.scope.remote)
        (evenOnly (if bitsAt lit 22 2 = 0 then [x, y] else [y])
          (.ok (.xget (sreg x) (pairOf y) (sreg z) (bitsAt lit 22 2 == 1) cf (BitVec.ofNat 16 lit))))
  | 0x16 =>
    match copyFieldsOf lit 0 with
    | none => .error .reservedField
    | some cf => reservedUnless (z == 0 && bitsAt lit 16 6 == 0 && decide (bitsAt lit 22 2 < 2) && cf.scope.remote)
        (evenOnly [x, y] (.ok (.xsig (pairOf x) (pairOf y) (bitsAt lit 22 2 == 1) cf (BitVec.ofNat 16 lit))))
  | 0x20 => reservedUnless (bitsAt lit 0 27 == 0) (.ok (.gemit (sreg x) (sreg y) (sreg z) (Fin.ofNat 32 (bitsAt lit 27 5))))
  | _ => .error .illegalOpcode

/-- The first scalar word is that of a long form (R63). -/
def isLong (w : Nat) : Bool := decide (62 ≤ bitsAt w 26 6)

/-- The scalar decoder: the word `w`, and the word after it as the literal of a long form (R63 to R75). -/
def decodeScalar (w lit : Nat) : Except FaultCode Instr :=
  let d := bitsAt w 20 6
  let a := bitsAt w 14 6
  let b := bitsAt w 8 6
  let imm := BitVec.ofNat 14 w
  match bitsAt w 26 6 with
  | 0x00 => decodeAlu32 d a b (bitsAt w 0 8)
  | 0x01 => decodeAlu64 d a b (bitsAt w 0 8)
  | 0x02 => decodeCompare d a b (bitsAt w 0 8)
  | 0x03 => decodeControl d a b (bitsAt w 0 8)
  | 0x04 => decodeBarrier d a b (bitsAt w 0 8)
  | 0x08 => .ok (.saddi (sreg d) (sreg a) imm)
  | 0x09 => .ok (.sandi (sreg d) (sreg a) imm)
  | 0x0A => .ok (.sori (sreg d) (sreg a) imm)
  | 0x0B => .ok (.sxori (sreg d) (sreg a) imm)
  | 0x0C => reservedUnless (bitsAt w 5 9 == 0) (.ok (.sslli (sreg d) (sreg a) (Fin.ofNat 32 (bitsAt w 0 5))))
  | 0x0D => reservedUnless (bitsAt w 5 9 == 0) (.ok (.ssrli (sreg d) (sreg a) (Fin.ofNat 32 (bitsAt w 0 5))))
  | 0x0E => reservedUnless (bitsAt w 5 9 == 0) (.ok (.ssrai (sreg d) (sreg a) (Fin.ofNat 32 (bitsAt w 0 5))))
  | 0x0F => reservedUnless (d == 0 && a == 0) (.ok (.slrep (Fin.ofNat 256 (bitsAt w 6 8)) (Fin.ofNat 64 (bitsAt w 0 6))))
  | 0x10 => evenOnly [d, a] (.ok (.saddiD (pairOf d) (pairOf a) imm))
  | 0x12 => reservedUnless (d == 0) (.ok (.stick (sreg a) imm))
  | 0x13 => reservedUnless (d == 0 && a == 0 && bitsAt w 8 6 == 0) (.ok (.strap (BitVec.ofNat 8 w)))
  | 0x18 => .ok (.sbeq (sreg d) (sreg a) imm)
  | 0x19 => .ok (.sbne (sreg d) (sreg a) imm)
  | 0x1A => .ok (.sblt (sreg d) (sreg a) imm)
  | 0x1B => .ok (.sbge (sreg d) (sreg a) imm)
  | 0x1C => .ok (.sbltu (sreg d) (sreg a) imm)
  | 0x1D => .ok (.sbgeu (sreg d) (sreg a) imm)
  | 0x20 => decodeMaskBranch w
  | 0x24 => reservedUnless (bitsAt w 1 17 == 0) (.ok (.slissue (Fin.ofNat 256 (bitsAt w 18 8)) (bitsAt w 0 1 == 1)))
  | 0x3E => decodeLongScalar (bitsAt w 18 8) (bitsAt w 12 6) (bitsAt w 6 6) (bitsAt w 0 6) (bitsAt w 0 18) lit
  | 0x3F => decodeLongCommand (bitsAt w 18 8) (bitsAt w 12 6) (bitsAt w 6 6) (bitsAt w 0 6) lit
  | _ => .error .illegalOpcode

/-! ### Lane words -/

/-- The instruction of a lane opcode (R88). -/
def laneInstr (op : Nat) (w : LaneWord) : Option Instr :=
  match op with
  | 0x01 => some (.vadd w)
  | 0x02 => some (.vsub w)
  | 0x03 => some (.vmul w)
  | 0x04 => some (.vmad w)
  | 0x05 => some (.vmin w)
  | 0x06 => some (.vmax w)
  | 0x07 => some (.vabs w)
  | 0x08 => some (.vneg w)
  | 0x09 => some (.vcmp w)
  | 0x0A => some (.vsel w)
  | 0x0B => some (.vscan w)
  | 0x10 => some (.vand w)
  | 0x11 => some (.vor w)
  | 0x12 => some (.vxor w)
  | 0x13 => some (.vnot w)
  | 0x14 => some (.vshl w)
  | 0x15 => some (.vshr w)
  | 0x16 => some (.vsra w)
  | 0x17 => some (.vmulhi w)
  | 0x18 => some (.vclz w)
  | 0x19 => some (.vpopc w)
  | 0x1A => some (.vbrev w)
  | 0x1B => some (.vbfe w)
  | 0x1C => some (.vbfi w)
  | 0x20 => some (.vdiv w)
  | 0x21 => some (.vsqrt w)
  | 0x22 => some (.vrcp w)
  | 0x23 => some (.vrsq w)
  | 0x24 => some (.vexp2 w)
  | 0x25 => some (.vlog2 w)
  | 0x26 => some (.vsin w)
  | 0x27 => some (.vcos w)
  | 0x28 => some (.vround w)
  | 0x29 => some (.vfract w)
  | 0x2A => some (.vclass w)
  | 0x2B => some (.vdot2 w)
  | 0x2C => some (.vldexp w)
  | 0x30 => some (.vcvt w)
  | 0x31 => some (.vtag w)
  | 0x32 => some (.vgettag w)
  | 0x38 => some (.vmov w)
  | 0x39 => some (.vli w)
  | 0x3A => some (.vlane w)
  | 0x3B => some (.vmovc w)
  | 0x40 => some (.vxch w)
  | 0x41 => some (.vperm w)
  | 0x42 => some (.vrot w)
  | 0x43 => some (.vbcast w)
  | 0x44 => some (.vred w)
  | 0x45 => some (.vballot w)
  | 0x48 => some (.vcand w)
  | 0x49 => some (.vcor w)
  | 0x4A => some (.vcxor w)
  | 0x4B => some (.vcnot w)
  | 0x4C => some (.vcmov w)
  | 0x50 => some (.vxadd w)
  | 0x51 => some (.vxget w)
  | 0x52 => some (.vxclr w)
  | 0x60 => some (.vld w)
  | 0x61 => some (.vst w)
  | 0x62 => some (.vatom w)
  | 0x63 => some (.vatomn w)
  | 0x64 => some (.vlds w)
  | 0x65 => some (.vsts w)
  | 0x70 => some (.vtex w)
  | 0x71 => some (.vtexld w)
  | 0x72 => some (.vhgrid w)
  | 0x73 => some (.vhgsc w)
  | 0x74 => some (.vtrace w)
  | 0x75 => some (.vmbox w)
  | 0x76 => some (.vrtw w)
  | 0x77 => some (.vvis w)
  | 0x78 => some (.vordb w)
  | 0x79 => some (.vorde w)
  | 0x7A => some (.vqswap w)
  | _ => none

/-- The opcode and fields of a lane instruction (R88); none for the others. -/
def laneParts : Instr → Option (Nat × LaneWord)
  | .vadd w => some (0x01, w)
  | .vsub w => some (0x02, w)
  | .vmul w => some (0x03, w)
  | .vmad w => some (0x04, w)
  | .vmin w => some (0x05, w)
  | .vmax w => some (0x06, w)
  | .vabs w => some (0x07, w)
  | .vneg w => some (0x08, w)
  | .vcmp w => some (0x09, w)
  | .vsel w => some (0x0A, w)
  | .vscan w => some (0x0B, w)
  | .vand w => some (0x10, w)
  | .vor w => some (0x11, w)
  | .vxor w => some (0x12, w)
  | .vnot w => some (0x13, w)
  | .vshl w => some (0x14, w)
  | .vshr w => some (0x15, w)
  | .vsra w => some (0x16, w)
  | .vmulhi w => some (0x17, w)
  | .vclz w => some (0x18, w)
  | .vpopc w => some (0x19, w)
  | .vbrev w => some (0x1A, w)
  | .vbfe w => some (0x1B, w)
  | .vbfi w => some (0x1C, w)
  | .vdiv w => some (0x20, w)
  | .vsqrt w => some (0x21, w)
  | .vrcp w => some (0x22, w)
  | .vrsq w => some (0x23, w)
  | .vexp2 w => some (0x24, w)
  | .vlog2 w => some (0x25, w)
  | .vsin w => some (0x26, w)
  | .vcos w => some (0x27, w)
  | .vround w => some (0x28, w)
  | .vfract w => some (0x29, w)
  | .vclass w => some (0x2A, w)
  | .vdot2 w => some (0x2B, w)
  | .vldexp w => some (0x2C, w)
  | .vcvt w => some (0x30, w)
  | .vtag w => some (0x31, w)
  | .vgettag w => some (0x32, w)
  | .vmov w => some (0x38, w)
  | .vli w => some (0x39, w)
  | .vlane w => some (0x3A, w)
  | .vmovc w => some (0x3B, w)
  | .vxch w => some (0x40, w)
  | .vperm w => some (0x41, w)
  | .vrot w => some (0x42, w)
  | .vbcast w => some (0x43, w)
  | .vred w => some (0x44, w)
  | .vballot w => some (0x45, w)
  | .vcand w => some (0x48, w)
  | .vcor w => some (0x49, w)
  | .vcxor w => some (0x4A, w)
  | .vcnot w => some (0x4B, w)
  | .vcmov w => some (0x4C, w)
  | .vxadd w => some (0x50, w)
  | .vxget w => some (0x51, w)
  | .vxclr w => some (0x52, w)
  | .vld w => some (0x60, w)
  | .vst w => some (0x61, w)
  | .vatom w => some (0x62, w)
  | .vatomn w => some (0x63, w)
  | .vlds w => some (0x64, w)
  | .vsts w => some (0x65, w)
  | .vtex w => some (0x70, w)
  | .vtexld w => some (0x71, w)
  | .vhgrid w => some (0x72, w)
  | .vhgsc w => some (0x73, w)
  | .vtrace w => some (0x74, w)
  | .vmbox w => some (0x75, w)
  | .vrtw w => some (0x76, w)
  | .vvis w => some (0x77, w)
  | .vordb w => some (0x78, w)
  | .vorde w => some (0x79, w)
  | .vqswap w => some (0x7A, w)
  | _ => none

/-- The predicate field (R81); none where reserved. -/
def predOf (x : Nat) : Option (Option (Bool × Fin 4)) :=
  if x = 0 then some none
  else if 1 ≤ x % 8 ∧ x % 8 ≤ 4 then some (some (x / 8 == 1, Fin.ofNat 4 (x % 8 - 1)))
  else none

/-- The number of a predicate field (R81). -/
def predField : Option (Bool × Fin 4) → Nat
  | none => 0
  | some (neg, n) => (if neg then 8 else 0) + n.val + 1

/-- The fields of a lane word (R76), given its predicate. -/
def laneWordOf (w0 w1 w2 : Nat) (pred : Option (Bool × Fin 4)) : LaneWord :=
  { vd := Opnd.ofNat (bitsAt w0 16 8), va := Opnd.ofNat (bitsAt w0 8 8), vb := Opnd.ofNat (bitsAt w0 0 8),
    vc := Opnd.ofNat (bitsAt w1 24 8), pred := pred, hold := Fin.ofNat 8 (bitsAt w1 17 3), p := bitsAt w1 16 1 == 1,
    sub := Fin.ofNat 16 (bitsAt w1 12 4), mods := Fin.ofNat 16 (bitsAt w1 8 4), ovr := Fin.ofNat 16 (bitsAt w1 4 4),
    rnd := Fin.ofNat 4 (bitsAt w1 2 2), sat := bitsAt w1 1 1 == 1, w2 := BitVec.ofNat 32 w2 }

/-- The lane decoder (R76 to R90): unassigned opcodes first, then reserved fields. -/
def decodeLane (w0 w1 w2 : Nat) : Except FaultCode Instr :=
  let op := bitsAt w0 24 8
  match laneInstr op (laneWordOf w0 w1 w2 none) with
  | none => .error .illegalOpcode
  | some _ =>
    match predOf (bitsAt w1 20 4) with
    | none => .error .reservedField
    | some pred =>
      let w := laneWordOf w0 w1 w2 pred
      if bitsAt w1 0 1 = 0 ∧ laneLegal op w = true then
        match laneInstr op w with
        | some i => .ok i
        | none => .error .illegalOpcode
      else .error .reservedField

/-! ### Xcmd words -/

/-- The Xcmd instructions (R407): opcode custom-0, funct7 zero. -/
def decodeXcmd (w : Nat) : Option Instr :=
  let rd := Fin.ofNat 32 (bitsAt w 7 5)
  let rs1 := Fin.ofNat 32 (bitsAt w 15 5)
  let rs2 := Fin.ofNat 32 (bitsAt w 20 5)
  if bitsAt w 0 7 = 0x0B ∧ bitsAt w 25 7 = 0 then
    match bitsAt w 12 3 with
    | 0 => some (.cxRfetch rd rs1 rs2)
    | 1 => some (.cxBfext rd rs1 rs2)
    | 2 => some (.cxSwait rd rs1 rs2)
    | 3 => some (.cxDisp rd rs1 rs2)
    | 4 => some (.cxGuilt rd rs1 rs2)
    | _ => none
  else none

/-! ### The encoder -/

/-- An SR word (R63). -/
def srWord (major d a b f : Nat) : Nat := major * 2 ^ 26 + d * 2 ^ 20 + a * 2 ^ 14 + b * 2 ^ 8 + f

/-- An SI word (R63). -/
def siWord (major d a imm : Nat) : Nat := major * 2 ^ 26 + d * 2 ^ 20 + a * 2 ^ 14 + imm

/-- The first word of a long form (R63), with three six-bit fields. -/
def longWord (major f x y z : Nat) : Nat := major * 2 ^ 26 + f * 2 ^ 18 + x * 2 ^ 12 + y * 2 ^ 6 + z

/-- The literal of a long branch (R71). -/
def offsets (so lo : BitVec 16) : Nat := so.toNat * 2 ^ 16 + lo.toNat

/-- The literal of a copy-engine command (R278): [23:22] and the bits below. -/
def copyLit (f : CopyFields) (sel rest : Nat) : Nat := f.code.val * 2 ^ 27 + f.scope.field * 2 ^ 24 + sel * 2 ^ 22 + rest

/-- The literal of an mma (R304). -/
def mmaLit (pa pb : Fin 4) (acc sat g : Bool) : Nat :=
  pa.val * 2 ^ 30 + pb.val * 2 ^ 28 + acc.toNat * 2 ^ 27 + sat.toNat * 2 ^ 26 + g.toNat * 2 ^ 25

/-- The three words of a lane instruction (R76). -/
def encodeLane (op : Nat) (w : LaneWord) : List Nat :=
  [op * 2 ^ 24 + w.vd.toNat * 2 ^ 16 + w.va.toNat * 2 ^ 8 + w.vb.toNat,
   w.vc.toNat * 2 ^ 24 + predField w.pred * 2 ^ 20 + w.hold.val * 2 ^ 17 + w.p.toNat * 2 ^ 16 + w.sub.val * 2 ^ 12
     + w.mods.val * 2 ^ 8 + w.ovr.val * 2 ^ 4 + w.rnd.val * 2 ^ 2 + w.sat.toNat * 2,
   w.w2.toNat]

/-- An Xcmd word (R407). -/
def cxWord (f : Nat) (rd rs1 rs2 : Fin 32) : Nat :=
  rs2.val * 2 ^ 20 + rs1.val * 2 ^ 15 + f * 2 ^ 12 + rd.val * 2 ^ 7 + 0x0B

/-- The words of an instruction, from the encoding tables (R63 to R88, R278, R304, R360, R407); none for the steps of
the part that no word encodes. -/
def encode : Instr → List Nat
  | .sadd d a b => [srWord 0x00 d.val a.val b.val 0x0]
  | .ssub d a b => [srWord 0x00 d.val a.val b.val 0x1]
  | .sand d a b => [srWord 0x00 d.val a.val b.val 0x2]
  | .sor d a b => [srWord 0x00 d.val a.val b.val 0x3]
  | .sxor d a b => [srWord 0x00 d.val a.val b.val 0x4]
  | .sandn d a b => [srWord 0x00 d.val a.val b.val 0x5]
  | .ssll d a b => [srWord 0x00 d.val a.val b.val 0x6]
  | .ssrl d a b => [srWord 0x00 d.val a.val b.val 0x7]
  | .ssra d a b => [srWord 0x00 d.val a.val b.val 0x8]
  | .smul d a b => [srWord 0x00 d.val a.val b.val 0x9]
  | .smulh d a b => [srWord 0x00 d.val a.val b.val 0xa]
  | .smulhu d a b => [srWord 0x00 d.val a.val b.val 0xb]
  | .sdiv d a b => [srWord 0x00 d.val a.val b.val 0xc]
  | .sdivu d a b => [srWord 0x00 d.val a.val b.val 0xd]
  | .srem d a b => [srWord 0x00 d.val a.val b.val 0xe]
  | .sremu d a b => [srWord 0x00 d.val a.val b.val 0xf]
  | .smin d a b => [srWord 0x00 d.val a.val b.val 0x10]
  | .smax d a b => [srWord 0x00 d.val a.val b.val 0x11]
  | .sminu d a b => [srWord 0x00 d.val a.val b.val 0x12]
  | .smaxu d a b => [srWord 0x00 d.val a.val b.val 0x13]
  | .sclz d a => [srWord 0x00 d.val a.val 0 0x14]
  | .spop d a => [srWord 0x00 d.val a.val 0 0x15]
  | .sbrev d a => [srWord 0x00 d.val a.val 0 0x16]
  | .sctz d a => [srWord 0x00 d.val a.val 0 0x17]
  | .saddD d a b => [srWord 0x01 (2 * d.val) (2 * a.val) (2 * b.val) 0x0]
  | .ssubD d a b => [srWord 0x01 (2 * d.val) (2 * a.val) (2 * b.val) 0x1]
  | .sandD d a b => [srWord 0x01 (2 * d.val) (2 * a.val) (2 * b.val) 0x2]
  | .sorD d a b => [srWord 0x01 (2 * d.val) (2 * a.val) (2 * b.val) 0x3]
  | .sxorD d a b => [srWord 0x01 (2 * d.val) (2 * a.val) (2 * b.val) 0x4]
  | .sandnD d a b => [srWord 0x01 (2 * d.val) (2 * a.val) (2 * b.val) 0x5]
  | .ssllD d a b => [srWord 0x01 (2 * d.val) (2 * a.val) (2 * b.val) 0x6]
  | .ssrlD d a b => [srWord 0x01 (2 * d.val) (2 * a.val) (2 * b.val) 0x7]
  | .ssraD d a b => [srWord 0x01 (2 * d.val) (2 * a.val) (2 * b.val) 0x8]
  | .smulD d a b => [srWord 0x01 (2 * d.val) (2 * a.val) (2 * b.val) 0x9]
  | .smulhD d a b => [srWord 0x01 (2 * d.val) (2 * a.val) (2 * b.val) 0xa]
  | .smulhuD d a b => [srWord 0x01 (2 * d.val) (2 * a.val) (2 * b.val) 0xb]
  | .sdivD d a b => [srWord 0x01 (2 * d.val) (2 * a.val) (2 * b.val) 0xc]
  | .sdivuD d a b => [srWord 0x01 (2 * d.val) (2 * a.val) (2 * b.val) 0xd]
  | .sremD d a b => [srWord 0x01 (2 * d.val) (2 * a.val) (2 * b.val) 0xe]
  | .sremuD d a b => [srWord 0x01 (2 * d.val) (2 * a.val) (2 * b.val) 0xf]
  | .sminD d a b => [srWord 0x01 (2 * d.val) (2 * a.val) (2 * b.val) 0x10]
  | .smaxD d a b => [srWord 0x01 (2 * d.val) (2 * a.val) (2 * b.val) 0x11]
  | .sminuD d a b => [srWord 0x01 (2 * d.val) (2 * a.val) (2 * b.val) 0x12]
  | .smaxuD d a b => [srWord 0x01 (2 * d.val) (2 * a.val) (2 * b.val) 0x13]
  | .sclzD d a => [srWord 0x01 (2 * d.val) (2 * a.val) 0 0x14]
  | .spopD d a => [srWord 0x01 (2 * d.val) (2 * a.val) 0 0x15]
  | .sbrevD d a => [srWord 0x01 (2 * d.val) (2 * a.val) 0 0x16]
  | .sctzD d a => [srWord 0x01 (2 * d.val) (2 * a.val) 0 0x17]
  | .scc c d a b => [srWord 0x02 d.val a.val b.val c.field]
  | .sccD c d a b => [srWord 0x02 d.val (2 * a.val) (2 * b.val) (16 + c.field)]
  | .spark => [srWord 0x03 0 0 0 0x00]
  | .sexit => [srWord 0x03 0 0 0 0x01]
  | .sjoin => [srWord 0x03 0 0 0 0x02]
  | .sret a => [srWord 0x03 0 (2 * a.val) 0 0x03]
  | .scalli d a => [srWord 0x03 (2 * d.val) (2 * a.val) 0 0x04]
  | .sgetsr d r => [srWord 0x03 d.val 0 r.field 0x05]
  | .ssetsr r a => [srWord 0x03 r.field a.val 0 0x06]
  | .swid d k => [srWord 0x03 d.val 0 k.val 0x07]
  | .sexecSet n => [srWord 0x03 0 0 n.val 0x08]
  | .sexecAnd n => [srWord 0x03 0 0 n.val 0x09]
  | .sexecAndn n => [srWord 0x03 0 0 n.val 0x0A]
  | .sgetc d n beat => [srWord 0x03 d.val 0 (beat.val * 16 + n.val) 0x0B]
  | .ssetc n beat a => [srWord 0x03 0 a.val (beat.val * 16 + n.val) 0x0C]
  | .sxgetF32 d n => [srWord 0x03 d.val 0 n.val 0x0D]
  | .sxgetI32 d n => [srWord 0x03 d.val 0 n.val 0x0E]
  | .supwait a => [srWord 0x03 0 (2 * a.val) 0 0x0F]
  | .sgetr d k => [srWord 0x03 (2 * d.val) 0 k.val 0x10]
  | .sbar => [srWord 0x04 0 0 0 0x00]
  | .sbinit a b => [srWord 0x04 0 a.val b.val 0x01]
  | .sbarrive a => [srWord 0x04 0 a.val 0 0x02]
  | .sbwait a => [srWord 0x04 0 a.val 0 0x03]
  | .sbfree a => [srWord 0x04 0 a.val 0 0x04]
  | .sfence o sc => [srWord 0x04 0 0 (o.field * 16 + sc.field) 0x08]
  | .gfenceRt => [srWord 0x04 0 0 0 0x09]
  | .saddi d a i => [siWord 0x08 d.val a.val i.toNat]
  | .sandi d a i => [siWord 0x09 d.val a.val i.toNat]
  | .sori d a i => [siWord 0x0A d.val a.val i.toNat]
  | .sxori d a i => [siWord 0x0B d.val a.val i.toNat]
  | .sslli d a n => [siWord 0x0C d.val a.val n.val]
  | .ssrli d a n => [siWord 0x0D d.val a.val n.val]
  | .ssrai d a n => [siWord 0x0E d.val a.val n.val]
  | .slrep c st => [siWord 0x0F 0 0 (c.val * 64 + st.val)]
  | .saddiD d a i => [siWord 0x10 (2 * d.val) (2 * a.val) i.toNat]
  | .stick a i => [siWord 0x12 0 a.val i.toNat]
  | .strap c => [siWord 0x13 0 0 c.toNat]
  | .sbeq a b off => [siWord 0x18 a.val b.val off.toNat]
  | .sbne a b off => [siWord 0x19 a.val b.val off.toNat]
  | .sblt a b off => [siWord 0x1a a.val b.val off.toNat]
  | .sbge a b off => [siWord 0x1b a.val b.val off.toNat]
  | .sbltu a b off => [siWord 0x1c a.val b.val off.toNat]
  | .sbgeu a b off => [siWord 0x1d a.val b.val off.toNat]
  | .sbr off => [0x20 * 2 ^ 26 + 0 * 2 ^ 22 + off.toNat]
  | .sbmz off => [0x20 * 2 ^ 26 + 1 * 2 ^ 22 + off.toNat]
  | .sbmnz off => [0x20 * 2 ^ 26 + 2 * 2 ^ 22 + off.toNat]
  | .sbmall off => [0x20 * 2 ^ 26 + 3 * 2 ^ 22 + off.toNat]
  | .sbmnall off => [0x20 * 2 ^ 26 + 4 * 2 ^ 22 + off.toNat]
  | .slissue n pk => [0x24 * 2 ^ 26 + n.val * 2 ^ 18 + pk.toNat]
  | .sli d i => [longWord 0x3E 0x00 d.val 0 0, i.toNat]
  | .sbrLong so lo => [0x3E * 2 ^ 26 + 0x08 * 2 ^ 18 + 0 * 2 ^ 14, offsets so lo]
  | .sbmzLong so lo => [0x3E * 2 ^ 26 + 0x08 * 2 ^ 18 + 1 * 2 ^ 14, offsets so lo]
  | .sbmnzLong so lo => [0x3E * 2 ^ 26 + 0x08 * 2 ^ 18 + 2 * 2 ^ 14, offsets so lo]
  | .sbmallLong so lo => [0x3E * 2 ^ 26 + 0x08 * 2 ^ 18 + 3 * 2 ^ 14, offsets so lo]
  | .sbmnallLong so lo => [0x3E * 2 ^ 26 + 0x08 * 2 ^ 18 + 4 * 2 ^ 14, offsets so lo]
  | .sbeqLong a b so lo => [longWord 0x3E 0x09 a.val b.val 0, offsets so lo]
  | .sbneLong a b so lo => [longWord 0x3E 0x09 a.val b.val 8, offsets so lo]
  | .sbltLong a b so lo => [longWord 0x3E 0x09 a.val b.val 16, offsets so lo]
  | .sbgeLong a b so lo => [longWord 0x3E 0x09 a.val b.val 24, offsets so lo]
  | .sbltuLong a b so lo => [longWord 0x3E 0x09 a.val b.val 32, offsets so lo]
  | .sbgeuLong a b so lo => [longWord 0x3E 0x09 a.val b.val 40, offsets so lo]
  | .scall d so lo => [longWord 0x3E 0x0A (2 * d.val) 0 0, offsets so lo]
  | .sbrv n jso jlo tso tlo =>
    [0x3E * 2 ^ 26 + 0x10 * 2 ^ 18 + n.val * 2 ^ 16 + jso.toNat * 2 ^ 4 + jlo.toNat / 256,
     jlo.toNat % 256 * 2 ^ 24 + tso.toNat * 2 ^ 12 + tlo.toNat]
  | .supcall d a b svc => [longWord 0x3E 0x18 (2 * a.val) (2 * b.val) d.val, svc.toNat]
  | .supcallWait a b svc => [longWord 0x3E 0x18 (2 * a.val) (2 * b.val) 0, 2 ^ 31 + svc.toNat]
  | .sldW d b i m => [longWord 0x3E 0x20 d.val (2 * b.val) i.val, m.toWord]
  | .sldD d b i m => [longWord 0x3E 0x21 (2 * d.val) (2 * b.val) i.val, m.toWord]
  | .sstW d b i m => [longWord 0x3E 0x22 d.val (2 * b.val) i.val, m.toWord]
  | .sstD d b i m => [longWord 0x3E 0x23 (2 * d.val) (2 * b.val) i.val, m.toWord]
  | .sldB d b i m => [longWord 0x3E 0x24 d.val (2 * b.val) i.val, m.toWord]
  | .sldBu d b i m => [longWord 0x3E 0x25 d.val (2 * b.val) i.val, m.toWord]
  | .sldH d b i m => [longWord 0x3E 0x26 d.val (2 * b.val) i.val, m.toWord]
  | .sldHu d b i m => [longWord 0x3E 0x27 d.val (2 * b.val) i.val, m.toWord]
  | .sstB d b i m => [longWord 0x3E 0x28 d.val (2 * b.val) i.val, m.toWord]
  | .sstH d b i m => [longWord 0x3E 0x29 d.val (2 * b.val) i.val, m.toWord]
  | .satomAddW d b i m => [longWord 0x3E 0x30 d.val (2 * b.val) i.val, m.toWord]
  | .satomAndW d b i m => [longWord 0x3E 0x31 d.val (2 * b.val) i.val, m.toWord]
  | .satomOrW d b i m => [longWord 0x3E 0x32 d.val (2 * b.val) i.val, m.toWord]
  | .satomXorW d b i m => [longWord 0x3E 0x33 d.val (2 * b.val) i.val, m.toWord]
  | .satomMinW d b i m => [longWord 0x3E 0x34 d.val (2 * b.val) i.val, m.toWord]
  | .satomMaxW d b i m => [longWord 0x3E 0x35 d.val (2 * b.val) i.val, m.toWord]
  | .satomMinuW d b i m => [longWord 0x3E 0x36 d.val (2 * b.val) i.val, m.toWord]
  | .satomMaxuW d b i m => [longWord 0x3E 0x37 d.val (2 * b.val) i.val, m.toWord]
  | .satomXchgW d b i m => [longWord 0x3E 0x38 d.val (2 * b.val) i.val, m.toWord]
  | .satomCasW d b q m => [longWord 0x3E 0x39 d.val (2 * b.val) (2 * q.val), m.toWord]
  | .satomFaddW d b i m => [longWord 0x3E 0x3a d.val (2 * b.val) i.val, m.toWord]
  | .satomAddD d b i m => [longWord 0x3E 0x40 (2 * d.val) (2 * b.val) i.val, m.toWord]
  | .satomAndD d b i m => [longWord 0x3E 0x41 (2 * d.val) (2 * b.val) i.val, m.toWord]
  | .satomOrD d b i m => [longWord 0x3E 0x42 (2 * d.val) (2 * b.val) i.val, m.toWord]
  | .satomXorD d b i m => [longWord 0x3E 0x43 (2 * d.val) (2 * b.val) i.val, m.toWord]
  | .satomMinD d b i m => [longWord 0x3E 0x44 (2 * d.val) (2 * b.val) i.val, m.toWord]
  | .satomMaxD d b i m => [longWord 0x3E 0x45 (2 * d.val) (2 * b.val) i.val, m.toWord]
  | .satomMinuD d b i m => [longWord 0x3E 0x46 (2 * d.val) (2 * b.val) i.val, m.toWord]
  | .satomMaxuD d b i m => [longWord 0x3E 0x47 (2 * d.val) (2 * b.val) i.val, m.toWord]
  | .satomXchgD d b i m => [longWord 0x3E 0x48 (2 * d.val) (2 * b.val) i.val, m.toWord]
  | .satomCasD d b q m => [longWord 0x3E 0x49 (2 * d.val) (2 * b.val) (4 * q.val), m.toWord]
  | .satomFaddD d b i m => [longWord 0x3E 0x4a (2 * d.val) (2 * b.val) i.val, m.toWord]
  | .sgetlImm d va lane => [longWord 0x3E 0x50 d.val 0 0, va.val * 2 ^ 24 + lane.val]
  | .sgetlReg d va sb => [longWord 0x3E 0x51 d.val sb.val 0, va.val * 2 ^ 24]
  | .scallx va vb n => [longWord 0x3E 0x58 0 0 0, va.val * 2 ^ 24 + vb.val * 2 ^ 16 + n.val]
  | .scallxRet vb n => [longWord 0x3E 0x58 0 0 0, vb.val * 2 ^ 16 + 2 ^ 8 + n.val]
  | .mma a b t pa pb acc sat g => [longWord 0x3F 0x00 a.val b.val t.val, mmaLit pa pb acc sat g]
  | .mmaPair a b t pa pb acc sat g => [longWord 0x3F 0x01 a.val b.val t.val, mmaLit pa pb acc sat g]
  | .mzero c t => [longWord 0x3F 0x02 0 c.val t.val, 0]
  | .mload a t tr => [longWord 0x3F 0x03 a.val 0 t.val, tr.toNat * 2 ^ 31]
  | .mdrain a t tr rnd sat => [longWord 0x3F 0x04 a.val 0 t.val, tr.toNat * 2 ^ 31 + rnd.val * 2 ^ 29 + sat.toNat * 2 ^ 28]
  | .mgidx va => [longWord 0x3F 0x05 0 0 0, va.val * 2 ^ 24]
  | .xcopy dir d a n k f =>
    [longWord 0x3F 0x10 d.val a.val (2 * n.val), copyLit f dir.field (f.cls.val * 2 ^ 19 + 2 * k.val * 2 ^ 13)]
  | .xdecomp d fst c f => [longWord 0x3F 0x11 (2 * d.val) fst.val c.val, copyLit f 0 (f.cls.val * 2 ^ 19)]
  | .xseal d => [longWord 0x3F 0x12 d.val 0 0, 0]
  | .xwait n => [longWord 0x3F 0x13 0 0 n.val, 0]
  | .xput d a c sp f tag => [longWord 0x3F 0x14 (2 * d.val) a.val c.val, copyLit f sp.toNat tag.toNat]
  | .xget d a c sp f tag => [longWord 0x3F 0x15 d.val (2 * a.val) c.val, copyLit f sp.toNat tag.toNat]
  | .xsig d v st f tag => [longWord 0x3F 0x16 (2 * d.val) (2 * v.val) 0, copyLit f st.toNat tag.toNat]
  | .gemit a n q c => [longWord 0x3F 0x20 a.val n.val q.val, c.val * 2 ^ 27]
  | .vadd w => encodeLane 0x01 w
  | .vsub w => encodeLane 0x02 w
  | .vmul w => encodeLane 0x03 w
  | .vmad w => encodeLane 0x04 w
  | .vmin w => encodeLane 0x05 w
  | .vmax w => encodeLane 0x06 w
  | .vabs w => encodeLane 0x07 w
  | .vneg w => encodeLane 0x08 w
  | .vcmp w => encodeLane 0x09 w
  | .vsel w => encodeLane 0x0A w
  | .vscan w => encodeLane 0x0B w
  | .vand w => encodeLane 0x10 w
  | .vor w => encodeLane 0x11 w
  | .vxor w => encodeLane 0x12 w
  | .vnot w => encodeLane 0x13 w
  | .vshl w => encodeLane 0x14 w
  | .vshr w => encodeLane 0x15 w
  | .vsra w => encodeLane 0x16 w
  | .vmulhi w => encodeLane 0x17 w
  | .vclz w => encodeLane 0x18 w
  | .vpopc w => encodeLane 0x19 w
  | .vbrev w => encodeLane 0x1A w
  | .vbfe w => encodeLane 0x1B w
  | .vbfi w => encodeLane 0x1C w
  | .vdiv w => encodeLane 0x20 w
  | .vsqrt w => encodeLane 0x21 w
  | .vrcp w => encodeLane 0x22 w
  | .vrsq w => encodeLane 0x23 w
  | .vexp2 w => encodeLane 0x24 w
  | .vlog2 w => encodeLane 0x25 w
  | .vsin w => encodeLane 0x26 w
  | .vcos w => encodeLane 0x27 w
  | .vround w => encodeLane 0x28 w
  | .vfract w => encodeLane 0x29 w
  | .vclass w => encodeLane 0x2A w
  | .vdot2 w => encodeLane 0x2B w
  | .vldexp w => encodeLane 0x2C w
  | .vcvt w => encodeLane 0x30 w
  | .vtag w => encodeLane 0x31 w
  | .vgettag w => encodeLane 0x32 w
  | .vmov w => encodeLane 0x38 w
  | .vli w => encodeLane 0x39 w
  | .vlane w => encodeLane 0x3A w
  | .vmovc w => encodeLane 0x3B w
  | .vxch w => encodeLane 0x40 w
  | .vperm w => encodeLane 0x41 w
  | .vrot w => encodeLane 0x42 w
  | .vbcast w => encodeLane 0x43 w
  | .vred w => encodeLane 0x44 w
  | .vballot w => encodeLane 0x45 w
  | .vcand w => encodeLane 0x48 w
  | .vcor w => encodeLane 0x49 w
  | .vcxor w => encodeLane 0x4A w
  | .vcnot w => encodeLane 0x4B w
  | .vcmov w => encodeLane 0x4C w
  | .vxadd w => encodeLane 0x50 w
  | .vxget w => encodeLane 0x51 w
  | .vxclr w => encodeLane 0x52 w
  | .vld w => encodeLane 0x60 w
  | .vst w => encodeLane 0x61 w
  | .vatom w => encodeLane 0x62 w
  | .vatomn w => encodeLane 0x63 w
  | .vlds w => encodeLane 0x64 w
  | .vsts w => encodeLane 0x65 w
  | .vtex w => encodeLane 0x70 w
  | .vtexld w => encodeLane 0x71 w
  | .vhgrid w => encodeLane 0x72 w
  | .vhgsc w => encodeLane 0x73 w
  | .vtrace w => encodeLane 0x74 w
  | .vmbox w => encodeLane 0x75 w
  | .vrtw w => encodeLane 0x76 w
  | .vvis w => encodeLane 0x77 w
  | .vordb w => encodeLane 0x78 w
  | .vorde w => encodeLane 0x79 w
  | .vqswap w => encodeLane 0x7A w
  | .cxRfetch d a b => [cxWord 0 d a b]
  | .cxBfext d a b => [cxWord 1 d a b]
  | .cxSwait d a b => [cxWord 2 d a b]
  | .cxDisp d a b => [cxWord 3 d a b]
  | .cxGuilt d a b => [cxWord 4 d a b]
  | _ => []

/-! ### The fetch spaces -/

/-- The three instruction streams (R63, R76, R407). -/
inductive Stream where
  | scalar | lane | command
deriving DecidableEq, Repr

/-- The stream whose words encode an instruction; none for a step that no word encodes. -/
def streamOf (i : Instr) : Option Stream :=
  match i with
  | .cxRfetch _ _ _ | .cxBfext _ _ _ | .cxSwait _ _ _ | .cxDisp _ _ _ | .cxGuilt _ _ _ => some .command
  | i => if (laneParts i).isSome then some .lane else if (encode i).isEmpty then none else some .scalar

/-- The instruction that some words of a stream are, all of them taken (R63, R76, R407). -/
def decodeIn : Stream → List Nat → Option Instr
  | .scalar, [w] => if isLong w then none else (decodeScalar w 0).toOption
  | .scalar, [w, lit] => if isLong w then (decodeScalar w lit).toOption else none
  | .lane, [w0, w1, w2] => (decodeLane w0 w1 w2).toOption
  | .command, [w] => decodeXcmd w
  | _, _ => none

/-! ### The decoder on table words -/

/-- What the decoders answer for an instruction given as a number: bit 0 is bit 0 of the first word. Up to 32 bits
are a scalar word (with a literal of zero) or an Xcmd word; 64 bits a long form; 96 bits a lane word. The words that
belong to both spaces are read as Xcmd (log entry 5): the two live in different fetch spaces (R63, R407). -/
def decodeTableWord (nbits w : Nat) : Option Instr :=
  if nbits ≤ 32 then
    match decodeXcmd (w % 2 ^ 32) with
    | some i => some i
    | none => (decodeScalar (w % 2 ^ 32) 0).toOption
  else if nbits ≤ 64 then (decodeScalar (w % 2 ^ 32) (bitsAt w 32 32)).toOption
  else (decodeLane (w % 2 ^ 32) (bitsAt w 32 32) (bitsAt w 64 32)).toOption

end Sys2Proof
end

