-- ==== Sys2Proof/Machine/Fetch.lean ====
section
/-! DEFINITION. The fetch of instruction words (R61, R133, R219, R336 to R339) and what a word that is no instruction raises
(R75, R89, R90). -/

namespace Sys2Proof.Machine

/-! ### One word of code (R133) -/

/-- What the read of a 32-bit word of code finds. -/
inductive CodeWord where
  | word (w : Nat)
  | held                        -- the page is not present (R133, R336)
  | failed (code : FaultCode)   -- a precise fault at the fetch
deriving DecidableEq, Repr

/-- The code of an instruction fetch that the ranking of L2 lines sees: unspecified reuse (R87, log entry 8). -/
def fetchCode : Nat := 31

/-- Read a word of code at a virtual address for a split. Code fetches go to the L2, with no lease; the link engine carries those of the
remote region (R201, log entry 33). -/
def fetchWord (s : State) (w : Who) (va : DWord) : State × CodeWord :=
  if !canonical va then (s, .failed .permission)
  else if pageHeld s w.ref.core w.gkey (pageOf va) then (s, .held)
  else
    match translate s (some w.ref.core) w.ctx va .fetch with
    | (s, .error .pageNotPresent) => (s, .held)
    | (s, .error e) => (s, .failed e)
    | (s, .ok l) =>
      match regionOf l.pa with
      | .memory _ =>
        if s.poisonedAt l.pa 4 then (s, .failed .eccUncorrected)
        else
          let s := l2Request s l.pa l.key w.ctx fetchCode l.cls (cptOf s w)
          (s, .word (ofBytes (s.physRead l.key l.pa 4)))
      | .remote rank window _ =>
        match peerBytes s rank window l.pa 4 with
        | .error e => (s, .failed e)
        | .ok b => (s, .word (ofBytes b))
      | .control _ | .hole => (s, .failed .permission)

/-! ### The instruction at the PCs of a split -/

/-- What the fetch of the next instruction of a split finds. -/
inductive Fetched where
  | instr (i : Instr)
  | held (va : DWord)                                                -- the word at `va` waits in the galley
  | unfetched (code : FaultCode) (skip : Nat) (va : DWord)           -- a fault at the fetch of the word at `va`
  | notInstr (code : FaultCode) (skip : Nat) (lanes : LaneMask)      -- the word is no instruction (R75, R90)
deriving DecidableEq, Repr

/-- The word of `gemit`, `scallx` or `scallx.ret` in a node that may not use it: ILLEGAL_OPCODE goes before its fields (R90,
R146, R360). -/
def nodeForbids (n : Node) (w : Nat) : Bool :=
  (bitsAt w 18 14 == 0x3E * 256 + 0x58 && !n.desc.free) || (bitsAt w 18 14 == 0x3F * 256 + 0x20 && n.desc.gstage != 1)

/-- The opcode of a lane word in a node that may not use it: `vrtw`, `vordb` and `vorde` outside a pixel node (R90, R370,
R374). -/
def nodeForbidsLane (n : Node) (w0 : Nat) : Bool := [0x76, 0x78, 0x79].contains (bitsAt w0 24 8) && n.desc.gstage != 2

/-- The scalar word at the scalar PC, with its literal (R61, R63). DESIGN CHOICE (log entry 81): the literal of a long form is fetched
before its first word is looked at, so that a held or failed fetch of it comes before ILLEGAL_OPCODE; the spec orders the two nowhere. -/
def fetchScalar (s : State) (w : Who) (n : Node) (sp : Split) (mask : LaneMask) : State × Fetched :=
  let va := scalarVa n.desc sp.spc
  match fetchWord s w va with
  | (s, .held) => (s, .held va)
  | (s, .failed c) => (s, .unfetched c 1 va)
  | (s, .word x) =>
    let answer := fun (lit skip : Nat) =>
      if nodeForbids n x then Fetched.notInstr .illegalOpcode skip mask
      else
        match decodeScalar x lit with
        | .ok i => .instr i
        | .error c => .notInstr c skip mask
    if isLong x then
      let vb := scalarVa n.desc (sp.spc + 1)
      match fetchWord s w vb with
      | (s, .held) => (s, .held vb)
      | (s, .failed c) => (s, .unfetched c 2 vb)
      | (s, .word lit) => (s, answer lit 2)
    else (s, answer 0 1)

/-- Lanes that a RESERVED_FIELD of a lane word reports: those that pass its predicate, where that can be read (R345). -/
def reservedLanes (s : State) (g : Group) (mask : LaneMask) (w1 : Nat) : LaneMask :=
  match predOf (bitsAt w1 20 4) with
  | some p => mask &&& predMask s g p
  | none => mask

/-- The lane word at the lane PC, three words of code (R61, R76). -/
def fetchLane (s : State) (w : Who) (g : Group) (n : Node) (sp : Split) (mask : LaneMask) : State × Fetched :=
  let va := laneVa n.desc sp.lpc
  let part := fun (s : State) (k : Nat) => fetchWord s w (va + BitVec.ofNat 64 (4 * k))
  let bad := fun (s : State) (k : Nat) (x : CodeWord) =>
    match x with
    | .failed c => (s, Fetched.unfetched c 0 (va + BitVec.ofNat 64 (4 * k)))
    | _ => (s, .held (va + BitVec.ofNat 64 (4 * k)))
  match part s 0 with
  | (s, .word w0) =>
    match part s 1 with
    | (s, .word w1) =>
      match part s 2 with
      | (s, .word w2) =>
        if nodeForbidsLane n w0 then (s, .notInstr .illegalOpcode 0 mask)
        else
          match decodeLane w0 w1 w2 with
          | .ok i => (s, .instr i)
          | .error .illegalOpcode => (s, .notInstr .illegalOpcode 0 mask)
          | .error c => (s, .notInstr c 0 (reservedLanes s g mask w1))
      | (s, x) => bad s 2 x
    | (s, x) => bad s 1 x
  | (s, x) => bad s 0 x

/-- The next instruction of a split: a lane word while a run is in progress (R27), else a scalar word. The first fetch of a group whose
saved image was edited where it may not be faults (R354, log entry 17). -/
def fetchInstr (s : State) (r : SplitRef) (g : Group) (sp : Split) : State × Fetched :=
  match s.nodeOf g with
  | none => (s, .notInstr .illegalOpcode 1 0)
  | some n =>
    let w := whoOf s r g sp
    let mask := execMask s sp
    if g.edited then
      (s.modGroup r.gkey (fun g => { g with edited := false }),
       .unfetched .permission (if sp.run.isSome then 0 else 1) (if sp.run.isSome then laneVa n.desc sp.lpc else scalarVa n.desc sp.spc))
    else
      match sp.wait with
      | .stall (.failing skip va) => (s, .unfetched .pageNotPresent skip va)
      | _ => if sp.run.isSome then fetchLane s w g n sp mask else fetchScalar s w n sp mask

/-! ### What stands in the way of an instruction -/

/-- A fault at the fetch or the decoding of a word: of a run in progress, or of the scalar stream (R75, R89, R133). -/
def faultFetch (s : State) (r : SplitRef) (sp : Split) (code : FaultCode) (skip : Nat) (va : DWord) (lanes : LaneMask) : State :=
  if sp.run.isSome then faultLane s r sp code va lanes else faultScalar s r sp skip code 0 va

/-- A held fetch: an entry of the galley, and a split that is not ready until it is replayed (R133, R336). -/
def holdFetch (s : State) (r : SplitRef) (g : Group) (sp : Split) (va : DWord) : State :=
  galleyAdd (stallAt s r sp .fetch) r.core [(whoOf s r g sp).entry va .fetch false (execMask s sp)]

/-- The fault of a word that is no instruction: every earlier word of the split has completed its effect on registers first (R75). -/
def faultWord (s : State) (r : SplitRef) (sp : Split) (code : FaultCode) (skip : Nat) (lanes : LaneMask) : State :=
  if sp.inflight.isEmpty then faultFetch s r sp code skip 0 lanes else stallAt s r sp .results

/-- The fault of the fetch of a word: in the sense of R75 for a scalar word, whose split waits for its results first; of R89 for a lane
word, before which the words of the run have issued (R133). -/
def faultUnfetched (s : State) (r : SplitRef) (sp : Split) (code : FaultCode) (skip : Nat) (va : DWord) (lanes : LaneMask) : State :=
  if sp.run.isSome || sp.inflight.isEmpty then faultFetch s r sp code skip va lanes
  else
    match sp.wait with
    | .stall (.failing _ _) => s
    | _ => stallAt s r sp .results

/-- ILLEGAL_OPCODE of the word that is next: precise, taken before any effect of it (R75, R89). The length of a scalar word is
that of its major (R63). -/
def execIllegalOpcode (s : State) : Host.Outcome State Fault Refusal :=
  onSplit s (fun r g sp =>
    let skip :=
      match s.nodeOf g with
      | some n =>
        match (fetchWord s (whoOf s r g sp) (scalarVa n.desc sp.spc)).2 with
        | .word x => if isLong x then 2 else 1
        | _ => 1
      | none => 1
    faultWord s r sp .illegalOpcode skip (execMask s sp))

/-- What a split does whose next word was not an instruction. -/
def notFetched (s : State) (r : SplitRef) (g : Group) (sp : Split) (f : Fetched) : State :=
  match f with
  | .held va => holdFetch s r g sp va
  | .unfetched c skip va => faultUnfetched s r sp c skip va (execMask s sp)
  | .notInstr c skip lanes => faultWord s r sp c skip lanes
  | .instr _ => s

/-! ### The residue check of the integer vector paths (R413) -/

/-- The word is computed on an integer vector path: arithmetic and bit operations (opcodes below 0x50, log entry 41) whose format
is an integer one. -/
def onIntegerPath (x : LaneCtx) (op : Nat) : Bool :=
  decide (op < 0x50) &&
  (match x.ov with
   | some t => tagIsInt t
   | none =>
     match x.typed [x.w.va, x.w.vb, x.w.vc] with
     | t :: _ => tagIsInt t || !tagComputes t
     | [] => false)

/-- The word is computed on a float vector path, in a float format (log entry 41). -/
def onFloatPath (x : LaneCtx) (op : Nat) : Bool :=
  decide (op < 0x50) &&
  (match x.ov with
   | some t => tagComputes t && !tagIsInt t
   | none => (x.typed [x.w.va, x.w.vb, x.w.vc]).any (fun t => tagComputes t && !tagIsInt t))

/-- Words of a register that a failing float path has written, of the lanes that it corrupted (R413). -/
def corruptReg (s : State) (act : LaneMask) (k : Nat) (v : VReg) : VReg :=
  { v with data := Vector.ofFn (fun i : Fin 96 =>
      if act.getLsbD i.val && Config.freeBit s.fresh (96 * k + i.val + 1000) then (Config.freeWord s.fresh (96 * k + i.val + 1000)).lo
      else v.data[i.val]) }

/-- Between its onset and its detection a float-path fault may corrupt the results of its core's float vector words (R413). -/
def corruptFloat (s t : State) (r : SplitRef) (g : Group) (sp : Split) (i : Instr) : State :=
  if s.floatOnset.contains r.core then
    match laneParts i with
    | some (op, w) =>
      let x := laneCtx s r g sp w
      match onFloatPath x op, x.w.vd with
      | true, .v n =>
        t.modGroup r.gkey (fun g =>
          let wide := match g.regs[n.val]? with
            | some v => tagWide v.tag
            | none => false
          { g with regs := g.regs.zipIdx.map (fun e => if e.2 = n.val ∨ (wide = true ∧ e.2 = n.val + 1) then corruptReg s x.act e.2 e.1 else e.1) })
      | _, _ => t
    | none => t
  else t

/-- The scalar word reads registers or memory, and goes on to the next word (R65 to R71). -/
def straightWord (i : Instr) : Bool :=
  match encode i with
  | [w] => [0, 1, 2, 8, 9, 10, 11, 12, 13, 14, 16].contains (w / 2 ^ 26)
  | [w, _] => w / 2 ^ 26 == 0x3E && decide (0x20 ≤ w / 2 ^ 18 % 256) && decide (w / 2 ^ 18 % 256 < 0x58)
  | _ => false

/-- The word that is next reads a double-bit error of a register file or scratchpad, or its transfer fails on the network a second time: it
performs nothing, and ECC_UNCORRECTED is raised on its split at the next park point (R261, R332, R413). -/
def upsetWord (s : State) (r : SplitRef) (g : Group) (sp : Split) (i : Instr) : Option State :=
  match s.upsets.find? (fun e => e.1 == r) with
  | none => none
  | some e =>
    let t := { s with upsets := s.upsets.erase e, rasLog := if e.2 then s.rasLog ++ [RasEvent.network] else s.rasLog }
    let t := t.defer (whoOf s r g sp) .eccUncorrected 0 0 0 none
    match laneParts i, tget t.groups r.gkey, t.split r with
    | some (_, w), some g, some sp => some (retireLane t r g sp w.p)
    | none, some _, some sp => if straightWord i then some (t.setSplit r (retire t sp (encode i).length)) else none
    | _, _, _ => none

/-- The residue check of the word that is next fails, if one is due to: the fault that it takes (R332, R413). -/
def residueFault (s : State) (r : SplitRef) (g : Group) (sp : Split) (i : Instr) : Option State :=
  if s.residueFails.contains r then
    match laneParts i with
    | some (op, w) =>
      let x := laneCtx s r g sp w
      if onIntegerPath x op then
        some (faultLane { s with residueFails := s.residueFails.erase r } r sp .eccUncorrected 0 x.act)
      else none
    | none => none
  else none

end Sys2Proof.Machine
end

