-- ==== Sys2Proof/Machine/Matrix.lean ====
section
/-! DEFINITION. The matrix engine: operand formats and the brick sum rule (R109 to R111, R120 to R128), operand descriptors
(R290 to R295), the commands at issue (R304 to R310) and when performed (R297 to R303). -/

namespace Sys2Proof.Machine

/-! ### Formats (R291, R120, R121) -/

/-- Bits of an element of FMT. -/
def matBits (fmt : Nat) : Nat :=
  match fmt with
  | 0 | 1 | 4 => 8
  | 2 | 3 => 16
  | 5 | 6 => 4
  | _ => 32

/-- Brick digits of FMT (R120). -/
def matDigits (fmt : Nat) : Nat :=
  match fmt with
  | 6 => 1
  | 0 | 1 | 5 => 2
  | 2 | 4 => 4
  | _ => 8

/-- Digits that a precision field asks for (R121). -/
def precDigits (p : Nat) : Nat :=
  match p with
  | 1 => 4
  | 2 => 2
  | 3 => 1
  | _ => 8

/-- Working significand bits of a precision field (R121). -/
def precWidth (p : Nat) : Nat :=
  match p with
  | 1 => 8
  | 2 => 4
  | _ => 2

/-- A precision field narrows its operand (R121). -/
def narrows (p fmt : Nat) : Bool := p != 0 && decide (precDigits p < matDigits fmt)

/-- Digits in force (R121). -/
def digitsUsed (p fmt : Nat) : Nat := if narrows p fmt then precDigits p else matDigits fmt

/-- Step width of a pairing (R120, R286). -/
def stepWidth (pa fa pb fb : Nat) : Nat := 64 / (digitsUsed pa fa * digitsUsed pb fb)

def matFloat (fmt : Nat) : Bool := fmt == 0 || fmt == 1 || fmt == 2 || fmt == 3 || fmt == 6
def matInt (fmt : Nat) : Bool := fmt == 4 || fmt == 5

/-! ### Seeded sparsity (R126 to R128) -/

/-- Set bits of a byte. -/
def ones8 (x : Nat) : Nat := (List.range 8).foldl (fun a i => a + bitsAt x i 1) 0

/-- The masks of k-of-8, in ascending order (R127, R128). -/
def sparseMasks (k : Nat) : List Nat := (List.range 256).filter (fun x => ones8 x == k)

/-- The generator's hash (R126). -/
def sparseHash (seed : Word) (c g : Nat) : Word :=
  let x := seed + 0x632BE5AB * BitVec.ofNat 32 c + 0x85157AF5 * BitVec.ofNat 32 g
  let h := (x ^^^ (x >>> 16)) * 0x85EBCA6B
  let h := (h ^^^ (h >>> 13)) * 0xC2B2AE35
  h ^^^ (h >>> 16)

/-- The mask of group g of column c (R126). -/
def sparseMask (k : Nat) (seed : Word) (c g : Nat) : Nat :=
  let l := sparseMasks k
  l.getD ((sparseHash seed c g).toNat % l.length) 0

/-- Stored values in each group of eight: 8 when dense. -/
def MatDesc.kept (d : MatDesc) : Nat := if d.sparse = 1 then 4 else if d.sparse = 2 then 2 else 8

/-- The stored elements of a line: the logical k of each, in order (R126, R287, R292). -/
def MatDesc.logical (d : MatDesc) (c : Nat) : List Nat :=
  if d.sparse = 0 then List.range d.k
  else
    (List.range (d.k / 8)).flatMap (fun g =>
      let m := sparseMask d.kept d.seed c g
      ((List.range 8).filter (fun i => bitsAt m i 1 == 1)).map (fun i => 8 * g + i))

/-! ### Elements (R110, R111, R292) -/

/-- Stored element q of a line, as bits. -/
def MatDesc.raw (d : MatDesc) (m : Memory) (line q : Nat) : Nat :=
  let a := d.data + line * d.pitch
  let bits := matBits d.fmt
  if bits = 4 then bitsAt (m.read (a + q / 2)).toNat (4 * (q % 2)) 4 else ofBytes (m.readBytes (a + q * (bits / 8)) (bits / 8))

/-- The magnitude of an E2M1 code (R107, R108). -/
def e2m1Mag (c : Nat) : Q :=
  let e := bitsAt c 1 2
  let m := bitsAt c 0 1
  if e = 0 then ⟨m, 2⟩ else (Q.ofInt (2 + m : Nat)).scale ((e : Int) - 2)

/-- An element of an E2M1X block from its code and the block's scale and spare bytes (R111). -/
def e2m1xValue (c scale spare : Nat) : Num :=
  let k : Int := (scale : Int) - 127
  if scale = 255 then .nan false
  else if c = 8 then
    let e := bitsAt spare 1 5
    if e = 0 then .fin false ⟨0, 1⟩
    else .fin (bitsAt spare 6 1 == 1) ((Q.ofInt (2 + bitsAt spare 0 1 : Nat)).scale ((e : Int) - 16 + k))
  else .fin (bitsAt c 3 1 == 1) ((e2m1Mag c).scale k)

/-- Round a significand to w bits; the exponent range is extended (R121). -/
def narrowNum (w : Nat) (x : Num) : Num :=
  match x with
  | .fin neg q =>
    if q.isZero then x
    else
      let e := q.log2 - ((w : Int) - 1)
      .fin neg ((Q.ofInt (roundMag .rne neg (q.scale (-e)))).scale e)
  | _ => x

/-- The floating-point format of FMT 0 to 3. -/
def matFmt (fmt : Nat) : FloatFmt :=
  match fmt with
  | 0 => .e4m3
  | 1 => .e5m2
  | 2 => .bf16
  | 3 => .f16
  | _ => .f32

/-- The floating element q of a line whose logical place is k, after the precision field p (R110, R111, R121, R292). -/
def MatDesc.float (d : MatDesc) (m : Memory) (p line k q : Nat) : Num :=
  if d.fmt = 6 then
    let side := d.scale + line * d.spitch + 2 * (k / 32)
    e2m1xValue (d.raw m line q) (m.read side).toNat (m.read (side + 1)).toNat
  else
    let x := decodeFloat (matFmt d.fmt) (d.raw m line q)
    if narrows p d.fmt then narrowNum (precWidth p) x else x

/-- The integer element q of a line. -/
def MatDesc.int (d : MatDesc) (m : Memory) (line q : Nat) : Int :=
  if d.fmt = 4 then (BitVec.ofNat 8 (d.raw m line q)).toInt else (BitVec.ofNat 4 (d.raw m line q)).toInt

/-! ### Steps (R122, R123) -/

/-- One floating cell step: the running f32 value and a step's products (R122). -/
def floatStep (acc : Word) (products : List Num) : Word :=
  let terms := decodeFloat .f32 acc.toNat :: products
  if terms.any Num.isNan || (terms.any (fun t => t == .inf true) && terms.any (fun t => t == .inf false)) then
    BitVec.ofNat 32 FloatFmt.f32.nan
  else
    match terms.find? Num.isInf with
    | some t => BitVec.ofNat 32 (signBit .f32 t.isNeg + FloatFmt.f32.inf)
    | none =>
      match (terms.filter (fun t => !t.isZero)).map (fun t => t.toQ.abs.log2) with
      | [] => 0
      | e :: es =>
        let g := es.foldl max e - 50
        let sum := terms.foldl (fun (a : Int) t =>
          let n : Int := (t.toQ.abs.scale (-g)).floor
          if t.isNeg then a - n else a + n) 0
        BitVec.ofNat 32 (deliver .f32 .rne false false ((Q.ofInt sum).scale g)).bits

/-- One integer cell step (R123). -/
def intStep (sat : Bool) (acc : Word) (products : List Int) : Word :=
  let sum := products.foldl (fun a x => a + x) acc.toInt
  if sat then BitVec.ofInt 32 (max (-(2 ^ 31 : Int)) (min (2 ^ 31 - 1 : Int) sum)) else BitVec.ofInt 32 sum

/-- Steps of n terms in order (R287). `fuel` is the number of terms. -/
def foldSteps {α : Type} (step : Word → List α → Word) (n : Nat) : Nat → List α → Word → Word
  | 0, _, acc => acc
  | fuel + 1, l, acc => if l.isEmpty then acc else foldSteps step n fuel (l.drop n) (step acc (l.take n))

/-! ### Accumulator tiles (R288, R289) -/

/-- The key of an element of a tile. -/
def tileKey (t i j : Nat) : Nat := (t * 64 + i) * 64 + j

def Workgroup.tile (w : Workgroup) (t i j : Nat) : Word := (tget w.tiles (tileKey t i j)).getD 0

/-- Put an element; a zero is not listed. -/
def Workgroup.putTile (w : Workgroup) (t i j : Nat) (v : Word) : Workgroup :=
  { w with tiles := if v = 0 then tdel w.tiles (tileKey t i j) else tput w.tiles (tileKey t i j) v }

/-- Rows and columns of a block. -/
def blockOf (rows cols : Nat) : List (Nat × Nat) := (List.range rows).flatMap (fun i => (List.range cols).map (fun j => (i, j)))

/-! ### Descriptors (R290 to R294) -/

/-- The fields of a descriptor. -/
def parseMat (d : List Nat) : MatDesc :=
  let w := fun i => d.getD i 0
  { data := bitsAt (w 0) 0 32, pitch := bitsAt (w 0) 32 16, lines := bitsAt (w 0) 48 6 + 1, fmt := bitsAt (w 0) 56 4,
    k := bitsAt (w 1) 0 16, scale := bitsAt (w 1) 32 32, spitch := bitsAt (w 2) 0 16, sparse := bitsAt (w 2) 16 2,
    seed := BitVec.ofNat 32 (bitsAt (w 2) 32 32) }

/-- Reserved fields and formats (R290, R291). -/
def matReserved (d : List Nat) : Bool :=
  let w := fun i => d.getD i 0
  bitsAt (w 0) 54 2 != 0 || bitsAt (w 0) 60 4 != 0 || decide (9 ≤ bitsAt (w 0) 56 4) || bitsAt (w 1) 16 16 != 0 ||
  bitsAt (w 2) 18 14 != 0 || w 3 != 0

/-- Data bytes of a line. -/
def MatDesc.lineBytes (d : MatDesc) : Nat := (d.k * d.kept / 8 * matBits d.fmt + 7) / 8

/-- Side-plane bytes of a line. -/
def MatDesc.sideBytes (d : MatDesc) : Nat := if d.fmt = 6 then 2 * d.k / 32 else 0

/-- The extent of a line: first byte and end of each part (R292). -/
def MatDesc.extent (d : MatDesc) (line : Nat) : List (Nat × Nat) :=
  let a := d.data + line * d.pitch
  let b := d.scale + line * d.spitch
  if d.fmt = 6 then [(a, a + d.lineBytes), (b, b + d.sideBytes)] else [(a, a + d.lineBytes)]

/-- Which instruction reads a descriptor. -/
inductive MatUse where
  | a | b | load | drain
deriving DecidableEq, Repr

/-- The instruction uses the format (R291). -/
def matUses (u : MatUse) (fmt : Nat) : Bool :=
  match u with
  | .a | .b => decide (fmt ≤ 6)
  | .load => fmt == 2 || fmt == 3 || fmt == 4 || fmt == 7 || fmt == 8
  | .drain => true

/-- The checks of R293 on a descriptor that has been read: `lines` are the lines used. -/
def matCheck (u : MatUse) (size : Nat) (raw : List Nat) (lines : MatDesc → List Nat) : Option FaultCode :=
  let d := parseMat raw
  if matReserved raw then some .reservedField
  else if !matUses u d.fmt || d.k == 0 || decide (16384 < d.k) || (d.fmt == 6 && d.k % 32 != 0) then some .matrixConfig
  else if d.sparse == 3 || (d.sparse != 0 && u != .b) || (d.sparse != 0 && d.k % 8 != 0) then some .sparseConfig
  else if d.data % 16 != 0 || d.pitch % 16 != 0 || (d.fmt == 6 && (d.scale % 2 != 0 || d.spitch % 2 != 0)) then some .align
  else if (lines d).any (fun l => (d.extent l).any (fun x => decide (x.1 < x.2) && decide (size < x.2))) then some .scratchRange
  else none

/-- What a command finds when it reads a descriptor at issue. -/
inductive MatRead where
  | got (d : MatDesc)
  | wait (lo hi : Nat)
  | bad (c : FaultCode)
deriving DecidableEq, Repr

/-- Read and check the descriptor at a scratchpad offset (R242, R290, R293). -/
def readMat (s : State) (core wg : Nat) (w : Workgroup) (u : MatUse) (off : Nat) (lines : MatDesc → List Nat) : MatRead :=
  if off % 8 != 0 then .bad .align
  else if w.size < off + 32 then .bad .scratchRange
  else if scoreboardBlocks s core wg off (off + 32) then .wait off (off + 32)
  else
    let raw := dwordsIn 4 (w.scratch.readBytes off 32)
    match matCheck u w.size raw lines with
    | some c => .bad c
    | none => .got (parseMat raw)

/-- Every line of a descriptor. -/
def MatDesc.allLines (d : MatDesc) : List Nat := List.range d.lines

/-- The line that row i takes from a gather table (R294): none for a row of zeros. An entry not listed is the launch
table's. -/
def gatherLine (table : List Word) (i : Nat) : Option Nat :=
  let e := (table.getD i (BitVec.ofNat 32 i)).toNat
  if bitsAt e 31 1 = 1 then none else some (bitsAt e 0 16)

/-- The lines that A uses. -/
def linesOfA (g : Bool) (table : List Word) (d : MatDesc) : List Nat :=
  if g then (List.range d.lines).filterMap (gatherLine table) else d.allLines

/-! ### Issue (R296, R304 to R310) -/

/-- A command of a group on `pipe` enters a matrix queue behind every command there but those that groups on higher pipes issued in the
same cycle (R297). -/
def enterQueue (s : State) (pipe : Nat) (e : Nat × Bool) : List (Nat × Bool) → List (Nat × Bool)
  | [] => [e]
  | x :: l =>
    match tget s.commands x.1 with
    | some c => if c.cycle = s.cyc ∧ pipe < c.ref.pipe then e :: x :: l else x :: enterQueue s pipe e l
    | none => x :: enterQueue s pipe e l

/-- A matrix command joins its batch and its queues once there is room (R242, R296, R297, R300). -/
def issueMatrix (s : State) (r : SplitRef) (g : Group) (sp : Split) (kind : CmdKind) (ranges : List (Nat × Nat))
    (twinCore : Option Nat) : State :=
  let full := fun (c : Nat) => decide (32 ≤ (s.core c).matrix.length)
  if full r.core || (match twinCore with
      | some c => full c
      | none => false) then stallAt s r sp (.matrix twinCore.isSome)
  else if 32 < (s.core r.core).scoreboard.length + ranges.length then stallAt s r sp (.entries ranges.length)
  else
    let id := s.serial
    let s := issueCommand s r g (retire s sp 2) kind ranges sp.pcs
    let s := s.modCore r.core (fun c => { c with matrix := enterQueue s r.pipe (id, false) c.matrix })
    match twinCore with
    | some k => s.modCore k (fun c => { c with matrix := enterQueue s r.pipe (id, true) c.matrix })
    | none => s

/-- The checks of R306 that follow those of the descriptors. -/
def mmaCheck (a b : MatDesc) (t pa pb : Nat) (sat : Bool) (tiles : Nat) : Option FaultCode :=
  let int := matInt a.fmt && matInt b.fmt
  if a.k != b.k || !((matFloat a.fmt && matFloat b.fmt) || int) || (int && (narrows pa a.fmt || narrows pb b.fmt)) ||
     (!int && sat) || decide (tiles ≤ t) then some .matrixConfig
  else none

/-- `mma` and `mma.pair` at issue (R306, R310). -/
def issueMma (s : State) (sa sb : SReg) (t : Fin 64) (pa pb : Fin 4) (acc sat gather pair : Bool) :
    Host.Outcome State Fault Refusal :=
  onSplit s (fun r g sp =>
    match tget s.wgs g.wg with
    | none => s
    | some w =>
      if pair && (!nodeFlag s g (fun d => d.pair) || w.follower) then faultScalar s r sp 2 .matrixConfig
      else
        let table := g.gatherIssued
        match readMat s r.core g.wg w .a (readS s sp sa).toNat (linesOfA gather table) with
        | .bad c => faultScalar s r sp 2 c
        | .wait lo hi => stallAt s r sp (.scoreboard lo hi)
        | .got a =>
          match readMat s r.core g.wg w .b (readS s sp sb).toNat MatDesc.allLines with
          | .bad c => faultScalar s r sp 2 c
          | .wait lo hi => stallAt s r sp (.scoreboard lo hi)
          | .got b =>
            match mmaCheck a b t.val pa.val pb.val sat w.tileCount with
            | some c => faultScalar s r sp 2 c
            | none =>
              issueMatrix s r g sp (.mma a b t.val pa.val pb.val acc sat gather pair) []
                (if pair then w.twin.map (fun k => k / 64) else none))

/-- `mma` (R306). -/
def execMma (sa sb : SReg) (t : Fin 64) (pa pb : Fin 4) (acc sat g : Bool) (s : State) : Host.Outcome State Fault Refusal :=
  issueMma s sa sb t pa pb acc sat g false

/-- `mma.pair` (R300, R306). -/
def execMmaPair (sa sb : SReg) (t : Fin 64) (pa pb : Fin 4) (acc sat g : Bool) (s : State) :
    Host.Outcome State Fault Refusal :=
  issueMma s sa sb t pa pb acc sat g true

/-- `mzero` (R308). -/
def execMzero (count t : Fin 64) (s : State) : Host.Outcome State Fault Refusal :=
  onSplit s (fun r g sp =>
    match tget s.wgs g.wg with
    | none => s
    | some w =>
      if w.tileCount < t.val + (count.val + 1) then faultScalar s r sp 2 .matrixConfig
      else issueMatrix s r g sp (.mzero t.val (count.val + 1)) [] none)

/-- `mload` (R302, R308). -/
def execMload (sd : SReg) (t : Fin 64) (tr : Bool) (s : State) : Host.Outcome State Fault Refusal :=
  onSplit s (fun r g sp =>
    match tget s.wgs g.wg with
    | none => s
    | some w =>
      match readMat s r.core g.wg w .load (readS s sp sd).toNat MatDesc.allLines with
      | .bad c => faultScalar s r sp 2 c
      | .wait lo hi => stallAt s r sp (.scoreboard lo hi)
      | .got d =>
        if 64 < d.k ∨ w.tileCount ≤ t.val then faultScalar s r sp 2 .matrixConfig
        else issueMatrix s r g sp (.mload d t.val tr) [] none)

/-- The rounding and saturate values that an mdrain's format forbids (R301). -/
def drainForbids (fmt rnd : Nat) (sat : Bool) : Bool :=
  match fmt with
  | 0 | 1 | 2 | 3 => false
  | 4 | 5 => rnd != 0
  | _ => rnd != 0 || sat

/-- The destination ranges of a drain: its data span, and its side-plane span for E2M1X (R301). -/
def MatDesc.spans (d : MatDesc) : List (Nat × Nat) :=
  let data := (d.data, d.data + (d.lines - 1) * d.pitch + d.lineBytes)
  if d.fmt = 6 then [data, (d.scale, d.scale + (d.lines - 1) * d.spitch + d.sideBytes)] else [data]

/-- `mdrain` (R301, R308, R310). -/
def execMdrain (sd : SReg) (t : Fin 64) (tr : Bool) (rnd : Fin 4) (sat : Bool) (s : State) : Host.Outcome State Fault Refusal :=
  onSplit s (fun r g sp =>
    match tget s.wgs g.wg with
    | none => s
    | some w =>
      match readMat s r.core g.wg w .drain (readS s sp sd).toNat MatDesc.allLines with
      | .bad c => faultScalar s r sp 2 c
      | .wait lo hi => stallAt s r sp (.scoreboard lo hi)
      | .got d =>
        if 64 < d.k ∨ w.tileCount ≤ t.val then faultScalar s r sp 2 .matrixConfig
        else if drainForbids d.fmt rnd.val sat then faultScalar s r sp 2 .reservedField
        else if d.spans.any (fun x => touchesObject w x.1 x.2) then faultScalar s r sp 2 .barrierObjectWrite
        else issueMatrix s r g sp (.mdrain d t.val tr rnd.val sat) d.spans none)

/-- `mgidx` (R309). -/
def execMgidx (va : Fin 128) (s : State) : Host.Outcome State Fault Refusal :=
  onSplit s (fun r g sp =>
    let v := readV s g va.val
    let table := v.data.toList.take 64
    if g.regs.length ≤ va.val then faultScalar s r sp 2 .regRange
    else if v.tag != .raw && v.tag != .i32 && v.tag != .n32 then faultScalar s r sp 2 .tagMismatch
    else if table.any (fun e => bitsAt e.toNat 31 1 == 0 && bitsAt e.toNat 16 15 != 0) then faultScalar s r sp 2 .matrixConfig
    else
      let s' := issueMatrix s r g sp (.mgidx table) [] none
      if 32 ≤ (s.core r.core).matrix.length then s' else s'.modGroup r.gkey (fun g => { g with gatherIssued := table }))

/-! ### Performance (R297 to R303) -/

/-- The new elements of a tile under an mma half (R306): `ma` holds A, `mb` holds B, `first` is the first column's number for
the sparsity generator. -/
def mmaTile (ma mb : Memory) (w : Workgroup) (table : List Word) (a b : MatDesc) (t pa pb : Nat) (acc sat gather : Bool)
    (first : Nat) : Workgroup :=
  let n := stepWidth pa a.fmt pb b.fmt
  let int := matInt a.fmt
  let line := fun (i : Nat) => if gather then gatherLine table i else some i
  (blockOf a.lines b.lines).foldl (fun v x =>
    let start := if acc then w.tile t x.1 x.2 else 0
    let terms := (b.logical (first + x.2)).zipIdx
    let out :=
      if int then
        foldSteps (intStep sat) n terms.length (terms.map (fun e =>
          (match line x.1 with
           | some l => a.int ma l e.1
           | none => 0) * b.int mb x.2 e.2)) start
      else
        foldSteps floatStep n terms.length (terms.map (fun e =>
          termOf (match line x.1 with
            | some l => a.float ma pa l e.1 e.1
            | none => .fin false ⟨0, 1⟩) (b.float mb pb x.2 e.1 e.2))) start
    v.putTile t x.1 x.2 out) w

/-- An element of a block that mload reads (R302). -/
def loadElem (d : MatDesc) (m : Memory) (line k : Nat) : Word :=
  let x := d.raw m line k
  match d.fmt with
  | 2 | 3 => BitVec.ofNat 32 (fconvert .f32 .rne false (decodeFloat (matFmt d.fmt) x)).bits
  | 4 => (BitVec.ofNat 8 x).signExtend 32
  | _ => BitVec.ofNat 32 x

/-- A tile after an mload (R302). -/
def loadTile (m : Memory) (w : Workgroup) (d : MatDesc) (t : Nat) (tr : Bool) : Workgroup :=
  (blockOf 64 64).foldl (fun v x =>
    let (line, k) := if tr then (x.2, x.1) else x
    v.putTile t x.1 x.2 (if line < d.lines ∧ k < d.k then loadElem d m line k else 0)) w

/-! ### The E2M1X drain encoder (R124) -/

/-- The E2M1 code of a non-negative number, ties to the code whose mantissa bit is 0, at most 6 (R124). -/
def e2m1Round (q : Q) : Nat :=
  let two := q.scale 2
  if two.le ⟨1, 1⟩ then 0              -- up to 0.25
  else if two.lt ⟨3, 1⟩ then 1         -- 0.5
  else if two.le ⟨5, 1⟩ then 2         -- 1
  else if two.lt ⟨7, 1⟩ then 3         -- 1.5
  else if two.le ⟨10, 1⟩ then 4        -- 2
  else if two.lt ⟨14, 1⟩ then 5        -- 3
  else if two.le ⟨20, 1⟩ then 6        -- 4
  else 7

/-- A spare value: its sign, exponent k and mantissa bit m, for (−1)^s 2^k (1 + m / 2). -/
structure Spare where
  neg : Bool
  exp : Int
  man : Nat
deriving DecidableEq, Repr

def Spare.mag (x : Spare) : Q := (Q.ofInt (2 + x.man : Nat)).scale (x.exp - 1)

/-- `spare_rne` of a non-zero number (R124). -/
def spareRound (q : Q) : Spare :=
  let a := q.abs
  let e := a.log2
  let n := roundMag .rne false (a.scale (1 - e))
  if n = 4 then ⟨decide (q.num < 0), e + 1, 0⟩ else ⟨decide (q.num < 0), e, n % 2⟩

/-- The scale, spare byte and codes of a block of 32 f32 values (R124). -/
def encodeBlock (v : List Word) : Nat × Nat × List Nat :=
  let xs := v.map (fun x => decodeFloat .f32 x.toNat)
  if xs.any (fun x => x.isNan || x.isInf) then (255, 0, List.replicate 32 0)
  else
    let amax := xs.foldl (fun (a : Q) x => if a.lt x.toQ.abs then x.toQ.abs else a) ⟨0, 1⟩
    let k : Int := if amax.isZero then -127 else max (-127) (min 127 (amax.log2 - 2))
    let ys := xs.map (fun x => x.toQ.scale (-k))
    let codes := ys.map (fun y => e2m1Round y.abs)
    let errs := (ys.zip codes).map (fun e => (e.1.abs.sub (e2m1Mag e.2)).abs)
    let signed := (ys.zip codes).map (fun e => if e.2 = 0 then 0 else if e.1.num < 0 then 8 + e.2 else e.2)
    let big := errs.foldl (fun (a : Q) e => if a.lt e then e else a) ⟨0, 1⟩
    let scale := (k + 127).toNat
    match errs.findIdx? (fun e => e.eq big) with
    | none => (scale, 0, signed)
    | some j =>
      let sp := spareRound (ys.getD j ⟨0, 1⟩)
      if big.isZero || sp.mag.lt (Q.pow2 (-14)) then (scale, 0, signed)
      else
        let byte := (if sp.neg then 64 else 0) + ((sp.exp + 15).toNat % 32) * 2 + sp.man
        let val := if sp.neg then sp.mag.neg else sp.mag
        let out := ((ys.zip (errs.zip signed)).zipIdx).map (fun e =>
          let y := e.1.1
          if e.2 = j then 8
          else if !y.isZero && spareRound y == sp && (y.sub val).abs.lt e.1.2.1 then 8
          else e.1.2.2)
        (scale, byte, out)

/-! ### Drains (R301) -/

/-- The bits of one drained element (R301); E2M1X apart. -/
def drainElem (fmt rnd : Nat) (sat : Bool) (v : Word) : Nat :=
  match fmt with
  | 0 | 1 | 2 | 3 => (fconvert (matFmt fmt) (Rounding.ofField rnd) sat (decodeFloat .f32 v.toNat)).bits
  | 4 => (if sat then BitVec.ofInt 8 (max (-128) (min 127 v.toInt)) else v.setWidth 8).toNat
  | 5 => (if sat then BitVec.ofInt 4 (max (-8) (min 7 v.toInt)) else v.setWidth 4).toNat
  | _ => v.toNat

/-- Bytes of 4-bit codes, two to a byte; a spare high nibble is 0 (R110, R301). -/
def packNibbles : List Nat → List Byte
  | a :: b :: l => BitVec.ofNat 8 (a % 16 + 16 * (b % 16)) :: packNibbles l
  | [a] => [BitVec.ofNat 8 (a % 16)]
  | [] => []

/-- The bytes that a drain writes for one line: address and byte (R301). -/
def drainLine (d : MatDesc) (line rnd : Nat) (sat : Bool) (vals : List Word) : List (Nat × Byte) :=
  let a := d.data + line * d.pitch
  let put := fun (a : Nat) (l : List Byte) => (l.zipIdx).map (fun x => (a + x.2, x.1))
  if d.fmt = 6 then
    let blocks := (List.range (d.k / 32)).map (fun b => encodeBlock ((vals.drop (32 * b)).take 32))
    put a (packNibbles (blocks.flatMap (fun x => x.2.2))) ++
      put (d.scale + line * d.spitch) (blocks.flatMap (fun x => [BitVec.ofNat 8 x.1, BitVec.ofNat 8 x.2.1]))
  else if d.fmt = 5 then put a (packNibbles (vals.map (drainElem d.fmt rnd sat)))
  else put a (vals.flatMap (fun v => toBytes (matBits d.fmt / 8) (drainElem d.fmt rnd sat v)))

/-- Write the bytes of a drain: of two that fall on one byte either stays (R301). -/
def drainBytes (nonce : Nat) (m : Memory) (l : List (Nat × Byte)) : Memory :=
  ((l.zipIdx).foldl (fun (x : Memory × List Nat) e =>
    let (a, b) := e.1
    if x.2.contains a && Config.freeBit nonce e.2 then x else (x.1.write a b, a :: x.2)) (m, [])).1

/-- A workgroup's scratchpad after an mdrain. -/
def drainTile (nonce : Nat) (w : Workgroup) (d : MatDesc) (t : Nat) (tr : Bool) (rnd : Nat) (sat : Bool) : Workgroup :=
  let l := (List.range d.lines).flatMap (fun line =>
    drainLine d line rnd sat ((List.range d.k).map (fun k => if tr then w.tile t k line else w.tile t line k)))
  { w with scratch := drainBytes nonce w.scratch l }

/-! ### The queue (R296 to R300, R303) -/

/-- Ranges recorded before a command issued overlap bytes that it reads (R298); those of commands that stand behind it in the queue, as a
drain of the same cycle on a later pipe may, were recorded after it (R297). -/
def readsBlocked (s : State) (core wg id : Nat) (l : List (Nat × Nat)) : Bool :=
  (s.core core).scoreboard.any (fun e => e.wg == wg && decide (e.cmd < id) &&
    !(s.core core).matrix.any (fun m => m.1 == e.cmd) && l.any (fun x => decide (e.lo < x.2) && decide (x.1 < e.hi)))

/-- The scratchpad as a command reads it: of a byte that another agent has overwritten since the command issued, the old value or the new
one, byte by byte (R298). A copy that issued before the command is no such agent: it has freed its ranges. -/
def oldOrNew (w : Workgroup) (id nonce salt : Nat) : Memory :=
  (w.overwritten.zipIdx).foldl (fun m x =>
    let earlier := match x.1.cmd with
      | some k => decide (k < id)
      | none => false
    if id < x.1.serial && !earlier && Config.freeBit nonce (3 * x.2 + salt) then m.write x.1.off x.1.byte else m) w.scratch

/-- The command at the head of a core's queue may be performed (R297, R298, R300): those of one cycle have all entered. -/
def matrixReady (s : State) (id : Nat) (c : Command) : Bool :=
  let core := c.wg / 64
  decide (c.cycle < s.cyc) &&
  match c.kind with
  | .mma a b _ _ _ _ _ gather pair =>
    let la := (linesOfA gather c.table a).flatMap a.extent
    let lb := b.allLines.flatMap b.extent
    let other := ((tget s.wgs c.wg).bind (fun w => w.twin)).getD 0
    !readsBlocked s core c.wg id (la ++ lb) &&
    (!pair || ((s.core (other / 64)).matrix.head? == some (id, true) && !readsBlocked s (other / 64) other id lb))
  | .mload d _ _ => !readsBlocked s core c.wg id (d.allLines.flatMap d.extent)
  | _ => true

/-- The effect of a matrix command (R297, R298, R306, R308, R309). -/
def matrixEffect (s : State) (id : Nat) (c : Command) : State :=
  match tget s.wgs c.wg with
  | none => s
  | some w =>
    match c.kind with
    | .mma a b t pa pb acc sat gather pair =>
      let s' := s.setWg c.wg (mmaTile (oldOrNew w id s.fresh 0) (oldOrNew w id s.fresh 1) w c.table a b t pa pb acc sat gather 0)
      if pair then
        match w.twin with
        | some k => { s' with wgs := tmod s'.wgs k (fun f =>
            mmaTile (oldOrNew w id s.fresh 0) (oldOrNew f id s.fresh 2) f c.table a b t pa pb acc sat gather 64) }
        | none => s'
      else s'
    | .mzero t n => s.setWg c.wg { w with tiles := w.tiles.filter (fun e => decide (e.1 / 4096 < t) || decide (t + n ≤ e.1 / 4096)) }
    | .mload d t tr => s.setWg c.wg (loadTile (oldOrNew w id s.fresh 0) w d t tr)
    | .mdrain d t tr rnd sat => s.setWg c.wg (drainTile s.fresh w d t tr rnd sat)
    | .mgidx table => s.modGroup c.ref.gkey (fun g => { g with gather := table })
    | _ => s

/-- The command reads accumulator memory or checks residues: an error may be found in it (R303). -/
def matrixChecked (c : Command) : Bool :=
  match c.kind with
  | .mma _ _ _ _ _ _ _ _ _ => true
  | .mdrain _ _ _ _ _ => true
  | _ => false

/-- A drain, which checks no residue. -/
def Command.isDrain (c : Command) : Bool :=
  match c.kind with
  | .mdrain _ _ _ _ _ => true
  | _ => false

/-- MATRIX_COMMAND_PERFORM: the array of a core performs the first command of its queue whole, both halves of a paired one
together; `mismatch` is an input: the residue check or SECDED finds an error (R303). -/
def execMatrixCommandPerform (core : Nat) (mismatch : Bool) (s : State) : Host.Outcome State Fault Refusal :=
  onPart s (fun s =>
    match (s.core core).matrix with
    | (id, false) :: _ =>
      match tget s.commands id with
      | none => s
      | some c =>
        if !matrixReady s id c then s
        else if mismatch && matrixChecked c then
          stopCommand { s with rasLog := s.rasLog ++ [if c.isDrain then .ecc core else .matrix core] } id .eccUncorrected 0 0
        else finishCommand (matrixEffect s id c) id
    | _ => s)

end Sys2Proof.Machine
end

