-- ==== Sys2Proof/Machine/Frames.lean ====
section
/-! DEFINITION. The frames of Oluvos's requests and replies, and their CRC (R394, R396, R410). -/

namespace Sys2Proof.Machine

/-! ### Bytes -/

/-- Bytes `lo` to `hi` - 1 are zero. -/
def zeroBytes (b : List Byte) (lo hi : Nat) : Bool := ((b.drop lo).take (hi - lo)).all (fun x => x == 0)

/-- A number of some bytes of an entry. -/
def numberAt (b : List Byte) (lo n : Nat) : Nat := ofBytes ((b.drop lo).take n)

/-! ### Frames (R394, R396) -/

/-- One byte of CRC-32C. -/
def crcByte (c : Word) (b : Byte) : Word :=
  (List.range 8).foldl (fun (c : Word) _ => if c.getLsbD 0 then (c >>> 1) ^^^ 0x82F63B78 else c >>> 1) (c ^^^ b.setWidth 32)

/-- CRC-32C of some bytes (R394). -/
def crc32c (l : List Byte) : Word := ~~~(l.foldl crcByte 0xFFFFFFFF)

/-- Header and payload of a frame; `word3` is bytes 12 to 15: zero in a request, STATUS in a reply. -/
def frameBody (f : Frame) (length word3 : Nat) (payload : List Byte) : List Byte :=
  toBytes 2 f.service.toNat ++ toBytes 2 f.part.toNat ++ toBytes 4 f.seq.toNat ++ toBytes 4 length ++ toBytes 4 word3 ++ payload

/-- A frame with its padding and CRC. -/
def sealFrame (length : Nat) (body : List Byte) : List Byte :=
  body ++ List.replicate ((length + 3) / 4 * 4 - length) 0 ++ toBytes 4 (crc32c body).toNat

/-- The bytes of a request frame. -/
def frameBytes (f : Frame) : List Byte := sealFrame f.length (frameBody f f.length 0 f.payload)

/-- The frame is well made: reserved fields zero, LENGTH in range, CRC right (R394). -/
def frameOk (f : Frame) : Bool :=
  f.reservedZero && decide (f.length ≤ 4072) && f.payload.length == f.length && crc32c (frameBody f f.length 0 f.payload) == f.crc

/-- STATUS values (R396). -/
inductive Status where
  | ok | badService | badArg | denied | busy | retry | verifyFailed | noRoom
deriving DecidableEq, Repr

def Status.number : Status → Nat
  | .ok => 0 | .badService => 1 | .badArg => 2 | .denied => 3 | .busy => 4 | .retry => 5 | .verifyFailed => 6 | .noRoom => 7

/-- The bytes of the reply to a frame (R396). -/
def replyBytes (f : Frame) (st : Status) (payload : List Byte) : List Byte :=
  sealFrame payload.length (frameBody f payload.length st.number payload)

/-! ### Frames in bytes -/

/-- The frame that stands in some bytes. -/
def parseFrame (b : List Byte) : Frame :=
  let len := numberAt b 8 4
  { service := BitVec.ofNat 16 (numberAt b 0 2), part := BitVec.ofNat 12 (numberAt b 2 2), seq := BitVec.ofNat 32 (numberAt b 4 4),
    length := len, payload := (b.drop 16).take len, reservedZero := numberAt b 2 2 / 4096 == 0 && numberAt b 12 4 == 0,
    crc := BitVec.ofNat 32 (numberAt b (16 + (len + 3) / 4 * 4) 4) }

/-- Bytes of a frame with a payload of `len` bytes, its CRC included (R394). -/
def frameSize (len : Nat) : Nat := 20 + (len + 3) / 4 * 4

/-- Count a dropped frame (R394, R395, R410). -/
def dropFrame (s : State) : State := { s with drops := s.drops + 1 }

/-- Oluvos is running (R408). -/
def oluvosUp (s : State) : Bool := s.boot == .oluvos || s.boot == .running

/-- The first byte of the service window: 256 KiB of near memory on die 0 (R410). -/
def serviceBase : Nat := Config.serviceWindowUnit % 2 ^ 18 * 2 ^ 18

end Sys2Proof.Machine
end

