-- ==== Sys2Proof/Machine/Queues.lean ====
section
/-! DEFINITION. The queue ports (R311 to R314), the launch of nodes (R316 to R318), their completion (R326, R327), and
multi-chip launches (R329, R330). -/

namespace Sys2Proof.Machine

/-! ### Ports (R311, R312) -/

/-- The port acts for the queue: EN, and a LOGSIZE that is not reserved (R311). -/
def Queue.enabled (q : Queue) : Bool := q.en && decide (q.logsize ≤ 12)

/-- Entries of the ring (R311). -/
def Queue.size (q : Queue) : Nat := 2 ^ (q.logsize + 4)

/-- The counts at an enable (R311). -/
def Queue.restart (q : Queue) : Queue := { q with tail := 0, head := 0, waiting := none }

/-- A queue-table entry after a write of one of its dwords (R311): a queue that the port did not act for, and now does, begins
again. -/
def Queue.written (q : Queue) (dword v : Nat) : Queue :=
  let n : Queue :=
    match dword with
    | 0 => { q with logsize := bitsAt v 0 4, en := bitsAt v 4 1 == 1, base := bitsAt v 12 45 * 4096 }
    | 1 => { q with ctx := bitsAt v 0 10 }
    | 2 => { q with tailpa := bitsAt v 2 50 * 4 }
    | 3 => { q with headpa := bitsAt v 2 50 * 4 }
    | _ => q
  if n.enabled && !q.enabled then n.restart else n

/-- The writes that waited for the entry boundary act (R311). -/
def Queue.boundary (q : Queue) : Queue :=
  q.later.foldl (fun (q : Queue) e => q.written e.1 e.2) { q with later := [], waiting := none }

/-- QUEUE_ENABLE: EN is written from 0 to 1 (R311). -/
def execQueueEnable (q : Nat) (s : State) : Host.Outcome State Fault Refusal :=
  onPart s (fun s => if (s.queue q).en then s else s.setQueue q { (s.queue q).restart with en := true })

/-- A notify that the port accepts (R312): behind or equal is ignored, too far is rejected and charged. -/
def acceptNotify (s : State) (n : Notify) : State :=
  let q := s.queue n.queue
  let d := (n.value - q.tail).toNat
  if d = 0 ∨ 2 ^ 31 ≤ d then s
  else if q.size < d then
    match n.ctx with
    | some c => charge s c
    | none => s
  else s.setQueue n.queue { q with tail := n.value }

/-- One notify reaches its port (R312, R315). -/
def takeNotify (s : State) (n : Notify) : State :=
  if !(s.queue n.queue).enabled then s
  else
    match n.ctx with
    | none => acceptNotify s n
    | some c =>
      if (s.context c).barred then s
      else if c = (s.queue n.queue).ctx then acceptNotify s n
      else charge s c

/-- NOTIFY (R312): the ports handle notifies in the order in which they arrive. -/
def execNotify (s : State) : Host.Outcome State Fault Refusal :=
  onPart s (fun s =>
    match s.notifies with
    | [] => s
    | n :: l => takeNotify { s with notifies := l } n)

/-! ### Entries (R313, R314) -/

/-- Nodes in the pool. -/
def poolCount (s : State) : Nat := (s.nodes.filter (fun e => e.2.state != .failed)).length

/-- The port reads entries of the queue (R313 to R315, R319). -/
def portReads (s : State) (q : Nat) : Bool :=
  let v := s.queue q
  v.enabled && v.head != v.tail && (s.context v.ctx).valid && !(s.context v.ctx).barred && decide (poolCount s < 16384)

/-- Address of an entry (R311). -/
def entryVa (q : Queue) (i : Word) : DWord := address57 q.base + BitVec.ofNat 64 (64 * (i.toNat % q.size))

/-- Take the entry at HEAD: its credits are spent, HEAD moves past it and is written to the head word as a release at
system scope, as an access of the port for the queue's context (R228, R313, R318). -/
def takeEntry (s : State) (q : Nat) : State :=
  let v := s.queue q
  let s := s.setQueue q { v with head := v.head + 1, credits := tdel v.credits (v.head.toNat % 256) }.boundary
  if isMemory v.headpa then homeWrite s none (s.keyMapSlot v.headpa) v.headpa (toBytes 4 (v.head + 1).toNat) (some v.ctx) else s

/-- A malformed entry: charged, taken, and nothing more (R317). -/
def malformed (s : State) (q : Nat) : State := takeEntry (charge s (s.queue q).ctx) q

/-- Read the entry at HEAD and act on it if it is of the kind asked for; for another kind the step is not the port's. An entry that
cannot be read, or is of no kind, is malformed whichever kind the port looks for (R317). -/
def portEntry (s : State) (q kind : Nat) (act : State → List Nat → State) : State :=
  if !portReads s q || (s.queue q).waiting.isSome then s
  else
    match hubDwords s (s.queue q).ctx (entryVa (s.queue q) (s.queue q).head) 8 with
    | (u, .error _) => malformed u q
    | (u, .ok d) =>
      let k := bitsAt (d.getD 0 0) 0 8
      if 3 ≤ k then malformed u q else if k = kind then act u d else s

/-- Dwords from the third on are zero, and the fields above the kind. -/
def entryReserved (d : List Nat) (upto : Nat) : Bool := bitsAt (d.getD 0 0) 8 56 == 0 && (d.drop upto).all (fun x => x == 0)

/-- NOOP_ENTRY (R314). -/
def execNoopEntry (q : Nat) (s : State) : Host.Outcome State Fault Refusal :=
  onPart s (fun s => portEntry s q 0 (fun s d => if entryReserved d 1 then takeEntry s q else malformed s q))

/-- A node enters the pool (R318, R319): its count is PREDS less the decrements held, at least 0. -/
def enterNode (s : State) (queue : Nat) (pos : Word) (ctx : Nat) (d : Desc) (args : DWord) (held : Nat × BitVec 16)
    (multi : Option Multi) : State :=
  let count := d.preds - held.1
  { s with
    nodes := tput s.nodes s.serial
      { queue := queue, pos := pos, ctx := ctx, desc := d, args := args, count := count,
        state := if count = 0 ∧ multi.all (fun m => m.origin) then .ready else .waiting, readyAt := s.cyc, waitFrom := s.cyc, next := 0, ended := 0, dies := [],
        carried := tsMax s.floor held.2, time := s.floor, released := s.floor, waves := [], rasterised := false, begun := none, reserves := [], multi := multi },
    serial := s.serial + 1 }

/-- The share of a multi-chip node on its origin, before its launch (R329). -/
def originShare (s : State) (d : Desc) : Option Multi :=
  if d.multi then
    (tget s.domains d.domain).map (fun x =>
      { gen := 0, origin := true, root := x.rank, rank := x.rank, accepts := [], dones := [], launched := none, accepted := false,
        started := false, aborted := false })
  else none

/-- The descriptor at an address, if it may launch (R316, R317). -/
def readDesc (s : State) (ctx va : Nat) : State × Option Desc :=
  match hubDwords s ctx (address57 va) 32 with
  | (s, .error _) => (s, none)
  | (s, .ok raw) =>
    let d := parseDesc va raw
    (s, if descOk s raw d then some d else none)

/-- A launch entry of three dwords, for a queue port or CX_DISP (R314, R316, R317): the node it launches, or none when it
is malformed. -/
def launchEntry (s : State) (ctx : Nat) (d : List Nat) : State × Option (Desc × DWord) :=
  let va := d.getD 1 0
  let args := d.getD 2 0
  if !(entryReserved d 3 && bitsAt va 57 7 == 0 && bitsAt args 57 7 == 0 && va % 256 == 0) then (s, none)
  else
    match readDesc s ctx va with
    | (s, none) => (s, none)
    -- the argument block of a mesh node begins with an emit descriptor, which is 32-byte aligned (R357, R358)
    | (s, some x) => (s, if x.gstage = 1 ∧ args % 32 ≠ 0 then none else some (x, address57 args))

/-- LAUNCH_ENTRY (R314, R316 to R318). -/
def execLaunchEntry (q : Nat) (s : State) : Host.Outcome State Fault Refusal :=
  onPart s (fun s => portEntry s q 1 (fun s d =>
    let v := s.queue q
    match launchEntry s v.ctx d with
    | (s, none) => malformed s q
    | (s, some (x, args)) =>
      let held := (tget v.credits (v.head.toNat % 256)).getD (0, s.floor)
      takeEntry (enterNode s q v.head v.ctx x args held (originShare s x)) q))

/-- Look at the signal of a wait entry (R314, R317): the entry is taken when the signal has reached its value, malformed
when the signal cannot be read, and otherwise the port waits. -/
def checkWait (s : State) (q : Nat) (va value : DWord) : State :=
  match hubRead s (s.queue q).ctx va 8 with
  | (s, .error _) => malformed s q
  | (s, .ok b) =>
    if value.toNat ≤ ofBytes b then takeEntry s q
    else s.setQueue q { s.queue q with waiting := some (va, value) }

/-- WAIT_ENTRY (R314). -/
def execWaitEntry (q : Nat) (s : State) : Host.Outcome State Fault Refusal :=
  onPart s (fun s => portEntry s q 2 (fun s d =>
    let va := d.getD 1 0
    if entryReserved d 3 && bitsAt va 57 7 == 0 && va % 8 == 0 then
      checkWait s q (address57 va) (BitVec.ofNat 64 (d.getD 2 0))
    else malformed s q))

/-- WAIT_ENTRY_SATISFIED: the port reads the signal of the entry it waits at again (R314). -/
def execWaitEntrySatisfied (q : Nat) (s : State) : Host.Outcome State Fault Refusal :=
  onPart s (fun s =>
    match (s.queue q).waiting with
    | none => s
    | some (va, value) => if portReads s q then checkWait s q va value else s)

/-! ### Completion (R257, R318, R326, R327) -/

/-- An entry of a memory instruction's accesses, or of rays and units' reads. -/
def GalleyEntry.isAccess (e : GalleyEntry) : Bool :=
  match e.kind with
  | .access _ _ _ | .reads _ _ | .ray _ => true
  | .fetch | .descriptor | .command _ | .render _ => false

/-- What is outstanding for a node on this part: a page-held access counts until it is replayed (R326). -/
def nodeOutstanding (s : State) (node : Nat) (n : Node) : Bool :=
  s.acks.any (fun e => e.2.node == node) || s.commands.any (fun e => e.2.node == node && !(n.desc.localDone && e.2.sent)) ||
  s.rtWrites.any (fun e => e.2.node == node) || s.rtTiles.any (fun e => e.2.node == node) ||
  s.remotes.any (fun e => e.2.node == node && (match e.2.purpose with
    | .load _ _ => false
    | .store => true
    | .atomic _ _ => true
    | .command _ => !n.desc.localDone
    | .completes _ => true
    | .put _ | .trigger _ | .resident .. | .core .. | .ignored => false)) ||
  s.coreTab.any (fun e => e.2.galley.any (fun x => x.node == node && x.isAccess))

/-- Every workgroup of a node has been placed and has ended. -/
def nodeEnded (s : State) (node : Nat) (n : Node) : Bool :=
  decide (totalWorkgroups n ≤ n.next) && (n.desc.gstage != 2 || n.rasterised) && n.waves.isEmpty &&
  !s.wgs.any (fun e => e.2.node == node) && !s.saved.any (fun e => e.2.wg.node == node) && !s.threads.any (fun t => t.node == node)

/-- One successor's count falls (R318): in the pool, or held in the credit window when its entry has not been read. -/
def decrement (s : State) (q : Nat) (pos : Word) (t : BitVec 16) : State :=
  match s.nodes.find? (fun e => e.2.queue == q && e.2.pos == pos && e.2.state != .failed) with
  | some e =>
    let n := e.2
    let n' := { n with count := n.count - 1, carried := tsMax n.carried t }
    s.setNode e.1 (if n.state = .waiting ∧ n.count ≤ 1 then { n' with state := .ready, readyAt := s.cyc, waitFrom := s.cyc } else n')
  | none =>
    let v := s.queue q
    if (pos - v.head).toNat < 2 ^ 31 then
      let held := (tget v.credits (pos.toNat % 256)).getD (0, t)
      s.setQueue q { v with credits := tput v.credits (pos.toNat % 256) (held.1 + 1, tsMax held.2 t) }
    else s

/-- The node leaves the pool; then its successors are decremented (R318, R327). -/
def finishNode (s : State) (node : Nat) (n : Node) (t : BitVec 16) : State :=
  let s := { s with nodes := tdel s.nodes node, bound := s.bound.filter (fun b => b.node != node) }
  if 4096 ≤ n.queue then s
  else n.desc.succ.foldl (fun s k => decrement s n.queue (n.pos + BitVec.ofNat 32 k) t) s

/-- Completion: the release of R257, the signal of R327, the successors. A signal access that fails fails the node; one to the remote
region is carried to its peer, whose answer the successors wait for (R201, log entry 33). -/
def completeNode (s : State) (node : Nat) (n : Node) : State :=
  let s := { s with hubLt := tsMax s.hubLt n.time }
  if n.desc.signal = 0 then finishNode s node n n.time
  else
    let va := address57 n.desc.signal
    match (if canonical va then translate s none n.ctx va .store else (s, .error .permission)) with
    | (s, .error e) => failNode s node e.number
    | (s, .ok l) =>
      match regionOf l.pa with
      | .memory _ =>
        if n.desc.sigop = 1 && s.poisonedAt l.pa 8 then failNode s node FaultCode.eccUncorrected.number
        else
          let old := if n.desc.sigop = 1 then BitVec.ofNat 64 (ofBytes (s.physRead l.key l.pa 8)) else (0 : DWord)
          let s := homeWrite s none l.key l.pa (toBytes 8 (old + n.desc.sigval).toNat) (some n.ctx)
          finishNode s node n (s.ts (l.pa / 128)).1
      | .remote rank window offset =>
        match importGen s rank window with
        | none => failNode s node FaultCode.permission.number
        | some gen =>
          let w : Who := { ref := refOf (Config.cores * 256) 4, wg := 0, node := node, ctx := n.ctx, pcs := { spc := 0, lpc := 0 }, seq := s.serial }
          let op : PeerOp := if n.desc.sigop = 1 then .atomic 0 n.desc.sigval 0 else .set n.desc.sigval
          sendRemote s w rank window offset 8 0 gen op 0 false (.completes node)
      | .control _ | .hole => failNode s node FaultCode.permission.number

/-- A multi-chip node may complete here: at its origin, once every other part is done (R329). -/
def donesIn (s : State) (n : Node) : Bool :=
  match n.multi with
  | none => true
  | some m =>
    m.origin && m.started &&
    (match tget s.domains n.desc.domain with
     | some x => (List.range x.size).all (fun r => r == m.rank || m.dones.contains r)
     | none => true)

/-- The node's share on this part meets R326. -/
def shareDone (s : State) (node : Nat) (n : Node) : Bool :=
  n.state == .ready && nodeEnded s node n && !nodeOutstanding s node n

/-- The share of a failed node that has still to send ABORT, at the origin of a launch that has begun, or its report of failure (R330). -/
def Node.aborting (n : Node) : Option Multi := n.multi.filter (fun m => n.state == .failed && m.launched.isSome && !m.aborted)

/-- NODE_COMPLETION (R326, R327). A failed node leaves the state once nothing of it is left, its ABORT or report among it (R330). -/
def execNodeCompletion (node : Nat) (s : State) : Host.Outcome State Fault Refusal :=
  onPart s (fun s =>
    match tget s.nodes node with
    | none => s
    | some n =>
      if n.state = .failed then
        if !s.wgs.any (fun e => e.2.node == node) && !nodeOutstanding s node n && n.aborting.isNone then { s with nodes := tdel s.nodes node } else s
      else if shareDone s node n && donesIn s n then completeNode s node n
      else s)

/-! ### Multi-chip launches (R329, R330) -/

/-- Change a node's share. -/
def State.modMulti (s : State) (node : Nat) (f : Multi → Multi) : State :=
  s.modNode node (fun n => { n with multi := n.multi.map f })

/-- The node of a domain that holds a generation: on its origin, or a share that rank `root` launched (R329). -/
def nodeOfGen (s : State) (origin : Bool) (domain : Nat) (gen : Word) (root : Nat) : Option (Nat × Node) :=
  s.nodes.find? (fun e =>
    match e.2.multi with
    | some m => m.gen == gen && m.origin == origin && e.2.desc.domain == domain && (origin || m.root == root) && m.launched.isSome
    | none => false)

/-- Every workgroup of this part's share is placed, for a cooperative node (R329). -/
def sharePlaced (n : Node) : Bool := !n.desc.coop || decide (totalWorkgroups n ≤ n.next)

/-- The generation after a generation: 0 is skipped (R329). -/
def nextGen (g : Word) : Word := if g + 1 = 0 then 1 else g + 1

/-- A LAUNCH arrives from rank `root`, with the descriptor: the part enters its share, not ready before START (R329). A descriptor that
may not launch enters nothing, so no ACCEPT follows; where the pool is full, the message has not been taken yet (R319). -/
def takeLaunch (s : State) (gen : Word) (ctx q : Nat) (desc args : DWord) (raw : List DWord) (root : Nat) : State :=
  let raw := raw.map (fun x => x.toNat)
  let d := parseDesc (desc.toNat % 2 ^ 57) raw
  if 16384 ≤ poolCount s ∨ raw.length ≠ 32 ∨ descOk s raw d = false then s
  else
    match tget s.domains d.domain with
    | none => s
    | some x =>
      if d.multi then
        enterNode s (4096 + q) 0 ctx { d with preds := 0 } args (0, s.floor)
          (some { gen := gen, origin := false, root := root, rank := x.rank, accepts := [], dones := [], launched := some s.time,
                  accepted := false, started := false, aborted := false })
      else s

/-- Send a message of a node's launch to a part (R329, R330). -/
def sendMulti (s : State) (n : Node) (v : Multi) (m : MultiMessage) (rank : Nat) : State :=
  { s with out := s.out ++ [.multi rank n.desc.domain v.gen m] }

/-- Send it to every other part of the domain. -/
def sendParts (s : State) (n : Node) (v : Multi) (m : MultiMessage) : State :=
  match tget s.domains n.desc.domain with
  | some x => ((List.range x.size).filter (fun r => r != v.rank)).foldl (fun s r => sendMulti s n v m r) s
  | none => s

/-- LAUNCH of a node (R329). -/
def launchMessage (n : Node) : MultiMessage := .launch n.ctx (n.queue % 4096) (BitVec.ofNat 64 n.desc.addr) n.args n.desc.raw

/-- MULTI_LAUNCH: the origin stamps a ready node and sends LAUNCH, or a part takes one (R329). -/
def execMultiLaunch (m : MultiStep) (s : State) : Host.Outcome State Fault Refusal :=
  onPart s (fun s =>
    match m with
    | .send node =>
      match tget s.nodes node with
      | none => s
      | some n =>
        match n.multi, tget s.domains n.desc.domain with
        | some v, some x =>
          if v.origin && v.launched.isNone && n.state == .ready then
            let w := { v with gen := x.nextGen, launched := some s.time }
            sendParts { s.modMulti node (fun _ => w) with domains := tput s.domains n.desc.domain { x with nextGen := nextGen x.nextGen } }
              n w (launchMessage n)
          else s
        | _, _ => s
    | .takeLaunch gen ctx q desc args raw rank => takeLaunch s gen ctx q desc args raw rank
    | .take .. | .takeAbort .. => s)

/-- The share of a node that is to send ACCEPT (R329). -/
def Node.accepting (n : Node) : Option Multi :=
  n.multi.filter (fun m => !m.origin && !m.accepted && !m.aborted && n.state != .failed && sharePlaced n)

/-- MULTI_ACCEPT: a part sends it once the node is in its pool and, where cooperative, placed whole; the origin takes it
(R329). -/
def execMultiAccept (m : MultiStep) (s : State) : Host.Outcome State Fault Refusal :=
  onPart s (fun s =>
    match m with
    | .send node =>
      match tget s.nodes node with
      | some n =>
        match n.accepting with
        | some v => sendMulti (s.modMulti node (fun v => { v with accepted := true })) n v .accept v.root
        | none => s
      | none => s
    | .take domain gen rank =>
      match nodeOfGen s true domain gen rank with
      | some e => s.modMulti e.1 (fun v => { v with accepts := rank :: v.accepts.filter (fun r => r != rank) })
      | none => s
    | .takeLaunch .. | .takeAbort .. => s)

/-- Every other part has accepted (R329). -/
def accepted (s : State) (n : Node) : Bool :=
  match n.multi, tget s.domains n.desc.domain with
  | some m, some x => (List.range x.size).all (fun r => r == m.rank || m.accepts.contains r)
  | _, _ => false

/-- Every other part has accepted, and the origin's own share is placed where it must be (R329). -/
def acceptsIn (s : State) (n : Node) : Bool := sharePlaced n && accepted s n

/-- A share is ready from its START (R329): its wait for room counts from there (R324). -/
def Node.start (n : Node) (cyc : Nat) : Node :=
  match n.multi with
  | some m =>
    if m.aborted || n.state == .failed then n
    else { n with state := .ready, readyAt := if n.state = .ready then n.readyAt else cyc, waitFrom := cyc, multi := some { m with started := true } }
  | none => n

/-- MULTI_START: no workgroup of the node runs here before it (R329); a part that holds ABORT ignores it (R330). -/
def execMultiStart (m : MultiStep) (s : State) : Host.Outcome State Fault Refusal :=
  onPart s (fun s =>
    let start := fun (s : State) (node : Nat) => s.modNode node (fun n => n.start s.cyc)
    match m with
    | .send node =>
      match tget s.nodes node with
      | some n =>
        match n.multi with
        | some v =>
          if n.state == .ready && acceptsIn s n && v.origin && v.launched.isSome && !v.started && !v.aborted then
            sendParts (start s node) n v .start
          else s
        | none => s
      | none => s
    | .take domain gen rank =>
      match nodeOfGen s false domain gen rank with
      | some e => start s e.1
      | none => s
    | .takeLaunch .. | .takeAbort .. => s)

/-- MULTI_DONE: a part's share is done and leaves its pool; at the origin the last one completes the node (R329). -/
def execMultiDone (m : MultiStep) (s : State) : Host.Outcome State Fault Refusal :=
  onPart s (fun s =>
    match m with
    | .send node =>
      match tget s.nodes node with
      | some n =>
        match n.multi with
        | some v =>
          if shareDone s node n && !v.origin && v.started then
            sendMulti { s with nodes := tdel s.nodes node, hubLt := tsMax s.hubLt n.time } n v .done v.root
          else s
        | none => s
      | none => s
    | .take domain gen rank =>
      match nodeOfGen s true domain gen rank with
      | some e =>
        let s := s.modMulti e.1 (fun v => { v with dones := rank :: v.dones.filter (fun r => r != rank) })
        match tget s.nodes e.1 with
        | some n => if shareDone s e.1 n && donesIn s n then completeNode s e.1 n else s
        | none => s
      | none => s
    | .takeLaunch .. | .takeAbort .. => s)

/-- A launch aborts on this part (R330): what the origin has still to tell the other parts, a part has been told. -/
def abortNode (s : State) (node code : Nat) : State := failNode (s.modMulti node (fun v => { v with aborted := v.aborted || !v.origin })) node code

/-- MULTI_ABORT: the origin sends it for a failed node, and a part reports its failure to the origin; a part that takes it, or an origin
that takes a report, fails the node with the code reported (R330). -/
def execMultiAbort (m : MultiStep) (s : State) : Host.Outcome State Fault Refusal :=
  onPart s (fun s =>
    match m with
    | .send node =>
      match tget s.nodes node with
      | some n =>
        match n.aborting with
        | some v =>
          let s := s.modMulti node (fun v => { v with aborted := true })
          if v.origin then sendParts s n v (.abort v.code) else sendMulti s n v (.abort v.code) v.root
        | none => s
      | none => s
    | .takeAbort domain gen rank code =>
      let c := match code with
        | some x => x.number
        | none => 0
      match nodeOfGen s false domain gen rank, nodeOfGen s true domain gen rank with
      | some e, _ => abortNode s e.1 c
      | none, some e => abortNode s e.1 c
      | none, none => s
    | .takeLaunch .. | .take .. => s)

/-- 10 ms, in units of 1/20400 microsecond: it does not scale with the clock point (R5). -/
def tenMs : Nat := 204000000

/-- ACCEPT_TIMEOUT: an ACCEPT is missing 10 ms after LAUNCH (R330). -/
def execAcceptTimeout (node : Nat) (s : State) : Host.Outcome State Fault Refusal :=
  onPart s (fun s =>
    match tget s.nodes node with
    | none => s
    | some n =>
      match n.multi with
      | some m =>
        match m.launched with
        | some t => if m.origin && !m.started && !accepted s n && decide (t + tenMs ≤ s.time) then abortNode s node 0 else s
        | none => s
      | none => s)

/-- LINK_FAILURE: a link to a part of the domain fails (R330). -/
def execLinkFailure (domain rank : Nat) (s : State) : Host.Outcome State Fault Refusal :=
  onPart s (fun s =>
    match tget s.domains domain with
    | none => s
    | some x =>
      if rank < x.size then
        (s.nodes.filter (fun e => e.2.desc.domain == domain && (match e.2.multi with
          | some m => m.origin && m.launched.isSome && m.rank != rank
          | none => false))).foldl (fun s e => abortNode s e.1 0) s
      else s)

end Sys2Proof.Machine
end

