-- ==== Sys2Proof/Machine/Windows.lean ====
section
/-! DEFINITION. Peers: requests that arrive (R401), answers and errors that come back (R258), tagged arrivals and triggered
work (R403, R404). -/

namespace Sys2Proof.Machine

/-! ### Requests of peers (R401) -/

/-- The permission that a request class needs. -/
def Window.allows (w : Window) : PeerOp → Bool
  | .read => w.rd
  | .write _ | .set _ => w.wr
  | .atomic _ _ _ => w.at'

/-- The first check of R401 that a request fails; check 2 is not made for the service window (R410). -/
def windowError (s : State) (r : PeerRequest) : Option Nat :=
  let w := s.window r.window
  if !w.valid || w.gen != r.gen then some 1
  else if r.window != 4095 && w.part != r.part then some 2
  else if w.len < r.offset + r.size then some 3
  else if !w.allows r.op then some 4
  else none

/-- Append a record to the window error log (R401). -/
def logWindowError (s : State) (r : PeerRequest) (code : Nat) : State :=
  { s with
    windowLog := tput s.windowLog (s.windowErrors % 256)
      { offset := r.offset, window := r.window, part := r.part, rank := r.rank, code := code, cyc := s.cyc },
    windowErrors := s.windowErrors + 1 }

/-- Bytes of an access that lie in its first line. -/
def inLine (pa n : Nat) : Nat := min n (128 - pa % 128)

/-- Read bytes at their homes, line by line, at the hub's logical time (R416). -/
def readLines (key : Nat) : Nat → State → Nat → Nat → State × List Byte
  | 0, s, _, _ => (s, [])
  | fuel + 1, s, pa, n =>
    if n = 0 then (s, [])
    else
      let k := inLine pa n
      let (s, a) := homeRead s none key pa k
      let (s, b) := readLines key fuel s (pa + k) (n - k)
      (s, a ++ b)

/-- Write a peer's bytes at their homes, line by line, at the hub's logical time (R416). -/
def writeLines (key : Nat) : Nat → State → Nat → List Byte → State
  | 0, s, _, _ => s
  | fuel + 1, s, pa, bytes =>
    if bytes.isEmpty then s
    else
      let k := inLine pa bytes.length
      writeLines key fuel (homeWriteQuiet s none key pa (bytes.take k)) (pa + k) (bytes.drop k)

/-- Answer a peer. -/
def respond (s : State) (rank : Nat) (error : Option Nat) (data : List Byte) : State :=
  { s with out := s.out ++ [.response rank error data] }

/-- The request reads a double-bit error: it performs nothing, and is answered with the code of ECC_UNCORRECTED (R258, R413). -/
def requestFails (s : State) (w : Window) (r : PeerRequest) : Bool :=
  s.poisonedAt (w.base + r.offset) r.size && (match r.op with
    | .read | .atomic _ _ _ => true
    | .write _ | .set _ => false)

/-- Perform a request that has passed, as a device-scope access of a remote agent (R258, R401). -/
def performRequest (s : State) (w : Window) (r : PeerRequest) : State :=
  let pa := w.base + r.offset
  let lines := r.size / 128 + 2
  if requestFails s w r then respond s r.rank (some 0x10) []
  else
    match r.op with
    | .read =>
      let (s, b) := readLines w.key lines s pa r.size
      respond s r.rank none b
    | .write b => respond (writeLines w.key lines s pa (b.take r.size)) r.rank none []
    | .set x => respond (writeLines w.key lines s pa (toBytes r.size x.toNat)) r.rank none []
    | .atomic op x c =>
      let old := BitVec.ofNat 64 (ofBytes (s.physRead w.key pa r.size))
      let s := writeLines w.key lines s pa (toBytes r.size (atomicNew op r.size old x c).toNat)
      respond s r.rank none (toBytes r.size old.toNat)

/-- A tagged xput or xsig at a window with TRG is an arrival, once its bytes have been performed (R403). -/
def noteArrival (s : State) (w : Window) (r : PeerRequest) : State :=
  if w.trg && r.tag != 0 && r.op != .read then { s with arrivals := s.arrivals ++ [(r.window, r.tag)] } else s

/-! ### Frames in the service window (R410) -/

/-- Some ranges of offset and size cover the first `n` bytes. -/
def covers (l : List (Nat × Nat)) (n : Nat) : Bool := (List.range n).all (fun i => l.any (fun e => decide (e.1 ≤ i) && decide (i < e.1 + e.2)))

/-- Oluvos takes a peer's frame: it is dropped and counted, or waits for its turn (R394, R405, R410). -/
def takePeerFrame (s : State) (rank : Nat) (f : Frame) : State :=
  if !frameOk f || (f.service != 1 && (tget s.peerSessions rank).isNone) then dropFrame s
  else { s with asked := s.asked ++ [.peer rank f] }

/-- The frame in a slot is taken once every byte of it has been performed: the header first says how many there are (R410). -/
def slotArrived (s : State) (rank : Nat) : State :=
  let l := (tget s.arrivedBytes rank).getD []
  let pa := serviceBase + 4096 * rank
  let key := s.keyMapSlot serviceBase
  if covers l 16 then
    let len := numberAt (s.physRead key pa 16) 8 4
    if 4072 < len then dropFrame { s with arrivedBytes := tdel s.arrivedBytes rank }
    else if covers l (frameSize len) then
      let (s, b) := readLines key 34 { s with arrivedBytes := tdel s.arrivedBytes rank } pa (frameSize len)
      takePeerFrame s rank (parseFrame b)
    else s
  else s

/-- A write to the service window is a piece of the xput that brings a frame. A piece at a place that has been written since the last frame
begins another (R410; log entry 91). -/
def noteService (s : State) (r : PeerRequest) : State :=
  match r.op with
  | .write _ =>
    if r.window = 4095 then
      let rank := r.offset / 4096
      let at_ := r.offset % 4096
      let l := (tget s.arrivedBytes rank).getD []
      let again := l.any (fun e => decide (e.1 < at_ + r.size) && decide (at_ < e.1 + e.2))
      slotArrived { s with arrivedBytes := tput s.arrivedBytes rank ((if again then [] else l) ++ [(at_, r.size)]) } rank
    else s
  | .read | .set _ | .atomic _ _ _ => s

/-- A requester ID that a registered domain names (R398). -/
def named (s : State) (id : BitVec 16) : Bool := s.domains.any (fun e => e.2.links.any (fun l => l.2 == .hostPort id))

/-- PEER_REQUEST (R398, R401): one that came over the host port from a requester that no domain names is discarded and counted. -/
def execPeerRequest (r : PeerRequest) (s : State) : Host.Outcome State Fault Refusal :=
  onPart s (fun s =>
    let stranger := match r.via with
      | some id => !named s id
      | none => false
    if stranger then { s with strangers := s.strangers + 1 }
    else
      match windowError s r with
      | some code => respond (logWindowError s r code) r.rank (some code) []
      | none =>
        let w := s.window r.window
        let t := performRequest s w r
        if requestFails s w r then t else noteService (noteArrival t w r) r)

/-! ### Triggered work (R403, R404) -/

/-- An arrival counts towards an armed list (R403). -/
def Trigger.count1 (t : Trigger) : Trigger :=
  if t.threshold ≤ t.count + 1 then { t with count := 0, pending := t.pending + 1, armed := t.rearm } else { t with count := t.count + 1 }

/-- TRIGGER_ARRIVAL: an arrival is counted towards every armed list of its window and tag (R403). -/
def execTriggerArrival (window : Nat) (tag : BitVec 16) (s : State) : Host.Outcome State Fault Refusal :=
  onPart s (fun s =>
    if s.arrivals.contains (window, tag) then
      { s with arrivals := s.arrivals.erase (window, tag),
               triggers := s.triggers.map (fun e =>
                 if e.2.armed && e.2.window == window && e.2.tag == tag then (e.1, e.2.count1) else e) }
    else s)

/-- Change a trigger list. -/
def State.modTrigger (s : State) (k : Nat) (f : Trigger → Trigger) : State := { s with triggers := tmod s.triggers k f }

/-- A run stops: no further entry is performed, and NODE_ERROR names queue 0xFFF and the list (R345, R404). -/
def stopRun (s : State) (k : Nat) (code : Nat) : State :=
  match tget s.triggers k with
  | none => s
  | some t =>
    let s := s.modTrigger k (fun t => { t with run := none, progress := 0, awaiting := [] })
    s.post 0 (message (msgHeader 4 code t.ctx { core := 0, pipe := 0, gslot := 0, slot := 0 } 0) 0xFFF (BitVec.ofNat 64 k) 0 0 0)

/-- How far a run has come. -/
inductive RunEnd where
  | more                         -- a piece has been sent
  | done                         -- the entry has been performed
  | wait                         -- a peer has still to answer, or the pool is full
  | stop (code : Nat)
deriving DecidableEq, Repr

/-- What a global address of a list's context names. -/
def hubRegion (s : State) (ctx : Nat) (va : DWord) (u : PageUse) : State × Except FaultCode (Leaf × Region) :=
  if !canonical va then (s, .error .permission)
  else
    match translate s none ctx va u with
    | (s, .error e) => (s, .error e)
    | (s, .ok l) => (s, .ok (l, regionOf l.pa))

/-- Send a request of a run to a peer. -/
def sendRun (s : State) (k : Nat) (t : Trigger) (rank window offset size moved : Nat) (gen : BitVec 16) (op : PeerOp)
    (tag : BitVec 16) : State :=
  let n := s.serial
  let w : Who := { ref := refOf (Config.cores * 256) 4, wg := 0, node := n, ctx := t.ctx, pcs := { spc := 0, lpc := 0 }, seq := n }
  (sendRemote s w rank window offset size 0 gen op tag false (.trigger k)).modTrigger k (fun t =>
    { t with progress := t.progress + moved, awaiting := t.awaiting ++ [n] })

/-- The next piece of a put (R284, R404). -/
def runPut (s : State) (k : Nat) (t : Trigger) (src dst : DWord) (len : Nat) (tag : BitVec 16) : State × RunEnd :=
  let p := t.progress
  if len ≤ p then (s, if t.awaiting.isEmpty then .done else .wait)
  else
    let from_ := src + BitVec.ofNat 64 p
    let dest := dst + BitVec.ofNat 64 p
    let n := lineLeft dest (lineLeft from_ (len - p))
    let last := decide (len ≤ p + n)
    if last && tag != 0 && !t.awaiting.isEmpty then (s, .wait)
    else
      match hubRead s t.ctx from_ n with
      | (s, .error e) => (s, .stop e.number)
      | (s, .ok b) =>
        match hubRegion s t.ctx dest .store with
        | (s, .error e) => (s, .stop e.number)
        | (s, .ok (_, .remote rank window offset)) =>
          match importGen s rank window with
          | some gen => (sendRun s k t rank window offset n n gen (.write b) (if last then tag else 0), .more)
          | none => (s, .stop FaultCode.permission.number)
        | (s, .ok _) => (s, .stop FaultCode.permission.number)

/-- A signal of a run, at a peer or here (R285, R404). -/
def runSignal (s : State) (k : Nat) (t : Trigger) (set : Bool) (va v : DWord) (tag : BitVec 16) : State × RunEnd :=
  if t.progress != 0 then (s, if t.awaiting.isEmpty then .done else .wait)
  else if canonical va && va.toNat % 8 != 0 then (s, .stop FaultCode.align.number)
  else
    match hubRegion s t.ctx va .store with
    | (s, .error e) => (s, .stop e.number)
    | (s, .ok (_, .remote rank window offset)) =>
      match importGen s rank window with
      | some gen => (sendRun s k t rank window offset 8 8 gen (if set then .set v else .atomic 0 v 0) tag, .more)
      | none => (s, .stop FaultCode.permission.number)
    | (s, .ok (l, .memory _)) =>
      if !set && s.poisonedAt l.pa 8 then (s, .stop FaultCode.eccUncorrected.number)
      else
        let old : DWord := if set then 0 else BitVec.ofNat 64 (ofBytes (s.physRead l.key l.pa 8))
        (homeWrite s none l.key l.pa (toBytes 8 (old + v).toNat) (some t.ctx), .done)
    | (s, .ok _) => (s, .stop FaultCode.permission.number)

/-- A launch of a run: the node enters the pool as if queue `q` had taken the entry, PREDS and NSUCC being 0; it carries the logical time of
the hub, so that its acquire synchronises with the writes that the run's did (R257, R404). -/
def runLaunch (s : State) (t : Trigger) (va : DWord) (q : Nat) : State × RunEnd :=
  let v := s.queue q
  if 16384 ≤ poolCount s then (s, .wait)
  else if 4096 ≤ q ∨ !v.enabled ∨ !(s.context v.ctx).valid ∨ (s.context v.ctx).barred then (s, .stop FaultCode.permission.number)
  else
    match hubDwords s t.ctx va 8 with
    | (s, .error e) => (s, .stop e.number)
    | (s, .ok d) =>
      let bad := fun (s : State) => (charge s v.ctx, RunEnd.stop FaultCode.reservedField.number)
      if va.toNat % 64 != 0 || bitsAt (d.getD 0 0) 0 8 != 1 then bad s
      else
        match launchEntry s v.ctx d with
        | (s, none) => bad s
        | (s, some (x, args)) =>
          if x.preds != 0 || !x.succ.isEmpty then bad s
          else (enterNode s (4096 + q) 0 v.ctx x args (0, s.hubLt) (originShare s x), .done)

/-- Bytes of a list's entry, read one by one, the first that fails ending the read. -/
def runBytes (s : State) (ctx : Nat) (va : DWord) : State × Except FaultCode (List Byte) :=
  (List.range 32).foldl (fun (x : State × Except FaultCode (List Byte)) i =>
    match x with
    | (s, .error e) => (s, .error e)
    | (s, .ok l) =>
      match hubRead s ctx (va + BitVec.ofNat 64 i) 1 with
      | (s, .error e) => (s, .error e)
      | (s, .ok b) => (s, .ok (l ++ b))) (s, .ok [])

/-- Perform what entry i of a list still has to do (R404). -/
def runEntry (s : State) (k : Nat) (t : Trigger) (i : Nat) : State × RunEnd :=
  match runBytes s t.ctx (t.va + BitVec.ofNat 64 (32 * i)) with
  | (s, .error e) => (s, .stop e.number)
  | (s, .ok b) =>
    let va := fun (lo : Nat) => (BitVec.ofNat 64 (numberAt b lo 8) : DWord)
    let tag : BitVec 16 := BitVec.ofNat 16 (numberAt b 28 2)
    let reserved : State × RunEnd := (s, .stop FaultCode.reservedField.number)
    match numberAt b 0 1 with
    | 1 => if zeroBytes b 1 8 && zeroBytes b 30 32 then runPut s k t (va 8) (va 16) (numberAt b 24 4) tag else reserved
    | 2 =>
      if decide (numberAt b 1 1 ≤ 1) && zeroBytes b 2 8 && zeroBytes b 24 28 && zeroBytes b 30 32 then
        runSignal s k t (numberAt b 1 1 == 1) (va 8) (va 16) tag
      else reserved
    | 3 => if zeroBytes b 1 8 && zeroBytes b 18 32 then runLaunch s t (va 8) (numberAt b 16 2) else reserved
    | _ => reserved

/-- Perform the entries of a run until it waits, stops or ends; `fuel` bounds the pieces. -/
def runList (k : Nat) : Nat → State → State
  | 0, s => s
  | fuel + 1, s =>
    match tget s.triggers k with
    | none => s
    | some t =>
      match t.run with
      | none => s
      | some i =>
        if t.n ≤ i then s.modTrigger k (fun t => { t with run := none })
        else
          match runEntry s k t i with
          | (s, .more) => runList k fuel s
          | (_, .wait) => s
          | (s, .stop code) => stopRun s k code
          | (s, .done) => runList k fuel (s.modTrigger k (fun t => { t with run := some (i + 1), progress := 0, awaiting := [] }))

/-- TRIGGER_RUN: list k begins a run that an arrival started, or goes on with the one in progress (R403, R404). -/
def execTriggerRun (k : Nat) (s : State) : Host.Outcome State Fault Refusal :=
  onPart s (fun s =>
    let s := s.modTrigger k (fun t =>
      if t.run.isNone && decide (0 < t.pending) then { t with run := some 0, progress := 0, awaiting := [], pending := t.pending - 1 } else t)
    runList k (2 ^ 39) s)

/-! ### Answers of peers (R258) -/

/-- The agent of a request. -/
def whoseRequest (s : State) (m : Remote) : Who :=
  { ref := m.ref, wg := 0, node := m.node, ctx := s.nodeCtx m.node, pcs := m.pcs, seq := m.seq }

/-- Send the next piece of an Oluvos reply (R410). -/
def sendPut (s : State) (rank window : Nat) (gen : BitVec 16) : List (Nat × List Byte) → State
  | [] => s
  | (offset, b) :: rest =>
    let n := s.serial
    { s with
      remotes := tput s.remotes n
        { ref := refOf (Config.cores * 256) 4, gkey := Config.cores * 256, node := n, rank := rank, purpose := .put rest,
          pcs := { spc := 0, lpc := 0 }, seq := n, lane := 0, acq := false,
          request := { part := 0, window := window, gen := gen, rank := s.rank, offset := offset, size := b.length, op := .write b,
                       tag := 0 } },
      serial := s.serial + 1 }

/-- A peer answers remote request k with the data it asked for: a load or atomic gets its value, a command goes on, a run's
request is acknowledged (R258, R284, R404). -/
def peerAnswers (s : State) (k : Nat) (data : List Byte) : State :=
  match tget s.remotes k with
  | none => s
  | some m =>
    let s := { s with remotes := tdel s.remotes k }
    match m.purpose with
    | .load result a => s.modResult m.ref result (fun f => f.fill a.lane (extend a.ext a.size (ofBytes (data.take a.size))))
    | .atomic (some result) a => s.modResult m.ref result (fun f => f.fill a.lane (BitVec.ofNat 64 (ofBytes (data.take a.size))))
    | .atomic none _ | .store => s
    | .command id => commandAnswered s id k m data
    | .put rest => sendPut s m.rank m.request.window m.request.gen rest
    | .ignored => s
    | .completes node =>
      match tget s.nodes node with
      | some n => finishNode s node n n.time
      | none => s
    | .core k len size signed rd =>
      let c := s.cmdCore k
      let n := ofBytes (data.take size)
      let v : DWord := if signed then (BitVec.ofNat (8 * size) n).signExtend 64 else BitVec.ofNat 64 n
      let c := { c.put rd v with pc := c.pc + BitVec.ofNat 64 len, instret := c.instret + 1, asked := false }
      { s with commandCores := tput s.commandCores k c }
    | .resident _ size load => if load then { s with residentLoads := s.residentLoads ++ [BitVec.ofNat 64 (ofBytes (data.take size))] } else s
    | .trigger list => s.modTrigger list (fun t => { t with awaiting := t.awaiting.filter (fun n => n != k) })

/-- WINDOW_ERROR_RESPONSE: WINDOW_REVOKED is raised for every code; a failed load keeps its destination (R258, R280, R401,
R404, R410). -/
def execWindowErrorResponse (k _code : Nat) (s : State) : Host.Outcome State Fault Refusal :=
  onPart s (fun s =>
    match tget s.remotes k with
    | none => s
    | some m =>
      let s := { s with remotes := tdel s.remotes k }
      let w := whoseRequest s m
      let revoked := fun (a : Access) => s.defer w .windowRevoked a.lane a.va m.request.window none
      match m.purpose with
      | .load result a => (revoked a).modResult m.ref result (fun f => f.dropLane a.lane)
      | .atomic (some result) a => (revoked a).modResult m.ref result (fun f => f.dropLane a.lane)
      | .atomic none a => revoked a
      | .store => s.defer w .windowRevoked m.lane 0 m.request.window none
      | .command id => failCommand s id .windowRevoked 0 m.request.window
      | .put _ => { s with drops := s.drops + 1 }
      | .resident .. | .ignored => s
      | .completes node => failNode s node FaultCode.windowRevoked.number
      | .core k .. => { s with commandCores := tput s.commandCores k { (s.cmdCore k).trap 5 with asked := false } }
      | .trigger list =>
        match tget s.triggers list with
        | some t => if t.awaiting.contains k then stopRun s list FaultCode.windowRevoked.number else s
        | none => s)

end Sys2Proof.Machine
end

