-- ==== Sys2Proof/Machine/Services.lean ====
section
/-! DEFINITION. Oluvos: the host port and its frames (R393, R394), sessions and replies (R395, R396), mailbox requests (R405), the service
window (R410), forwarding to the resident kernel (R397), SPDM (R409), and the services that are no matter of boot or power (R402, R403,
R406). A service takes effect in one step, but RESET_CONTEXT, which drains its context. -/

namespace Sys2Proof.Machine

/-! ### Replies -/

/-- Write a reply to its slot of the host's reply window, and keep it (R395, R396). -/
def replyHost (s : State) (f : Frame) (st : Status) (payload : List Byte) : State :=
  match s.session with
  | none => s
  | some x =>
    let b := replyBytes f st payload
    { s with session := some { x with reply := some b },
             out := s.out ++ [.hostReply (x.window + BitVec.ofNat 64 (4096 * (f.seq.toNat % 256))) b] }

/-- Pieces of at most 128 bytes. -/
def piecesOf : Nat → Nat → List Byte → List (Nat × List Byte)
  | 0, _, _ => []
  | fuel + 1, off, b => if b.isEmpty then [] else (off, b.take 128) :: piecesOf fuel (off + 128) (b.drop 128)

/-- Write bytes to the reply area that a frame names, bytes 0 to 15 last (R410). -/
def putReply (s : State) (rank : Nat) (f : Frame) (b : List Byte) : State :=
  if f.payload.length < 8 then dropFrame s
  else
    let off := numberAt f.payload 4 4
    sendPut s rank (numberAt f.payload 0 2 % 4096) (BitVec.ofNat 16 (numberAt f.payload 2 2))
      (piecesOf b.length (off + 16) (b.drop 16) ++ [(off, b.take 16)])

/-- Answer a peer's frame, and keep the answer (R395, R410). -/
def replyPeer (s : State) (rank : Nat) (f : Frame) (st : Status) (payload : List Byte) : State :=
  let b := replyBytes f st payload
  putReply { s with peerSessions := tmod s.peerSessions rank (fun x => { x with reply := some b }) } rank f b

/-- Oluvos writes the answer into a mailbox slot, DONE last; the request is no longer in progress (R405). -/
def replyMail (s : State) (slot : Nat) (st : Status) (payload : List Byte) : State :=
  let w := Config.freeWord s.fresh 70
  let done := if w.lo = 0 then (1 : Word) else w.lo
  let p := payload.take 108
  let m := s.mailbox.writeBytes (128 * slot + 8) (toBytes 4 p.length ++ toBytes 4 st.number ++ p)
  { s with mailbox := m.writeBytes (128 * slot + 124) (toBytes 4 done.toNat), asked := s.asked.erase (.resident slot),
           serving := tdel s.serving slot }

/-! ### Requests -/

/-- SERVICE, PART with its reserved bits, and LENGTH of a mailbox request (R394, R405). -/
def mailService (s : State) (slot : Nat) : Nat := ofBytes (s.mailbox.readBytes (128 * slot) 2)
def mailPart (s : State) (slot : Nat) : Nat := ofBytes (s.mailbox.readBytes (128 * slot + 2) 2)
def mailLength (s : State) (slot : Nat) : Nat := ofBytes (s.mailbox.readBytes (128 * slot + 8) 4)

/-- The request is in progress on a command core (R405). -/
def requestStarted (s : State) : Source → Bool
  | .resident slot => (tget s.serving slot).isSome
  | .host _ | .peer _ _ => false

/-- The request may be served now: requests are served in their order of arrival, by four command cores, and none while the ROM writes the
flash (R405, R411). -/
def inTurn (s : State) (src : Source) : Bool :=
  s.asked.contains src && (s.asked.takeWhile (fun x => x != src)).all (requestStarted s) && s.flashing.isNone &&
  (requestStarted s src || decide (s.serving.length < 4))

/-- The mailbox slot holds a request for this service that may be served now (R405). -/
def mailRequest (s : State) (slot svc : Nat) : Bool := inTurn s (.resident slot) && mailService s slot == svc

/-- Who may call a service (R406). -/
structure Callers where
  host : Bool
  resident : Bool
  peer : Bool
deriving DecidableEq, Repr

/-- What a service does: its effect, its status and the payload of its reply. -/
abbrev Body := State → State × Status × List Byte

/-- The answer to an accepted request, if its caller and its partition may have it. -/
def answer (s : State) (allowed : Bool) (body : Body) (reply : State → Status → List Byte → State) : State :=
  if allowed then
    let (s, st, p) := body s
    reply s st p
  else reply s .denied []

/-- The services of R406 have a number from 1 to 14. -/
def serviceKnown (n : Nat) : Bool := decide (1 ≤ n) && decide (n ≤ 14)

/-- The port takes the frame that a slot holds: it is dropped and counted, or waits for cx.rfetch and for its turn. The recovery service
takes HELLO and RECOVER_IMAGE alone (R394, R405, R411). -/
def takeFrame (s : State) (slot : Nat) (f : Frame) : State :=
  let taken := { s with frames := s.frames ++ [(slot, f)], asked := s.asked ++ [.host f] }
  if !frameOk f || (f.service != 1 && s.session.isNone) then dropFrame s
  else
    match s.boot with
    | .rom => s
    | .recovery => if f.service = 1 ∨ f.service = 15 then taken else s
    | .oluvos | .running => taken

/-- The bytes of a slot are a whole frame, up to the last of its CRC (R394). -/
def wholeFrame (b : List Byte) : Bool := decide (20 ≤ b.length) && b.length == frameSize (numberAt b 8 4)

/-- The port takes a whole frame whose slot is free. -/
def takeSlot (s : State) (slot : Nat) : State :=
  match tget s.aperture slot with
  | some b =>
    if wholeFrame b && !s.frames.any (fun e => e.1 == slot) then takeFrame { s with aperture := tdel s.aperture slot } slot (parseFrame b) else s
  | none => s

/-- A byte arrives at the aperture. Frames are written in ascending order: one that is neither a slot's first byte nor the next is no part of
a frame, and a slot whose whole frame still waits for it to be free takes none (R394; log entry 91). A LENGTH out of range drops the frame as
its header is complete. -/
def apertureByte (s : State) (off : Nat) (b : Byte) : State :=
  let slot := off / 4096
  let have_ := (tget s.aperture slot).getD []
  if wholeFrame have_ then s
  else if off % 4096 = 0 ∨ off % 4096 = have_.length then
    let l := if off % 4096 = 0 then [b] else have_ ++ [b]
    if l.length = 16 ∧ 4072 < numberAt l 8 4 then dropFrame { s with aperture := tdel s.aperture slot }
    else takeSlot { s with aperture := tput s.aperture slot l } slot
  else s

/-- Bytes arrive at the aperture from an offset on. -/
def apertureWrite : Nat → List Byte → State → State
  | _, [], s => s
  | off, b :: l, s => apertureWrite (off + 1) l (if off < 2 ^ 20 then apertureByte s off b else s)

/-- Oluvos has fetched a frame that it serves, which frees its slot (R407). -/
def fetched (s : State) (f : Frame) : State :=
  let s := { s with asked := s.asked.erase (.host f) }
  match s.frames.find? (fun e => e.2 == f) with
  | some e => takeSlot { s with frames := s.frames.erase e } e.1
  | none => s

/-- Oluvos has taken a peer's frame that it serves. -/
def fetchedPeer (s : State) (rank : Nat) (f : Frame) : State := { s with asked := s.asked.erase (.peer rank f) }

/-- Serve a host's frame in its session (R395): the next is served, the last is answered again, any other is dropped. -/
def serveHost (s : State) (f : Frame) (allowed : Bool) (body : Body) : State :=
  let s := fetched s f
  match s.session with
  | none => s
  | some x =>
    if f.seq = x.last + 1 then
      answer { s with session := some { x with last := f.seq, reply := none } } (allowed && f.part == 0) body (fun s st p => replyHost s f st p)
    else if f.seq = x.last then
      match x.reply with
      | some b => { s with out := s.out ++ [.hostReply (x.window + BitVec.ofNat 64 (4096 * (f.seq.toNat % 256))) b] }
      | none => s
    else dropFrame s

/-- Serve a peer's frame in its session (R410). -/
def servePeer (s : State) (rank : Nat) (f : Frame) (allowed : Bool) (body : Body) : State :=
  let s := fetchedPeer s rank f
  match tget s.peerSessions rank with
  | none => dropFrame s
  | some x =>
    if f.seq = x.last + 1 then
      answer { s with peerSessions := tput s.peerSessions rank { x with last := f.seq, reply := none } } (allowed && f.part == 0) body
        (fun s st p => replyPeer s rank f st p)
    else if f.seq = x.last then
      match x.reply with
      | some b => putReply s rank f b
      | none => s
    else dropFrame s

/-- Serve a mailbox request: one of another partition is denied, one too long for its slot has a bad argument (R405; log entry 66). -/
def serveMail (s : State) (slot : Nat) (allowed : Bool) (body : Body) : State :=
  if allowed && mailPart s slot == 0 && decide (108 < mailLength s slot) then replyMail s slot .badArg []
  else answer s (allowed && mailPart s slot == 0) body (fun s st p => replyMail s slot st p)

/-- Serve a request for a service, by whoever makes it, in its turn. -/
def serve (s : State) (src : Source) (svc : Nat) (c : Callers) (body : Body) : State :=
  if oluvosUp s && inTurn s src then
    match src with
    | .resident slot => if mailService s slot = svc then serveMail s slot c.resident body else s
    | .host f => if f.service.toNat = svc then serveHost s f c.host body else s
    | .peer rank f => if f.service.toNat = svc then servePeer s rank f c.peer body else s
  else s

/-- The answer, in its turn, to a request whose number below 0x0100 is no service (R406). -/
def serveUnknown (s : State) (src : Source) : Option State :=
  if oluvosUp s && inTurn s src then
    match src with
    | .resident slot =>
      if mailService s slot < 256 ∧ serviceKnown (mailService s slot) = false then some (serveMail s slot true (fun s => (s, .badService, []))) else none
    | .host f =>
      if f.service.toNat < 256 ∧ serviceKnown f.service.toNat = false then some (serveHost s f true (fun s => (s, .badService, []))) else none
    | .peer _ _ => none
  else none

/-- Such requests are answered as their turn comes; `n` bounds their number. -/
def settleAsked : Nat → State → State
  | 0, s => s
  | n + 1, s =>
    match s.asked.findSome? (serveUnknown s) with
    | some t => settleAsked n t
    | none => s

/-! ### HELLO (R395, R396, R411) -/

/-- A HELLO of the host: it ends the session that was open, and its replies not yet written are not written. -/
def hostHello (s : State) (f : Frame) (window : DWord) : State :=
  let s := fetched s f
  let s := { s with forwarded := s.forwarded.map (fun e => (e.1, { e.2 with host := false })),
                    session := some { last := f.seq, window := window, reply := none } }
  if s.boot == .recovery then replyHost s f .retry (("RECOVERY".toList).map (fun c => BitVec.ofNat 8 c.toNat))
  else replyHost s f .ok (Config.helloReport s.rank (Config.imageVersion s.flash))

/-- A HELLO of a peer opens the session of its slot (R410). -/
def peerHello (s : State) (rank : Nat) (f : Frame) : State :=
  let s := fetchedPeer s rank f
  replyPeer { s with peerSessions := tput s.peerSessions rank { last := f.seq, window := 0, reply := none } } rank f .ok
    (Config.helloReport s.rank (Config.imageVersion s.flash))

/-- A HELLO of another partition is answered, and leaves every session as it is: to the host in the reply window that is registered, else in
the one that it names (R395; log entry 92). -/
def hostDenied (s : State) (f : Frame) (window : DWord) : State :=
  let s := fetched s f
  let base := match s.session with
    | some x => x.window
    | none => window
  { s with out := s.out ++ [.hostReply (base + BitVec.ofNat 64 (4096 * (f.seq.toNat % 256))) (replyBytes f .denied [])] }

/-- The same to a peer. -/
def peerDenied (s : State) (rank : Nat) (f : Frame) : State := putReply (fetchedPeer s rank f) rank f (replyBytes f .denied [])

/-- A peer's HELLO (R395, R410). -/
def servePeerHello (s : State) (rank : Nat) (f : Frame) : State := if f.part = 0 then peerHello s rank f else peerDenied s rank f

/-- HELLO (R395, R396, R410, R411). One that names a reply window not 4 KiB aligned is dropped (log entry 92). -/
def execHello (src : Source) (window : DWord) (s : State) : Host.Outcome State Fault Refusal :=
  onPart s (fun s =>
    match src with
    | .resident _ => serve s src 1 ⟨true, false, true⟩ (fun s => (s, .denied, []))
    | .host f =>
      if s.boot == .rom || !inTurn s src || f.service != 1 then s
      else if window.toNat % 4096 != 0 then dropFrame (fetched s f)
      else if f.part = 0 then hostHello s f window else hostDenied s f window
    | .peer rank f => if oluvosUp s && inTurn s src && f.service == 1 then servePeerHello s rank f else s)

/-! ### Contexts (R406) -/

/-- Nodes of a context. -/
def contextNodes (s : State) (ctx : Nat) : List (Nat × Node) := s.nodes.filter (fun e => e.2.ctx == ctx)

/-- A command core takes the request of a mailbox slot, and keeps it until it is answered (R405). -/
def startRequest (s : State) (slot : Nat) : State :=
  if (tget s.serving slot).isSome then s
  else
    match (List.range 4).find? (fun k => !s.serving.any (fun e => e.2 == k)) with
    | some k => { s with serving := tput s.serving slot k }
    | none => s

/-- RESET_CONTEXT: every node of the context fails; once nothing of them is left, VALID and GUILT are cleared and the request is
answered (R328, R406). -/
def resetContext (s : State) (ctx slot : Nat) : State :=
  let s := ((contextNodes s ctx).map (fun e => e.1)).foldl (fun s n => failNode s n 0) (startRequest s slot)
  if (contextNodes s ctx).isEmpty then
    replyMail (s.setContext ctx { s.context ctx with valid := false, guilt := 0, barred := false, unbarred := true }) slot .ok []
  else s

/-- RESET_CONTEXT (R406). -/
def execResetContext (src : Source) (ctx : Nat) (s : State) : Host.Outcome State Fault Refusal :=
  onPart s (fun s =>
    match src with
    | .resident slot =>
      if mailRequest s slot 2 && oluvosUp s && mailPart s slot == 0 && decide (mailLength s slot ≤ 108) && decide (ctx < 1024) then
        resetContext s ctx slot
      else serve s src 2 ⟨false, true, false⟩ (fun s => (s, .badArg, []))
    | .host _ | .peer _ _ => serve s src 2 ⟨false, true, false⟩ (fun s => (s, .denied, [])))

/-! ### Windows (R402) -/

/-- The bytes lie in near memory or in far memory. -/
def inMemory (base len : Nat) : Bool :=
  decide (base + len ≤ 2 ^ 38) || (decide (2 ^ 40 ≤ base) && decide (base + len ≤ 0x28000000000))

/-- The arguments of OPEN_WINDOW are those of a window (R400). -/
def windowArgsOk (a : WindowArgs) : Bool :=
  a.base % 128 == 0 && a.len % 128 == 0 && decide (128 ≤ a.len) && decide (a.len ≤ 2 ^ 32) && decide (a.key < 64) && inMemory a.base a.len

/-- Open a free window: which one is not fixed. Its GEN is one greater than that of its last opening: REVOKE_WINDOW has added the 1 already, and
one that was never open gets 1 (R402; log entry 88). -/
def openWindow (a : WindowArgs) : Body := fun s =>
  if !windowArgsOk a then (s, .badArg, [])
  else
    match pick s.fresh 60 ((List.range 4095).filter (fun w => !(s.window w).valid)) with
    | none => (s, .noRoom, [])
    | some w =>
      let g := (s.window w).gen
      let gen : BitVec 16 := if g = 0 then 1 else g
      let x : Window :=
        { valid := true, base := a.base, len := a.len, rd := a.rd, wr := a.wr, at' := a.at', trg := a.trg, key := a.key, part := a.part,
          gen := gen }
      ({ s with windows := tput s.windows w x }, .ok, Config.windowReport w gen)

/-- OPEN_WINDOW (R402). -/
def execOpenWindow (src : Source) (a : WindowArgs) (s : State) : Host.Outcome State Fault Refusal :=
  onPart s (fun s => serve s src 3 ⟨false, true, false⟩ (openWindow a))

/-- REVOKE_WINDOW: VALID is cleared and GEN goes up; requests that passed are performed as they pass, so none is left (R402). -/
def revokeWindow (w : Nat) : Body := fun s =>
  if 4095 ≤ w ∨ !(s.window w).valid then (s, .badArg, [])
  else ({ s with windows := tput s.windows w { s.window w with valid := false, gen := (s.window w).gen + 1 } }, .ok, [])

/-- REVOKE_WINDOW (R402). -/
def execRevokeWindow (src : Source) (window : Nat) (s : State) : Host.Outcome State Fault Refusal :=
  onPart s (fun s => serve s src 4 ⟨false, true, false⟩ (revokeWindow window))

/-! ### Reports, keys, domains (R226, R227, R406) -/

/-- A RAS event as a number for the report. -/
def RasEvent.number : RasEvent → Nat
  | .ecc c => 8 * c | .matrix c => 8 * c + 1 | .lockstep p => 8 * p + 2 | .floatPath c => 8 * c + 3 | .clock => 4 | .network => 5
  | .near => 6 | .link => 7

/-- The report of QUERY_RAS (R17, R222, R406, R413). -/
def rasPayload (s : State) : List Byte :=
  Config.rasReport Config.cores (s.dieTab.flatMap (fun e => e.2.audit.map (fun a => (e.1, a.1, a.2)))) s.drops s.strangers s.linkRetries
    (s.rasLog.map RasEvent.number)

/-- QUERY_RAS (R406). -/
def execQueryRas (src : Source) (s : State) : Host.Outcome State Fault Refusal :=
  onPart s (fun s => serve s src 5 ⟨true, true, true⟩ (fun s => (s, .ok, rasPayload s)))

/-- LOAD_KEY: into an empty slot of 1 to 63 (R406). -/
def loadKey (slot : Nat) (key : BitVec 512) : Body := fun s =>
  if slot = 0 ∨ 64 ≤ slot ∨ (tget s.keySlots slot).isSome then (s, .badArg, [])
  else ({ s with keySlots := tput s.keySlots slot { load := s.serial, value := key }, serial := s.serial + 1 }, .ok, [])

/-- LOAD_KEY (R406). -/
def execLoadKey (src : Source) (slot : Nat) (key : BitVec 512) (s : State) : Host.Outcome State Fault Refusal :=
  onPart s (fun s => serve s src 8 ⟨false, true, false⟩ (loadKey slot key))

/-- ERASE_KEY: the slot's lines leave the L2, then the key goes (R227). -/
def eraseKey (slot : Nat) : Body := fun s =>
  if slot = 0 ∨ 64 ≤ slot then (s, .badArg, [])
  else
    ({ s with keySlots := tdel s.keySlots slot,
              dieTab := s.dieTab.map (fun e => (e.1, { e.2 with l2 := e.2.l2.filter (fun l => l.key != slot) })) }, .ok, [])

/-- ERASE_KEY (R227, R406). -/
def execEraseKey (src : Source) (slot : Nat) (s : State) : Host.Outcome State Fault Refusal :=
  onPart s (fun s => serve s src 9 ⟨false, true, false⟩ (eraseKey slot))

/-- REGISTER_DOMAIN: a domain's size, this part's rank in it and the links to the others, which name the requesters that the host port accepts
the peer protocol from; a domain registered again keeps its generations (R329, R398, R406). -/
def registerDomain (a : DomainArgs) : Body := fun s =>
  if 2 ^ 14 ≤ a.id ∨ a.size = 0 ∨ 64 < a.size ∨ a.size ≤ a.rank then (s, .badArg, [])
  else
    let gen := match tget s.domains a.id with
      | some x => x.nextGen
      | none => 1
    ({ s with domains := tput s.domains a.id { size := a.size, rank := a.rank, nextGen := gen, links := a.links }, rank := a.rank }, .ok, [])

/-- REGISTER_DOMAIN (R406). -/
def execRegisterDomain (src : Source) (a : DomainArgs) (s : State) : Host.Outcome State Fault Refusal :=
  onPart s (fun s => serve s src 10 ⟨false, true, false⟩ (registerDomain a))

/-! ### Triggers (R403) -/

/-- A list that may be armed anew. -/
def listFree (s : State) (k : Nat) : Bool :=
  match tget s.triggers k with
  | some t => !t.armed && t.run.isNone && t.pending == 0
  | none => true

/-- ARM_TRIGGER: the lowest free list is armed on a window of the caller's context (R403). -/
def armTrigger (a : TriggerArgs) : Body := fun s =>
  let w := s.window a.window
  if 4096 ≤ a.window ∨ !w.valid ∨ w.part != BitVec.ofNat 12 (s.context a.ctx).part ∨ a.tag = 0 ∨ a.threshold = 0 ∨ 65535 < a.threshold ∨
      a.n = 0 ∨ 64 < a.n then (s, .badArg, [])
  else
    match (List.range 1024).find? (listFree s) with
    | none => (s, .noRoom, [])
    | some k =>
      let x : Trigger :=
        { ctx := a.ctx, window := a.window, tag := a.tag, threshold := a.threshold, rearm := a.rearm, va := a.va, n := a.n, count := 0,
          armed := true, run := none, progress := 0, pending := 0, awaiting := [] }
      ({ s with triggers := tput s.triggers k x }, .ok, toBytes 2 k)

/-- ARM_TRIGGER (R403, R406). -/
def execArmTrigger (src : Source) (a : TriggerArgs) (s : State) : Host.Outcome State Fault Refusal :=
  onPart s (fun s => serve s src 11 ⟨false, true, false⟩ (armTrigger a))

/-- DISARM_TRIGGER: a run in progress completes (R406). -/
def disarmTrigger (k : Nat) : Body := fun s =>
  if 1024 ≤ k then (s, .badArg, []) else (s.modTrigger k (fun t => { t with armed := false }), .ok, [])

/-- DISARM_TRIGGER (R406). -/
def execDisarmTrigger (src : Source) (list : Nat) (s : State) : Host.Outcome State Fault Refusal :=
  onPart s (fun s => serve s src 12 ⟨false, true, false⟩ (disarmTrigger list))

/-! ### SPDM, forwarding (R397, R409) -/

/-- The supported requests of SPDM 1.3, by their codes (R409; PRESUMED: the standard's, log entry 89). -/
inductive SpdmCode where
  | digests | certificate | challenge | version | measurements | capabilities | algorithms
deriving DecidableEq, Repr

def SpdmCode.number? : Nat → Option SpdmCode
  | 0x81 => some .digests | 0x82 => some .certificate | 0x83 => some .challenge | 0x84 => some .version | 0xE0 => some .measurements
  | 0xE1 => some .capabilities | 0xE3 => some .algorithms | _ => none

/-- The code of a request and of its response. -/
def SpdmCode.request : SpdmCode → Nat
  | .digests => 0x81 | .certificate => 0x82 | .challenge => 0x83 | .version => 0x84 | .measurements => 0xE0 | .capabilities => 0xE1
  | .algorithms => 0xE3
def SpdmCode.response (c : SpdmCode) : Nat := c.request - 0x80

/-- The stage in which a request is expected, and the one that it leaves: version, capabilities and algorithms come first, in that order. -/
def SpdmCode.expected (c : SpdmCode) (stage : Nat) : Bool :=
  match c with
  | .version => true
  | .capabilities => stage == 1
  | .algorithms => stage == 2
  | .digests | .certificate | .challenge | .measurements => stage == 3
def SpdmCode.leaves : SpdmCode → Nat
  | .version => 1 | .capabilities => 2 | .digests | .certificate | .challenge | .measurements | .algorithms => 3

/-- The four bytes that a message begins with. -/
def spdmHeader (c : SpdmCode) (p1 p2 : Nat) : List Byte :=
  [if c = .version then 0x10 else 0x13, BitVec.ofNat 8 c.response, BitVec.ofNat 8 p1, BitVec.ofNat 8 p2]

/-- An ERROR message. -/
def spdmError (code data : Nat) : List Byte := [0x13, 0x7F, BitVec.ofNat 8 code, BitVec.ofNat 8 data]

/-- The block of a measurement: its index, the DMTF form, its kind (0 ROM, 1 firmware, 2 configuration) and the SHA-384 value (R408, R409). -/
def measurementBlock (i : Nat) (m : BitVec 384) : List Byte :=
  [BitVec.ofNat 8 i, 1] ++ toBytes 2 51 ++ [if i = 1 then 0 else if i = 2 then 2 else 1] ++ toBytes 2 48 ++ digestBytes m

/-- The blocks of the measurements that are held, of those whose numbers are listed. -/
def measurementBlocks (s : State) (l : List Nat) : List (List Byte) :=
  l.filterMap (fun i => (tget s.measurements i).map (measurementBlock i))

/-- A nonce of 32 bytes. -/
def spdmNonce (s : State) : List Byte := (List.range 4).flatMap (fun i => toBytes 8 (Config.freeWord s.fresh (82 + i)).toNat)

/-- The layer key that signs: slot 0 is Oluvos's, of CDI1; slot 1 the resident kernel's, of CDI2 (R409; log entry 89). -/
def spdmKey (s : State) (slot : Nat) : Option (BitVec 384) := if slot = 1 then s.cdi2 else s.cdi1

/-- MEASUREMENTS: none but their number for operation 0, all for 255, else the one named; signed where the request asks for it. -/
def spdmMeasurements (s : State) (before request : List Byte) : Option (List Byte) :=
  let op := numberAt request 3 1
  let signed := numberAt request 2 1 % 2 == 1
  let slot := if signed then numberAt request 36 1 else 0
  let l := measurementBlocks s (if op = 0 then [] else if op = 255 then [1, 2, 3, 4] else [op])
  let count := if op = 0 then s.measurements.length else 0
  let context := (request.drop (if signed then 37 else 4)).take 8
  let m := spdmHeader .measurements count slot ++ [BitVec.ofNat 8 l.length] ++ toBytes 3 l.flatten.length ++ l.flatten ++ spdmNonce s ++
    toBytes 2 0 ++ context
  if l.isEmpty && op != 0 then none
  else some (if signed then m ++ Config.spdmSignature (spdmKey s slot) (before ++ request ++ m) else m)

/-- The response to a request that is expected. -/
def spdmAnswer (s : State) (c : SpdmCode) (before request : List Byte) : Option (List Byte) :=
  let m := spdmHeader c (numberAt request 2 1) 0 ++ Config.spdmBody c.request [s.cdi1, s.cdi2] request
  match c with
  | .measurements => spdmMeasurements s before request
  | .challenge => some (m ++ Config.spdmSignature (spdmKey s (numberAt request 2 1)) (before ++ request ++ m))
  | .version | .capabilities | .algorithms | .digests | .certificate => some m

/-- How far requester `who` has come. -/
def State.spdmOf (s : State) (who : Nat) : Spdm := (tget s.spdm who).getD { stage := 0, transcript := [] }

/-- The requester's state and the response to a request of its (R409): sessions, key exchange and whatever else is absent are unsupported
requests; one out of order is unexpected. -/
def spdmServe (s : State) (who : Nat) (request : List Byte) : State × List Byte :=
  let x := s.spdmOf who
  match SpdmCode.number? (numberAt request 1 1) with
  | none => (s, spdmError (if request.length < 4 then 1 else 7) (numberAt request 1 1))
  | some c =>
    let before := if c = .version then [] else x.transcript
    if request.length < 4 then (s, spdmError 1 0)
    else if c ≠ .version ∧ numberAt request 0 1 ≠ 0x13 then (s, spdmError 0x41 0)
    else if !c.expected x.stage then (s, spdmError 4 0)
    else
      match spdmAnswer s c before request with
      | none => (s, spdmError 1 0)
      | some m => ({ s with spdm := tput s.spdm who { stage := c.leaves, transcript := before ++ request ++ m } }, m)

/-- SPDM as a service of a requester. -/
def spdmBody (who : Nat) (request : List Byte) : Body := fun s =>
  let (s, m) := spdmServe s who request
  (s, .ok, m)

/-- SPDM: one request, which is the payload of the frame (R406, R409, R410). -/
def execSpdm (src : Source) (request : List Byte) (s : State) : Host.Outcome State Fault Refusal :=
  onPart s (fun s =>
    match src with
    | .resident _ => serve s src 13 ⟨true, false, true⟩ (spdmBody 0 request)
    | .host f => if request = f.payload then serve s src 13 ⟨true, false, true⟩ (spdmBody 0 request) else s
    | .peer rank f => if request = f.payload.drop 8 then serve s src 13 ⟨true, false, true⟩ (spdmBody (rank + 1) request) else s)

/-- SET_RPC_RING: a ring of `size` places of 4 KiB in memory (R397; log entry 68). -/
def setRing (base : DWord) (size : Nat) : Body := fun s =>
  if inMemory base.toNat (4096 * size) then ({ s with rpcRing := some (base, size) }, .ok, []) else (s, .badArg, [])

/-- SET_RPC_RING (R397). -/
def execSetRpcRing (src : Source) (base : DWord) (size : Nat) (s : State) : Host.Outcome State Fault Refusal :=
  onPart s (fun s => serve s src 14 ⟨false, true, false⟩ (setRing base size))

/-- The first free place of the ring, if there is one. -/
def ringPlace (s : State) (base : DWord) (n : Nat) : Option Nat :=
  ((List.range n).map (fun k => base.toNat + 4096 * k)).find? (fun a => !s.forwarded.any (fun e => e.2.place == a))

/-- Forward an accepted frame, with its PART, to the resident kernel's ring: its bytes are copied to a free place (R397). -/
def forward (s : State) (f : Frame) : State :=
  let s := fetched s f
  match s.rpcRing with
  | none => replyHost s f .badService []
  | some (base, n) =>
    match ringPlace s base n with
    | none => replyHost s f .busy []
    | some a =>
      let s := { s with forwarded := tput s.forwarded s.serial { frame := f, host := true, place := a }, serial := s.serial + 1 }
      writeLines (s.keyMapSlot a) 34 s a (frameBytes f)

/-- FORWARDED_SERVICE: services 0x0100 and above, of any partition (R395, R397). -/
def execForwardedService (src : Source) (s : State) : Host.Outcome State Fault Refusal :=
  onPart s (fun s =>
    match src with
    | .host f =>
      if !oluvosUp s || !inTurn s src || decide (f.service.toNat < 0x100) then s
      else
        match s.session with
        | none => s
        | some x =>
          if f.seq = x.last + 1 then forward { s with session := some { x with last := f.seq, reply := none } } f
          else serveHost s f false (fun s => (s, .denied, []))
    | .resident slot =>
      if oluvosUp s && inTurn s src && decide (0x100 ≤ mailService s slot) then replyMail s slot .badService [] else s
    | .peer rank f =>
      if oluvosUp s && inTurn s src && decide (0x100 ≤ f.service.toNat) then servePeer s rank f false (fun s => (s, .denied, [])) else s)

/-- The status of a number; one beyond the table stands for BAD_SERVICE. -/
def statusOf : Nat → Status
  | 0 => .ok | 2 => .badArg | 3 => .denied | 4 => .busy | 5 => .retry | 6 => .verifyFailed | 7 => .noRoom | _ => .badService

/-- The answer to forwarded frame k is written as the reply, unless its session has ended (R395, R397). -/
def replyForwarded (s : State) (k : Nat) (x : Forwarded) (status : Nat) (payload : List Byte) : State :=
  let s := { s with forwarded := tdel s.forwarded k }
  if x.host then
    match s.session with
    | some y =>
      let b := replyBytes x.frame (statusOf status) payload
      { s with session := some (if y.last = x.frame.seq then { y with reply := some b } else y),
               out := s.out ++ [.hostReply (y.window + BitVec.ofNat 64 (4096 * (x.frame.seq.toNat % 256))) b] }
    | none => s
  else s

/-- What stands at a place of the ring is this answer: LENGTH, STATUS and payload as R396 lays a reply out (R397; log entry 68). -/
def ringHolds (b : List Byte) (status : Nat) (payload : List Byte) : Bool :=
  decide (payload.length ≤ 4072) && numberAt b 8 4 == payload.length && numberAt b 12 4 == status && b.drop 16 == payload

/-- FORWARDED_REPLY: the resident kernel has answered forwarded frame k in its place of the ring (R395, R397). -/
def execForwardedReply (k status : Nat) (payload : List Byte) (s : State) : Host.Outcome State Fault Refusal :=
  onPart s (fun s =>
    match tget s.forwarded k with
    | none => s
    | some x =>
      let (t, b) := readLines (s.keyMapSlot x.place) 34 s x.place (16 + payload.length)
      if ringHolds b status payload then replyForwarded t k x status payload else s)

/-! ### The service window (R410) -/

/-- Serve a frame of the service window (R410): HELLO, QUERY_RAS and SPDM; every other service is denied. -/
def serveWindow (s : State) (rank : Nat) (f : Frame) : State :=
  match f.service.toNat with
  | 1 => servePeerHello s rank f
  | 5 => servePeer s rank f true (fun s => (s, .ok, rasPayload s))
  | 13 => servePeer s rank f true (spdmBody (rank + 1) (f.payload.drop 8))
  | _ => servePeer s rank f false (fun s => (s, .denied, []))

/-- SERVICE_WINDOW_FRAME: Oluvos serves a frame that it has taken from a rank's slot, in its turn (R405, R410). -/
def execServiceWindowFrame (rank : Nat) (f : Frame) (s : State) : Host.Outcome State Fault Refusal :=
  onPart s (fun s => if oluvosUp s && inTurn s (.peer rank f) then serveWindow s rank f else s)

/-! ### The host port (R393) -/

/-- A byte of the configuration space: the header is of Type 0 with one function; the command register and BAR0, a 64-bit, non-prefetchable
BAR of 1 MiB, hold what the host wrote; no other BAR is implemented (R393; PRESUMED: the standard's header, log entry 90). -/
def configSpace (s : State) (i : Nat) : Byte :=
  if i = 4 ∨ i = 5 then (toBytes 2 s.hostPort.command.toNat).getD (i - 4) 0
  else if i = 0xE then 0
  else if 0x10 ≤ i ∧ i < 0x18 then (toBytes 8 (s.hostPort.bar0.toNat + 4)).getD (i - 0x10) 0
  else if 0x18 ≤ i ∧ i < 0x28 then 0
  else Config.configByte i

/-- The host writes a dword of the configuration space. -/
def configWrite (s : State) (offset : Nat) (v : Word) : State :=
  let p := s.hostPort
  match offset with
  | 4 => { s with hostPort := { p with command := BitVec.ofNat 16 (v.toNat % 8) } }
  | 0x10 => { s with hostPort := { p with bar0 := BitVec.ofNat 64 (p.bar0.toNat / 2 ^ 32 * 2 ^ 32 + v.toNat / 2 ^ 20 * 2 ^ 20) } }
  | 0x14 => { s with hostPort := { p with bar0 := BitVec.ofNat 64 (p.bar0.toNat % 2 ^ 32 + v.toNat * 2 ^ 32) } }
  | _ => s

/-- The host reads a dword of the configuration space. -/
def configRead (s : State) (offset : Nat) : State :=
  { s with out := s.out ++ [.completion ((List.range 4).map (fun i => configSpace s (offset / 4 * 4 + i)))] }

/-- The offset in the message aperture of an address that BAR0 claims. -/
def apertureOffset (s : State) (addr : DWord) : Option Nat :=
  if s.hostPort.command.getLsbD 1 && decide (s.hostPort.bar0.toNat ≤ addr.toNat) && decide (addr.toNat < s.hostPort.bar0.toNat + 2 ^ 20) then
    some (addr.toNat - s.hostPort.bar0.toNat)
  else none

/-- The host writes memory space: the port is the target in BAR0 alone (R393, R394). -/
def hostWrite (s : State) (addr : DWord) (bytes : List Byte) : State :=
  match apertureOffset s addr with
  | some off => apertureWrite off bytes s
  | none => s

/-- The host reads memory space: the aperture reads all-ones (R393). -/
def hostRead (s : State) (addr : DWord) (n : Nat) : State :=
  match apertureOffset s addr with
  | some _ => { s with out := s.out ++ [.completion (List.replicate n 0xFF)] }
  | none => s

end Sys2Proof.Machine
end

