-- ==== Sys2Proof/Machine/Power.lean ====
section
/-! DEFINITION. Boot and recovery (R408, R411), reset and power (R24, R412), reliability events (R413), the resident image
(R408). -/

namespace Sys2Proof.Machine

/-! ### Reset (R24) -/

/-- The part after a reset: no state is retained but what stands outside it, the board's flash, and the model's own counters
and schedule. A reset while an image is being written leaves one that fails verification (R411). -/
def resetPart (s : State) : State :=
  { State.reset with
    flash := match s.flashing with
      | some b => Config.tornFlash s.fresh b
      | none => s.flash,
    torn := s.torn || s.flashing.isSome, boots := s.boots, schedule := s.schedule, fresh := s.fresh, serial := s.serial }

/-- HOST_LINK_RESET: the only wake; the part boots from the ROM (R24, R408). It is the one step of a part that is off. -/
def execHostLinkReset (s : State) : Host.Outcome State Fault Refusal := .next (bump (resetPart s))

/-- THERMAL_SHUTDOWN: the part turns off (R24, R412). -/
def execThermalShutdown (s : State) : Host.Outcome State Fault Refusal := onPart s (fun s => { resetPart s with power := false })

/-- MONITOR_RESET: the part resets, and the host link goes down; the event is logged (R413). -/
def execMonitorReset (s : State) : Host.Outcome State Fault Refusal :=
  onPart s (fun s => { resetPart s with rasLog := s.rasLog ++ [.clock] })

/-! ### Boot (R228, R408, R410) -/

/-- An Oluvos image that may start: both signatures, and the security version (R408). -/
def oluvosVerifies (image : List Byte) : Bool :=
  Config.rsaVerifies false image && Config.slhVerifies false image && decide (Config.fusedMinVersion ≤ Config.imageVersion image)

/-- The service window as Oluvos opens it (R410). -/
def serviceWindow : Window :=
  { valid := true, base := serviceBase, len := 2 ^ 18, rd := false, wr := true, at' := false, trg := false, key := 0, part := 0, gen := 1 }

/-- A command core that starts on the verified image: its core-local memory holds the image's bytes (R21, R407; log entry 18). -/
def CmdCore.started (image : List Byte) : CmdCore :=
  { CmdCore.reset with mem := Memory.writeBytes [] 0 (image.take Config.localMemorySize) }

/-- Steps 1 to 4 of the boot: measurements 1 and 2; verification, after which measurement 3 is taken; CDI1, and Oluvos started with a fresh
platform key; or the recovery service (R408, R411). -/
def bootPart (s : State) : State :=
  let m1 := sha384 Config.romImage
  let m2 := sha384 Config.fusedState
  let m3 := sha384 s.flash
  let s := { s with measurements := [(1, m1), (2, m2)] }
  if !s.torn && oluvosVerifies s.flash then
    { s with
      measurements := [(1, m1), (2, m2), (3, m3)],
      commandCores := (List.range 4).map (fun k => (k, CmdCore.started s.flash)),
      boot := .oluvos, boots := s.boots + 1, cdi1 := some (hmacSha384 Config.deviceSecret [m1, m2, m3]), udsReachable := false,
      keySlots := tput s.keySlots 0 { load := s.serial, value := Config.platformKey s.boots }, serial := s.serial + 1,
      windows := tput s.windows 4095 serviceWindow }
  else { s with boot := .recovery }

/-- BOOT (R408): the ROM's steps. -/
def execBoot (s : State) : Host.Outcome State Fault Refusal := onPart s (fun s => if s.boot = .rom then bootPart s else s)

/-- The first byte of the resident image in near memory (log entry 93). -/
def residentBase : Nat := Config.residentUnit % 2 ^ 10 * 2 ^ 28

/-- The resident cluster starts: the image stands in memory, and its 16 harts begin at it (R20, R408; log entry 93). -/
def startResident (s : State) (image : List Byte) : State :=
  let s := writeLines (s.keyMapSlot residentBase) (image.length / 128 + 2) s residentBase image
  { s with commandCores := (List.range 16).foldl (fun l h => tput l (4 + h) { CmdCore.reset with pc := BitVec.ofNat 64 residentBase }) s.commandCores }

/-- LOAD_RESIDENT_IMAGE: verified against the owner's keys, measured, started with CDI2; one that fails leaves measurement 4 absent and starts
nothing; a second load before a reset is denied (R408; log entry 66). -/
def loadResident (image : List Byte) : Body := fun s =>
  if s.imageAsked then (s, .denied, [])
  else if 2 ^ 28 < image.length then (s, .badArg, [])
  else if Config.rsaVerifies true image && Config.slhVerifies true image then
    let m4 := sha384 image
    let cdi2 := hmacSha384 (s.cdi1.getD 0) [m4]
    (startResident { s with measurements := tput s.measurements 4 m4, imageAsked := true, boot := .running, cdi2 := some cdi2,
                            cdi2Handed := some cdi2 } image, .ok, [])
  else ({ s with imageAsked := true }, .verifyFailed, [])

/-- LOAD_RESIDENT_IMAGE (R406, R408). -/
def execLoadResidentImage (src : Source) (image : List Byte) (s : State) : Host.Outcome State Fault Refusal :=
  onPart s (fun s => serve s src 7 ⟨true, false, false⟩ (loadResident image))

/-- A chunk of an Oluvos image in recovery; the last one has the whole image verified before the writing of it to the flash begins (R411). -/
def recoverChunk (s : State) (f : Frame) (last : Bool) : State :=
  let image := s.recovery ++ f.payload
  if !last then replyHost { s with recovery := image } f .ok []
  else if oluvosVerifies image then { s with recovery := [], flashing := some image }
  else replyHost { s with recovery := [] } f .verifyFailed []

/-- The writing of an image ends: the ROM resets the part, which boots again (R411). -/
def flashWritten (s : State) : State :=
  match s.flashing with
  | some b => resetPart { s with flash := b, torn := false, flashing := none }
  | none => s

/-- RECOVER_IMAGE (R395, R411): a service of recovery alone. -/
def execRecoverImage (f : Frame) (last : Bool) (s : State) : Host.Outcome State Fault Refusal :=
  onPart s (fun s =>
    if s.boot != .recovery || !inTurn s (.host f) || f.service != 15 then s
    else
      match s.session with
      | none => dropFrame (fetched s f)
      | some x =>
        if f.seq = x.last + 1 then
          let s := { fetched s f with session := some { x with last := f.seq, reply := none } }
          if f.part = 0 then recoverChunk s f last else replyHost s f .denied []
        else serveHost s f false (fun s => (s, .denied, [])))

/-! ### Power and cooling (R22, R412) -/

/-- SET_POWER_CAP: 300 to 2,000 W (R412). -/
def setCap (watts : Nat) : Body := fun s =>
  if watts < 300 ∨ 2000 < watts then (s, .badArg, [])
  else ({ s with powerCap := watts, issueClock := if s.throttled then .low else cappedPoint watts }, .ok, [])

/-- SET_POWER_CAP (R406, R412). -/
def execSetPowerCap (src : Source) (watts : Nat) (s : State) : Host.Outcome State Fault Refusal :=
  onPart s (fun s => serve s src 6 ⟨true, true, false⟩ (setCap watts))

/-- POWER_CAP_ADJUST: the average of 10 ms is what was measured, and whether the next higher point is predicted to fit is
Oluvos's own forecast; neither is fixed (R412, log entry 6). -/
def execPowerCapAdjust (s : State) : Host.Outcome State Fault Refusal :=
  onPart s (fun s =>
    if overCap s then { s with issueClock := lowerPoint s.issueClock }
    else if !s.throttled && fitsHigher s then { s with issueClock := higherPoint s.issueClock }
    else s)

/-- THERMAL_THROTTLE: a junction above 105 °C (R412). -/
def execThermalThrottle (s : State) : Host.Outcome State Fault Refusal :=
  onPart s (fun s => { s with throttled := true, issueClock := .low })

/-- THERMAL_THROTTLE_RELEASE: every junction is below 95 °C, and the point is that of the cap again (R412). -/
def execThermalThrottleRelease (s : State) : Host.Outcome State Fault Refusal :=
  onPart s (fun s => if s.throttled then { s with throttled := false, issueClock := cappedPoint s.powerCap } else s)

/-! ### Reliability (R413) -/

/-- The services that a pair of the command complex has in progress answer RETRY (R405, R413). -/
def retryServices (s : State) (pair : Nat) : State :=
  (s.serving.filter (fun e => e.2 == pair)).foldl (fun s e => replyMail s e.1 .retry []) s

/-- LOCKSTEP_ERROR: one of the four pairs restarts on the verified image, once Oluvos runs, and its services in progress answer RETRY (R21,
R413). -/
def execLockstepError (pair : Nat) (s : State) : Host.Outcome State Fault Refusal :=
  onPart s (fun s =>
    if pair < 4 then
      retryServices
        { s with commandCores := if oluvosUp s then tput s.commandCores pair (CmdCore.started s.flash) else tdel s.commandCores pair,
                 rasLog := s.rasLog ++ [.lockstep pair] } pair
    else s)

/-- FLOAT_PATH_FAULT: the core takes no new placement (R413). -/
def execFloatPathFault (core : Nat) (s : State) : Host.Outcome State Fault Refusal :=
  onPart s (fun s => { s.modCore core (fun c => { c with noPlacement := true }) with
    rasLog := s.rasLog ++ [.floatPath core], floatOnset := s.floatOnset.filter (fun k => k != core) })

/-- An error of near memory is masked, and logged; a retry of a link is counted, and logged (R413). -/
def nearError (s : State) : State := { s with rasLog := s.rasLog ++ [.near] }
def linkRetry (s : State) : State := { s with linkRetries := s.linkRetries + 1, rasLog := s.rasLog ++ [.link] }

/-- A command reads a double-bit error: it stops with ECC_UNCORRECTED (R280, R413). -/
def upsetCommand (s : State) (k : Nat) : State := if (tget s.commands k).isSome then failCommand s k .eccUncorrected 0 0 else s

/-- A double-bit error forms in a sector of memory (R413). -/
def formPoison (s : State) (pa : Nat) : State :=
  if s.poisoned.contains (pa / 32) then s else { s with poisoned := s.poisoned ++ [pa / 32] }

end Sys2Proof.Machine
end

