-- ==== Sys2Proof/Machine/Resident.lean ====
section
/-! DEFINITION. The resident cluster's side of the part: the control region as it reads and writes it (R201, R207, R208, R223,
R228, R311, R342, R347, R399 to R401, R405, R415), and its accesses to memory. -/

namespace Sys2Proof.Machine

/-- The state that an outcome goes on with; a stop changes nothing. -/
def nextOr (s : State) (o : Host.Outcome State Fault Refusal) : State :=
  match o with
  | .next t => t
  | .fault _ | .refused _ => s

/-! ### Where an offset lies (R201) -/

/-- A register or table of the control region, with the entry and its dword. -/
inductive Place where
  | context (ctx dword : Nat)
  | invalidation
  | retention (die range dword : Nat)
  | queue (q dword : Nat)
  | slot (die slot dword : Nat)
  | sluice (die dword : Nat)
  | save (ctx dword : Nat)
  | resume | reply | action | preemption
  | window (w dword : Nat)
  | importEntry (k dword : Nat)
  | keyMap (byte : Nat)
  | windowRecord (k dword : Nat)
  | windowCount
  | mailbox (byte : Nat)
  | doorbell
  | nothing
deriving DecidableEq, Repr

/-- The place of an 8-byte aligned offset. -/
def placeOf (off : Nat) : Place :=
  let d := fun (size base : Nat) => (off - base) % size / 8
  if off < 0x8000 then .context (off / 32) (d 32 0)
  else if off = 0x10000 then .invalidation
  else if 0x20000 ≤ off ∧ off < 0x24000 then
    if (off - 0x20000) % 0x1000 < 512 then .retention ((off - 0x20000) / 0x1000) ((off - 0x20000) % 0x1000 / 32) (d 32 0x20000) else .nothing
  else if 0x100000 ≤ off ∧ off < 0x120000 then .queue ((off - 0x100000) / 32) (d 32 0x100000)
  else if 0x200000 ≤ off ∧ off < 0x280000 then
    let die := (off - 0x200000) / 0x20000
    let o := (off - 0x200000) % 0x20000
    if o < 0x10000 then .slot die (o / 64) (o % 64 / 8) else if o < 0x10018 then .sluice die ((o - 0x10000) / 8) else .nothing
  else if 0x300000 ≤ off ∧ off < 0x304000 then .save ((off - 0x300000) / 16) (d 16 0x300000)
  else if off = 0x310000 then .resume
  else if off = 0x310008 then .reply
  else if off = 0x310010 then .action
  else if off = 0x310018 then .preemption
  else if 0x400000 ≤ off ∧ off < 0x420000 then .window ((off - 0x400000) / 32) (d 32 0x400000)
  else if 0x420000 ≤ off ∧ off < 0x430000 then .importEntry ((off - 0x420000) / 16) (d 16 0x420000)
  else if 0x440000 ≤ off ∧ off < 0x447000 then .keyMap (off - 0x440000)
  else if 0x460000 ≤ off ∧ off < 0x462000 then .windowRecord ((off - 0x460000) / 32) (d 32 0x460000)
  else if off = 0x470000 then .windowCount
  else if 0x480000 ≤ off ∧ off < 0x482000 then .mailbox (off - 0x480000)
  else if off = 0x482000 then .doorbell
  else .nothing

/-! ### Reads -/

/-- A flag at a bit. -/
def flag (b : Bool) (k : Nat) : Nat := if b then 2 ^ k else 0

/-- A dword of a context-table entry (R207). -/
def contextDword (c : Context) : Nat → Nat
  | 0 => c.wkey + c.root * 2 ^ 12 + c.part * 2 ^ 52
  | 1 => flag c.valid 0 + flag c.priv 1 + c.guilt * 2 ^ 8 + c.glimit * 2 ^ 16 + c.apin * 2 ^ 24 + flag c.apinen 26
  | _ => 0

/-- A retention range that has not been written. -/
def Retention.reset : Retention := { base := 0, limit := 0, ways := 0, j := 0, err := false, misses := 0 }

/-- A dword of a retention range (R223). -/
def retentionDword (r : Retention) : Nat → Nat
  | 0 => r.base * 2 ^ 7
  | 1 => r.limit * 2 ^ 7
  | 2 => r.ways + r.j * 2 ^ 4 + flag r.err 8
  | _ => 0

/-- A dword of a queue-table entry (R311): as last written. -/
def queueDword (q : Queue) (k : Nat) : Nat :=
  match tget q.later k with
  | some v =>
    match k with
    | 0 => bitsAt v 0 5 + bitsAt v 12 45 * 2 ^ 12
    | 1 => bitsAt v 0 10
    | _ => bitsAt v 2 50 * 4
  | none =>
    match k with
    | 0 => q.logsize + flag q.en 4 + q.base
    | 1 => q.ctx
    | 2 => q.tailpa
    | 3 => q.headpa
    | _ => 0

/-- A dword of a window-table entry (R400). -/
def windowDword (w : Window) : Nat → Nat
  | 0 => flag w.valid 0 + w.base
  | 1 => w.len
  | 2 => flag w.rd 0 + flag w.wr 1 + flag w.at' 2 + flag w.trg 3 + w.key * 2 ^ 4 + w.part.toNat * 2 ^ 16 + w.gen.toNat * 2 ^ 32
  | _ => 0

/-- An import entry that has not been written (R399). -/
def Import.reset : Import := { valid := false, rank := 0, window := 0, gen := 0 }

/-- A dword of an import entry (R399). -/
def importDword (e : Import) : Nat → Nat
  | 0 => flag e.valid 0 + e.rank * 2 + e.window * 2 ^ 8 + e.gen.toNat * 2 ^ 20
  | _ => 0

/-- What a read of a dword finds; a port, and an offset that holds nothing, reads as zero (R2, R415). -/
def placeRead (s : State) (p : Place) : Nat :=
  match p with
  | .context c k => contextDword (s.context c) k
  | .retention d j k => retentionDword ((tget (s.die d).retention j).getD Retention.reset) k
  | .queue q k => queueDword (s.queue q) k
  | .slot d i k => (((tget (s.sluice d).slots i).getD []).getD k 0).toNat
  | .sluice d k =>
    match k with
    | 0 => (s.sluice d).tail.toNat
    | 1 => (s.sluice d).head.toNat
    | _ => (s.sluice d).target.toNat
  | .save c k => if k = 0 then (s.saveEntry c).base else (s.saveEntry c).units + (s.saveEntry c).svclim * 2 ^ 16
  | .window w k => windowDword (s.window w) k
  | .importEntry e k => importDword ((tget s.imports e).getD Import.reset) k
  | .keyMap b => ofBytes (s.keyMap.readBytes b 8)
  | .windowRecord i k =>
    match tget s.windowLog i with
    | some e => Config.windowRecord e.offset e.window e.part e.rank e.code e.cyc k
    | none => 0
  | .windowCount => s.windowErrors
  | .mailbox b => ofBytes (s.mailbox.readBytes b 8)
  | .invalidation | .resume | .reply | .action | .preemption | .doorbell | .nothing => 0

/-! ### Writes -/

/-- A store to a context-table entry (R207, R222, R315): VALID acts where its byte is written. -/
def writeContext (s : State) (c dword v : Nat) (low : Bool) : State :=
  let x := s.context c
  match dword with
  | 0 => s.setContext c { x with wkey := bitsAt v 0 6, root := bitsAt v 12 40, part := bitsAt v 52 12 }
  | 1 =>
    let s := s.setContext c { x with priv := bitsAt v 1 1 == 1, glimit := bitsAt v 16 8, apin := bitsAt v 24 2, apinen := bitsAt v 26 1 == 1 }.judged
    if low then nextOr s (execContextValidWrite c (bitsAt v 0 1 == 1) s) else s
  | _ => s

/-- A store to a queue-table entry (R311). While the port stands at a wait entry of an enabled queue, a field other than EN
waits for the entry boundary. -/
def writeQueue (s : State) (q dword v : Nat) : State :=
  let x := s.queue q
  if x.en && x.waiting.isSome && !(dword == 0 && bitsAt v 4 1 == 0) then s.setQueue q { x with later := tput x.later dword v }
  else if dword = 0 ∧ bitsAt v 4 1 = 0 then s.setQueue q (x.boundary.written 0 v)
  else s.setQueue q (x.written dword v)

/-- A request of the invalidation port (R208). -/
def invalidationPort (s : State) (v : Nat) : State :=
  let ctx := bitsAt v 0 10
  if bitsAt v 57 7 != 0 then s
  else
    nextOr s (match bitsAt v 10 2 with
      | 0 => execInvalidatePage ctx (bitsAt v 12 45) s
      | 1 => execInvalidateContext ctx s
      | 2 => execInvalidateNonglobal ctx s
      | _ => execInvalidateAll s)

/-- A store to the resume port (R340, R341). DESIGN CHOICE (log entry 40): one whose reserved bit [11] is set is ignored, as R340 has it for
[63:57]. -/
def resumePort (s : State) (v : Nat) : State :=
  if bitsAt v 11 1 != 0 || bitsAt v 57 7 != 0 then s
  else nextOr s (if bitsAt v 10 1 = 0 then execReplay (bitsAt v 0 10) (bitsAt v 12 45) s else execFail (bitsAt v 0 10) (bitsAt v 12 45) s)

/-- A store to the reply port (R346). DESIGN CHOICE (log entry 40): one whose bits [31:26] are not 0 is ignored. -/
def replyPort (s : State) (v : Nat) : State :=
  if bitsAt v 26 6 != 0 then s else nextOr s (execReplyPortWrite (bitsAt v 0 16) (bitsAt v 16 10) (BitVec.ofNat 32 (bitsAt v 32 32)) s)

/-- A store to the action port (R334). -/
def actionPort (s : State) (v : Nat) : State :=
  let a : ActionArgs := { region := bitsAt v 0 16, ctx := bitsAt v 16 10, slot := bitsAt v 28 2 }
  if bitsAt v 30 34 != 0 then s
  else
    nextOr s (match bitsAt v 26 2 with
      | 0 => execResume a s
      | 1 => execRetry a s
      | 2 => execEndGroup a s
      | _ => execEndNode a s)

/-- A store to the pre-emption port (R351); a reserved mode or bit makes the port ignore it (log entry 40). -/
def preemptionPort (s : State) (v : Nat) : State :=
  let ctx := bitsAt v 0 10
  let hold := bitsAt v 12 1 == 1
  let tag : Word := BitVec.ofNat 32 (bitsAt v 32 32)
  if bitsAt v 29 3 != 0 then s
  else
    match bitsAt v 10 2 with
    | 0 => nextOr s (execPreemptContext ctx hold tag s)
    | 1 => nextOr s (execPreemptWorkgroup ctx (bitsAt v 13 16) hold tag s)
    | 2 => nextOr s (execReleaseHeld ctx tag s)
    | _ => s

/-- A store to the doorbell: the request waits for its turn (R405). -/
def ringDoorbell (s : State) (v : Nat) : State :=
  let slot := bitsAt v 0 32
  if 64 ≤ slot ∨ s.asked.contains (.resident slot) then s else { s with asked := s.asked ++ [.resident slot] }

/-- A byte of the key map keeps its six low bits (R228). -/
def keyMapBytes (v : Nat) : List Byte := (toBytes 8 v).map (fun b => b &&& 0x3F)

/-- A store of a dword to a place of the control region: `low` where byte 0 is written, `whole` where all are. -/
def placeWrite (s : State) (p : Place) (v : Nat) (low whole : Bool) : State :=
  match p with
  | .context c k => writeContext s c k v low
  | .invalidation => if whole then invalidationPort s v else s
  | .retention d j k => nextOr s (execRetentionRangeWrite d j k (BitVec.ofNat 64 v) s)
  | .queue q k => writeQueue s q k v
  | .sluice d k =>
    match k with
    | 1 => nextOr s (execSluiceHeadWrite d (BitVec.ofNat 32 v) s)
    | 2 => s.setSluice d { s.sluice d with target := BitVec.ofNat 16 v }
    | _ => s
  | .save c k =>
    let e := s.saveEntry c
    let e : SaveEntry := if k = 0 then { e with base := bitsAt v 16 36 * 2 ^ 16 } else { e with units := bitsAt v 0 16, svclim := bitsAt v 16 16 }
    { s with saveTable := tput s.saveTable c e }
  | .resume => if whole then resumePort s v else s
  | .reply => if whole then replyPort s v else s
  | .action => if whole then actionPort s v else s
  | .preemption => if whole then preemptionPort s v else s
  | .importEntry e k =>
    if k = 0 then
      let x : Import := { valid := bitsAt v 0 1 == 1, rank := bitsAt v 1 6, window := bitsAt v 8 12, gen := BitVec.ofNat 16 (bitsAt v 20 16) }
      { s with imports := tput s.imports e x }
    else s
  | .keyMap b => { s with keyMap := s.keyMap.writeBytes b (keyMapBytes v) }
  | .mailbox b => { s with mailbox := s.mailbox.writeBytes b (toBytes 8 v) }
  | .doorbell => if low then ringDoorbell s v else s
  | .slot .. | .window .. | .windowRecord .. | .windowCount | .nothing => s

/-- REGISTER_WRITE: a store of a whole dword to the control region (R201, R207, R228, R311, R342, R347, R399). -/
def execRegisterWrite (offset : Nat) (value : DWord) (s : State) : Host.Outcome State Fault Refusal :=
  onPart s (fun s => if offset % 8 = 0 then placeWrite s (placeOf offset) value.toNat true true else s)

/-! ### Accesses of the resident cluster (R20, R201, R228, R416) -/

/-- A store of fewer bytes leaves the other bytes of the dword as they read. -/
def mergeBytes (old v at_ size : Nat) : Nat :=
  ofBytes ((List.range 8).map (fun i =>
    if at_ ≤ i ∧ i < at_ + size then (BitVec.ofNat 8 (v / 256 ^ (i - at_)) : Byte) else BitVec.ofNat 8 (old / 256 ^ i)))

/-- The copy of a line that a hart's caches hold, if they still do, which is free (R245, R416; log entry 79). -/
def resCopy (s : State) (hart line key : Nat) : Option ResCopy :=
  (s.resCopies.find? (fun y => y.hart == hart && y.line == line && y.key == key)).filter
    (fun _ => Config.freeBit s.fresh (line * 16 + 11))

/-- Lines that the caches of a hart hold: 64 KiB for instructions, 64 KiB and 1 MiB for data (R20). -/
def cacheLines : Nat := (64 + 64 + 1024) * 1024 / 128

/-- A hart's caches hold the line as its home has it, with the line's times; the lines that they took longest ago make room. -/
def holdCopy (s : State) (hart line key : Nat) : State :=
  let (w, r) := s.ts line
  let y : ResCopy := { hart := hart, line := line, key := key, data := s.physRead key (128 * line) 128, wts := w, rts := r }
  { s with resCopies := y :: (s.resCopies.filter (fun x => x.hart == hart && x.line != line)).take (cacheLines - 1) ++
      s.resCopies.filter (fun x => x.hart != hart) }

/-- A load of memory by a hart: from its copy of the line under that copy's lease, else from the home, which renews the lease (R19,
R245, R416). -/
def residentRead (s : State) (hart pa size : Nat) : State × List Byte :=
  let key := s.keyMapSlot pa
  match (resCopy s hart (pa / 128) key).filter (fun y => tsLe s.hubLt y.rts) with
  | some y => (s.raiseLt none y.wts, (y.data.drop (pa % 128)).take size)
  | none =>
    let (s, b) := homeRead s none key pa size
    (holdCopy s hart (pa / 128) key, b)

/-- A store of memory by a hart: performed at the home, it updates the copy that the hart holds, whose lease then ends with the new
WTS (R246, R416). -/
def residentWrite (s : State) (hart pa : Nat) (bytes : List Byte) : State :=
  let key := s.keyMapSlot pa
  let held := s.resCopies.any (fun y => y.hart == hart && y.line == pa / 128)
  let s := homeWrite s none key pa bytes none
  if held then
    let s := holdCopy s hart (pa / 128) key
    { s with resCopies := s.resCopies.map (fun y => if y.hart = hart ∧ y.line = pa / 128 then { y with rts := y.wts } else y) }
  else s

/-- The link engine carries an access of the resident cluster to a peer (R201, R398): PART 0, for it has no context (log entry 79). -/
def residentSend (s : State) (a : ResAccess) (rank window offset : Nat) : State :=
  match importGen s rank window with
  | none => s
  | some gen =>
    let op : PeerOp := match a.data with
      | some v => .write (toBytes a.size v.toNat)
      | none => .read
    let n := s.serial
    { s with
      remotes := tput s.remotes n
        { ref := refOf (Config.cores * 256) 4, gkey := Config.cores * 256, node := n, rank := rank,
          purpose := .resident a.hart a.size a.data.isNone, pcs := { spc := 0, lpc := 0 }, seq := n, lane := 0, acq := false,
          request := { part := 0, window := window, gen := gen, rank := s.rank, offset := offset, size := a.size, op := op, tag := 0 } },
      serial := s.serial + 1 }

/-- An aligned store of at most a dword. -/
def residentStore (s : State) (a : ResAccess) (v : Nat) : State :=
  match regionOf a.pa with
  | .memory _ => residentWrite s a.hart a.pa (toBytes a.size v)
  | .control off =>
    let p := placeOf (off / 8 * 8)
    placeWrite s p (mergeBytes (placeRead s p) v (off % 8) a.size) (off % 8 == 0) (off % 8 == 0 && a.size == 8)
  | .remote rank window offset => residentSend s a rank window offset
  | .hole => s

/-- Values return to the resident cluster. -/
def residentReturns (s : State) (v : Nat) : State := { s with residentLoads := s.residentLoads ++ [BitVec.ofNat 64 v] }

/-- A load of a sluice slot, or of TAIL, is performed after the write that it reads: the hub's logical time moves past it, so that what the
write released is seen (R161, R246, R343). -/
def sluiceAcquire (s : State) (p : Place) : State :=
  match p with
  | .slot d i _ =>
    match tget (s.sluice d).times i with
    | some t => s.raiseLt none t
    | none => s
  | .sluice d 0 => if (s.sluice d).times.isEmpty then s else s.raiseLt none (s.sluice d).tailTime
  | _ => s

/-- An aligned load of at most a dword: its value returns, if the access has one; from a peer it returns with the peer's answer. -/
def residentLoad (s : State) (a : ResAccess) : State :=
  match regionOf a.pa with
  | .memory _ =>
    if s.poisonedAt a.pa a.size then s
    else
      let (s, b) := residentRead s a.hart a.pa a.size
      residentReturns s (ofBytes b)
  | .control off =>
    let p := placeOf (off / 8 * 8)
    residentReturns (sluiceAcquire s p) (bitsAt (placeRead s p) (8 * (off % 8)) (8 * a.size))
  | .remote rank window offset => residentSend s a rank window offset
  | .hole => s

/-- The load is one of the invalidation port (R208). -/
def loadsInvalidation (pa : Nat) : Bool :=
  match regionOf pa with
  | .control off => placeOf (off / 8 * 8) == .invalidation
  | _ => false

/-- The size and alignment of one access: 1, 2, 4 or 8 bytes, naturally aligned. -/
def residentOk (a : ResAccess) : Bool := [1, 2, 4, 8].contains a.size && a.pa % a.size == 0

/-- Harts of the resident cluster (R20). -/
def harts : Nat := 16

/-- An access of the resident cluster: a store, or a load whose value it takes. A hart whose load of the invalidation port waits makes
none. -/
def residentAccess (s : State) (a : ResAccess) : State :=
  if residentOk a && decide (a.hart < harts) && !s.portLoads.contains a.hart then
    let s := { s with curHart := a.hart }
    match a.data with
    | some v => residentStore s a v.toNat
    | none => if loadsInvalidation a.pa then nextOr s (execInvalidationPortLoad s) else residentLoad s a
  else s

/-- The external interrupt of a hart is pending: a sluice that names it in TARGET has HEAD differ from TAIL (R342). -/
def hartInterrupt (s : State) (hart : Nat) : Bool :=
  (List.range Config.dies).any (fun d => (s.sluice d).target.getLsbD hart && (s.sluice d).head != (s.sluice d).tail)

end Sys2Proof.Machine
end

