-- ==== Sys2Proof/Machine/Scalar.lean ====
section
/-! DEFINITION. The meanings of the integer, compare, immediate and literal forms of the scalar stream (R136 to R140). -/

namespace Sys2Proof.Machine

/-- sd := f of the sources, and on to the next word (R132, R136). -/
def scalarW (s : State) (sd : SReg) (v : State → Split → Word) : Host.Outcome State Fault Refusal :=
  onSplit s (fun r _ sp => s.setSplit r (retire s (writeS sp sd (v s sp)) 1))

/-- The pair pd := f of the sources, and on to the next word (R132, R136). -/
def scalarD (s : State) (pd : Pair) (v : State → Split → DWord) : Host.Outcome State Fault Refusal :=
  onSplit s (fun r _ sp => s.setSplit r (retire s (writeD sp pd (v s sp)) 1))

/-- A two-source 32-bit form. -/
def aluW (f : Word → Word → Word) (sd sa sb : SReg) (s : State) : Host.Outcome State Fault Refusal :=
  scalarW s sd (fun s sp => f (readS s sp sa) (readS s sp sb))

/-- A two-source 64-bit form. -/
def aluD (f : DWord → DWord → DWord) (pd pa pb : Pair) (s : State) : Host.Outcome State Fault Refusal :=
  scalarD s pd (fun s sp => f (readD s sp pa) (readD s sp pb))

/-- A one-source 32-bit form. -/
def unaryW (f : Word → Word) (sd sa : SReg) (s : State) : Host.Outcome State Fault Refusal :=
  scalarW s sd (fun s sp => f (readS s sp sa))

/-- A one-source 64-bit form. -/
def unaryD (f : DWord → DWord) (pd pa : Pair) (s : State) : Host.Outcome State Fault Refusal :=
  scalarD s pd (fun s sp => f (readD s sp pa))

/-- `sadd`: sum (R136). -/
def execSadd (sd sa sb : SReg) (s : State) : Host.Outcome State Fault Refusal := aluW (fun a b => a + b) sd sa sb s

/-- `ssub`: difference (R136). -/
def execSsub (sd sa sb : SReg) (s : State) : Host.Outcome State Fault Refusal := aluW (fun a b => a - b) sd sa sb s

/-- `sand`: AND (R136). -/
def execSand (sd sa sb : SReg) (s : State) : Host.Outcome State Fault Refusal := aluW (fun a b => a &&& b) sd sa sb s

/-- `sor`: OR (R136). -/
def execSor (sd sa sb : SReg) (s : State) : Host.Outcome State Fault Refusal := aluW (fun a b => a ||| b) sd sa sb s

/-- `sxor`: XOR (R136). -/
def execSxor (sd sa sb : SReg) (s : State) : Host.Outcome State Fault Refusal := aluW (fun a b => a ^^^ b) sd sa sb s

/-- `sandn`: AND NOT (R136). -/
def execSandn (sd sa sb : SReg) (s : State) : Host.Outcome State Fault Refusal := aluW (fun a b => a &&& ~~~b) sd sa sb s

/-- `ssll`: left shift (R136). -/
def execSsll (sd sa sb : SReg) (s : State) : Host.Outcome State Fault Refusal := aluW (fun a b => shl a b) sd sa sb s

/-- `ssrl`: logical right shift (R136). -/
def execSsrl (sd sa sb : SReg) (s : State) : Host.Outcome State Fault Refusal := aluW (fun a b => shr a b) sd sa sb s

/-- `ssra`: arithmetic right shift (R136). -/
def execSsra (sd sa sb : SReg) (s : State) : Host.Outcome State Fault Refusal := aluW (fun a b => sar a b) sd sa sb s

/-- `smul`: low half of the product (R136). -/
def execSmul (sd sa sb : SReg) (s : State) : Host.Outcome State Fault Refusal := aluW (fun a b => a * b) sd sa sb s

/-- `smulh`: high half of the signed product (R136). -/
def execSmulh (sd sa sb : SReg) (s : State) : Host.Outcome State Fault Refusal := aluW (fun a b => mulHS a b) sd sa sb s

/-- `smulhu`: high half of the unsigned product (R136). -/
def execSmulhu (sd sa sb : SReg) (s : State) : Host.Outcome State Fault Refusal := aluW (fun a b => mulHU a b) sd sa sb s

/-- `sdiv`: signed quotient (R137). -/
def execSdiv (sd sa sb : SReg) (s : State) : Host.Outcome State Fault Refusal := aluW (fun a b => divS a b) sd sa sb s

/-- `sdivu`: unsigned quotient (R137). -/
def execSdivu (sd sa sb : SReg) (s : State) : Host.Outcome State Fault Refusal := aluW (fun a b => divU a b) sd sa sb s

/-- `srem`: signed remainder (R137). -/
def execSrem (sd sa sb : SReg) (s : State) : Host.Outcome State Fault Refusal := aluW (fun a b => remS a b) sd sa sb s

/-- `sremu`: unsigned remainder (R137). -/
def execSremu (sd sa sb : SReg) (s : State) : Host.Outcome State Fault Refusal := aluW (fun a b => remU a b) sd sa sb s

/-- `smin`: signed lesser (R136). -/
def execSmin (sd sa sb : SReg) (s : State) : Host.Outcome State Fault Refusal := aluW (fun a b => minS a b) sd sa sb s

/-- `smax`: signed greater (R136). -/
def execSmax (sd sa sb : SReg) (s : State) : Host.Outcome State Fault Refusal := aluW (fun a b => maxS a b) sd sa sb s

/-- `sminu`: unsigned lesser (R136). -/
def execSminu (sd sa sb : SReg) (s : State) : Host.Outcome State Fault Refusal := aluW (fun a b => minU a b) sd sa sb s

/-- `smaxu`: unsigned greater (R136). -/
def execSmaxu (sd sa sb : SReg) (s : State) : Host.Outcome State Fault Refusal := aluW (fun a b => maxU a b) sd sa sb s

/-- `sclz`: leading zeros (R136). -/
def execSclz (sd sa : SReg) (s : State) : Host.Outcome State Fault Refusal := unaryW (fun a => clz a) sd sa s

/-- `spop`: one bits (R136). -/
def execSpop (sd sa : SReg) (s : State) : Host.Outcome State Fault Refusal := unaryW (fun a => popcount a) sd sa s

/-- `sbrev`: reversed bits (R136). -/
def execSbrev (sd sa : SReg) (s : State) : Host.Outcome State Fault Refusal := unaryW (fun a => bitrev a) sd sa s

/-- `sctz`: trailing zeros (R136). -/
def execSctz (sd sa : SReg) (s : State) : Host.Outcome State Fault Refusal := unaryW (fun a => ctz a) sd sa s

/-- `sadd.d`: sum (R136). -/
def execSaddD (pd pa pb : Pair) (s : State) : Host.Outcome State Fault Refusal := aluD (fun a b => a + b) pd pa pb s

/-- `ssub.d`: difference (R136). -/
def execSsubD (pd pa pb : Pair) (s : State) : Host.Outcome State Fault Refusal := aluD (fun a b => a - b) pd pa pb s

/-- `sand.d`: AND (R136). -/
def execSandD (pd pa pb : Pair) (s : State) : Host.Outcome State Fault Refusal := aluD (fun a b => a &&& b) pd pa pb s

/-- `sor.d`: OR (R136). -/
def execSorD (pd pa pb : Pair) (s : State) : Host.Outcome State Fault Refusal := aluD (fun a b => a ||| b) pd pa pb s

/-- `sxor.d`: XOR (R136). -/
def execSxorD (pd pa pb : Pair) (s : State) : Host.Outcome State Fault Refusal := aluD (fun a b => a ^^^ b) pd pa pb s

/-- `sandn.d`: AND NOT (R136). -/
def execSandnD (pd pa pb : Pair) (s : State) : Host.Outcome State Fault Refusal := aluD (fun a b => a &&& ~~~b) pd pa pb s

/-- `ssll.d`: left shift (R136). -/
def execSsllD (pd pa pb : Pair) (s : State) : Host.Outcome State Fault Refusal := aluD (fun a b => shl a b) pd pa pb s

/-- `ssrl.d`: logical right shift (R136). -/
def execSsrlD (pd pa pb : Pair) (s : State) : Host.Outcome State Fault Refusal := aluD (fun a b => shr a b) pd pa pb s

/-- `ssra.d`: arithmetic right shift (R136). -/
def execSsraD (pd pa pb : Pair) (s : State) : Host.Outcome State Fault Refusal := aluD (fun a b => sar a b) pd pa pb s

/-- `smul.d`: low half of the product (R136). -/
def execSmulD (pd pa pb : Pair) (s : State) : Host.Outcome State Fault Refusal := aluD (fun a b => a * b) pd pa pb s

/-- `smulh.d`: high half of the signed product (R136). -/
def execSmulhD (pd pa pb : Pair) (s : State) : Host.Outcome State Fault Refusal := aluD (fun a b => mulHS a b) pd pa pb s

/-- `smulhu.d`: high half of the unsigned product (R136). -/
def execSmulhuD (pd pa pb : Pair) (s : State) : Host.Outcome State Fault Refusal := aluD (fun a b => mulHU a b) pd pa pb s

/-- `sdiv.d`: signed quotient (R137). -/
def execSdivD (pd pa pb : Pair) (s : State) : Host.Outcome State Fault Refusal := aluD (fun a b => divS a b) pd pa pb s

/-- `sdivu.d`: unsigned quotient (R137). -/
def execSdivuD (pd pa pb : Pair) (s : State) : Host.Outcome State Fault Refusal := aluD (fun a b => divU a b) pd pa pb s

/-- `srem.d`: signed remainder (R137). -/
def execSremD (pd pa pb : Pair) (s : State) : Host.Outcome State Fault Refusal := aluD (fun a b => remS a b) pd pa pb s

/-- `sremu.d`: unsigned remainder (R137). -/
def execSremuD (pd pa pb : Pair) (s : State) : Host.Outcome State Fault Refusal := aluD (fun a b => remU a b) pd pa pb s

/-- `smin.d`: signed lesser (R136). -/
def execSminD (pd pa pb : Pair) (s : State) : Host.Outcome State Fault Refusal := aluD (fun a b => minS a b) pd pa pb s

/-- `smax.d`: signed greater (R136). -/
def execSmaxD (pd pa pb : Pair) (s : State) : Host.Outcome State Fault Refusal := aluD (fun a b => maxS a b) pd pa pb s

/-- `sminu.d`: unsigned lesser (R136). -/
def execSminuD (pd pa pb : Pair) (s : State) : Host.Outcome State Fault Refusal := aluD (fun a b => minU a b) pd pa pb s

/-- `smaxu.d`: unsigned greater (R136). -/
def execSmaxuD (pd pa pb : Pair) (s : State) : Host.Outcome State Fault Refusal := aluD (fun a b => maxU a b) pd pa pb s

/-- `sclz.d`: leading zeros (R136). -/
def execSclzD (pd pa : Pair) (s : State) : Host.Outcome State Fault Refusal := unaryD (fun a => clz a) pd pa s

/-- `spop.d`: one bits (R136). -/
def execSpopD (pd pa : Pair) (s : State) : Host.Outcome State Fault Refusal := unaryD (fun a => popcount a) pd pa s

/-- `sbrev.d`: reversed bits (R136). -/
def execSbrevD (pd pa : Pair) (s : State) : Host.Outcome State Fault Refusal := unaryD (fun a => bitrev a) pd pa s

/-- `sctz.d`: trailing zeros (R136). -/
def execSctzD (pd pa : Pair) (s : State) : Host.Outcome State Fault Refusal := unaryD (fun a => ctz a) pd pa s

/-! ### Compares (R140) -/

/-- `scc.<cond>` (R140). -/
def execScc (c : Cond) (sd sa sb : SReg) (s : State) : Host.Outcome State Fault Refusal :=
  scalarW s sd (fun s sp => if condHolds c (readS s sp sa) (readS s sp sb) then 1 else 0)

/-- `scc.<cond>.d` (R140). -/
def execSccD (c : Cond) (sd : SReg) (pa pb : Pair) (s : State) : Host.Outcome State Fault Refusal :=
  scalarW s sd (fun s sp => if condHolds c (readD s sp pa) (readD s sp pb) then 1 else 0)

/-! ### Immediates (R65, R138, R139) -/

/-- `saddi`, its immediate sign-extended (R65, R138). -/
def execSaddi (sd sa : SReg) (imm : BitVec 14) (s : State) : Host.Outcome State Fault Refusal :=
  unaryW (fun a => a + imm.signExtend 32) sd sa s

/-- `sandi`, its immediate zero-extended (R65, R138). -/
def execSandi (sd sa : SReg) (imm : BitVec 14) (s : State) : Host.Outcome State Fault Refusal :=
  unaryW (fun a => a &&& imm.setWidth 32) sd sa s

/-- `sori`, its immediate zero-extended (R65, R138). -/
def execSori (sd sa : SReg) (imm : BitVec 14) (s : State) : Host.Outcome State Fault Refusal :=
  unaryW (fun a => a ||| imm.setWidth 32) sd sa s

/-- `sxori`, its immediate zero-extended (R65, R138). -/
def execSxori (sd sa : SReg) (imm : BitVec 14) (s : State) : Host.Outcome State Fault Refusal :=
  unaryW (fun a => a ^^^ imm.setWidth 32) sd sa s

/-- `sslli` (R138). -/
def execSslli (sd sa : SReg) (amount : Fin 32) (s : State) : Host.Outcome State Fault Refusal :=
  unaryW (fun a => a <<< amount.val) sd sa s

/-- `ssrli` (R138). -/
def execSsrli (sd sa : SReg) (amount : Fin 32) (s : State) : Host.Outcome State Fault Refusal :=
  unaryW (fun a => a >>> amount.val) sd sa s

/-- `ssrai` (R138). -/
def execSsrai (sd sa : SReg) (amount : Fin 32) (s : State) : Host.Outcome State Fault Refusal :=
  unaryW (fun a => a.sshiftRight amount.val) sd sa s

/-- `saddi.d`, its immediate sign-extended to 64 bits (R138). -/
def execSaddiD (pd pa : Pair) (imm : BitVec 14) (s : State) : Host.Outcome State Fault Refusal :=
  unaryD (fun a => a + imm.signExtend 64) pd pa s

/-- `sli`: the literal word (R139). -/
def execSli (sd : SReg) (imm : Word) (s : State) : Host.Outcome State Fault Refusal :=
  onSplit s (fun r _ sp => s.setSplit r (retire s (writeS sp sd imm) 2))

end Sys2Proof.Machine
end

