-- ==== Sys2Proof/Machine/ScalarMem.lean ====
section
/-! DEFINITION. The meanings of the scalar loads, stores and atomics (R259 to R261, R264, R265, R269). -/

namespace Sys2Proof.Machine

/-- The address of a scalar form (R259): base + sext(index) + sext(offset), modulo 2^64. -/
def scalarAddress (s : State) (sp : Split) (base : Pair) (index : Word) (m : MemFields) : DWord :=
  readD s sp base + index.signExtend 64 + m.off.signExtend 64

/-- A scalar memory word: its check at issue (R260), its waits (R232, R246, R339), then its one access. `dest` is what the
value it returns is written to, none for a store. -/
def scalarMem (s : State) (m : MemFields) (acc : State → Split → Access) (dest : Option (List RegWrite)) :
    Host.Outcome State Fault Refusal :=
  onSplit s (fun r g sp =>
    let a := acc s sp
    match globalCheck [a] with
    | some c => faultScalar s r sp 2 c 0 a.va
    | none =>
      let w := whoOf s r g sp
      match memoryStall s w m [a] with
      | some c => stallAt s r sp c
      | none =>
        let sp' := match dest with
          | some ws => issueResult sp s.serial ws [96]
          | none => sp
        performAll { s.setSplit r (retire s sp' 2) with serial := s.serial + 1 } w m (dest.map (fun _ => w.seq)) [a])

/-- A scalar load of n bytes (R264). -/
def scalarLoad (s : State) (n : Nat) (e : Ext) (base : Pair) (si : SReg) (m : MemFields) (dest : List RegWrite) :
    Host.Outcome State Fault Refusal :=
  scalarMem s m (fun s sp =>
    { lane := 96, va := scalarAddress s sp base (readS s sp si) m, size := n, op := .load, data := 0, compare := 0, ext := e })
    (some dest)

/-- A scalar store of n bytes (R264). -/
def scalarStore (s : State) (n : Nat) (base : Pair) (si : SReg) (m : MemFields) (data : State → Split → DWord) :
    Host.Outcome State Fault Refusal :=
  scalarMem s m (fun s sp =>
    { lane := 96, va := scalarAddress s sp base (readS s sp si) m, size := n, op := .store, data := data s sp, compare := 0,
      ext := .zero }) none

/-- A scalar atomic of n bytes; `index` is none for cas, whose index field names the values (R265). -/
def scalarAtomic (s : State) (op n : Nat) (base : Pair) (index : Option SReg) (m : MemFields)
    (data compare : State → Split → DWord) (dest : List RegWrite) : Host.Outcome State Fault Refusal :=
  scalarMem s m (fun s sp =>
    { lane := 96, va := scalarAddress s sp base (match index with
        | some si => readS s sp si
        | none => 0) m, size := n, op := .atomic op, data := data s sp, compare := compare s sp, ext := .zero })
    (some dest)

/-- `sld.w`: the word (R264). -/
def execSldW (sd : SReg) (base : Pair) (si : SReg) (m : MemFields) (s : State) : Host.Outcome State Fault Refusal :=
  scalarLoad s 4 .zero base si m (scalarDest sd)

/-- `sld.b`: the byte, sign-extended (R264). -/
def execSldB (sd : SReg) (base : Pair) (si : SReg) (m : MemFields) (s : State) : Host.Outcome State Fault Refusal :=
  scalarLoad s 1 .sign base si m (scalarDest sd)

/-- `sld.bu`: the byte, zero-extended (R264). -/
def execSldBu (sd : SReg) (base : Pair) (si : SReg) (m : MemFields) (s : State) : Host.Outcome State Fault Refusal :=
  scalarLoad s 1 .zero base si m (scalarDest sd)

/-- `sld.h`: the half, sign-extended (R264). -/
def execSldH (sd : SReg) (base : Pair) (si : SReg) (m : MemFields) (s : State) : Host.Outcome State Fault Refusal :=
  scalarLoad s 2 .sign base si m (scalarDest sd)

/-- `sld.hu`: the half, zero-extended (R264). -/
def execSldHu (sd : SReg) (base : Pair) (si : SReg) (m : MemFields) (s : State) : Host.Outcome State Fault Refusal :=
  scalarLoad s 2 .zero base si m (scalarDest sd)

/-- `sld.d`: the dword (R264). -/
def execSldD (pd : Pair) (base : Pair) (si : SReg) (m : MemFields) (s : State) : Host.Outcome State Fault Refusal :=
  scalarLoad s 8 .zero base si m (pairDest pd)

/-- `sst.w` (R264). -/
def execSstW (sd : SReg) (base : Pair) (si : SReg) (m : MemFields) (s : State) : Host.Outcome State Fault Refusal :=
  scalarStore s 4 base si m (fun s sp => (readS s sp sd).setWidth 64)

/-- `sst.b` (R264). -/
def execSstB (sd : SReg) (base : Pair) (si : SReg) (m : MemFields) (s : State) : Host.Outcome State Fault Refusal :=
  scalarStore s 1 base si m (fun s sp => (readS s sp sd).setWidth 64)

/-- `sst.h` (R264). -/
def execSstH (sd : SReg) (base : Pair) (si : SReg) (m : MemFields) (s : State) : Host.Outcome State Fault Refusal :=
  scalarStore s 2 base si m (fun s sp => (readS s sp sd).setWidth 64)

/-- `sst.d` (R264). -/
def execSstD (pd : Pair) (base : Pair) (si : SReg) (m : MemFields) (s : State) : Host.Outcome State Fault Refusal :=
  scalarStore s 8 base si m (fun s sp => readD s sp pd)

/-- `satom.add.w` (R265, R269). -/
def execSatomAddW (sd : SReg) (base : Pair) (si : SReg) (m : MemFields) (s : State) : Host.Outcome State Fault Refusal :=
  scalarAtomic s 0 4 base (some si) m (fun s sp => (readS s sp sd).setWidth 64) (fun _ _ => 0) (scalarDest sd)

/-- `satom.add.d` (R265, R269). -/
def execSatomAddD (pd : Pair) (base : Pair) (si : SReg) (m : MemFields) (s : State) : Host.Outcome State Fault Refusal :=
  scalarAtomic s 0 8 base (some si) m (fun s sp => readD s sp pd) (fun _ _ => 0) (pairDest pd)

/-- `satom.and.w` (R265, R269). -/
def execSatomAndW (sd : SReg) (base : Pair) (si : SReg) (m : MemFields) (s : State) : Host.Outcome State Fault Refusal :=
  scalarAtomic s 1 4 base (some si) m (fun s sp => (readS s sp sd).setWidth 64) (fun _ _ => 0) (scalarDest sd)

/-- `satom.and.d` (R265, R269). -/
def execSatomAndD (pd : Pair) (base : Pair) (si : SReg) (m : MemFields) (s : State) : Host.Outcome State Fault Refusal :=
  scalarAtomic s 1 8 base (some si) m (fun s sp => readD s sp pd) (fun _ _ => 0) (pairDest pd)

/-- `satom.or.w` (R265, R269). -/
def execSatomOrW (sd : SReg) (base : Pair) (si : SReg) (m : MemFields) (s : State) : Host.Outcome State Fault Refusal :=
  scalarAtomic s 2 4 base (some si) m (fun s sp => (readS s sp sd).setWidth 64) (fun _ _ => 0) (scalarDest sd)

/-- `satom.or.d` (R265, R269). -/
def execSatomOrD (pd : Pair) (base : Pair) (si : SReg) (m : MemFields) (s : State) : Host.Outcome State Fault Refusal :=
  scalarAtomic s 2 8 base (some si) m (fun s sp => readD s sp pd) (fun _ _ => 0) (pairDest pd)

/-- `satom.xor.w` (R265, R269). -/
def execSatomXorW (sd : SReg) (base : Pair) (si : SReg) (m : MemFields) (s : State) : Host.Outcome State Fault Refusal :=
  scalarAtomic s 3 4 base (some si) m (fun s sp => (readS s sp sd).setWidth 64) (fun _ _ => 0) (scalarDest sd)

/-- `satom.xor.d` (R265, R269). -/
def execSatomXorD (pd : Pair) (base : Pair) (si : SReg) (m : MemFields) (s : State) : Host.Outcome State Fault Refusal :=
  scalarAtomic s 3 8 base (some si) m (fun s sp => readD s sp pd) (fun _ _ => 0) (pairDest pd)

/-- `satom.min.w` (R265, R269). -/
def execSatomMinW (sd : SReg) (base : Pair) (si : SReg) (m : MemFields) (s : State) : Host.Outcome State Fault Refusal :=
  scalarAtomic s 4 4 base (some si) m (fun s sp => (readS s sp sd).setWidth 64) (fun _ _ => 0) (scalarDest sd)

/-- `satom.min.d` (R265, R269). -/
def execSatomMinD (pd : Pair) (base : Pair) (si : SReg) (m : MemFields) (s : State) : Host.Outcome State Fault Refusal :=
  scalarAtomic s 4 8 base (some si) m (fun s sp => readD s sp pd) (fun _ _ => 0) (pairDest pd)

/-- `satom.max.w` (R265, R269). -/
def execSatomMaxW (sd : SReg) (base : Pair) (si : SReg) (m : MemFields) (s : State) : Host.Outcome State Fault Refusal :=
  scalarAtomic s 5 4 base (some si) m (fun s sp => (readS s sp sd).setWidth 64) (fun _ _ => 0) (scalarDest sd)

/-- `satom.max.d` (R265, R269). -/
def execSatomMaxD (pd : Pair) (base : Pair) (si : SReg) (m : MemFields) (s : State) : Host.Outcome State Fault Refusal :=
  scalarAtomic s 5 8 base (some si) m (fun s sp => readD s sp pd) (fun _ _ => 0) (pairDest pd)

/-- `satom.minu.w` (R265, R269). -/
def execSatomMinuW (sd : SReg) (base : Pair) (si : SReg) (m : MemFields) (s : State) : Host.Outcome State Fault Refusal :=
  scalarAtomic s 6 4 base (some si) m (fun s sp => (readS s sp sd).setWidth 64) (fun _ _ => 0) (scalarDest sd)

/-- `satom.minu.d` (R265, R269). -/
def execSatomMinuD (pd : Pair) (base : Pair) (si : SReg) (m : MemFields) (s : State) : Host.Outcome State Fault Refusal :=
  scalarAtomic s 6 8 base (some si) m (fun s sp => readD s sp pd) (fun _ _ => 0) (pairDest pd)

/-- `satom.maxu.w` (R265, R269). -/
def execSatomMaxuW (sd : SReg) (base : Pair) (si : SReg) (m : MemFields) (s : State) : Host.Outcome State Fault Refusal :=
  scalarAtomic s 7 4 base (some si) m (fun s sp => (readS s sp sd).setWidth 64) (fun _ _ => 0) (scalarDest sd)

/-- `satom.maxu.d` (R265, R269). -/
def execSatomMaxuD (pd : Pair) (base : Pair) (si : SReg) (m : MemFields) (s : State) : Host.Outcome State Fault Refusal :=
  scalarAtomic s 7 8 base (some si) m (fun s sp => readD s sp pd) (fun _ _ => 0) (pairDest pd)

/-- `satom.xchg.w` (R265, R269). -/
def execSatomXchgW (sd : SReg) (base : Pair) (si : SReg) (m : MemFields) (s : State) : Host.Outcome State Fault Refusal :=
  scalarAtomic s 8 4 base (some si) m (fun s sp => (readS s sp sd).setWidth 64) (fun _ _ => 0) (scalarDest sd)

/-- `satom.xchg.d` (R265, R269). -/
def execSatomXchgD (pd : Pair) (base : Pair) (si : SReg) (m : MemFields) (s : State) : Host.Outcome State Fault Refusal :=
  scalarAtomic s 8 8 base (some si) m (fun s sp => readD s sp pd) (fun _ _ => 0) (pairDest pd)

/-- `satom.fadd.w` (R265, R269). -/
def execSatomFaddW (sd : SReg) (base : Pair) (si : SReg) (m : MemFields) (s : State) : Host.Outcome State Fault Refusal :=
  scalarAtomic s 10 4 base (some si) m (fun s sp => (readS s sp sd).setWidth 64) (fun _ _ => 0) (scalarDest sd)

/-- `satom.fadd.d` (R265, R269). -/
def execSatomFaddD (pd : Pair) (base : Pair) (si : SReg) (m : MemFields) (s : State) : Host.Outcome State Fault Refusal :=
  scalarAtomic s 10 8 base (some si) m (fun s sp => readD s sp pd) (fun _ _ => 0) (pairDest pd)

/-- `satom.cas.w`: compare in s(q), new in s(q+1) (R265). -/
def execSatomCasW (sd : SReg) (base : Pair) (q : Pair) (m : MemFields) (s : State) : Host.Outcome State Fault Refusal :=
  scalarAtomic s 9 4 base none m (fun s sp => ((readD s sp q).hi).setWidth 64) (fun s sp => ((readD s sp q).lo).setWidth 64)
    (scalarDest sd)

/-- `satom.cas.d`: compare in s[q:q+1], new in s[q+2:q+3], q a multiple of 4 (R265). -/
def execSatomCasD (pd : Pair) (base : Pair) (q : Fin 16) (m : MemFields) (s : State) : Host.Outcome State Fault Refusal :=
  scalarAtomic s 9 8 base none m (fun s sp => readD s sp (Fin.ofNat 32 (2 * q.val + 1)))
    (fun s sp => readD s sp (Fin.ofNat 32 (2 * q.val))) (pairDest pd)

end Sys2Proof.Machine
end

