-- ==== Sys2Proof/Machine/Xcmd.lean ====
section
/-! DEFINITION. The Xcmd instructions of the command complex (R407), and the trap of a command core (log entry 18). -/

namespace Sys2Proof.Machine

/-- Change the command core whose instruction this step runs. -/
def setCmd (s : State) (c : CmdCore) : State := { s with commandCores := tput s.commandCores s.curCmd c }

/-- An instruction of a command core: in U mode an illegal instruction (R407); a fault it finds is taken; otherwise it acts,
and writes rd and the next pc. -/
def onCmd (s : State) (fault : CmdCore → Option Nat) (act : State → CmdCore → State) : Host.Outcome State Fault Refusal :=
  onPart s (fun s =>
    let c := s.cmdCore s.curCmd
    if !c.machine then setCmd s (c.trap 2)
    else
      match fault c with
      | some n => setCmd s (c.trap n)
      | none => act s c)

/-- rd := v, and on to the next instruction; one more has retired. -/
def CmdCore.done (c : CmdCore) (rd : Fin 32) (v : DWord) : CmdCore := { c.put rd v with pc := c.pc + 4, instret := c.instret + 1 }

/-- The first check that fails, in the order of the fault numbers. -/
def firstFault (l : List (Bool × Nat)) : Option Nat := (l.find? (fun e => e.1)).map (fun e => e.2)

/-- `cx.rfetch`: the oldest taken frame into core-local memory at rs1; -1 when none waits. -/
def execCxRfetch (rd rs1 rs2 : Fin 32) (s : State) : Host.Outcome State Fault Refusal :=
  onCmd s
    (fun c =>
      let a := (c.get rs1).toNat
      firstFault [(a % 4096 != 0, 24), (decide (Config.localMemorySize < a + 4096), 25), (rs2.val != 0, 27)])
    (fun s c =>
      match s.frames with
      | [] => setCmd s (c.done rd (BitVec.allOnes 64))
      | (slot, f) :: l =>
        let c := { c with mem := c.mem.writeBytes (c.get rs1).toNat (frameBytes f) }
        setCmd (takeSlot { s with frames := l } slot) (c.done rd (BitVec.ofNat 64 f.length)))

/-- The bit field of `cx.bfext`. -/
def bitField (v sel : DWord) : DWord :=
  let o := sel.toNat % 64
  let w := min (bitsAt sel.toNat 6 7) (64 - o)
  BitVec.ofNat 64 (bitsAt v.toNat o w)

/-- `cx.bfext`: a bit field of rs1. -/
def execCxBfext (rd rs1 rs2 : Fin 32) (s : State) : Host.Outcome State Fault Refusal :=
  onCmd s (fun c => firstFault [((c.get rs2).toNat / 2 ^ 13 != 0, 27)])
    (fun s c => setCmd s (c.done rd (bitField (c.get rs1) (c.get rs2))))

/-- An address of memory that a read of `n` bytes may use: a double-bit error there is an access fault (log entry 18). -/
def cmdReadable (s : State) (pa n : Nat) : Bool := isMemory pa && !s.poisonedAt pa n

/-- `cx.swait`: one round of the poll is one step; the pc stays at the instruction until the dword has reached rs2 or an
interrupt is pending. -/
def execCxSwait (rd rs1 rs2 : Fin 32) (s : State) : Host.Outcome State Fault Refusal :=
  onCmd s
    (fun c =>
      let a := (c.get rs1).toNat
      firstFault [(a % 8 != 0, 24), (!cmdReadable s a 8, 25)])
    (fun s c =>
      let (s, b) := homeRead s none (s.keyMapSlot (c.get rs1).toNat) (c.get rs1).toNat 8
      if decide ((c.get rs2).toNat ≤ ofBytes b) || c.pendingIrq then setCmd s (c.done rd (BitVec.ofNat 64 (ofBytes b)))
      else s)

/-- The number of the port of a node that no queue launched. -/
def noPort : Nat := 0x1FFF

/-- What `cx.disp` does with a launch entry whose dwords have been read, and its answer: 1 while the pool is full, 2 for a
malformed entry (none where it could not be read), 0 once the node is entered. -/
def dispatchEntry (s : State) (ctx : Nat) (d : Option (List Nat)) : State × DWord :=
  if 16384 ≤ poolCount s then (s, 1)
  else
    match d with
    | none => (charge s ctx, 2)
    | some d =>
      if bitsAt (d.getD 0 0) 0 8 != 1 then (charge s ctx, 2)
      else
        match launchEntry s ctx d with
        | (s, none) => (charge s ctx, 2)
        | (s, some (x, args)) => (enterNode s noPort 0 ctx x args (0, s.floor) (originShare s x), 0)

/-- The 64-byte launch entry at a physical address, if it can be read. -/
def entryAt (s : State) (pa : Nat) : State × Option (List Nat) :=
  if cmdReadable s pa 64 then
    let (s, b) := homeRead s none (s.keyMapSlot pa) pa 64
    (s, some (dwordsOf 8 b))
  else (s, none)

/-- `cx.disp`: takes a launch entry for a context, as a port takes it (R314 to R317). -/
def execCxDisp (rd rs1 rs2 : Fin 32) (s : State) : Host.Outcome State Fault Refusal :=
  onCmd s
    (fun c =>
      let ctx := (c.get rs2).toNat
      firstFault [((c.get rs1).toNat % 64 != 0, 24), (!(s.context (ctx % 1024)).valid, 26), (ctx / 1024 != 0, 27)])
    (fun s c =>
      let (s, d) := entryAt s (c.get rs1).toNat
      let (s, v) := dispatchEntry s ((c.get rs2).toNat % 1024) d
      setCmd s (c.done rd v))

/-- `cx.guilt`: adds to a context's GUILT (R315). -/
def execCxGuilt (rd rs1 rs2 : Fin 32) (s : State) : Host.Outcome State Fault Refusal :=
  onCmd s
    (fun c =>
      let ctx := (c.get rs1).toNat
      firstFault [(!(s.context (ctx % 1024)).valid, 26), (ctx / 1024 != 0 || (c.get rs2).toNat / 256 != 0, 27)])
    (fun s c =>
      let ctx := (c.get rs1).toNat % 1024
      let s := chargeBy s ctx ((c.get rs2).toNat % 256)
      setCmd s (c.done rd (BitVec.ofNat 64 (s.context ctx).guilt)))

end Sys2Proof.Machine
end

