-- ==== Sys2Proof/Machine/Dispatch.lean ====
section
/-! DEFINITION. The dispatch: one arm for each constructor of Instr. -/

namespace Sys2Proof.Machine

def exec (i : Instr) (s : State) : Host.Outcome State Fault Refusal :=
  match i with
  | .sadd sd sa sb => Sys2Proof.Machine.execSadd sd sa sb s
  | .ssub sd sa sb => Sys2Proof.Machine.execSsub sd sa sb s
  | .sand sd sa sb => Sys2Proof.Machine.execSand sd sa sb s
  | .sor sd sa sb => Sys2Proof.Machine.execSor sd sa sb s
  | .sxor sd sa sb => Sys2Proof.Machine.execSxor sd sa sb s
  | .sandn sd sa sb => Sys2Proof.Machine.execSandn sd sa sb s
  | .ssll sd sa sb => Sys2Proof.Machine.execSsll sd sa sb s
  | .ssrl sd sa sb => Sys2Proof.Machine.execSsrl sd sa sb s
  | .ssra sd sa sb => Sys2Proof.Machine.execSsra sd sa sb s
  | .smul sd sa sb => Sys2Proof.Machine.execSmul sd sa sb s
  | .smulh sd sa sb => Sys2Proof.Machine.execSmulh sd sa sb s
  | .smulhu sd sa sb => Sys2Proof.Machine.execSmulhu sd sa sb s
  | .sdiv sd sa sb => Sys2Proof.Machine.execSdiv sd sa sb s
  | .sdivu sd sa sb => Sys2Proof.Machine.execSdivu sd sa sb s
  | .srem sd sa sb => Sys2Proof.Machine.execSrem sd sa sb s
  | .sremu sd sa sb => Sys2Proof.Machine.execSremu sd sa sb s
  | .smin sd sa sb => Sys2Proof.Machine.execSmin sd sa sb s
  | .smax sd sa sb => Sys2Proof.Machine.execSmax sd sa sb s
  | .sminu sd sa sb => Sys2Proof.Machine.execSminu sd sa sb s
  | .smaxu sd sa sb => Sys2Proof.Machine.execSmaxu sd sa sb s
  | .sclz sd sa => Sys2Proof.Machine.execSclz sd sa s
  | .spop sd sa => Sys2Proof.Machine.execSpop sd sa s
  | .sbrev sd sa => Sys2Proof.Machine.execSbrev sd sa s
  | .sctz sd sa => Sys2Proof.Machine.execSctz sd sa s
  | .saddD pd pa pb => Sys2Proof.Machine.execSaddD pd pa pb s
  | .ssubD pd pa pb => Sys2Proof.Machine.execSsubD pd pa pb s
  | .sandD pd pa pb => Sys2Proof.Machine.execSandD pd pa pb s
  | .sorD pd pa pb => Sys2Proof.Machine.execSorD pd pa pb s
  | .sxorD pd pa pb => Sys2Proof.Machine.execSxorD pd pa pb s
  | .sandnD pd pa pb => Sys2Proof.Machine.execSandnD pd pa pb s
  | .ssllD pd pa pb => Sys2Proof.Machine.execSsllD pd pa pb s
  | .ssrlD pd pa pb => Sys2Proof.Machine.execSsrlD pd pa pb s
  | .ssraD pd pa pb => Sys2Proof.Machine.execSsraD pd pa pb s
  | .smulD pd pa pb => Sys2Proof.Machine.execSmulD pd pa pb s
  | .smulhD pd pa pb => Sys2Proof.Machine.execSmulhD pd pa pb s
  | .smulhuD pd pa pb => Sys2Proof.Machine.execSmulhuD pd pa pb s
  | .sdivD pd pa pb => Sys2Proof.Machine.execSdivD pd pa pb s
  | .sdivuD pd pa pb => Sys2Proof.Machine.execSdivuD pd pa pb s
  | .sremD pd pa pb => Sys2Proof.Machine.execSremD pd pa pb s
  | .sremuD pd pa pb => Sys2Proof.Machine.execSremuD pd pa pb s
  | .sminD pd pa pb => Sys2Proof.Machine.execSminD pd pa pb s
  | .smaxD pd pa pb => Sys2Proof.Machine.execSmaxD pd pa pb s
  | .sminuD pd pa pb => Sys2Proof.Machine.execSminuD pd pa pb s
  | .smaxuD pd pa pb => Sys2Proof.Machine.execSmaxuD pd pa pb s
  | .sclzD pd pa => Sys2Proof.Machine.execSclzD pd pa s
  | .spopD pd pa => Sys2Proof.Machine.execSpopD pd pa s
  | .sbrevD pd pa => Sys2Proof.Machine.execSbrevD pd pa s
  | .sctzD pd pa => Sys2Proof.Machine.execSctzD pd pa s
  | .scc c sd sa sb => Sys2Proof.Machine.execScc c sd sa sb s
  | .sccD c sd pa pb => Sys2Proof.Machine.execSccD c sd pa pb s
  | .spark => Sys2Proof.Machine.execSpark s
  | .sexit => Sys2Proof.Machine.execSexit s
  | .sjoin => Sys2Proof.Machine.execSjoin s
  | .sret pa => Sys2Proof.Machine.execSret pa s
  | .scalli pd pa => Sys2Proof.Machine.execScalli pd pa s
  | .sgetsr sd r => Sys2Proof.Machine.execSgetsr sd r s
  | .ssetsr r sa => Sys2Proof.Machine.execSsetsr r sa s
  | .swid sd k => Sys2Proof.Machine.execSwid sd k s
  | .sexecSet n => Sys2Proof.Machine.execSexecSet n s
  | .sexecAnd n => Sys2Proof.Machine.execSexecAnd n s
  | .sexecAndn n => Sys2Proof.Machine.execSexecAndn n s
  | .sgetc sd n beat => Sys2Proof.Machine.execSgetc sd n beat s
  | .ssetc n beat sa => Sys2Proof.Machine.execSsetc n beat sa s
  | .sxgetF32 sd n => Sys2Proof.Machine.execSxgetF32 sd n s
  | .sxgetI32 sd n => Sys2Proof.Machine.execSxgetI32 sd n s
  | .supwait pa => Sys2Proof.Machine.execSupwait pa s
  | .sgetr pd k => Sys2Proof.Machine.execSgetr pd k s
  | .sbar => Sys2Proof.Machine.execSbar s
  | .sbinit sa sb => Sys2Proof.Machine.execSbinit sa sb s
  | .sbarrive sa => Sys2Proof.Machine.execSbarrive sa s
  | .sbwait sa => Sys2Proof.Machine.execSbwait sa s
  | .sbfree sa => Sys2Proof.Machine.execSbfree sa s
  | .sfence o sc => Sys2Proof.Machine.execSfence o sc s
  | .gfenceRt => Sys2Proof.Machine.execGfenceRt s
  | .saddi sd sa imm => Sys2Proof.Machine.execSaddi sd sa imm s
  | .sandi sd sa imm => Sys2Proof.Machine.execSandi sd sa imm s
  | .sori sd sa imm => Sys2Proof.Machine.execSori sd sa imm s
  | .sxori sd sa imm => Sys2Proof.Machine.execSxori sd sa imm s
  | .sslli sd sa amount => Sys2Proof.Machine.execSslli sd sa amount s
  | .ssrli sd sa amount => Sys2Proof.Machine.execSsrli sd sa amount s
  | .ssrai sd sa amount => Sys2Proof.Machine.execSsrai sd sa amount s
  | .slrep count stride => Sys2Proof.Machine.execSlrep count stride s
  | .saddiD pd pa imm => Sys2Proof.Machine.execSaddiD pd pa imm s
  | .stick sa imm => Sys2Proof.Machine.execStick sa imm s
  | .strap code => Sys2Proof.Machine.execStrap code s
  | .sbeq sa sb off => Sys2Proof.Machine.execSbeq sa sb off s
  | .sbne sa sb off => Sys2Proof.Machine.execSbne sa sb off s
  | .sblt sa sb off => Sys2Proof.Machine.execSblt sa sb off s
  | .sbge sa sb off => Sys2Proof.Machine.execSbge sa sb off s
  | .sbltu sa sb off => Sys2Proof.Machine.execSbltu sa sb off s
  | .sbgeu sa sb off => Sys2Proof.Machine.execSbgeu sa sb off s
  | .sbr off => Sys2Proof.Machine.execSbr off s
  | .sbmz off => Sys2Proof.Machine.execSbmz off s
  | .sbmnz off => Sys2Proof.Machine.execSbmnz off s
  | .sbmall off => Sys2Proof.Machine.execSbmall off s
  | .sbmnall off => Sys2Proof.Machine.execSbmnall off s
  | .slissue count pk => Sys2Proof.Machine.execSlissue count pk s
  | .sli sd imm => Sys2Proof.Machine.execSli sd imm s
  | .sbrLong so lo => Sys2Proof.Machine.execSbrLong so lo s
  | .sbmzLong so lo => Sys2Proof.Machine.execSbmzLong so lo s
  | .sbmnzLong so lo => Sys2Proof.Machine.execSbmnzLong so lo s
  | .sbmallLong so lo => Sys2Proof.Machine.execSbmallLong so lo s
  | .sbmnallLong so lo => Sys2Proof.Machine.execSbmnallLong so lo s
  | .sbeqLong sa sb so lo => Sys2Proof.Machine.execSbeqLong sa sb so lo s
  | .sbneLong sa sb so lo => Sys2Proof.Machine.execSbneLong sa sb so lo s
  | .sbltLong sa sb so lo => Sys2Proof.Machine.execSbltLong sa sb so lo s
  | .sbgeLong sa sb so lo => Sys2Proof.Machine.execSbgeLong sa sb so lo s
  | .sbltuLong sa sb so lo => Sys2Proof.Machine.execSbltuLong sa sb so lo s
  | .sbgeuLong sa sb so lo => Sys2Proof.Machine.execSbgeuLong sa sb so lo s
  | .scall pd so lo => Sys2Proof.Machine.execScall pd so lo s
  | .sbrv n jso jlo tso tlo => Sys2Proof.Machine.execSbrv n jso jlo tso tlo s
  | .supcall sd pa pb svc => Sys2Proof.Machine.execSupcall sd pa pb svc s
  | .supcallWait pa pb svc => Sys2Proof.Machine.execSupcallWait pa pb svc s
  | .sldW sd base si m => Sys2Proof.Machine.execSldW sd base si m s
  | .sldD pd base si m => Sys2Proof.Machine.execSldD pd base si m s
  | .sstW sd base si m => Sys2Proof.Machine.execSstW sd base si m s
  | .sstD pd base si m => Sys2Proof.Machine.execSstD pd base si m s
  | .sldB sd base si m => Sys2Proof.Machine.execSldB sd base si m s
  | .sldBu sd base si m => Sys2Proof.Machine.execSldBu sd base si m s
  | .sldH sd base si m => Sys2Proof.Machine.execSldH sd base si m s
  | .sldHu sd base si m => Sys2Proof.Machine.execSldHu sd base si m s
  | .sstB sd base si m => Sys2Proof.Machine.execSstB sd base si m s
  | .sstH sd base si m => Sys2Proof.Machine.execSstH sd base si m s
  | .satomAddW sd base si m => Sys2Proof.Machine.execSatomAddW sd base si m s
  | .satomAndW sd base si m => Sys2Proof.Machine.execSatomAndW sd base si m s
  | .satomOrW sd base si m => Sys2Proof.Machine.execSatomOrW sd base si m s
  | .satomXorW sd base si m => Sys2Proof.Machine.execSatomXorW sd base si m s
  | .satomMinW sd base si m => Sys2Proof.Machine.execSatomMinW sd base si m s
  | .satomMaxW sd base si m => Sys2Proof.Machine.execSatomMaxW sd base si m s
  | .satomMinuW sd base si m => Sys2Proof.Machine.execSatomMinuW sd base si m s
  | .satomMaxuW sd base si m => Sys2Proof.Machine.execSatomMaxuW sd base si m s
  | .satomXchgW sd base si m => Sys2Proof.Machine.execSatomXchgW sd base si m s
  | .satomCasW sd base q m => Sys2Proof.Machine.execSatomCasW sd base q m s
  | .satomFaddW sd base si m => Sys2Proof.Machine.execSatomFaddW sd base si m s
  | .satomAddD pd base si m => Sys2Proof.Machine.execSatomAddD pd base si m s
  | .satomAndD pd base si m => Sys2Proof.Machine.execSatomAndD pd base si m s
  | .satomOrD pd base si m => Sys2Proof.Machine.execSatomOrD pd base si m s
  | .satomXorD pd base si m => Sys2Proof.Machine.execSatomXorD pd base si m s
  | .satomMinD pd base si m => Sys2Proof.Machine.execSatomMinD pd base si m s
  | .satomMaxD pd base si m => Sys2Proof.Machine.execSatomMaxD pd base si m s
  | .satomMinuD pd base si m => Sys2Proof.Machine.execSatomMinuD pd base si m s
  | .satomMaxuD pd base si m => Sys2Proof.Machine.execSatomMaxuD pd base si m s
  | .satomXchgD pd base si m => Sys2Proof.Machine.execSatomXchgD pd base si m s
  | .satomCasD pd base q m => Sys2Proof.Machine.execSatomCasD pd base q m s
  | .satomFaddD pd base si m => Sys2Proof.Machine.execSatomFaddD pd base si m s
  | .sgetlImm sd va lane => Sys2Proof.Machine.execSgetlImm sd va lane s
  | .sgetlReg sd va sb => Sys2Proof.Machine.execSgetlReg sd va sb s
  | .scallx va vb n => Sys2Proof.Machine.execScallx va vb n s
  | .scallxRet vb n => Sys2Proof.Machine.execScallxRet vb n s
  | .mma sa sb t pa pb acc sat g => Sys2Proof.Machine.execMma sa sb t pa pb acc sat g s
  | .mmaPair sa sb t pa pb acc sat g => Sys2Proof.Machine.execMmaPair sa sb t pa pb acc sat g s
  | .mzero count t => Sys2Proof.Machine.execMzero count t s
  | .mload sd t tr => Sys2Proof.Machine.execMload sd t tr s
  | .mdrain sd t tr rnd sat => Sys2Proof.Machine.execMdrain sd t tr rnd sat s
  | .mgidx va => Sys2Proof.Machine.execMgidx va s
  | .xcopy dir d a n k f => Sys2Proof.Machine.execXcopy dir d a n k f s
  | .xdecomp d first count f => Sys2Proof.Machine.execXdecomp d first count f s
  | .xseal sd => Sys2Proof.Machine.execXseal sd s
  | .xwait n => Sys2Proof.Machine.execXwait n s
  | .xput d a count spad f tag => Sys2Proof.Machine.execXput d a count spad f tag s
  | .xget d a count spad f tag => Sys2Proof.Machine.execXget d a count spad f tag s
  | .xsig d v set f tag => Sys2Proof.Machine.execXsig d v set f tag s
  | .gemit ss sn sq code => Sys2Proof.Machine.execGemit ss sn sq code s
  | .vadd w => Sys2Proof.Machine.execVadd w s
  | .vsub w => Sys2Proof.Machine.execVsub w s
  | .vmul w => Sys2Proof.Machine.execVmul w s
  | .vmad w => Sys2Proof.Machine.execVmad w s
  | .vmin w => Sys2Proof.Machine.execVmin w s
  | .vmax w => Sys2Proof.Machine.execVmax w s
  | .vabs w => Sys2Proof.Machine.execVabs w s
  | .vneg w => Sys2Proof.Machine.execVneg w s
  | .vcmp w => Sys2Proof.Machine.execVcmp w s
  | .vsel w => Sys2Proof.Machine.execVsel w s
  | .vscan w => Sys2Proof.Machine.execVscan w s
  | .vand w => Sys2Proof.Machine.execVand w s
  | .vor w => Sys2Proof.Machine.execVor w s
  | .vxor w => Sys2Proof.Machine.execVxor w s
  | .vnot w => Sys2Proof.Machine.execVnot w s
  | .vshl w => Sys2Proof.Machine.execVshl w s
  | .vshr w => Sys2Proof.Machine.execVshr w s
  | .vsra w => Sys2Proof.Machine.execVsra w s
  | .vmulhi w => Sys2Proof.Machine.execVmulhi w s
  | .vclz w => Sys2Proof.Machine.execVclz w s
  | .vpopc w => Sys2Proof.Machine.execVpopc w s
  | .vbrev w => Sys2Proof.Machine.execVbrev w s
  | .vbfe w => Sys2Proof.Machine.execVbfe w s
  | .vbfi w => Sys2Proof.Machine.execVbfi w s
  | .vdiv w => Sys2Proof.Machine.execVdiv w s
  | .vsqrt w => Sys2Proof.Machine.execVsqrt w s
  | .vrcp w => Sys2Proof.Machine.execVrcp w s
  | .vrsq w => Sys2Proof.Machine.execVrsq w s
  | .vexp2 w => Sys2Proof.Machine.execVexp2 w s
  | .vlog2 w => Sys2Proof.Machine.execVlog2 w s
  | .vsin w => Sys2Proof.Machine.execVsin w s
  | .vcos w => Sys2Proof.Machine.execVcos w s
  | .vround w => Sys2Proof.Machine.execVround w s
  | .vfract w => Sys2Proof.Machine.execVfract w s
  | .vclass w => Sys2Proof.Machine.execVclass w s
  | .vdot2 w => Sys2Proof.Machine.execVdot2 w s
  | .vldexp w => Sys2Proof.Machine.execVldexp w s
  | .vcvt w => Sys2Proof.Machine.execVcvt w s
  | .vtag w => Sys2Proof.Machine.execVtag w s
  | .vgettag w => Sys2Proof.Machine.execVgettag w s
  | .vmov w => Sys2Proof.Machine.execVmov w s
  | .vli w => Sys2Proof.Machine.execVli w s
  | .vlane w => Sys2Proof.Machine.execVlane w s
  | .vmovc w => Sys2Proof.Machine.execVmovc w s
  | .vxch w => Sys2Proof.Machine.execVxch w s
  | .vperm w => Sys2Proof.Machine.execVperm w s
  | .vrot w => Sys2Proof.Machine.execVrot w s
  | .vbcast w => Sys2Proof.Machine.execVbcast w s
  | .vred w => Sys2Proof.Machine.execVred w s
  | .vballot w => Sys2Proof.Machine.execVballot w s
  | .vcand w => Sys2Proof.Machine.execVcand w s
  | .vcor w => Sys2Proof.Machine.execVcor w s
  | .vcxor w => Sys2Proof.Machine.execVcxor w s
  | .vcnot w => Sys2Proof.Machine.execVcnot w s
  | .vcmov w => Sys2Proof.Machine.execVcmov w s
  | .vxadd w => Sys2Proof.Machine.execVxadd w s
  | .vxget w => Sys2Proof.Machine.execVxget w s
  | .vxclr w => Sys2Proof.Machine.execVxclr w s
  | .vld w => Sys2Proof.Machine.execVld w s
  | .vst w => Sys2Proof.Machine.execVst w s
  | .vatom w => Sys2Proof.Machine.execVatom w s
  | .vatomn w => Sys2Proof.Machine.execVatomn w s
  | .vlds w => Sys2Proof.Machine.execVlds w s
  | .vsts w => Sys2Proof.Machine.execVsts w s
  | .vtex w => Sys2Proof.Machine.execVtex w s
  | .vtexld w => Sys2Proof.Machine.execVtexld w s
  | .vhgrid w => Sys2Proof.Machine.execVhgrid w s
  | .vhgsc w => Sys2Proof.Machine.execVhgsc w s
  | .vtrace w => Sys2Proof.Machine.execVtrace w s
  | .vmbox w => Sys2Proof.Machine.execVmbox w s
  | .vrtw w => Sys2Proof.Machine.execVrtw w s
  | .vvis w => Sys2Proof.Machine.execVvis w s
  | .vordb w => Sys2Proof.Machine.execVordb w s
  | .vorde w => Sys2Proof.Machine.execVorde w s
  | .vqswap w => Sys2Proof.Machine.execVqswap w s
  | .cxRfetch rd rs1 rs2 => Sys2Proof.Machine.execCxRfetch rd rs1 rs2 s
  | .cxBfext rd rs1 rs2 => Sys2Proof.Machine.execCxBfext rd rs1 rs2 s
  | .cxSwait rd rs1 rs2 => Sys2Proof.Machine.execCxSwait rd rs1 rs2 s
  | .cxDisp rd rs1 rs2 => Sys2Proof.Machine.execCxDisp rd rs1 rs2 s
  | .cxGuilt rd rs1 rs2 => Sys2Proof.Machine.execCxGuilt rd rs1 rs2 s
  | .variableLatencyResult r k => Sys2Proof.Machine.execVariableLatencyResult r k s
  | .parkPointRelease r => Sys2Proof.Machine.execParkPointRelease r s
  | .forcedPark r => Sys2Proof.Machine.execForcedPark r s
  | .splitMerge group key => Sys2Proof.Machine.execSplitMerge group key s
  | .joinDeadlockRelease group => Sys2Proof.Machine.execJoinDeadlockRelease group s
  | .composeRelease node index => Sys2Proof.Machine.execComposeRelease node index s
  | .starvationPrecedence r => Sys2Proof.Machine.execStarvationPrecedence r s
  | .barrierComplete wg => Sys2Proof.Machine.execBarrierComplete wg s
  | .clockPointChange p => Sys2Proof.Machine.execClockPointChange p s
  | .ltTick core => Sys2Proof.Machine.execLtTick core s
  | .hubLtTick => Sys2Proof.Machine.execHubLtTick s
  | .floorSweep => Sys2Proof.Machine.execFloorSweep s
  | .atomicLeaseExpiry line => Sys2Proof.Machine.execAtomicLeaseExpiry line s
  | .weirFarExpiry line => Sys2Proof.Machine.execWeirFarExpiry line s
  | .l2OverdueSweep die slice => Sys2Proof.Machine.execL2OverdueSweep die slice s
  | .auditFail die slice k => Sys2Proof.Machine.execAuditFail die slice k s
  | .granuleToScratch core => Sys2Proof.Machine.execGranuleToScratch core s
  | .granuleToL1 core => Sys2Proof.Machine.execGranuleToL1 core s
  | .invalidatePage ctx page => Sys2Proof.Machine.execInvalidatePage ctx page s
  | .invalidateContext ctx => Sys2Proof.Machine.execInvalidateContext ctx s
  | .invalidateNonglobal ctx => Sys2Proof.Machine.execInvalidateNonglobal ctx s
  | .invalidateAll => Sys2Proof.Machine.execInvalidateAll s
  | .invalidationPortLoad => Sys2Proof.Machine.execInvalidationPortLoad s
  | .contextValidWrite ctx valid => Sys2Proof.Machine.execContextValidWrite ctx valid s
  | .retentionRangeWrite die range dword value => Sys2Proof.Machine.execRetentionRangeWrite die range dword value s
  | .registerWrite offset value => Sys2Proof.Machine.execRegisterWrite offset value s
  | .queueEnable q => Sys2Proof.Machine.execQueueEnable q s
  | .notify => Sys2Proof.Machine.execNotify s
  | .noopEntry q => Sys2Proof.Machine.execNoopEntry q s
  | .launchEntry q => Sys2Proof.Machine.execLaunchEntry q s
  | .waitEntry q => Sys2Proof.Machine.execWaitEntry q s
  | .waitEntrySatisfied q => Sys2Proof.Machine.execWaitEntrySatisfied q s
  | .workgroupPlacement => Sys2Proof.Machine.execWorkgroupPlacement s
  | .compaction core pipe allot => Sys2Proof.Machine.execCompaction core pipe allot s
  | .dieReservation node => Sys2Proof.Machine.execDieReservation node s
  | .nodeCompletion node => Sys2Proof.Machine.execNodeCompletion node s
  | .nodeFail node code => Sys2Proof.Machine.execNodeFail node code s
  | .multiLaunch m => Sys2Proof.Machine.execMultiLaunch m s
  | .multiAccept m => Sys2Proof.Machine.execMultiAccept m s
  | .multiStart m => Sys2Proof.Machine.execMultiStart m s
  | .multiDone m => Sys2Proof.Machine.execMultiDone m s
  | .multiAbort m => Sys2Proof.Machine.execMultiAbort m s
  | .acceptTimeout node => Sys2Proof.Machine.execAcceptTimeout node s
  | .linkFailure domain rank => Sys2Proof.Machine.execLinkFailure domain rank s
  | .resume a => Sys2Proof.Machine.execResume a s
  | .retry a => Sys2Proof.Machine.execRetry a s
  | .endGroup a => Sys2Proof.Machine.execEndGroup a s
  | .endNode a => Sys2Proof.Machine.execEndNode a s
  | .replay ctx page => Sys2Proof.Machine.execReplay ctx page s
  | .fail ctx page => Sys2Proof.Machine.execFail ctx page s
  | .messagePost die => Sys2Proof.Machine.execMessagePost die s
  | .sluiceHeadWrite die value => Sys2Proof.Machine.execSluiceHeadWrite die value s
  | .replyPortWrite region ctx ticket => Sys2Proof.Machine.execReplyPortWrite region ctx ticket s
  | .preemptContext ctx hold tag => Sys2Proof.Machine.execPreemptContext ctx hold tag s
  | .preemptWorkgroup ctx region hold tag => Sys2Proof.Machine.execPreemptWorkgroup ctx region hold tag s
  | .releaseHeld ctx tag => Sys2Proof.Machine.execReleaseHeld ctx tag s
  | .workgroupSave wg => Sys2Proof.Machine.execWorkgroupSave wg s
  | .workgroupRestore k => Sys2Proof.Machine.execWorkgroupRestore k s
  | .orderedTimeout group => Sys2Proof.Machine.execOrderedTimeout group s
  | .batchRetire group => Sys2Proof.Machine.execBatchRetire group s
  | .copyCommandPerform k => Sys2Proof.Machine.execCopyCommandPerform k s
  | .matrixCommandPerform core mismatch => Sys2Proof.Machine.execMatrixCommandPerform core mismatch s
  | .rasteriserStart node => Sys2Proof.Machine.execRasteriserStart node s
  | .rtWriteApply k => Sys2Proof.Machine.execRtWriteApply k s
  | .tileWriteBack k => Sys2Proof.Machine.execTileWriteBack k s
  | .rayRecordArrival group k => Sys2Proof.Machine.execRayRecordArrival group k s
  | .peerRequest r => Sys2Proof.Machine.execPeerRequest r s
  | .windowErrorResponse k code => Sys2Proof.Machine.execWindowErrorResponse k code s
  | .triggerArrival window tag => Sys2Proof.Machine.execTriggerArrival window tag s
  | .triggerRun k => Sys2Proof.Machine.execTriggerRun k s
  | .hello src window => Sys2Proof.Machine.execHello src window s
  | .resetContext src ctx => Sys2Proof.Machine.execResetContext src ctx s
  | .openWindow src a => Sys2Proof.Machine.execOpenWindow src a s
  | .revokeWindow src window => Sys2Proof.Machine.execRevokeWindow src window s
  | .queryRas src => Sys2Proof.Machine.execQueryRas src s
  | .setPowerCap src watts => Sys2Proof.Machine.execSetPowerCap src watts s
  | .powerCapAdjust => Sys2Proof.Machine.execPowerCapAdjust s
  | .thermalThrottle => Sys2Proof.Machine.execThermalThrottle s
  | .thermalShutdown => Sys2Proof.Machine.execThermalShutdown s
  | .loadResidentImage src image => Sys2Proof.Machine.execLoadResidentImage src image s
  | .loadKey src slot key => Sys2Proof.Machine.execLoadKey src slot key s
  | .eraseKey src slot => Sys2Proof.Machine.execEraseKey src slot s
  | .registerDomain src a => Sys2Proof.Machine.execRegisterDomain src a s
  | .armTrigger src a => Sys2Proof.Machine.execArmTrigger src a s
  | .disarmTrigger src list => Sys2Proof.Machine.execDisarmTrigger src list s
  | .spdm src request => Sys2Proof.Machine.execSpdm src request s
  | .setRpcRing src base size => Sys2Proof.Machine.execSetRpcRing src base size s
  | .forwardedService src => Sys2Proof.Machine.execForwardedService src s
  | .serviceWindowFrame rank f => Sys2Proof.Machine.execServiceWindowFrame rank f s
  | .recoverImage f last => Sys2Proof.Machine.execRecoverImage f last s
  | .hostLinkReset => Sys2Proof.Machine.execHostLinkReset s
  | .boot => Sys2Proof.Machine.execBoot s
  | .lockstepError pair => Sys2Proof.Machine.execLockstepError pair s
  | .floatPathFault core => Sys2Proof.Machine.execFloatPathFault core s
  | .monitorReset => Sys2Proof.Machine.execMonitorReset s
  | .illegalOpcode => Sys2Proof.Machine.execIllegalOpcode s
  | .storeAcknowledgement r k => Sys2Proof.Machine.execStoreAcknowledgement r k s
  | .forwardedReply k status payload => Sys2Proof.Machine.execForwardedReply k status payload s
  | .thermalThrottleRelease => Sys2Proof.Machine.execThermalThrottleRelease s

end Sys2Proof.Machine
end

