-- ==== Sys2Proof/Machine/Riscv.lean ====
section
/-! DEFINITION. The base instruction set of a command core: RV64IMAC with Zicsr and Zifencei in M and U modes, the published standard
that R12 and R407 name, beside which the Xcmd instructions stand (log entry 18 for what that standard leaves to an implementation); and
the harts of the resident cluster, which run the same set of their profile (R20; log entry 93). -/

namespace Sys2Proof.Machine

/-! ### Instructions -/

/-- What an instruction of the integer and multiply sets computes. -/
inductive Alu where
  | add | sub | sll | slt | sltu | xor | srl | sra | or | and
  | mul | mulh | mulhsu | mulhu | div | divu | rem | remu
deriving DecidableEq, Repr

/-- The condition of a branch. -/
inductive RvCond where
  | eq | ne | lt | ge | ltu | geu
deriving DecidableEq, Repr

/-- What a CSR instruction writes. -/
inductive CsrOp where
  | write | set | clear
deriving DecidableEq, Repr

/-- A base instruction: `word` marks the 32-bit forms, `size` is in bytes, an atomic's operation is numbered as in R71. -/
inductive Rv where
  | constant (rd : Fin 32) (v : DWord) (pcRelative : Bool)
  | jal (rd : Fin 32) (off : DWord)
  | jalr (rd rs1 : Fin 32) (off : DWord)
  | branch (c : RvCond) (rs1 rs2 : Fin 32) (off : DWord)
  | load (size : Nat) (signed : Bool) (rd rs1 : Fin 32) (off : DWord)
  | store (size : Nat) (rs1 rs2 : Fin 32) (off : DWord)
  | aluImm (op : Alu) (word : Bool) (rd rs1 : Fin 32) (imm : DWord)
  | alu (op : Alu) (word : Bool) (rd rs1 rs2 : Fin 32)
  | fence | ecall | ebreak | mret | wfi
  | csr (op : CsrOp) (imm : Bool) (rd src : Fin 32) (n : Nat)
  | lr (size : Nat) (rd rs1 : Fin 32)
  | sc (size : Nat) (rd rs1 rs2 : Fin 32)
  | amo (op size : Nat) (rd rs1 rs2 : Fin 32)
deriving DecidableEq, Repr

/-! ### Decoding of 32-bit words -/

/-- A signed number of `n` bits. -/
def sext (n v : Nat) : DWord := (BitVec.ofNat n v).signExtend 64

/-- A register field. -/
def xregAt (w lo : Nat) : Fin 32 := Fin.ofNat 32 (bitsAt w lo 5)

/-- The immediates of the standard's formats. -/
def immI (w : Nat) : DWord := sext 12 (bitsAt w 20 12)
def immS (w : Nat) : DWord := sext 12 (bitsAt w 25 7 * 32 + bitsAt w 7 5)
def immB (w : Nat) : DWord := sext 13 (bitsAt w 31 1 * 4096 + bitsAt w 7 1 * 2048 + bitsAt w 25 6 * 32 + bitsAt w 8 4 * 2)
def immU (w : Nat) : DWord := sext 32 (bitsAt w 12 20 * 4096)
def immJ (w : Nat) : DWord := sext 21 (bitsAt w 31 1 * 2 ^ 20 + bitsAt w 12 8 * 4096 + bitsAt w 20 1 * 2048 + bitsAt w 21 10 * 2)

/-- The operation of funct3 in the integer sets; `alt` is bit 30. -/
def aluOf (f3 : Nat) (alt : Bool) : Alu :=
  match f3 with
  | 0 => if alt then .sub else .add
  | 1 => .sll | 2 => .slt | 3 => .sltu | 4 => .xor
  | 5 => if alt then .sra else .srl
  | 6 => .or | _ => .and

/-- The operation of funct3 in the multiply set. -/
def mulOf : Nat → Alu
  | 0 => .mul | 1 => .mulh | 2 => .mulhsu | 3 => .mulhu | 4 => .div | 5 => .divu | 6 => .rem | _ => .remu

/-- OP and OP-32. -/
def decodeOp (w : Nat) (word : Bool) : Option Rv :=
  let f3 := bitsAt w 12 3
  let rd := xregAt w 7
  let rs1 := xregAt w 15
  let rs2 := xregAt w 20
  match bitsAt w 25 7 with
  | 0 => if word && !([0, 1, 5].contains f3) then none else some (.alu (aluOf f3 false) word rd rs1 rs2)
  | 0x20 => if f3 = 0 ∨ f3 = 5 then some (.alu (aluOf f3 true) word rd rs1 rs2) else none
  | 1 => if word && [1, 2, 3].contains f3 then none else some (.alu (mulOf f3) word rd rs1 rs2)
  | _ => none

/-- OP-IMM and OP-IMM-32: a shift takes its amount of 6 or 5 bits. -/
def decodeOpImm (w : Nat) (word : Bool) : Option Rv :=
  let f3 := bitsAt w 12 3
  let rd := xregAt w 7
  let rs1 := xregAt w 15
  let n := if word then 5 else 6
  let top := bitsAt w (20 + n) (12 - n)
  let arith := top == 2 ^ (10 - n)
  if f3 = 1 ∨ f3 = 5 then
    if top = 0 ∨ (f3 = 5 ∧ arith = true) then some (.aluImm (aluOf f3 arith) word rd rs1 (BitVec.ofNat 64 (bitsAt w 20 n))) else none
  else if word ∧ f3 ≠ 0 then none
  else some (.aluImm (aluOf f3 false) word rd rs1 (immI w))

/-- AMO: funct5 of the atomics, numbered as in R71. -/
def decodeAmo (w : Nat) : Option Rv :=
  let rd := xregAt w 7
  let rs1 := xregAt w 15
  let rs2 := xregAt w 20
  let amo := fun (op : Nat) (size : Nat) => some (Rv.amo op size rd rs1 rs2)
  let form := fun (size : Nat) =>
    match bitsAt w 27 5 with
    | 0 => amo 0 size | 1 => amo 8 size | 4 => amo 3 size | 8 => amo 2 size | 12 => amo 1 size
    | 16 => amo 4 size | 20 => amo 5 size | 24 => amo 6 size | 28 => amo 7 size
    | 2 => if rs2 = 0 then some (.lr size rd rs1) else none
    | 3 => some (.sc size rd rs1 rs2)
    | _ => none
  match bitsAt w 12 3 with
  | 2 => form 4
  | 3 => form 8
  | _ => none

/-- SYSTEM. -/
def decodeSystem (w : Nat) : Option Rv :=
  let csr := fun (op : CsrOp) (imm : Bool) => some (Rv.csr op imm (xregAt w 7) (xregAt w 15) (bitsAt w 20 12))
  match bitsAt w 12 3 with
  | 0 =>
    match w with
    | 0x73 => some .ecall
    | 0x100073 => some .ebreak
    | 0x30200073 => some .mret
    | 0x10500073 => some .wfi
    | _ => none
  | 1 => csr .write false | 2 => csr .set false | 3 => csr .clear false
  | 5 => csr .write true | 6 => csr .set true | 7 => csr .clear true
  | _ => none

/-- A 32-bit base instruction. -/
def decodeRv (w : Nat) : Option Rv :=
  let f3 := bitsAt w 12 3
  let rd := xregAt w 7
  let rs1 := xregAt w 15
  let rs2 := xregAt w 20
  let branch := fun (c : RvCond) => some (Rv.branch c rs1 rs2 (immB w))
  match bitsAt w 0 7 with
  | 0x37 => some (.constant rd (immU w) false)
  | 0x17 => some (.constant rd (immU w) true)
  | 0x6F => some (.jal rd (immJ w))
  | 0x67 => if f3 = 0 then some (.jalr rd rs1 (immI w)) else none
  | 0x63 =>
    match f3 with
    | 0 => branch .eq | 1 => branch .ne | 4 => branch .lt | 5 => branch .ge | 6 => branch .ltu | 7 => branch .geu
    | _ => none
  | 0x03 => if f3 = 7 then none else some (.load (2 ^ (f3 % 4)) (decide (f3 < 4)) rd rs1 (immI w))
  | 0x23 => if f3 < 4 then some (.store (2 ^ f3) rs1 rs2 (immS w)) else none
  | 0x13 => decodeOpImm w false
  | 0x1B => decodeOpImm w true
  | 0x33 => decodeOp w false
  | 0x3B => decodeOp w true
  | 0x0F => if f3 ≤ 1 then some .fence else none
  | 0x2F => decodeAmo w
  | 0x73 => decodeSystem w
  | _ => none

/-! ### Decoding of 16-bit words -/

/-- Gather bits: each pair names a bit of the word and its place in the number. -/
def gatherBits (w : Nat) (l : List (Nat × Nat)) : Nat := l.foldl (fun a e => a + bitsAt w e.1 1 * 2 ^ e.2) 0

/-- One of x8 to x15. -/
def regPrime (w lo : Nat) : Fin 32 := Fin.ofNat 32 (8 + bitsAt w lo 3)

/-- The six-bit immediate of the compressed forms. -/
def immC (w : Nat) : Nat := bitsAt w 12 1 * 32 + bitsAt w 2 5

/-- Quadrant 0: stack addresses, loads and stores. -/
def decodeC0 (w : Nat) : Option Rv :=
  let a := regPrime w 7
  let b := regPrime w 2
  let word : DWord := BitVec.ofNat 64 (bitsAt w 10 3 * 8 + bitsAt w 6 1 * 4 + bitsAt w 5 1 * 64)
  let dword : DWord := BitVec.ofNat 64 (bitsAt w 10 3 * 8 + bitsAt w 5 2 * 64)
  match bitsAt w 13 3 with
  | 0 =>
    let n := bitsAt w 11 2 * 16 + bitsAt w 7 4 * 64 + bitsAt w 6 1 * 4 + bitsAt w 5 1 * 8
    if n = 0 then none else some (.aluImm .add false b 2 (BitVec.ofNat 64 n))
  | 2 => some (.load 4 true b a word)
  | 3 => some (.load 8 true b a dword)
  | 6 => some (.store 4 a b word)
  | 7 => some (.store 8 a b dword)
  | _ => none

/-- The register and shift group of quadrant 1. -/
def decodeC1Alu (w : Nat) : Option Rv :=
  let a := regPrime w 7
  let b := regPrime w 2
  let shift : DWord := BitVec.ofNat 64 (immC w)
  match bitsAt w 10 2 with
  | 0 => some (.aluImm .srl false a a shift)
  | 1 => some (.aluImm .sra false a a shift)
  | 2 => some (.aluImm .and false a a (sext 6 (immC w)))
  | _ =>
    match bitsAt w 12 1, bitsAt w 5 2 with
    | 0, 0 => some (.alu .sub false a a b)
    | 0, 1 => some (.alu .xor false a a b)
    | 0, 2 => some (.alu .or false a a b)
    | 0, _ => some (.alu .and false a a b)
    | _, 0 => some (.alu .sub true a a b)
    | _, 1 => some (.alu .add true a a b)
    | _, _ => none

/-- Quadrant 1. -/
def decodeC1 (w : Nat) : Option Rv :=
  let rd := xregAt w 7
  let imm := sext 6 (immC w)
  let off := sext 9 (gatherBits w [(12, 8), (11, 4), (10, 3), (6, 7), (5, 6), (4, 2), (3, 1), (2, 5)])
  match bitsAt w 13 3 with
  | 0 => some (.aluImm .add false rd rd imm)
  | 1 => if rd = 0 then none else some (.aluImm .add true rd rd imm)
  | 2 => some (.aluImm .add false rd 0 imm)
  | 3 =>
    if immC w = 0 then none
    else if rd = 2 then
      some (.aluImm .add false 2 2 (sext 10 (gatherBits w [(12, 9), (6, 4), (5, 6), (4, 8), (3, 7), (2, 5)])))
    else some (.constant rd (sext 18 (immC w * 4096)) false)
  | 4 => decodeC1Alu w
  | 5 =>
    some (.jal 0 (sext 12 (gatherBits w
      [(12, 11), (11, 4), (10, 9), (9, 8), (8, 10), (7, 6), (6, 7), (5, 3), (4, 2), (3, 1), (2, 5)])))
  | 6 => some (.branch .eq (regPrime w 7) 0 off)
  | _ => some (.branch .ne (regPrime w 7) 0 off)

/-- Quadrant 2. -/
def decodeC2 (w : Nat) : Option Rv :=
  let rd := xregAt w 7
  let rs2 := xregAt w 2
  match bitsAt w 13 3 with
  | 0 => some (.aluImm .sll false rd rd (BitVec.ofNat 64 (immC w)))
  | 2 =>
    if rd = 0 then none
    else some (.load 4 true rd 2 (BitVec.ofNat 64 (bitsAt w 12 1 * 32 + bitsAt w 4 3 * 4 + bitsAt w 2 2 * 64)))
  | 3 =>
    if rd = 0 then none
    else some (.load 8 true rd 2 (BitVec.ofNat 64 (bitsAt w 12 1 * 32 + bitsAt w 5 2 * 8 + bitsAt w 2 3 * 64)))
  | 4 =>
    if bitsAt w 12 1 = 0 then
      if rs2 = 0 then (if rd = 0 then none else some (.jalr 0 rd 0)) else some (.alu .add false rd 0 rs2)
    else if rs2 = 0 then (if rd = 0 then some .ebreak else some (.jalr 1 rd 0))
    else some (.alu .add false rd rd rs2)
  | 6 => some (.store 4 2 rs2 (BitVec.ofNat 64 (bitsAt w 9 4 * 4 + bitsAt w 7 2 * 64)))
  | 7 => some (.store 8 2 rs2 (BitVec.ofNat 64 (bitsAt w 10 3 * 8 + bitsAt w 7 3 * 64)))
  | _ => none

/-- A 16-bit instruction. -/
def decodeRvc (w : Nat) : Option Rv :=
  match w % 4 with
  | 0 => decodeC0 w
  | 1 => decodeC1 w
  | _ => decodeC2 w

/-! ### Arithmetic -/

/-- An operation on two numbers of `n` bits. A division by zero gives all-ones, and its remainder the dividend. -/
def Alu.apply {n : Nat} (op : Alu) (a b : BitVec n) : BitVec n :=
  let sh := b.toNat % n
  let bit := fun (x : Bool) => (if x then 1 else 0 : BitVec n)
  match op with
  | .add => a + b
  | .sub => a - b
  | .sll => a <<< sh
  | .slt => bit (a.slt b)
  | .sltu => bit (a.ult b)
  | .xor => a ^^^ b
  | .srl => a >>> sh
  | .sra => a.sshiftRight sh
  | .or => a ||| b
  | .and => a &&& b
  | .mul => a * b
  | .mulh => BitVec.ofInt n (a.toInt * b.toInt / 2 ^ n)
  | .mulhsu => BitVec.ofInt n (a.toInt * b.toNat / 2 ^ n)
  | .mulhu => BitVec.ofNat n (a.toNat * b.toNat / 2 ^ n)
  | .div => if b = 0 then BitVec.allOnes n else a.sdiv b
  | .divu => if b = 0 then BitVec.allOnes n else a / b
  | .rem => a.srem b
  | .remu => a % b

/-- A whole register, or the low word sign-extended. -/
def Alu.run (op : Alu) (word : Bool) (a b : DWord) : DWord :=
  if word then (op.apply (a.setWidth 32) (b.setWidth 32)).signExtend 64 else op.apply a b

/-- A branch is taken. -/
def RvCond.holds (c : RvCond) (a b : DWord) : Bool :=
  match c with
  | .eq => a == b | .ne => a != b | .lt => a.slt b | .ge => !(a.slt b) | .ltu => a.ult b | .geu => !(a.ult b)

/-! ### Control and status registers -/

/-- The hart of the resident cluster that this step runs, if it is one (log entry 93). -/
def State.hart? (s : State) : Option Nat := if s.curCmd < 4 then none else some (s.curCmd - 4)

/-- Cycles of a command core, at 1.2 GHz (R5, R407), or of a hart, at 2.4 GHz (R20). -/
def cmdCycles (s : State) : DWord := BitVec.ofNat 64 (if s.curCmd < 4 then s.time / 17 else 2 * s.time / 17)

/-- MISA: RV64 with A, C, I, M and U, and on a command core X; on a hart also the letters B, D, F, H, S and V of its profile (R20; log
entry 93). -/
def misaValue (s : State) : DWord :=
  BitVec.ofNat 64 (2 ^ 63 + 2 ^ 20 + 2 ^ 12 + 2 ^ 8 + 2 ^ 2 + 2 ^ 0 +
    if s.curCmd < 4 then 2 ^ 23 else 2 ^ 21 + 2 ^ 18 + 2 ^ 7 + 2 ^ 5 + 2 ^ 3 + 2 ^ 1)

/-- MIP: the external interrupt alone. -/
def CmdCore.mip (c : CmdCore) : DWord := if c.pendingIrq then 0x800 else 0

/-- A register of machine counters or of their events beyond the first three: it reads zero and takes nothing. -/
def counterCsr (n : Nat) : Bool := (decide (0xB03 ≤ n) && decide (n ≤ 0xB1F)) || (decide (0x323 ≤ n) && decide (n ≤ 0x33F))

/-- What a control and status register holds; none where there is no such register. -/
def csrRead (s : State) (c : CmdCore) (n : Nat) : Option DWord :=
  match n with
  | 0x300 => some (c.mstatus ||| BitVec.ofNat 64 (2 ^ 33))
  | 0x301 => some (misaValue s)
  | 0x304 => some c.mie
  | 0x305 => some c.mtvec
  | 0x306 => some c.mcounteren
  | 0x30A => some c.menvcfg
  | 0x340 => some c.mscratch
  | 0x341 => some c.mepc
  | 0x342 => some c.mcause
  | 0x343 => some c.mtval
  | 0x344 => some c.mip
  | 0xB00 => some (cmdCycles s + c.cycleBase)
  | 0xB02 => some c.instret
  | 0xF11 | 0xF12 | 0xF13 | 0xF15 => some 0
  | 0xF14 => some (BitVec.ofNat 64 (s.hart?.getD s.curCmd))
  | n => if counterCsr n then some 0 else none

/-- MSTATUS as written: MIE, MPIE, MPRV and TW as given, MPP where it names a mode (R407: M and U). -/
def statusWritten (old v : DWord) : DWord :=
  let m : DWord := if bitsAt v.toNat 11 2 = 0 ∨ bitsAt v.toNat 11 2 = 3 then 0x221888 else 0x220088
  (old &&& ~~~m) ||| (v &&& m)

/-- A control and status register as written: each keeps the values that are legal for it. -/
def csrWrite (s : State) (c : CmdCore) (n : Nat) (v : DWord) : CmdCore :=
  match n with
  | 0x300 => { c with mstatus := statusWritten c.mstatus v }
  | 0x304 => { c with mie := v &&& 0x888 }
  | 0x305 => { c with mtvec := v &&& ~~~(2 : DWord) }
  | 0x306 => { c with mcounteren := v &&& 0xFFFFFFFF }
  | 0x30A => { c with menvcfg := v &&& 1 }
  | 0x340 => { c with mscratch := v }
  | 0x341 => { c with mepc := v &&& ~~~(1 : DWord) }
  | 0x342 => { c with mcause := v }
  | 0x343 => { c with mtval := v }
  | 0xB00 => { c with cycleBase := v - cmdCycles s }
  | 0xB02 => { c with instret := v - 1 }
  | _ => c

/-- A CSR of this number may be used by the core's mode, and written where the instruction writes. -/
def csrAllowed (c : CmdCore) (n : Nat) (writes : Bool) : Bool :=
  (c.machine || bitsAt n 8 2 == 0) && !(writes && bitsAt n 10 2 == 3)

/-! ### Memory (R201, R416) -/

/-- What a load of a command core comes to. -/
inductive CmdValue where
  | value (v : Nat)
  | waits                                 -- a load of the invalidation port that still waits (R208)
  | refused                               -- an access fault
  | asked (rank window offset : Nat)      -- a peer's memory
deriving DecidableEq, Repr

/-- Bytes of core-local memory: a hart has none. -/
def localSize (s : State) : Nat := if s.curCmd < 4 then Config.localMemorySize else 0

/-- Bytes of memory as the core reads them: a hart's plain load may be served from its copy of the line (R245, R416). -/
def cmdBytes (s : State) (now : Bool) (a n : Nat) : State × List Byte :=
  match s.hart?, now with
  | some h, false => residentRead s h a n
  | _, _ => homeRead s none (s.keyMapSlot a) a n

/-- A load of the control region by the core that this step runs: by a hart, of a port and of the sluice as R208 and R343 say. -/
def cmdPlace (s : State) (p : Place) (off n : Nat) : State × CmdValue :=
  let v := bitsAt (placeRead s p) (8 * (off % 8)) (8 * n)
  match s.hart? with
  | none => (s, .value v)
  | some h =>
    if p = .invalidation then
      (if invalidationsDone s h then ({ s with invalidated := s.invalidated.filter (fun e => e.1 != h) }, .value 0) else (s, .waits))
    else (sluiceAcquire s p, .value v)

/-- An aligned load: core-local memory, else the part's physical address space under the key map (R228); `now` where it is no plain load, but
part of an atomic access at the home. -/
def cmdRead (s : State) (c : CmdCore) (now : Bool) (a n : Nat) : State × CmdValue :=
  if a + n ≤ localSize s then (s, .value (ofBytes (c.mem.readBytes a n)))
  else
    match regionOf a with
    | .memory _ =>
      if s.poisonedAt a n then (s, .refused)
      else
        let (s, b) := cmdBytes s now a n
        (s, .value (ofBytes b))
    | .control off => cmdPlace s (placeOf (off / 8 * 8)) off n
    | .remote rank window offset => (s, .asked rank window offset)
    | .hole => (s, .refused)

/-- A window-table entry with a dword written (R400). -/
def Window.written (w : Window) (k v : Nat) : Window :=
  match k with
  | 0 => { w with valid := bitsAt v 0 1 == 1, base := bitsAt v 7 45 * 128 }
  | 1 => { w with len := bitsAt v 0 33 }
  | 2 =>
    { w with rd := bitsAt v 0 1 == 1, wr := bitsAt v 1 1 == 1, at' := bitsAt v 2 1 == 1, trg := bitsAt v 3 1 == 1, key := bitsAt v 4 6,
             part := BitVec.ofNat 12 (bitsAt v 16 12), gen := BitVec.ofNat 16 (bitsAt v 32 16) }
  | _ => w

/-- A store of the command complex to the control region: it writes the window table too, which is read-only to the resident cluster
(R201, R400). -/
def oluvosWrite (s : State) (p : Place) (v : Nat) (low whole : Bool) : State :=
  match p with
  | .window w k => { s with windows := tput s.windows w ((s.window w).written k v) }
  | p => placeWrite s p v low whole

/-- A request of a command core to a peer (R201, R398), with PART 0: it has no context. -/
def cmdSend (s : State) (rank window offset n : Nat) (op : PeerOp) (p : RemoteFor) : Option State :=
  (importGen s rank window).map (fun gen =>
    { s with
      remotes := tput s.remotes s.serial
        { ref := refOf (Config.cores * 256) 4, gkey := Config.cores * 256, node := s.serial, rank := rank, purpose := p,
          pcs := { spc := 0, lpc := 0 }, seq := s.serial, lane := 0, acq := false,
          request := { part := 0, window := window, gen := gen, rank := s.rank, offset := offset, size := n, op := op, tag := 0 } },
      serial := s.serial + 1 })

/-- An aligned store to memory: of the command complex no port takes it as a notify, for those are of the resident cluster and of the queue's
context (R312). -/
def cmdStore (s : State) (a n v : Nat) : State :=
  match s.hart? with
  | none => homeWriteQuiet s none (s.keyMapSlot a) a (toBytes n v)
  | some h => residentWrite s h a (toBytes n v)

/-- A dword of the control region as the core that this step runs writes it. -/
def cmdPut (s : State) (p : Place) (v : Nat) (low whole : Bool) : State :=
  match s.hart? with
  | none => oluvosWrite s p v low whole
  | some h => placeWrite { s with curHart := h } p v low whole

/-- An aligned store; none is an access fault. -/
def cmdWrite (s : State) (c : CmdCore) (a n v : Nat) : Option (State × CmdCore) :=
  if a + n ≤ localSize s then some (s, { c with mem := c.mem.writeBytes a (toBytes n v) })
  else
    match regionOf a with
    | .memory _ => some (cmdStore s a n v, c)
    | .control off =>
      let p := placeOf (off / 8 * 8)
      some (cmdPut s p (mergeBytes (placeRead s p) v (off % 8) n) (off % 8 == 0) (off % 8 == 0 && n == 8), c)
    | .remote rank window offset => (cmdSend s rank window offset n (.write (toBytes n v)) .ignored).map (fun s => (s, c))
    | .hole => none

/-! ### Execution -/

/-- The instruction has retired: on to the next one, `len` bytes on. -/
def CmdCore.next (c : CmdCore) (len : Nat) : CmdCore := { c with pc := c.pc + BitVec.ofNat 64 len, instret := c.instret + 1 }

/-- The instruction has retired, and the core goes on elsewhere. -/
def CmdCore.goto (c : CmdCore) (pc : DWord) : CmdCore := { c with pc := pc &&& ~~~(1 : DWord), instret := c.instret + 1 }

/-- An exception of an access, with its address in mtval. -/
def CmdCore.trapAt (c : CmdCore) (cause : Nat) (a : DWord) : CmdCore := { c.trap cause with mtval := a }

/-- A loaded value as its register holds it. -/
def loadedValue (size : Nat) (signed : Bool) (v : Nat) : DWord := if signed then sext (8 * size) v else BitVec.ofNat 64 v

/-- A load: misaligned it is exception 4, refused exception 5; from a peer the core waits for its answer. -/
def rvLoad (s : State) (c : CmdCore) (len size : Nat) (signed : Bool) (rd : Fin 32) (a : DWord) : State :=
  if a.toNat % size != 0 then setCmd s (c.trapAt 4 a)
  else
    match cmdRead s c false a.toNat size with
    | (s, .value v) => setCmd s ((c.put rd (loadedValue size signed v)).next len)
    | (s, .waits) => s
    | (s, .refused) => setCmd s (c.trapAt 5 a)
    | (s, .asked rank window offset) =>
      match cmdSend s rank window offset size .read (.core s.curCmd len size signed rd) with
      | some s => setCmd s { c with asked := true }
      | none => setCmd s (c.trapAt 5 a)

/-- A store: misaligned it is exception 6, refused exception 7. -/
def rvStore (s : State) (c : CmdCore) (len size : Nat) (a v : DWord) : State :=
  if a.toNat % size != 0 then setCmd s (c.trapAt 6 a)
  else
    match cmdWrite s c a.toNat size v.toNat with
    | some (s, c) => setCmd s (c.next len)
    | none => setCmd s (c.trapAt 7 a)

/-- An atomic: on core-local, near and far memory, in one step; elsewhere it is exception 7. -/
def rvAmo (s : State) (c : CmdCore) (len op size : Nat) (rd : Fin 32) (a x : DWord) : State :=
  if a.toNat % size != 0 then setCmd s (c.trapAt 6 a)
  else if decide (localSize s < a.toNat + size) && !isMemory a.toNat then setCmd s (c.trapAt 7 a)
  else
    match cmdRead s c true a.toNat size with
    | (s, .value v) =>
      match cmdWrite s c a.toNat size (atomicNew op size (BitVec.ofNat 64 v) x 0).toNat with
      | some (s, c) => setCmd s ((c.put rd (sext (8 * size) v)).next len)
      | none => setCmd s (c.trapAt 7 a)
    | (s, _) => setCmd s (c.trapAt 7 a)

/-- The bytes may be reserved: of a command core in core-local memory alone, of a hart in memory. -/
def mayReserve (s : State) (a n : Nat) : Bool := decide (a + n ≤ localSize s) || (s.hart?.isSome && isMemory a)

/-- A load-reserved; where nothing may be reserved it is exception 5. -/
def rvLr (s : State) (c : CmdCore) (len size : Nat) (rd : Fin 32) (a : DWord) : State :=
  if a.toNat % size != 0 then setCmd s (c.trapAt 4 a)
  else if !mayReserve s a.toNat size then setCmd s (c.trapAt 5 a)
  else
    match cmdRead s c true a.toNat size with
    | (s, .value v) =>
      setCmd s { (c.put rd (sext (8 * size) v)).next len with reserved := some (a.toNat, size), reservedTs := (s.ts (a.toNat / 128)).1 }
    | (s, _) => setCmd s (c.trapAt 5 a)

/-- The last load-reserved was of these bytes, and of memory no store to its line has been performed since. -/
def reservationHolds (s : State) (c : CmdCore) (a n : Nat) : Bool :=
  c.reserved == some (a, n) && (s.hart?.isNone || (s.ts (a / 128)).1 == c.reservedTs)

/-- A store-conditional: it stores, and answers 0, where the reservation holds. -/
def rvSc (s : State) (c : CmdCore) (len size : Nat) (rd : Fin 32) (a v : DWord) : State :=
  if a.toNat % size != 0 then setCmd s (c.trapAt 6 a)
  else if !mayReserve s a.toNat size then setCmd s (c.trapAt 7 a)
  else if reservationHolds s c a.toNat size then
    match cmdWrite s c a.toNat size v.toNat with
    | some (s, c) => setCmd s { (c.put rd 0).next len with reserved := none }
    | none => setCmd s (c.trapAt 7 a)
  else setCmd s { (c.put rd 1).next len with reserved := none }

/-- A CSR instruction: what is written comes from the old value and from rs1 or its five bits; set and clear of x0 or zero write
nothing. -/
def rvCsr (s : State) (c : CmdCore) (len : Nat) (op : CsrOp) (imm : Bool) (rd src : Fin 32) (n : Nat) : State :=
  let writes := op == .write || src != 0
  match csrRead s c n with
  | none => setCmd s (c.trap 2)
  | some old =>
    if !csrAllowed c n writes then setCmd s (c.trap 2)
    else
      let x : DWord := if imm then BitVec.ofNat 64 src.val else c.get src
      let v := match op with
        | .write => x
        | .set => old ||| x
        | .clear => old &&& ~~~x
      let c := if writes then csrWrite s c n v else c
      setCmd s ((c.put rd old).next len)

/-- MRET: MIE takes MPIE, MPIE is set, the mode is MPP, which becomes U, and the pc is mepc; a return to U mode clears MPRV. -/
def CmdCore.mret (c : CmdCore) : CmdCore :=
  let machine := bitsAt c.mstatus.toNat 11 2 == 3
  let kept := c.mstatus &&& ~~~(0x1888 : DWord)
  let kept := if c.mstatus.getLsbD 7 then kept ||| 0x88 else kept ||| 0x80
  { c.goto c.mepc with machine := machine, mstatus := if machine then kept else kept &&& ~~~(0x20000 : DWord) }

/-- A base instruction of `len` bytes. -/
def rvRun (s : State) (c : CmdCore) (len : Nat) (i : Rv) : State :=
  match i with
  | .constant rd v rel => setCmd s ((c.put rd (if rel then c.pc + v else v)).next len)
  | .jal rd off => setCmd s ((c.put rd (c.pc + BitVec.ofNat 64 len)).goto (c.pc + off))
  | .jalr rd rs1 off => setCmd s ((c.put rd (c.pc + BitVec.ofNat 64 len)).goto (c.get rs1 + off))
  | .branch p rs1 rs2 off => setCmd s (if p.holds (c.get rs1) (c.get rs2) then c.goto (c.pc + off) else c.next len)
  | .load size signed rd rs1 off => rvLoad s c len size signed rd (c.get rs1 + off)
  | .store size rs1 rs2 off => rvStore s c len size (c.get rs1 + off) (c.get rs2)
  | .aluImm op word rd rs1 imm => setCmd s ((c.put rd (op.run word (c.get rs1) imm)).next len)
  | .alu op word rd rs1 rs2 => setCmd s ((c.put rd (op.run word (c.get rs1) (c.get rs2))).next len)
  | .fence => setCmd s (c.next len)
  | .ecall => setCmd s (c.trap (if c.machine then 11 else 8))
  | .ebreak => setCmd s (c.trapAt 3 c.pc)
  | .mret => setCmd s (if c.machine then c.mret else c.trap 2)
  | .wfi => setCmd s (if c.machine || !c.mstatus.getLsbD 21 then c.next len else c.trap 2)
  | .csr op imm rd src n => rvCsr s c len op imm rd src n
  | .lr size rd rs1 => rvLr s c len size rd (c.get rs1)
  | .sc size rd rs1 rs2 => rvSc s c len size rd (c.get rs1) (c.get rs2)
  | .amo op size rd rs1 rs2 => rvAmo s c len op size rd (c.get rs1) (c.get rs2)

/-- A word of the base instruction set, with its length. -/
def rvOf (w : Nat) : Option (Nat × Rv) := if w % 4 = 3 then (decodeRv w).map (fun i => (4, i)) else (decodeRvc (w % 2 ^ 16)).map (fun i => (2, i))

/-- A word of the base instruction set, or an illegal one (mcause 2). -/
def rvStep (s : State) (c : CmdCore) (w : Nat) : State :=
  match rvOf w with
  | some (len, i) => rvRun s c len i
  | none => setCmd s (c.trap 2)

/-- The word at the pc, in core-local memory: none where it lies outside, which is exception 1. -/
def fetchCmd (c : CmdCore) : Option Nat :=
  let a := c.pc.toNat
  let w := ofBytes (c.mem.readBytes a 4)
  if Config.localMemorySize < a + 2 then none
  else if w % 4 ≠ 3 then some (w % 2 ^ 16)
  else if Config.localMemorySize < a + 4 then none
  else some w

/-- The external interrupt is taken before the next instruction: it is pending and enabled, and the mode is U or MIE is set. -/
def interruptDue (c : CmdCore) : Bool := c.pendingIrq && c.mie.getLsbD 11 && (!c.machine || c.mstatus.getLsbD 3)

/-- Taking the external interrupt, number 11: at mtvec, or at its entry where mtvec is vectored. -/
def CmdCore.interrupt (c : CmdCore) : CmdCore :=
  let t := c.trap 11
  { t with mcause := BitVec.ofNat 64 (2 ^ 63 + 11), pc := if c.mtvec.getLsbD 0 then t.pc + 44 else t.pc }

/-! ### The harts of the resident cluster (R20; log entry 93) -/

/-- A halfword of a hart's code; none where it lies outside memory or meets a double-bit error. -/
def hartHalf (s : State) (h a : Nat) : State × Option Nat :=
  if isMemory a && !s.poisonedAt a 2 then
    let (s, b) := residentRead s h a 2
    (s, some (ofBytes b))
  else (s, none)

/-- The word at a hart's pc. -/
def fetchHart (s : State) (h : Nat) (c : CmdCore) : State × Option Nat :=
  match hartHalf s h c.pc.toNat with
  | (s, none) => (s, none)
  | (s, some lo) =>
    if lo % 4 ≠ 3 then (s, some lo)
    else
      match hartHalf s h (c.pc.toNat + 2) with
      | (s, some hi) => (s, some (lo + 65536 * hi))
      | (s, none) => (s, none)

/-- A hart runs its next instruction: an interrupt that is due comes first (R342). A word that is none of RV64IMAC's is left where it stands,
for the model does not interpret it. -/
def hartTurn (s : State) (h : Nat) : State :=
  let s := { s with curCmd := 4 + h, curHart := h }
  let c := { s.cmdCore (4 + h) with pendingIrq := hartInterrupt s h }
  if harts ≤ h ∨ s.boot ≠ .running ∨ c.asked = true ∨ s.portLoads.contains h = true then s
  else if interruptDue c then setCmd s c.interrupt
  else
    match fetchHart s h c with
    | (s, none) => setCmd s (c.trapAt 1 c.pc)
    | (s, some w) =>
      match rvOf w with
      | some (len, i) => rvRun s c len i
      | none => s

/-- What a hart holds after an instruction that the model does not interpret: its registers; it has no core-local memory. -/
def hartSet (s : State) (h : Nat) (c : CmdCore) : State :=
  if h < harts ∧ s.boot = .running then { s with commandCores := tput s.commandCores (4 + h) { c with mem := [] } } else s

end Sys2Proof.Machine
end

