-- ==== Sys2Proof/Machine/Issue.lean ====
section
/-! DEFINITION. What a step runs: which split a pipe issues from (R57), the issue of its next instruction, the moves of the
schedule, and the part's own order of doing things where the schedule is empty (log entry 2). -/

namespace Sys2Proof.Machine

/-! ### Issue (R27, R57) -/

/-- The split that a pipe issues from is the one it goes on with while it stays ready, and its precedence is spent (R57). -/
def noteIssue (s : State) (r : SplitRef) : State :=
  s.modCore r.core (fun c => { c with lastIssued := tput c.lastIssued r.pipe r,
                                      precedence := if tget c.precedence r.pipe = some r then tdel c.precedence r.pipe else c.precedence })

/-- A word issued, so that its residue check is made: it neither faulted nor waits. -/
def wentOn (t : State) (r : SplitRef) : Bool :=
  match t.split r with
  | none => true
  | some sp => sp.stopped.isNone && (match sp.wait with
    | .stall _ => false
    | _ => true)

/-- What a fault of the hardware makes of a word that issued: its residue check fails, it reads a double-bit error, or a failing float path
computed it (R332, R413). -/
def faulty (s t : State) (r : SplitRef) (g : Group) (sp : Split) (i : Instr) : State :=
  match residueFault s r g sp i with
  | some f => bump f
  | none =>
    match upsetWord s r g sp i with
    | some u => bump u
    | none => corruptFloat s t r g sp i

/-- The instruction runs as its meaning says, but for a fault of the hardware (R413). -/
def runInstr (s : State) (r : SplitRef) (g : Group) (sp : Split) (i : Instr) : Host.Outcome State Fault Refusal :=
  match exec i s with
  | .next t => if wentOn t r then .next (faulty s t r g sp i) else .next t
  | o => o

/-- A split issues its next instruction, or takes what stands in its way. -/
def issueAt (s : State) (r : SplitRef) : Host.Outcome State Fault Refusal :=
  match tget s.groups r.gkey with
  | none => .next (bump s)
  | some g =>
    match tget g.splits r.slot with
    | none => .next (bump s)
    | some sp =>
      match fetchInstr s r g sp with
      | (t, .instr i) => runInstr (noteIssue { t with cur := some r } r) r g sp i
      | (t, f) => .next (bump (notFetched t r g sp f))

/-- The outcome leaves the split waiting at issue. -/
def stillStalls (o : Host.Outcome State Fault Refusal) (r : SplitRef) : Bool :=
  match o with
  | .next t =>
    match t.split r with
    | some sp =>
      match sp.wait with
      | .stall _ => true
      | _ => false
    | none => false
  | .fault _ | .refused _ => false

/-- No workgroup of a multi-chip node runs before START (R329). -/
def nodeStarted (s : State) (g : Group) : Bool :=
  match tget s.nodes g.node with
  | some n =>
    match n.multi with
    | some m => m.started
    | none => true
  | none => true

/-- A split is ready (R57). One that waits at issue is ready once its word would issue; a held fetch or descriptor read waits
for its replay (R133). -/
def splitReady (s : State) (r : SplitRef) (g : Group) (sp : Split) : Bool :=
  sp.stopped.isNone && nodeStarted s g &&
  (match sp.wait with
   | .ready => true
   | .stall .fetch | .stall .descriptor => false
   | .stall _ => !stillStalls (issueAt s r) r
   | _ => false)

/-- A ready split with its age: its group's placement, then its slot (R57). -/
structure Candidate where
  ref : SplitRef
  order : Nat
  last : Nat
deriving DecidableEq, Repr

/-- The ready splits of a pipe. -/
def candidates (s : State) (core pipe : Nat) : List Candidate :=
  (s.groups.filter (fun e => e.1 / 32 == core * 8 + pipe)).flatMap (fun e =>
    (e.2.splits.filter (fun x => splitReady s (refOf e.1 x.1) e.2 x.2)).map (fun x =>
      { ref := refOf e.1 x.1, order := e.2.placed, last := x.2.lastIssue }))

/-- The oldest of some candidates. -/
def oldest : List Candidate → Option Candidate
  | [] => none
  | a :: l =>
    match oldest l with
    | none => some a
    | some b => if b.order < a.order ∨ (b.order = a.order ∧ b.ref.slot < a.ref.slot) then some b else some a

/-- The split that a pipe issues from: a starved one, else the one it issued from last, else the oldest (R57). -/
def pickSplit (s : State) (core pipe : Nat) : Option SplitRef :=
  let l := candidates s core pipe
  let c := s.core core
  let starved := l.filter (fun x => decide (1024 ≤ s.cyc - x.last) || tget c.precedence pipe == some x.ref)
  match oldest starved with
  | some x => some x.ref
  | none =>
    match l.find? (fun x => tget c.lastIssued pipe == some x.ref) with
    | some x => some x.ref
    | none => (oldest l).map (fun x => x.ref)

/-- A pipe's turn: the split that must park first parks (R46), any other issues. -/
def pipeTurn (s : State) (core pipe : Nat) : Host.Outcome State Fault Refusal :=
  match pickSplit s core pipe with
  | none => .next (bump s)
  | some r =>
    match s.split r with
    | some sp => if mustPark sp && sp.wait == .ready then .next (bump (forcePark s r)) else issueAt s r
    | none => .next (bump s)

/-! ### The command complex (R407) -/

/-- The Xcmd instruction of a word that a command core has fetched. -/
def xcmdOf (w : Nat) : Option Instr := if w % 4 = 3 then decodeXcmd w else none

/-- A cx.swait stands at the pc: a pending interrupt ends its wait, and is taken after it (R407). -/
def waitsHere (c : CmdCore) : Bool :=
  match (fetchCmd c).bind xcmdOf with
  | some (.cxSwait ..) => c.machine
  | _ => false

/-- A logical command core, one of four, runs its next instruction once Oluvos has been started: an Xcmd instruction, or one of its
base instruction set; an interrupt that is due comes first (R21, R407). -/
def commandTurn (s : State) (k : Nat) : Host.Outcome State Fault Refusal :=
  let c := s.cmdCore k
  let s := { s with curCmd := k }
  if 4 ≤ k ∨ oluvosUp s = false ∨ c.asked = true then .next (bump s)
  else if interruptDue c && !waitsHere c then .next (bump (setCmd s c.interrupt))
  else
    match fetchCmd c with
    | none => .next (bump (setCmd s (c.trapAt 1 c.pc)))
    | some w =>
      match xcmdOf w with
      | some i => exec i s
      | none => .next (bump (rvStep s c w))

/-! ### Moves -/

/-- A step of the part that no word encodes: an instruction of a stream is none, and ILLEGAL_OPCODE is met by a fetch. -/
def isEvent (i : Instr) : Bool := (encode i).isEmpty && i != .illegalOpcode

/-- A step that may come before the resident cluster has started: the array is held idle until then (R408). -/
def beforeStart : Instr → Bool
  | .hello .. | .queryRas .. | .setPowerCap .. | .powerCapAdjust | .thermalThrottle | .thermalThrottleRelease | .thermalShutdown
  | .loadResidentImage .. | .spdm .. | .forwardedService .. | .serviceWindowFrame .. | .peerRequest .. | .windowErrorResponse ..
  | .recoverImage .. | .hostLinkReset | .boot | .monitorReset | .lockstepError .. | .floatPathFault .. | .clockPointChange .. | .ltTick ..
  | .hubLtTick | .floorSweep | .l2OverdueSweep .. | .auditFail .. => true
  | _ => false

/-- The event may be taken as a step of its own. -/
def mayCome (s : State) (i : Instr) : Bool := isEvent i && (s.boot == .running || beforeStart i)

/-- A move of the schedule. -/
def runMove (s : State) (m : Move) : Host.Outcome State Fault Refusal :=
  match m with
  | .pipe core pipe => if s.boot = .running then pipeTurn s core pipe else .next (bump s)
  | .event i => if mayCome s i then exec i s else .next (bump s)
  | .command k => commandTurn s k
  | .resident a => .next (bump (if s.boot = .running then residentAccess s a else s))
  | .reply k data => .next (bump (peerAnswers s k data))
  | .hostWrite addr b => .next (bump (hostWrite s addr b))
  | .hostRead addr n => .next (bump (hostRead s addr n))
  | .configWrite o v => .next (bump (configWrite s o v))
  | .configRead o => .next (bump (configRead s o))
  | .flashed => .next (bump (flashWritten s))
  | .poison pa => .next (bump (formPoison s pa))
  | .upset r b => .next (bump { s with upsets := s.upsets ++ [(r, b)] })
  | .upsetCommand k => .next (bump (upsetCommand s k))
  | .nearError => .next (bump (nearError s))
  | .linkRetry => .next (bump (linkRetry s))
  | .floatOnset core => .next (bump { s with floatOnset := s.floatOnset ++ [core] })
  | .residue r b => .next (bump { s with residueFails := if b then s.residueFails ++ [r] else s.residueFails.filter (fun x => x != r) })
  | .interrupt k b => .next (bump (if k < 4 then { s with commandCores := tput s.commandCores k { s.cmdCore k with pendingIrq := b } } else s))
  | .hart h => .next (bump (hartTurn s h))
  | .hartSet h c => .next (bump (hartSet s h c))

/-! ### With no schedule -/

/-- A step of the part, as its meaning. -/
abbrev Own := State → Host.Outcome State Fault Refusal

/-- Steps that splits and groups take by themselves. -/
def groupEvents (s : State) : List Own :=
  s.groups.flatMap (fun (e : Nat × Group) =>
    e.2.splits.flatMap (fun x =>
      x.2.inflight.map (fun f => execVariableLatencyResult (refOf e.1 x.1) f.id) ++
      [execParkPointRelease (refOf e.1 x.1), execForcedPark (refOf e.1 x.1)]) ++
    e.2.joins.map (fun j => execSplitMerge e.1 j.id) ++
    e.2.rays.map (fun y => execRayRecordArrival e.1 y.id) ++
    [execBatchRetire e.1, execJoinDeadlockRelease e.1])

/-- Steps that units take by themselves. -/
def unitEvents (s : State) : List Own :=
  s.acks.map (fun e => execStoreAcknowledgement e.2.ref e.1) ++ s.commands.map (fun e => execCopyCommandPerform e.1) ++
  s.coreTab.map (fun e => execMatrixCommandPerform e.1 false) ++ s.rtWrites.map (fun e => execRtWriteApply e.1) ++
  s.rtTiles.map (fun e => execTileWriteBack e.1) ++ (List.range 4).map execMessagePost ++
  s.arrivals.map (fun e => execTriggerArrival e.1 e.2) ++ s.triggers.map (fun e => execTriggerRun e.1) ++
  s.coreTab.map (fun e => execLtTick e.1) ++ [execHubLtTick, execFloorSweep]

/-- Cores that hold something, or that a workgroup is bound to. -/
def activeCores (s : State) : List Nat := (s.coreTab.map (fun e => e.1) ++ s.bound.map (fun b => b.core)).eraseDups

/-- Steps that the queues and the pool take by themselves. -/
def poolEvents (s : State) : List Own :=
  [execNotify] ++ s.queues.flatMap (fun e => [execNoopEntry e.1, execLaunchEntry e.1, execWaitEntry e.1]) ++
  s.nodes.flatMap (fun e => [execRasteriserStart e.1, execNodeCompletion e.1]) ++
  (s.nodes.filter (fun e => e.2.multi.isSome)).flatMap (fun e => [execMultiLaunch (.send e.1), execMultiAccept (.send e.1),
    execMultiStart (.send e.1), execMultiDone (.send e.1), execMultiAbort (.send e.1)]) ++
  s.threads.map (fun t => execComposeRelease t.node t.index) ++
  s.wgs.flatMap (fun e => [execBarrierComplete e.1, execWorkgroupSave e.1]) ++
  s.saved.map (fun e => execWorkgroupRestore e.1) ++ (activeCores s).flatMap (fun c => [execGranuleToScratch c, execGranuleToL1 c]) ++
  [execWorkgroupPlacement] ++ (s.nodes.map (fun e => e.2.desc.allot)).eraseDups.flatMap (fun a => (activeCores s).flatMap (fun c =>
    (List.range Config.pipes).map (fun p => execCompaction c p a)))

/-- Steps that come with time, and the ports' looks at the signals they wait for. The sweeps of R219 come when they are due. -/
def timeEvents (s : State) : List Own :=
  s.groups.filterMap (fun (e : Nat × Group) => if e.2.sect.isSome then some (execOrderedTimeout e.1) else none) ++
  s.leases.map (fun e => execAtomicLeaseExpiry e.1) ++
  s.nodes.flatMap (fun e => [execDieReservation e.1, execAcceptTimeout e.1]) ++
  s.dieTab.flatMap (fun d => d.2.weir.map (fun e => execWeirFarExpiry e.line) ++
    (d.2.auditRecs.map (fun a => a.slice)).eraseDups.map (fun k => execAuditFail d.1 k 0)) ++
  s.queues.map (fun e => execWaitEntrySatisfied e.1)

/-- The first step of a list that changes anything besides the nonce of the free values. -/
def firstEffect (s : State) : List Own → Option State
  | [] => none
  | f :: l =>
    match f s with
    | .next t => if { t with fresh := s.fresh } = s then firstEffect s l else some t
    | _ => firstEffect s l

/-- The cycle in which a pipe last issued from a split that it still holds. -/
def pipeIssued (s : State) (p : Nat) : Nat :=
  s.groups.foldl (fun a e => if e.1 / 32 = p then e.2.splits.foldl (fun a x => max a x.2.lastIssue) a else a) 0

/-- The pipe that has the turn: of those that hold a ready split, the one that has not issued for longest (R58). -/
def somePipe (s : State) : Option (Nat × Nat) :=
  let pipes := (s.groups.map (fun (e : Nat × Group) => e.1 / 32)).eraseDups
  let l := pipes.filter (fun p => (pickSplit s (p / 8) (p % 8)).isSome)
  (l.foldl (fun (b : Option Nat) p =>
    match b with
    | none => some p
    | some q => if pipeIssued s p < pipeIssued s q then some p else some q) none).map (fun p => (p / 8, p % 8))

/-- A list turned so that its element `k`, counted round, comes first. -/
def turned (k : Nat) (l : List Own) : List Own := l.drop (k % max 1 l.length) ++ l.take (k % max 1 l.length)

/-- The steps that may come by themselves, in the order in which the part tries them: the four kinds take turns at being first, and so do
the steps of each kind, so that none waits for ever behind the others (R58). -/
def ownEvents (s : State) : List Own :=
  let k := s.cyc / 2
  let l := [groupEvents s, unitEvents s, poolEvents s, timeEvents s].map (turned (k / 4))
  (l.drop (k % 4) ++ l.take (k % 4)).flatten

/-- With no schedule: the ROM boots; then pipes, in even cycles, and the other steps take turns (log entry 2). -/
def ownTurn (s : State) : Host.Outcome State Fault Refusal :=
  if s.boot = .rom then execBoot s
  else if s.flashing.isSome then .next (bump (flashWritten s))
  else
    let event := firstEffect s (ownEvents s)
    match somePipe s, event with
    | some (c, p), some t => if s.cyc % 2 = 0 then pipeTurn s c p else .next t
    | some (c, p), none => pipeTurn s c p
    | none, some t => .next t
    | none, none => .next (bump s)

/-! ### Time (R5, R247, R248) -/

/-- The self-advances of every logical time up to number `k` (R247, R416). -/
def tickTo (k : Nat) (s : State) : State :=
  let up := fun (t : BitVec 16) (ticked : Nat) => t + BitVec.ofNat 16 (k - ticked)
  { s with
    coreTab := s.coreTab.map (fun e => (e.1, { e.2 with lt := up e.2.lt e.2.ticked, ticked := max k e.2.ticked })),
    hubLt := up s.hubLt s.hubTicked, hubTicked := max k s.hubTicked, idleLt := up s.idleLt s.idleTicked,
    idleTicked := max k s.idleTicked }

/-- Ticks up to number `due`, by at most 2^11 at a time, each followed by the sweep that is due by then (R247, R248). -/
def passTicks (due : Nat) : Nat → State → State
  | 0, s => s
  | n + 1, s =>
    if s.idleTicked < due then
      let s := tickTo (min due (s.idleTicked + 2048)) s
      passTicks due n (if sweepDue s then floorSweep s else s)
    else s

/-- Note since when the joins of each group can never complete (R42). -/
def noteDeadlocks (s : State) : State :=
  { s with deadlocks := s.groups.filterMap (fun (e : Nat × Group) =>
      if joinDeadlock e.2 then some (e.1, (tget s.deadlocks e.1).getD s.cyc) else none) }

/-- Steps that may wait no longer: their time was before the present cycle (R42, R52, R219, R221, R252, R324, R330,
R356). -/
def overdue (s : State) : List Own :=
  (s.deadlocks.filterMap (fun e => if e.2 + 64 < s.cyc then some (execJoinDeadlockRelease e.1) else none)) ++
  (((s.threads.filter (fun t => decide (t.cycle + 512 < s.cyc))).map (fun t => (t.node, t.index))).eraseDups.map
    (fun e => composeOverdue e.1 e.2)) ++
  (s.groups.filterMap (fun (e : Nat × Group) => match e.2.sect with
    | some t => if t + 2 ^ 20 < s.cyc then some (execOrderedTimeout e.1) else none
    | none => none)) ++
  (s.leases.filterMap (fun e => if e.2.ends < s.cyc then some (execAtomicLeaseExpiry e.1) else none)) ++
  s.nodes.map (fun e => execAcceptTimeout e.1) ++
  (s.nodes.filterMap (fun e => if e.2.waitFrom + 2 ^ 20 < s.cyc then some (execDieReservation e.1) else none)) ++
  s.dieTab.flatMap (fun d =>
    -- the last first, so that the places of those before it stay
    ((d.2.auditRecs.map (fun a => a.slice)).eraseDups.flatMap (fun k =>
      (((d.2.auditRecs.filter (fun a => a.slice == k)).zipIdx.filter (fun e => decide (e.1.deadline < s.cyc / 256))).reverse.map
        (fun e => execAuditFail d.1 k e.2)))) ++
    -- within one run of passCycles of the 2^17 units
    ((d.2.l2.map (fun l => l.slice)).eraseDups.filter (fun k => decide (2 ^ 17 - 2 ^ 12 ≤ s.cyc / 256 - (tget d.2.swept k).getD 0))).map
      (fun k => execL2OverdueSweep d.1 k))

/-- Take some steps in order; a stop takes none. -/
def takeAll (s : State) (l : List Own) : State :=
  l.foldl (fun s f =>
    match f s with
    | .next t => t
    | _ => s) s

/-- Time units of a cycle at a clock point: 850, 600 and 400 MHz (R22). -/
def cycleTime : ClockPoint → Nat
  | .high => 24 | .middle => 34 | .low => 51

/-- At most 2^20 cycles pass: what falls due before the present cycle has happened when the next step is taken. A tick that falls due at
the present cycle itself comes as a step of its own (R247). -/
def passSome (s : State) (n : Nat) : State :=
  let s := noteDeadlocks s
  let s := { s with cyc := s.cyc + n, time := s.time + n * cycleTime s.issueClock }
  let due := (s.cyc - 1) / 1024
  let s := passTicks due (due - s.idleTicked) s
  let s := noteWaits (settlePort (takeAll s (overdue s)))
  settleAsked s.asked.length s

/-- Cycles pass, in runs of at most 2^20; `k` bounds the number of the runs that others follow. -/
def passRuns : Nat → Nat → State → State
  | 0, n, s => passSome s n
  | k + 1, n, s => if n ≤ 2 ^ 20 then passSome s n else passRuns k (n - 2 ^ 20) (passSome s (2 ^ 20))

/-- Cycles pass, what falls due in them having happened. -/
def passCycles (s : State) (n : Nat) : State := passRuns (n / 2 ^ 20) n s

/-! ### A step -/

/-- One step: the schedule's next move, its cycles having passed; a part that is off does nothing but wake (R24). -/
def runStep (s : State) : Host.Outcome State Fault Refusal :=
  match s.schedule with
  | (n, m) :: l =>
    if s.power then runMove (passCycles { s with schedule := l } n) m
    else if m = .event .hostLinkReset then runMove { s with schedule := l } m
    else .fault .poweredOff
  | [] => if s.power then ownTurn (passCycles s 1) else .fault .poweredOff

end Sys2Proof.Machine
end

