-- ==== Sys2Proof/Machine/Step.lean ====
section
/-! DEFINITION. The step, and a state whose next step runs a given instruction. -/

namespace Sys2Proof.Machine

/-- One step of the part. -/
def step (s : State) : Host.Outcome State Fault Refusal := runStep s

/-! ### A part that is about to run one instruction (log entry 4) -/

/-- A descriptor of a plain node of one workgroup of one group of 96 lanes, its scalar code at virtual address 0 and its lane
code at 0x100. -/
def fetchDesc : Desc :=
  { addr := 0, scode := 0, lcode := 0x100, w := [7, 0, 0, 0, 0, 0], n := [96, 1, 1, 1, 1, 1], allot := 128, limit := 4, q := 0, acct := 0,
    aff := 6, prio := 0, coop := false, free := false, pair := false, multi := false, localDone := false, gfx := false, gstage := 0,
    scratch := 4096, calltab := 0, calllen := 0, sigop := 0, domain := 0, signal := 0, sigval := 0, preds := 0, succ := [] }

/-- The node of that descriptor. -/
def fetchNode : Node :=
  { queue := noPort, pos := 0, ctx := 0, desc := fetchDesc, args := 0, count := 0, state := .ready, readyAt := 0, waitFrom := 0,
    next := 1, ended := 0, dies := [], carried := 0, time := 0, released := 0, waves := [], rasterised := false, begun := some 0, reserves := [], multi := none }

/-- Its workgroup, in slot 0 of core 0. -/
def fetchWg : Workgroup :=
  { node := 0, wid := 0, order := 0, region := 0, units := 1, scratch := [], size := 4096, objects := [], rck := 0, cpt := 256,
    lastTick := 0, tiles := [], tileCount := 0, granules := 0, twin := none, follower := false, groups := [0], preempt := none, overwritten := [] }

/-- Its group, in slot 0 of pipe 0; for a lane word, in the middle of a run. -/
def fetchGroup (cyc : Nat) (lane : Bool) : Group :=
  let g := launchGroup fetchNode 0 0 1 0 0 cyc (groupSeed fetchNode 0)
  if lane then
    { g with splits := g.splits.map (fun e => (e.1, { e.2 with run := some { left := 1, pk := false, rep := none } })) }
  else g

/-- The page tables that map virtual page 0 to the physical page 0x6000, executable: one table for each level, from 0x1000. -/
def fetchTables : List (Nat × Nat) :=
  [(0x1000, 0x2001), (0x2000, 0x3001), (0x3000, 0x4001), (0x4000, 0x5001), (0x5000, 0x600D)]

/-- The platform key stands in slot 0, as after a boot (R228). -/
def withPlatformKey (s : State) : State :=
  match tget s.keySlots 0 with
  | some _ => s
  | none => { s with keySlots := tput s.keySlots 0 { load := s.serial, value := Config.platformKey s.boots }, serial := s.serial + 1 }

/-- Context 0 reads its page tables from 0x1000 under slot 0. -/
def withContext (s : State) : State :=
  s.setContext 0 { s.context 0 with valid := true, wkey := 0, root := 1, usedWkey := 0, usedRoot := 1 }

/-- The words of an instruction stand in the code page; the translation caches of core 0 hold nothing of it. -/
def withCode (s : State) (offset bytes w : Nat) : State :=
  let s := fetchTables.foldl (fun s e => s.physWrite 0 e.1 (toBytes 8 e.2)) s
  let s := s.physWrite 0 (0x6000 + offset) (toBytes bytes w)
  let s := s.modCore 0 (fun c => { c with tlb := [], galley := [], pages := [] })
  s.setDie 0 { s.die 0 with tlb := [] }

/-- A group of that node is the only one of pipe 0 of core 0, and that pipe issues next. -/
def withGroup (s : State) (lane : Bool) : State :=
  { s with
    nodes := tput s.nodes 0 fetchNode, wgs := tput s.wgs 0 fetchWg,
    groups := tput (s.groups.filter (fun e => decide (32 ≤ e.1))) 0 (fetchGroup s.cyc lane),
    regions := [(0, 0), (0, 1)] ++ s.regions, residueFails := [], upsets := [], floatOnset := [], poisoned := [], power := true, boot := .running,
    schedule := (0, .pipe 0 0) :: s.schedule }

/-- The state in which the next step fetches and runs an instruction: an Xcmd word on command core 0, any other word on the
array (log entry 4). -/
def State.withFetchWord (s : State) (nbits w : Nat) : State :=
  if nbits ≤ 32 ∧ (decodeXcmd (w % 2 ^ 32)).isSome = true then
    let c := s.cmdCore 0
    { s with
      power := true, boot := .running,
      commandCores := tput s.commandCores 0 { c with machine := true, asked := false, pendingIrq := false, mem := c.mem.writeBytes c.pc.toNat (toBytes 4 w) },
      schedule := (0, .command 0) :: s.schedule }
  else if nbits ≤ 64 then withGroup (withCode (withContext (withPlatformKey s)) 0 8 (w % 2 ^ 64)) false
  else withGroup (withCode (withContext (withPlatformKey s)) 0x100 12 (w % 2 ^ 96)) true

end Sys2Proof.Machine
end

