-- ==== Sys2Proof/WellFormed.lean ====
section
/-! DEFINITION. Which terms of Instr are instructions that a word encodes: the field values that R75, R83, R90, R263
to R265, R278, R284 and R285 accept. The steps that no word encodes are well formed. -/

namespace Sys2Proof

/-- An order that a fence names (R68): not relaxed. -/
def Order.fences : Order → Bool
  | .relaxed => false
  | _ => true

/-- Well-formedness of an instruction. -/
def Instr.wf : Instr → Bool
  | .sgetsr d r => decide (r ≠ .cyc) || d.val % 2 == 0
  | .sfence o _ => o.fences
  | .sldW _ _ _ m | .sldD _ _ _ m | .sldB _ _ _ m | .sldBu _ _ _ m | .sldH _ _ _ m | .sldHu _ _ _ m => m.globalOk .load
  | .sstW _ _ _ m | .sstD _ _ _ m | .sstB _ _ _ m | .sstH _ _ _ m => m.globalOk .store
  | .satomAddW _ _ _ m | .satomAndW _ _ _ m | .satomOrW _ _ _ m | .satomXorW _ _ _ m | .satomMinW _ _ _ m
  | .satomMaxW _ _ _ m | .satomMinuW _ _ _ m | .satomMaxuW _ _ _ m | .satomXchgW _ _ _ m
  | .satomCasW _ _ _ m | .satomFaddW _ _ _ m => m.globalOk .atomic
  | .satomAddD _ _ _ m | .satomAndD _ _ _ m | .satomOrD _ _ _ m | .satomXorD _ _ _ m | .satomMinD _ _ _ m
  | .satomMaxD _ _ _ m | .satomMinuD _ _ _ m | .satomMaxuD _ _ _ m | .satomXchgD _ _ _ m
  | .satomCasD _ _ _ m | .satomFaddD _ _ _ m => m.globalOk .atomic
  | .xcopy dir d a _ _ _ => (!dir.globalDst || d.val % 2 == 0) && (!dir.globalSrc || a.val % 2 == 0)
  | .xput _ a _ sp f _ => f.scope.remote && f.cls.val == 0 && (sp || a.val % 2 == 0)
  | .xget d _ _ sp f _ => f.scope.remote && f.cls.val == 0 && (sp || d.val % 2 == 0)
  | .xsig _ _ _ f _ => f.scope.remote && f.cls.val == 0
  | i => match laneParts i with
    | some (op, w) => laneLegal op w
    | none => true

end Sys2Proof
end

