-- ==== Sys2Proof/Laws/Decode.lean ====
section
/-! SUPPORT. The fields of the encoded words: each field of a word built by the encoder is read back. -/

namespace Sys2Proof

theorem bitsAt_def (x lo n : Nat) : bitsAt x lo n = x / 2 ^ lo % 2 ^ n := rfl

/-! ### Names -/

@[simp] theorem sreg_val (r : SReg) : sreg r.val = r := by simp [sreg, Fin.ofNat, Nat.mod_eq_of_lt r.isLt]

@[simp] theorem pairOf_val (p : Pair) : pairOf (2 * p.val) = p := by
  simp [pairOf, Fin.ofNat, Nat.mod_eq_of_lt p.isLt]

theorem ofNat_val {n : Nat} [NeZero n] (x : Fin n) : Fin.ofNat n x.val = x := by
  simp [Fin.ofNat, Nat.mod_eq_of_lt x.isLt]

@[simp] theorem specialReg_field (r : SpecialReg) : SpecialReg.ofField? r.field = some r := by cases r <;> rfl
@[simp] theorem cond_field (c : Cond) : Cond.ofField? c.field = some c := by cases c <;> rfl
@[simp] theorem scope_field (c : Scope) : Scope.ofField? c.field = some c := by cases c <;> rfl
@[simp] theorem order_field (c : Order) : Order.ofField c.field = c := by cases c <;> rfl
@[simp] theorem copyDir_field (c : CopyDir) : CopyDir.ofField c.field = c := by cases c <;> rfl

theorem specialReg_field_lt (r : SpecialReg) : r.field < 8 := by cases r <;> decide
theorem cond_field_lt (c : Cond) : c.field < 6 := by cases c <;> decide
theorem scope_field_lt (c : Scope) : c.field < 6 := by cases c <;> decide
theorem order_field_lt (c : Order) : c.field < 4 := by cases c <;> decide
theorem copyDir_field_lt (c : CopyDir) : c.field < 4 := by cases c <;> decide

/-! ### SR words -/

section
variable {m d a b f : Nat}

theorem srWord_major (hd : d < 64) (ha : a < 64) (hb : b < 64) (hf : f < 256) (hm : m < 64) :
    bitsAt (srWord m d a b f) 26 6 = m := by
  simp only [bitsAt, srWord]; omega

theorem srWord_d (hd : d < 64) (ha : a < 64) (hb : b < 64) (hf : f < 256) : bitsAt (srWord m d a b f) 20 6 = d := by
  simp only [bitsAt, srWord]; omega

theorem srWord_a (ha : a < 64) (hb : b < 64) (hf : f < 256) : bitsAt (srWord m d a b f) 14 6 = a := by
  simp only [bitsAt, srWord]; omega

theorem srWord_b (hb : b < 64) (hf : f < 256) : bitsAt (srWord m d a b f) 8 6 = b := by
  simp only [bitsAt, srWord]; omega

theorem srWord_f (hf : f < 256) : bitsAt (srWord m d a b f) 0 8 = f := by
  simp only [bitsAt, srWord]; omega

end

/-! ### SI words -/

section
variable {m d a i : Nat}

theorem siWord_major (hd : d < 64) (ha : a < 64) (hi : i < 2 ^ 14) (hm : m < 64) : bitsAt (siWord m d a i) 26 6 = m := by
  simp only [bitsAt, siWord]; omega

theorem siWord_d (hd : d < 64) (ha : a < 64) (hi : i < 2 ^ 14) : bitsAt (siWord m d a i) 20 6 = d := by
  simp only [bitsAt, siWord]; omega

theorem siWord_a (ha : a < 64) (hi : i < 2 ^ 14) : bitsAt (siWord m d a i) 14 6 = a := by
  simp only [bitsAt, siWord]; omega

theorem siWord_5_9 (hi : i < 2 ^ 14) : bitsAt (siWord m d a i) 5 9 = i / 32 := by
  simp only [bitsAt, siWord]; omega

theorem siWord_0_5 : bitsAt (siWord m d a i) 0 5 = i % 32 := by
  simp only [bitsAt, siWord]; omega

theorem siWord_6_8 (hi : i < 2 ^ 14) : bitsAt (siWord m d a i) 6 8 = i / 64 := by
  simp only [bitsAt, siWord]; omega

theorem siWord_0_6 : bitsAt (siWord m d a i) 0 6 = i % 64 := by
  simp only [bitsAt, siWord]; omega

theorem siWord_8_6 (hi : i < 2 ^ 14) : bitsAt (siWord m d a i) 8 6 = i / 256 := by
  simp only [bitsAt, siWord]; omega

theorem siWord_imm8 : BitVec.ofNat 8 (siWord m d a i) = BitVec.ofNat 8 i := by
  apply BitVec.eq_of_toNat_eq
  simp only [siWord, BitVec.toNat_ofNat]; omega

theorem siWord_imm : BitVec.ofNat 14 (siWord m d a i) = BitVec.ofNat 14 i := by
  apply BitVec.eq_of_toNat_eq
  simp only [siWord, BitVec.toNat_ofNat]; omega

end

/-! ### Long forms -/

section
variable {m f x y z : Nat}

theorem longWord_major (hf : f < 256) (hx : x < 64) (hy : y < 64) (hz : z < 64) (hm : m < 64) :
    bitsAt (longWord m f x y z) 26 6 = m := by
  simp only [bitsAt, longWord]; omega

theorem longWord_f (hf : f < 256) (hx : x < 64) (hy : y < 64) (hz : z < 64) : bitsAt (longWord m f x y z) 18 8 = f := by
  simp only [bitsAt, longWord]; omega

theorem longWord_x (hx : x < 64) (hy : y < 64) (hz : z < 64) : bitsAt (longWord m f x y z) 12 6 = x := by
  simp only [bitsAt, longWord]; omega

theorem longWord_y (hy : y < 64) (hz : z < 64) : bitsAt (longWord m f x y z) 6 6 = y := by
  simp only [bitsAt, longWord]; omega

theorem longWord_z (hz : z < 64) : bitsAt (longWord m f x y z) 0 6 = z := by
  simp only [bitsAt, longWord]; omega

end

/-! ### The scalar decoder on built words -/

@[simp] theorem ok_toOption (i : Instr) : (Except.ok i : Except FaultCode Instr).toOption = some i := rfl

theorem decodeIn_short (w : Nat) (h : bitsAt w 26 6 < 62) : decodeIn .scalar [w] = (decodeScalar w 0).toOption := by
  have : isLong w = false := by simp [isLong]; omega
  simp [decodeIn, this]

theorem decodeIn_long (w lit : Nat) (h : 62 ≤ bitsAt w 26 6) : decodeIn .scalar [w, lit] = (decodeScalar w lit).toOption := by
  have : isLong w = true := by simp [isLong]; omega
  simp [decodeIn, this]

section
variable {d a b f : Nat} (hd : d < 64) (ha : a < 64) (hb : b < 64) (hf : f < 256)
include hd ha hb hf

theorem decode_alu32 : decodeIn .scalar [srWord 0x00 d a b f] = (decodeAlu32 d a b f).toOption := by
  have h := srWord_major hd ha hb hf (m := 0) (by omega)
  rw [decodeIn_short _ (by omega)]
  unfold decodeScalar
  rw [h, srWord_d hd ha hb hf, srWord_a ha hb hf, srWord_b hb hf, srWord_f hf]
  rfl

theorem decode_alu64 : decodeIn .scalar [srWord 0x01 d a b f] = (decodeAlu64 d a b f).toOption := by
  have h := srWord_major hd ha hb hf (m := 1) (by omega)
  rw [decodeIn_short _ (by omega)]
  unfold decodeScalar
  rw [h, srWord_d hd ha hb hf, srWord_a ha hb hf, srWord_b hb hf, srWord_f hf]
  rfl

theorem decode_compare : decodeIn .scalar [srWord 0x02 d a b f] = (decodeCompare d a b f).toOption := by
  have h := srWord_major hd ha hb hf (m := 2) (by omega)
  rw [decodeIn_short _ (by omega)]
  unfold decodeScalar
  rw [h, srWord_d hd ha hb hf, srWord_a ha hb hf, srWord_b hb hf, srWord_f hf]
  rfl

theorem decode_control : decodeIn .scalar [srWord 0x03 d a b f] = (decodeControl d a b f).toOption := by
  have h := srWord_major hd ha hb hf (m := 3) (by omega)
  rw [decodeIn_short _ (by omega)]
  unfold decodeScalar
  rw [h, srWord_d hd ha hb hf, srWord_a ha hb hf, srWord_b hb hf, srWord_f hf]
  rfl

theorem decode_barrier : decodeIn .scalar [srWord 0x04 d a b f] = (decodeBarrier d a b f).toOption := by
  have h := srWord_major hd ha hb hf (m := 4) (by omega)
  rw [decodeIn_short _ (by omega)]
  unfold decodeScalar
  rw [h, srWord_d hd ha hb hf, srWord_a ha hb hf, srWord_b hb hf, srWord_f hf]
  rfl

end

section
variable {f x y z lit : Nat} (hf : f < 256) (hx : x < 64) (hy : y < 64) (hz : z < 64)
include hf hx hy hz

theorem decode_3e :
    decodeIn .scalar [longWord 0x3E f x y z, lit] = (decodeLongScalar f x y z (x * 4096 + y * 64 + z) lit).toOption := by
  have h := longWord_major hf hx hy hz (m := 0x3E) (by omega)
  have h2 : bitsAt (longWord 0x3E f x y z) 0 18 = x * 4096 + y * 64 + z := by simp only [bitsAt, longWord]; omega
  rw [decodeIn_long _ _ (by omega)]
  unfold decodeScalar
  rw [h, longWord_f hf hx hy hz, longWord_x hx hy hz, longWord_y hy hz, longWord_z hz, h2]
  rfl

theorem decode_3f : decodeIn .scalar [longWord 0x3F f x y z, lit] = (decodeLongCommand f x y z lit).toOption := by
  have h := longWord_major hf hx hy hz (m := 0x3F) (by omega)
  rw [decodeIn_long _ _ (by omega)]
  unfold decodeScalar
  rw [h, longWord_f hf hx hy hz, longWord_x hx hy hz, longWord_y hy hz, longWord_z hz]
  rfl

end

/-! ### Fields of literals -/

theorem memFieldsOf_eq {l : Nat} {m : MemFields} (e1 : bitsAt l 24 3 = m.scope.field) (e2 : bitsAt l 19 2 = m.cls.val)
    (e3 : bitsAt l 27 5 = m.code.val) (e4 : bitsAt l 22 2 = m.order.field) (e5 : bitsAt l 21 1 = m.inv.toNat)
    (e6 : BitVec.ofNat 19 l = m.off) : memFieldsOf l = some m := by
  have h7 : bitsAt l 19 2 < 3 := by rw [e2]; exact m.cls.isLt
  have e8 : (⟨bitsAt l 19 2, h7⟩ : Fin 3) = m.cls := Fin.ext e2
  have e9 : (m.inv.toNat == 1) = m.inv := by cases m.inv <;> rfl
  unfold memFieldsOf
  rw [e1, scope_field]
  simp only
  rw [dif_pos h7, e8, e3, e4, e5, e6, e9, order_field, ofNat_val]

theorem memFieldsOf_toWord (m : MemFields) : memFieldsOf m.toWord = some m := by
  have h1 := scope_field_lt m.scope
  have h2 := order_field_lt m.order
  have h3 := m.off.isLt
  have h4 := m.code.isLt
  have h5 := m.cls.isLt
  have hi : (if m.inv then 2 ^ 21 else 0 : Nat) = m.inv.toNat * 2 ^ 21 := by cases m.inv <;> simp
  have hv : m.inv.toNat < 2 := by cases m.inv <;> decide
  refine memFieldsOf_eq ?_ ?_ ?_ ?_ ?_ ?_
  · simp only [bitsAt, MemFields.toWord, hi]; omega
  · simp only [bitsAt, MemFields.toWord, hi]; omega
  · simp only [bitsAt, MemFields.toWord, hi]; omega
  · simp only [bitsAt, MemFields.toWord, hi]; omega
  · simp only [bitsAt, MemFields.toWord, hi]; omega
  · apply BitVec.eq_of_toNat_eq
    simp only [BitVec.toNat_ofNat, MemFields.toWord, hi]; omega

/-! ### Lane words -/

theorem opnd_ofNat_toNat (o : Opnd) : Opnd.ofNat o.toNat = o := by
  cases o with
  | v n => have := n.isLt; simp [Opnd.ofNat, Opnd.toNat]
  | s n =>
    have := n.isLt
    have h : ¬ (128 + n.val < 128) := by omega
    have h2 : 128 + n.val < 192 := by omega
    simp [Opnd.ofNat, Opnd.toNat, h2]
  | rsv n =>
    have := n.isLt
    have h : ¬ (192 + n.val < 128) := by omega
    have h3 : 192 + n.val < 252 := by omega
    simp [Opnd.ofNat, Opnd.toNat, h, h3]
  | l n =>
    have := n.isLt
    have h : ¬ (252 + n.val < 128) := by omega
    have h2 : ¬ (252 + n.val < 192) := by omega
    have h4 : 252 + n.val < 255 := by omega
    simp [Opnd.ofNat, Opnd.toNat, h, h2, h4]
  | lit => rfl

theorem opnd_toNat_lt (o : Opnd) : o.toNat < 256 := by
  cases o with
  | v n => have := n.isLt; simp only [Opnd.toNat]; omega
  | s n => have := n.isLt; simp only [Opnd.toNat]; omega
  | rsv n => have := n.isLt; simp only [Opnd.toNat]; omega
  | l n => have := n.isLt; simp only [Opnd.toNat]; omega
  | lit => decide

theorem predOf_predField (p : Option (Bool × Fin 4)) : predOf (predField p) = some p := by
  cases p with
  | none => rfl
  | some q => obtain ⟨b, n⟩ := q; revert b n; decide

theorem predField_lt (p : Option (Bool × Fin 4)) : predField p < 16 := by
  cases p with
  | none => decide
  | some q => obtain ⟨b, n⟩ := q; revert b n; decide

/-- The fields of a word that has them. -/
theorem laneWordOf_eq {w0 w1 w2 : Nat} {w : LaneWord} (e1 : bitsAt w0 16 8 = w.vd.toNat) (e2 : bitsAt w0 8 8 = w.va.toNat)
    (e3 : bitsAt w0 0 8 = w.vb.toNat) (e4 : bitsAt w1 24 8 = w.vc.toNat) (e5 : bitsAt w1 17 3 = w.hold.val)
    (e6 : bitsAt w1 16 1 = w.p.toNat) (e7 : bitsAt w1 12 4 = w.sub.val) (e8 : bitsAt w1 8 4 = w.mods.val)
    (e9 : bitsAt w1 4 4 = w.ovr.val) (e10 : bitsAt w1 2 2 = w.rnd.val) (e11 : bitsAt w1 1 1 = w.sat.toNat)
    (e12 : BitVec.ofNat 32 w2 = w.w2) : laneWordOf w0 w1 w2 w.pred = w := by
  have p1 : (w.p.toNat == 1) = w.p := by cases w.p <;> rfl
  have p2 : (w.sat.toNat == 1) = w.sat := by cases w.sat <;> rfl
  simp only [laneWordOf, e1, e2, e3, e4, e5, e6, e7, e8, e9, e10, e11, e12, opnd_ofNat_toNat, ofNat_val, p1, p2]

/-- A lane word that has the fields of a legal instruction decodes to it. -/
theorem decodeLane_eq {w0 w1 w2 op : Nat} {w : LaneWord} {c : LaneWord → Instr} (hc : ∀ w, laneInstr op w = some (c w))
    (hl : laneLegal op w = true) (h0 : bitsAt w0 24 8 = op) (hp : bitsAt w1 20 4 = predField w.pred) (hr : bitsAt w1 0 1 = 0)
    (hw : laneWordOf w0 w1 w2 w.pred = w) : decodeIn .lane [w0, w1, w2] = some (c w) := by
  simp only [decodeIn, decodeLane, h0, hp, hr, predOf_predField, hw, hc, hl, and_self, if_true, ok_toOption]

theorem decode_lane (op : Nat) (c : LaneWord → Instr) (hop : op < 256) (hc : ∀ w, laneInstr op w = some (c w)) (w : LaneWord)
    (hl : laneLegal op w = true) : decodeIn .lane (encodeLane op w) = some (c w) := by
  have a1 := opnd_toNat_lt w.vd
  have a2 := opnd_toNat_lt w.va
  have a3 := opnd_toNat_lt w.vb
  have a4 := opnd_toNat_lt w.vc
  have a5 := predField_lt w.pred
  have a6 := w.hold.isLt
  have a7 : w.p.toNat < 2 := by cases w.p <;> decide
  have a8 := w.sub.isLt
  have a9 := w.mods.isLt
  have a10 := w.ovr.isLt
  have a11 := w.rnd.isLt
  have a12 : w.sat.toNat < 2 := by cases w.sat <;> decide
  refine decodeLane_eq hc hl ?_ ?_ ?_ (laneWordOf_eq ?_ ?_ ?_ ?_ ?_ ?_ ?_ ?_ ?_ ?_ ?_ ?_)
  all_goals first
    | (simp only [bitsAt]; omega)
    | (apply BitVec.eq_of_toNat_eq; simp)

/-! ### Xcmd words -/

theorem cxWord_fields (f : Nat) (hf : f < 8) (rd rs1 rs2 : Fin 32) :
    bitsAt (cxWord f rd rs1 rs2) 0 7 = 0x0B ∧ bitsAt (cxWord f rd rs1 rs2) 25 7 = 0 ∧ bitsAt (cxWord f rd rs1 rs2) 12 3 = f ∧
    bitsAt (cxWord f rd rs1 rs2) 7 5 = rd.val ∧ bitsAt (cxWord f rd rs1 rs2) 15 5 = rs1.val ∧
    bitsAt (cxWord f rd rs1 rs2) 20 5 = rs2.val := by
  have h1 := rd.isLt
  have h2 := rs1.isLt
  have h3 := rs2.isLt
  simp only [bitsAt, cxWord]
  omega

theorem decode_cx0 (rd rs1 rs2 : Fin 32) : decodeIn .command [cxWord 0 rd rs1 rs2] = some (.cxRfetch rd rs1 rs2) := by
  obtain ⟨h1, h2, h3, h4, h5, h6⟩ := cxWord_fields 0 (by decide) rd rs1 rs2
  simp only [decodeIn, decodeXcmd, h1, h2, h3, h4, h5, h6, and_self, if_true, ofNat_val]

theorem decode_cx1 (rd rs1 rs2 : Fin 32) : decodeIn .command [cxWord 1 rd rs1 rs2] = some (.cxBfext rd rs1 rs2) := by
  obtain ⟨h1, h2, h3, h4, h5, h6⟩ := cxWord_fields 1 (by decide) rd rs1 rs2
  simp only [decodeIn, decodeXcmd, h1, h2, h3, h4, h5, h6, and_self, if_true, ofNat_val]

theorem decode_cx2 (rd rs1 rs2 : Fin 32) : decodeIn .command [cxWord 2 rd rs1 rs2] = some (.cxSwait rd rs1 rs2) := by
  obtain ⟨h1, h2, h3, h4, h5, h6⟩ := cxWord_fields 2 (by decide) rd rs1 rs2
  simp only [decodeIn, decodeXcmd, h1, h2, h3, h4, h5, h6, and_self, if_true, ofNat_val]

theorem decode_cx3 (rd rs1 rs2 : Fin 32) : decodeIn .command [cxWord 3 rd rs1 rs2] = some (.cxDisp rd rs1 rs2) := by
  obtain ⟨h1, h2, h3, h4, h5, h6⟩ := cxWord_fields 3 (by decide) rd rs1 rs2
  simp only [decodeIn, decodeXcmd, h1, h2, h3, h4, h5, h6, and_self, if_true, ofNat_val]

theorem decode_cx4 (rd rs1 rs2 : Fin 32) : decodeIn .command [cxWord 4 rd rs1 rs2] = some (.cxGuilt rd rs1 rs2) := by
  obtain ⟨h1, h2, h3, h4, h5, h6⟩ := cxWord_fields 4 (by decide) rd rs1 rs2
  simp only [decodeIn, decodeXcmd, h1, h2, h3, h4, h5, h6, and_self, if_true, ofNat_val]

end Sys2Proof
end

