-- ==== Sys2Proof/Laws/PerInstr.lean ====
section
/-! SUPPORT. One lemma for each constructor of Instr and each family of statements about all instructions. -/

namespace Sys2Proof.Laws.RoundTrip

-- one proof after another: elaborated side by side, they all wait for the equations of one decoding function
set_option Elab.async false

/-- The words of a well-formed instruction decode, in its own stream, to that instruction (R63 to R90, R407); a step that no
word encodes has none. -/
def Statement (i : Instr) : Prop :=
  i.wf = true →
    match streamOf i with
    | none => encode i = []
    | some st => decodeIn st (encode i) = some i

/-! ### Scalar words and long forms -/

theorem sadd (sd : SReg) (sa : SReg) (sb : SReg) : Statement (.sadd sd sa sb) := by
  intro h
  refine (decode_alu32 (by omega) (by omega) (by omega) (by omega)).trans ?_
  simp [decodeAlu32]

theorem ssub (sd : SReg) (sa : SReg) (sb : SReg) : Statement (.ssub sd sa sb) := by
  intro h
  refine (decode_alu32 (by omega) (by omega) (by omega) (by omega)).trans ?_
  simp [decodeAlu32]

theorem sand (sd : SReg) (sa : SReg) (sb : SReg) : Statement (.sand sd sa sb) := by
  intro h
  refine (decode_alu32 (by omega) (by omega) (by omega) (by omega)).trans ?_
  simp [decodeAlu32]

theorem sor (sd : SReg) (sa : SReg) (sb : SReg) : Statement (.sor sd sa sb) := by
  intro h
  refine (decode_alu32 (by omega) (by omega) (by omega) (by omega)).trans ?_
  simp [decodeAlu32]

theorem sxor (sd : SReg) (sa : SReg) (sb : SReg) : Statement (.sxor sd sa sb) := by
  intro h
  refine (decode_alu32 (by omega) (by omega) (by omega) (by omega)).trans ?_
  simp [decodeAlu32]

theorem sandn (sd : SReg) (sa : SReg) (sb : SReg) : Statement (.sandn sd sa sb) := by
  intro h
  refine (decode_alu32 (by omega) (by omega) (by omega) (by omega)).trans ?_
  simp [decodeAlu32]

theorem ssll (sd : SReg) (sa : SReg) (sb : SReg) : Statement (.ssll sd sa sb) := by
  intro h
  refine (decode_alu32 (by omega) (by omega) (by omega) (by omega)).trans ?_
  simp [decodeAlu32]

theorem ssrl (sd : SReg) (sa : SReg) (sb : SReg) : Statement (.ssrl sd sa sb) := by
  intro h
  refine (decode_alu32 (by omega) (by omega) (by omega) (by omega)).trans ?_
  simp [decodeAlu32]

theorem ssra (sd : SReg) (sa : SReg) (sb : SReg) : Statement (.ssra sd sa sb) := by
  intro h
  refine (decode_alu32 (by omega) (by omega) (by omega) (by omega)).trans ?_
  simp [decodeAlu32]

theorem smul (sd : SReg) (sa : SReg) (sb : SReg) : Statement (.smul sd sa sb) := by
  intro h
  refine (decode_alu32 (by omega) (by omega) (by omega) (by omega)).trans ?_
  simp [decodeAlu32]

theorem smulh (sd : SReg) (sa : SReg) (sb : SReg) : Statement (.smulh sd sa sb) := by
  intro h
  refine (decode_alu32 (by omega) (by omega) (by omega) (by omega)).trans ?_
  simp [decodeAlu32]

theorem smulhu (sd : SReg) (sa : SReg) (sb : SReg) : Statement (.smulhu sd sa sb) := by
  intro h
  refine (decode_alu32 (by omega) (by omega) (by omega) (by omega)).trans ?_
  simp [decodeAlu32]

theorem sdiv (sd : SReg) (sa : SReg) (sb : SReg) : Statement (.sdiv sd sa sb) := by
  intro h
  refine (decode_alu32 (by omega) (by omega) (by omega) (by omega)).trans ?_
  simp [decodeAlu32]

theorem sdivu (sd : SReg) (sa : SReg) (sb : SReg) : Statement (.sdivu sd sa sb) := by
  intro h
  refine (decode_alu32 (by omega) (by omega) (by omega) (by omega)).trans ?_
  simp [decodeAlu32]

theorem srem (sd : SReg) (sa : SReg) (sb : SReg) : Statement (.srem sd sa sb) := by
  intro h
  refine (decode_alu32 (by omega) (by omega) (by omega) (by omega)).trans ?_
  simp [decodeAlu32]

theorem sremu (sd : SReg) (sa : SReg) (sb : SReg) : Statement (.sremu sd sa sb) := by
  intro h
  refine (decode_alu32 (by omega) (by omega) (by omega) (by omega)).trans ?_
  simp [decodeAlu32]

theorem smin (sd : SReg) (sa : SReg) (sb : SReg) : Statement (.smin sd sa sb) := by
  intro h
  refine (decode_alu32 (by omega) (by omega) (by omega) (by omega)).trans ?_
  simp [decodeAlu32]

theorem smax (sd : SReg) (sa : SReg) (sb : SReg) : Statement (.smax sd sa sb) := by
  intro h
  refine (decode_alu32 (by omega) (by omega) (by omega) (by omega)).trans ?_
  simp [decodeAlu32]

theorem sminu (sd : SReg) (sa : SReg) (sb : SReg) : Statement (.sminu sd sa sb) := by
  intro h
  refine (decode_alu32 (by omega) (by omega) (by omega) (by omega)).trans ?_
  simp [decodeAlu32]

theorem smaxu (sd : SReg) (sa : SReg) (sb : SReg) : Statement (.smaxu sd sa sb) := by
  intro h
  refine (decode_alu32 (by omega) (by omega) (by omega) (by omega)).trans ?_
  simp [decodeAlu32]

theorem sclz (sd : SReg) (sa : SReg) : Statement (.sclz sd sa) := by
  intro h
  refine (decode_alu32 (by omega) (by omega) (by omega) (by omega)).trans ?_
  simp [decodeAlu32, reservedUnless]

theorem spop (sd : SReg) (sa : SReg) : Statement (.spop sd sa) := by
  intro h
  refine (decode_alu32 (by omega) (by omega) (by omega) (by omega)).trans ?_
  simp [decodeAlu32, reservedUnless]

theorem sbrev (sd : SReg) (sa : SReg) : Statement (.sbrev sd sa) := by
  intro h
  refine (decode_alu32 (by omega) (by omega) (by omega) (by omega)).trans ?_
  simp [decodeAlu32, reservedUnless]

theorem sctz (sd : SReg) (sa : SReg) : Statement (.sctz sd sa) := by
  intro h
  refine (decode_alu32 (by omega) (by omega) (by omega) (by omega)).trans ?_
  simp [decodeAlu32, reservedUnless]

theorem saddD (pd : Pair) (pa : Pair) (pb : Pair) : Statement (.saddD pd pa pb) := by
  intro h
  refine (decode_alu64 (by omega) (by omega) (by omega) (by omega)).trans ?_
  simp [decodeAlu64, evenOnly]

theorem ssubD (pd : Pair) (pa : Pair) (pb : Pair) : Statement (.ssubD pd pa pb) := by
  intro h
  refine (decode_alu64 (by omega) (by omega) (by omega) (by omega)).trans ?_
  simp [decodeAlu64, evenOnly]

theorem sandD (pd : Pair) (pa : Pair) (pb : Pair) : Statement (.sandD pd pa pb) := by
  intro h
  refine (decode_alu64 (by omega) (by omega) (by omega) (by omega)).trans ?_
  simp [decodeAlu64, evenOnly]

theorem sorD (pd : Pair) (pa : Pair) (pb : Pair) : Statement (.sorD pd pa pb) := by
  intro h
  refine (decode_alu64 (by omega) (by omega) (by omega) (by omega)).trans ?_
  simp [decodeAlu64, evenOnly]

theorem sxorD (pd : Pair) (pa : Pair) (pb : Pair) : Statement (.sxorD pd pa pb) := by
  intro h
  refine (decode_alu64 (by omega) (by omega) (by omega) (by omega)).trans ?_
  simp [decodeAlu64, evenOnly]

theorem sandnD (pd : Pair) (pa : Pair) (pb : Pair) : Statement (.sandnD pd pa pb) := by
  intro h
  refine (decode_alu64 (by omega) (by omega) (by omega) (by omega)).trans ?_
  simp [decodeAlu64, evenOnly]

theorem ssllD (pd : Pair) (pa : Pair) (pb : Pair) : Statement (.ssllD pd pa pb) := by
  intro h
  refine (decode_alu64 (by omega) (by omega) (by omega) (by omega)).trans ?_
  simp [decodeAlu64, evenOnly]

theorem ssrlD (pd : Pair) (pa : Pair) (pb : Pair) : Statement (.ssrlD pd pa pb) := by
  intro h
  refine (decode_alu64 (by omega) (by omega) (by omega) (by omega)).trans ?_
  simp [decodeAlu64, evenOnly]

theorem ssraD (pd : Pair) (pa : Pair) (pb : Pair) : Statement (.ssraD pd pa pb) := by
  intro h
  refine (decode_alu64 (by omega) (by omega) (by omega) (by omega)).trans ?_
  simp [decodeAlu64, evenOnly]

theorem smulD (pd : Pair) (pa : Pair) (pb : Pair) : Statement (.smulD pd pa pb) := by
  intro h
  refine (decode_alu64 (by omega) (by omega) (by omega) (by omega)).trans ?_
  simp [decodeAlu64, evenOnly]

theorem smulhD (pd : Pair) (pa : Pair) (pb : Pair) : Statement (.smulhD pd pa pb) := by
  intro h
  refine (decode_alu64 (by omega) (by omega) (by omega) (by omega)).trans ?_
  simp [decodeAlu64, evenOnly]

theorem smulhuD (pd : Pair) (pa : Pair) (pb : Pair) : Statement (.smulhuD pd pa pb) := by
  intro h
  refine (decode_alu64 (by omega) (by omega) (by omega) (by omega)).trans ?_
  simp [decodeAlu64, evenOnly]

theorem sdivD (pd : Pair) (pa : Pair) (pb : Pair) : Statement (.sdivD pd pa pb) := by
  intro h
  refine (decode_alu64 (by omega) (by omega) (by omega) (by omega)).trans ?_
  simp [decodeAlu64, evenOnly]

theorem sdivuD (pd : Pair) (pa : Pair) (pb : Pair) : Statement (.sdivuD pd pa pb) := by
  intro h
  refine (decode_alu64 (by omega) (by omega) (by omega) (by omega)).trans ?_
  simp [decodeAlu64, evenOnly]

theorem sremD (pd : Pair) (pa : Pair) (pb : Pair) : Statement (.sremD pd pa pb) := by
  intro h
  refine (decode_alu64 (by omega) (by omega) (by omega) (by omega)).trans ?_
  simp [decodeAlu64, evenOnly]

theorem sremuD (pd : Pair) (pa : Pair) (pb : Pair) : Statement (.sremuD pd pa pb) := by
  intro h
  refine (decode_alu64 (by omega) (by omega) (by omega) (by omega)).trans ?_
  simp [decodeAlu64, evenOnly]

theorem sminD (pd : Pair) (pa : Pair) (pb : Pair) : Statement (.sminD pd pa pb) := by
  intro h
  refine (decode_alu64 (by omega) (by omega) (by omega) (by omega)).trans ?_
  simp [decodeAlu64, evenOnly]

theorem smaxD (pd : Pair) (pa : Pair) (pb : Pair) : Statement (.smaxD pd pa pb) := by
  intro h
  refine (decode_alu64 (by omega) (by omega) (by omega) (by omega)).trans ?_
  simp [decodeAlu64, evenOnly]

theorem sminuD (pd : Pair) (pa : Pair) (pb : Pair) : Statement (.sminuD pd pa pb) := by
  intro h
  refine (decode_alu64 (by omega) (by omega) (by omega) (by omega)).trans ?_
  simp [decodeAlu64, evenOnly]

theorem smaxuD (pd : Pair) (pa : Pair) (pb : Pair) : Statement (.smaxuD pd pa pb) := by
  intro h
  refine (decode_alu64 (by omega) (by omega) (by omega) (by omega)).trans ?_
  simp [decodeAlu64, evenOnly]

theorem sclzD (pd : Pair) (pa : Pair) : Statement (.sclzD pd pa) := by
  intro h
  refine (decode_alu64 (by omega) (by omega) (by omega) (by omega)).trans ?_
  simp [decodeAlu64, reservedUnless, evenOnly]

theorem spopD (pd : Pair) (pa : Pair) : Statement (.spopD pd pa) := by
  intro h
  refine (decode_alu64 (by omega) (by omega) (by omega) (by omega)).trans ?_
  simp [decodeAlu64, reservedUnless, evenOnly]

theorem sbrevD (pd : Pair) (pa : Pair) : Statement (.sbrevD pd pa) := by
  intro h
  refine (decode_alu64 (by omega) (by omega) (by omega) (by omega)).trans ?_
  simp [decodeAlu64, reservedUnless, evenOnly]

theorem sctzD (pd : Pair) (pa : Pair) : Statement (.sctzD pd pa) := by
  intro h
  refine (decode_alu64 (by omega) (by omega) (by omega) (by omega)).trans ?_
  simp [decodeAlu64, reservedUnless, evenOnly]

theorem spark : Statement (.spark) := by
  intro h
  refine (decode_control (by omega) (by omega) (by omega) (by omega)).trans ?_
  simp [decodeControl, reservedUnless]

theorem sexit : Statement (.sexit) := by
  intro h
  refine (decode_control (by omega) (by omega) (by omega) (by omega)).trans ?_
  simp [decodeControl, reservedUnless]

theorem sjoin : Statement (.sjoin) := by
  intro h
  refine (decode_control (by omega) (by omega) (by omega) (by omega)).trans ?_
  simp [decodeControl, reservedUnless]

theorem sret (pa : Pair) : Statement (.sret pa) := by
  intro h
  refine (decode_control (by omega) (by omega) (by omega) (by omega)).trans ?_
  simp [decodeControl, reservedUnless, evenOnly]

theorem scalli (pd : Pair) (pa : Pair) : Statement (.scalli pd pa) := by
  intro h
  refine (decode_control (by omega) (by omega) (by omega) (by omega)).trans ?_
  simp [decodeControl, reservedUnless, evenOnly]

theorem swid (sd : SReg) (k : Fin 6) : Statement (.swid sd k) := by
  intro h
  refine (decode_control (by omega) (by omega) (by omega) (by omega)).trans ?_
  simp [decodeControl, reservedUnless]

theorem sexecSet (n : Fin 4) : Statement (.sexecSet n) := by
  intro h
  refine (decode_control (by omega) (by omega) (by omega) (by omega)).trans ?_
  simp [decodeControl, reservedUnless]

theorem sexecAnd (n : Fin 4) : Statement (.sexecAnd n) := by
  intro h
  refine (decode_control (by omega) (by omega) (by omega) (by omega)).trans ?_
  simp [decodeControl, reservedUnless]

theorem sexecAndn (n : Fin 4) : Statement (.sexecAndn n) := by
  intro h
  refine (decode_control (by omega) (by omega) (by omega) (by omega)).trans ?_
  simp [decodeControl, reservedUnless]

theorem sxgetF32 (sd : SReg) (n : Fin 2) : Statement (.sxgetF32 sd n) := by
  intro h
  refine (decode_control (by omega) (by omega) (by omega) (by omega)).trans ?_
  simp [decodeControl, reservedUnless, Nat.le_of_lt_succ n.isLt]

theorem sxgetI32 (sd : SReg) (n : Fin 2) : Statement (.sxgetI32 sd n) := by
  intro h
  refine (decode_control (by omega) (by omega) (by omega) (by omega)).trans ?_
  simp [decodeControl, reservedUnless, Nat.le_of_lt_succ n.isLt]

theorem supwait (pa : Pair) : Statement (.supwait pa) := by
  intro h
  refine (decode_control (by omega) (by omega) (by omega) (by omega)).trans ?_
  simp [decodeControl, reservedUnless, evenOnly]

theorem sgetr (pd : Pair) (k : Fin 8) : Statement (.sgetr pd k) := by
  intro h
  refine (decode_control (by omega) (by omega) (by omega) (by omega)).trans ?_
  simp [decodeControl, reservedUnless, evenOnly]

theorem sbar : Statement (.sbar) := by
  intro h
  refine (decode_barrier (by omega) (by omega) (by omega) (by omega)).trans ?_
  simp [decodeBarrier, reservedUnless]

theorem sbinit (sa : SReg) (sb : SReg) : Statement (.sbinit sa sb) := by
  intro h
  refine (decode_barrier (by omega) (by omega) (by omega) (by omega)).trans ?_
  simp [decodeBarrier, reservedUnless]

theorem sbarrive (sa : SReg) : Statement (.sbarrive sa) := by
  intro h
  refine (decode_barrier (by omega) (by omega) (by omega) (by omega)).trans ?_
  simp [decodeBarrier, reservedUnless]

theorem sbwait (sa : SReg) : Statement (.sbwait sa) := by
  intro h
  refine (decode_barrier (by omega) (by omega) (by omega) (by omega)).trans ?_
  simp [decodeBarrier, reservedUnless]

theorem sbfree (sa : SReg) : Statement (.sbfree sa) := by
  intro h
  refine (decode_barrier (by omega) (by omega) (by omega) (by omega)).trans ?_
  simp [decodeBarrier, reservedUnless]

theorem gfenceRt : Statement (.gfenceRt) := by
  intro h
  refine (decode_barrier (by omega) (by omega) (by omega) (by omega)).trans ?_
  simp [decodeBarrier, reservedUnless]

theorem saddi (sd : SReg) (sa : SReg) (imm : BitVec 14) : Statement (.saddi sd sa imm) := by
  intro h
  have hm := siWord_major (m := 0x08) (d := sd.val) (a := sa.val) (i := imm.toNat) (by omega) (by omega) (by omega) (by omega)
  refine (decodeIn_short _ (by omega)).trans ?_
  unfold decodeScalar
  rw [hm, siWord_d (by omega) (by omega) (by omega), siWord_a (by omega) (by omega), siWord_imm]
  simp

theorem sandi (sd : SReg) (sa : SReg) (imm : BitVec 14) : Statement (.sandi sd sa imm) := by
  intro h
  have hm := siWord_major (m := 0x09) (d := sd.val) (a := sa.val) (i := imm.toNat) (by omega) (by omega) (by omega) (by omega)
  refine (decodeIn_short _ (by omega)).trans ?_
  unfold decodeScalar
  rw [hm, siWord_d (by omega) (by omega) (by omega), siWord_a (by omega) (by omega), siWord_imm]
  simp

theorem sori (sd : SReg) (sa : SReg) (imm : BitVec 14) : Statement (.sori sd sa imm) := by
  intro h
  have hm := siWord_major (m := 0x0A) (d := sd.val) (a := sa.val) (i := imm.toNat) (by omega) (by omega) (by omega) (by omega)
  refine (decodeIn_short _ (by omega)).trans ?_
  unfold decodeScalar
  rw [hm, siWord_d (by omega) (by omega) (by omega), siWord_a (by omega) (by omega), siWord_imm]
  simp

theorem sxori (sd : SReg) (sa : SReg) (imm : BitVec 14) : Statement (.sxori sd sa imm) := by
  intro h
  have hm := siWord_major (m := 0x0B) (d := sd.val) (a := sa.val) (i := imm.toNat) (by omega) (by omega) (by omega) (by omega)
  refine (decodeIn_short _ (by omega)).trans ?_
  unfold decodeScalar
  rw [hm, siWord_d (by omega) (by omega) (by omega), siWord_a (by omega) (by omega), siWord_imm]
  simp

theorem saddiD (pd : Pair) (pa : Pair) (imm : BitVec 14) : Statement (.saddiD pd pa imm) := by
  intro h
  have hm := siWord_major (m := 0x10) (d := (2 * pd.val)) (a := (2 * pa.val)) (i := imm.toNat) (by omega) (by omega) (by omega) (by omega)
  refine (decodeIn_short _ (by omega)).trans ?_
  unfold decodeScalar
  rw [hm, siWord_d (by omega) (by omega) (by omega), siWord_a (by omega) (by omega), siWord_imm]
  simp [evenOnly]

theorem stick (sa : SReg) (imm : BitVec 14) : Statement (.stick sa imm) := by
  intro h
  have hm := siWord_major (m := 0x12) (d := 0) (a := sa.val) (i := imm.toNat) (by omega) (by omega) (by omega) (by omega)
  refine (decodeIn_short _ (by omega)).trans ?_
  unfold decodeScalar
  rw [hm, siWord_d (by omega) (by omega) (by omega), siWord_a (by omega) (by omega), siWord_imm]
  simp [reservedUnless]

theorem sbeq (sa : SReg) (sb : SReg) (off : BitVec 14) : Statement (.sbeq sa sb off) := by
  intro h
  have hm := siWord_major (m := 0x18) (d := sa.val) (a := sb.val) (i := off.toNat) (by omega) (by omega) (by omega) (by omega)
  refine (decodeIn_short _ (by omega)).trans ?_
  unfold decodeScalar
  rw [hm, siWord_d (by omega) (by omega) (by omega), siWord_a (by omega) (by omega), siWord_imm]
  simp

theorem sbne (sa : SReg) (sb : SReg) (off : BitVec 14) : Statement (.sbne sa sb off) := by
  intro h
  have hm := siWord_major (m := 0x19) (d := sa.val) (a := sb.val) (i := off.toNat) (by omega) (by omega) (by omega) (by omega)
  refine (decodeIn_short _ (by omega)).trans ?_
  unfold decodeScalar
  rw [hm, siWord_d (by omega) (by omega) (by omega), siWord_a (by omega) (by omega), siWord_imm]
  simp

theorem sblt (sa : SReg) (sb : SReg) (off : BitVec 14) : Statement (.sblt sa sb off) := by
  intro h
  have hm := siWord_major (m := 0x1a) (d := sa.val) (a := sb.val) (i := off.toNat) (by omega) (by omega) (by omega) (by omega)
  refine (decodeIn_short _ (by omega)).trans ?_
  unfold decodeScalar
  rw [hm, siWord_d (by omega) (by omega) (by omega), siWord_a (by omega) (by omega), siWord_imm]
  simp

theorem sbge (sa : SReg) (sb : SReg) (off : BitVec 14) : Statement (.sbge sa sb off) := by
  intro h
  have hm := siWord_major (m := 0x1b) (d := sa.val) (a := sb.val) (i := off.toNat) (by omega) (by omega) (by omega) (by omega)
  refine (decodeIn_short _ (by omega)).trans ?_
  unfold decodeScalar
  rw [hm, siWord_d (by omega) (by omega) (by omega), siWord_a (by omega) (by omega), siWord_imm]
  simp

theorem sbltu (sa : SReg) (sb : SReg) (off : BitVec 14) : Statement (.sbltu sa sb off) := by
  intro h
  have hm := siWord_major (m := 0x1c) (d := sa.val) (a := sb.val) (i := off.toNat) (by omega) (by omega) (by omega) (by omega)
  refine (decodeIn_short _ (by omega)).trans ?_
  unfold decodeScalar
  rw [hm, siWord_d (by omega) (by omega) (by omega), siWord_a (by omega) (by omega), siWord_imm]
  simp

theorem sbgeu (sa : SReg) (sb : SReg) (off : BitVec 14) : Statement (.sbgeu sa sb off) := by
  intro h
  have hm := siWord_major (m := 0x1d) (d := sa.val) (a := sb.val) (i := off.toNat) (by omega) (by omega) (by omega) (by omega)
  refine (decodeIn_short _ (by omega)).trans ?_
  unfold decodeScalar
  rw [hm, siWord_d (by omega) (by omega) (by omega), siWord_a (by omega) (by omega), siWord_imm]
  simp

theorem sli (sd : SReg) (imm : Word) : Statement (.sli sd imm) := by
  intro h
  refine (decode_3e (by omega) (by omega) (by omega) (by omega)).trans ?_
  simp [decodeLongScalar, reservedUnless]

theorem sldW (sd : SReg) (base : Pair) (si : SReg) (m : MemFields) : Statement (.sldW sd base si m) := by
  intro h
  refine (decode_3e (by omega) (by omega) (by omega) (by omega)).trans ?_
  simp only [Instr.wf] at h
  simp [decodeLongScalar, reservedUnless, memFieldsOf_toWord, scalarMemKind, h, decodeScalarMem, evenOnly]

theorem sldD (pd : Pair) (base : Pair) (si : SReg) (m : MemFields) : Statement (.sldD pd base si m) := by
  intro h
  refine (decode_3e (by omega) (by omega) (by omega) (by omega)).trans ?_
  simp only [Instr.wf] at h
  simp [decodeLongScalar, reservedUnless, memFieldsOf_toWord, scalarMemKind, h, decodeScalarMem, evenOnly]

theorem sstW (sd : SReg) (base : Pair) (si : SReg) (m : MemFields) : Statement (.sstW sd base si m) := by
  intro h
  refine (decode_3e (by omega) (by omega) (by omega) (by omega)).trans ?_
  simp only [Instr.wf] at h
  simp [decodeLongScalar, reservedUnless, memFieldsOf_toWord, scalarMemKind, h, decodeScalarMem, evenOnly]

theorem sstD (pd : Pair) (base : Pair) (si : SReg) (m : MemFields) : Statement (.sstD pd base si m) := by
  intro h
  refine (decode_3e (by omega) (by omega) (by omega) (by omega)).trans ?_
  simp only [Instr.wf] at h
  simp [decodeLongScalar, reservedUnless, memFieldsOf_toWord, scalarMemKind, h, decodeScalarMem, evenOnly]

theorem sldB (sd : SReg) (base : Pair) (si : SReg) (m : MemFields) : Statement (.sldB sd base si m) := by
  intro h
  refine (decode_3e (by omega) (by omega) (by omega) (by omega)).trans ?_
  simp only [Instr.wf] at h
  simp [decodeLongScalar, reservedUnless, memFieldsOf_toWord, scalarMemKind, h, decodeScalarMem, evenOnly]

theorem sldBu (sd : SReg) (base : Pair) (si : SReg) (m : MemFields) : Statement (.sldBu sd base si m) := by
  intro h
  refine (decode_3e (by omega) (by omega) (by omega) (by omega)).trans ?_
  simp only [Instr.wf] at h
  simp [decodeLongScalar, reservedUnless, memFieldsOf_toWord, scalarMemKind, h, decodeScalarMem, evenOnly]

theorem sldH (sd : SReg) (base : Pair) (si : SReg) (m : MemFields) : Statement (.sldH sd base si m) := by
  intro h
  refine (decode_3e (by omega) (by omega) (by omega) (by omega)).trans ?_
  simp only [Instr.wf] at h
  simp [decodeLongScalar, reservedUnless, memFieldsOf_toWord, scalarMemKind, h, decodeScalarMem, evenOnly]

theorem sldHu (sd : SReg) (base : Pair) (si : SReg) (m : MemFields) : Statement (.sldHu sd base si m) := by
  intro h
  refine (decode_3e (by omega) (by omega) (by omega) (by omega)).trans ?_
  simp only [Instr.wf] at h
  simp [decodeLongScalar, reservedUnless, memFieldsOf_toWord, scalarMemKind, h, decodeScalarMem, evenOnly]

theorem sstB (sd : SReg) (base : Pair) (si : SReg) (m : MemFields) : Statement (.sstB sd base si m) := by
  intro h
  refine (decode_3e (by omega) (by omega) (by omega) (by omega)).trans ?_
  simp only [Instr.wf] at h
  simp [decodeLongScalar, reservedUnless, memFieldsOf_toWord, scalarMemKind, h, decodeScalarMem, evenOnly]

theorem sstH (sd : SReg) (base : Pair) (si : SReg) (m : MemFields) : Statement (.sstH sd base si m) := by
  intro h
  refine (decode_3e (by omega) (by omega) (by omega) (by omega)).trans ?_
  simp only [Instr.wf] at h
  simp [decodeLongScalar, reservedUnless, memFieldsOf_toWord, scalarMemKind, h, decodeScalarMem, evenOnly]

theorem satomAddW (sd : SReg) (base : Pair) (si : SReg) (m : MemFields) : Statement (.satomAddW sd base si m) := by
  intro h
  refine (decode_3e (by omega) (by omega) (by omega) (by omega)).trans ?_
  simp only [Instr.wf] at h
  simp [decodeLongScalar, reservedUnless, memFieldsOf_toWord, scalarMemKind, h, decodeScalarMem, evenOnly, decodeAtomW]

theorem satomAndW (sd : SReg) (base : Pair) (si : SReg) (m : MemFields) : Statement (.satomAndW sd base si m) := by
  intro h
  refine (decode_3e (by omega) (by omega) (by omega) (by omega)).trans ?_
  simp only [Instr.wf] at h
  simp [decodeLongScalar, reservedUnless, memFieldsOf_toWord, scalarMemKind, h, decodeScalarMem, evenOnly, decodeAtomW]

theorem satomOrW (sd : SReg) (base : Pair) (si : SReg) (m : MemFields) : Statement (.satomOrW sd base si m) := by
  intro h
  refine (decode_3e (by omega) (by omega) (by omega) (by omega)).trans ?_
  simp only [Instr.wf] at h
  simp [decodeLongScalar, reservedUnless, memFieldsOf_toWord, scalarMemKind, h, decodeScalarMem, evenOnly, decodeAtomW]

theorem satomXorW (sd : SReg) (base : Pair) (si : SReg) (m : MemFields) : Statement (.satomXorW sd base si m) := by
  intro h
  refine (decode_3e (by omega) (by omega) (by omega) (by omega)).trans ?_
  simp only [Instr.wf] at h
  simp [decodeLongScalar, reservedUnless, memFieldsOf_toWord, scalarMemKind, h, decodeScalarMem, evenOnly, decodeAtomW]

theorem satomMinW (sd : SReg) (base : Pair) (si : SReg) (m : MemFields) : Statement (.satomMinW sd base si m) := by
  intro h
  refine (decode_3e (by omega) (by omega) (by omega) (by omega)).trans ?_
  simp only [Instr.wf] at h
  simp [decodeLongScalar, reservedUnless, memFieldsOf_toWord, scalarMemKind, h, decodeScalarMem, evenOnly, decodeAtomW]

theorem satomMaxW (sd : SReg) (base : Pair) (si : SReg) (m : MemFields) : Statement (.satomMaxW sd base si m) := by
  intro h
  refine (decode_3e (by omega) (by omega) (by omega) (by omega)).trans ?_
  simp only [Instr.wf] at h
  simp [decodeLongScalar, reservedUnless, memFieldsOf_toWord, scalarMemKind, h, decodeScalarMem, evenOnly, decodeAtomW]

theorem satomMinuW (sd : SReg) (base : Pair) (si : SReg) (m : MemFields) : Statement (.satomMinuW sd base si m) := by
  intro h
  refine (decode_3e (by omega) (by omega) (by omega) (by omega)).trans ?_
  simp only [Instr.wf] at h
  simp [decodeLongScalar, reservedUnless, memFieldsOf_toWord, scalarMemKind, h, decodeScalarMem, evenOnly, decodeAtomW]

theorem satomMaxuW (sd : SReg) (base : Pair) (si : SReg) (m : MemFields) : Statement (.satomMaxuW sd base si m) := by
  intro h
  refine (decode_3e (by omega) (by omega) (by omega) (by omega)).trans ?_
  simp only [Instr.wf] at h
  simp [decodeLongScalar, reservedUnless, memFieldsOf_toWord, scalarMemKind, h, decodeScalarMem, evenOnly, decodeAtomW]

theorem satomXchgW (sd : SReg) (base : Pair) (si : SReg) (m : MemFields) : Statement (.satomXchgW sd base si m) := by
  intro h
  refine (decode_3e (by omega) (by omega) (by omega) (by omega)).trans ?_
  simp only [Instr.wf] at h
  simp [decodeLongScalar, reservedUnless, memFieldsOf_toWord, scalarMemKind, h, decodeScalarMem, evenOnly, decodeAtomW]

theorem satomCasW (sd : SReg) (base : Pair) (q : Pair) (m : MemFields) : Statement (.satomCasW sd base q m) := by
  intro h
  refine (decode_3e (by omega) (by omega) (by omega) (by omega)).trans ?_
  simp only [Instr.wf] at h
  simp [decodeLongScalar, reservedUnless, memFieldsOf_toWord, scalarMemKind, h, decodeScalarMem, evenOnly, decodeAtomW]

theorem satomFaddW (sd : SReg) (base : Pair) (si : SReg) (m : MemFields) : Statement (.satomFaddW sd base si m) := by
  intro h
  refine (decode_3e (by omega) (by omega) (by omega) (by omega)).trans ?_
  simp only [Instr.wf] at h
  simp [decodeLongScalar, reservedUnless, memFieldsOf_toWord, scalarMemKind, h, decodeScalarMem, evenOnly, decodeAtomW]

theorem satomAddD (pd : Pair) (base : Pair) (si : SReg) (m : MemFields) : Statement (.satomAddD pd base si m) := by
  intro h
  refine (decode_3e (by omega) (by omega) (by omega) (by omega)).trans ?_
  simp only [Instr.wf] at h
  simp [decodeLongScalar, reservedUnless, memFieldsOf_toWord, scalarMemKind, h, decodeScalarMem, evenOnly, decodeAtomD]

theorem satomAndD (pd : Pair) (base : Pair) (si : SReg) (m : MemFields) : Statement (.satomAndD pd base si m) := by
  intro h
  refine (decode_3e (by omega) (by omega) (by omega) (by omega)).trans ?_
  simp only [Instr.wf] at h
  simp [decodeLongScalar, reservedUnless, memFieldsOf_toWord, scalarMemKind, h, decodeScalarMem, evenOnly, decodeAtomD]

theorem satomOrD (pd : Pair) (base : Pair) (si : SReg) (m : MemFields) : Statement (.satomOrD pd base si m) := by
  intro h
  refine (decode_3e (by omega) (by omega) (by omega) (by omega)).trans ?_
  simp only [Instr.wf] at h
  simp [decodeLongScalar, reservedUnless, memFieldsOf_toWord, scalarMemKind, h, decodeScalarMem, evenOnly, decodeAtomD]

theorem satomXorD (pd : Pair) (base : Pair) (si : SReg) (m : MemFields) : Statement (.satomXorD pd base si m) := by
  intro h
  refine (decode_3e (by omega) (by omega) (by omega) (by omega)).trans ?_
  simp only [Instr.wf] at h
  simp [decodeLongScalar, reservedUnless, memFieldsOf_toWord, scalarMemKind, h, decodeScalarMem, evenOnly, decodeAtomD]

theorem satomMinD (pd : Pair) (base : Pair) (si : SReg) (m : MemFields) : Statement (.satomMinD pd base si m) := by
  intro h
  refine (decode_3e (by omega) (by omega) (by omega) (by omega)).trans ?_
  simp only [Instr.wf] at h
  simp [decodeLongScalar, reservedUnless, memFieldsOf_toWord, scalarMemKind, h, decodeScalarMem, evenOnly, decodeAtomD]

theorem satomMaxD (pd : Pair) (base : Pair) (si : SReg) (m : MemFields) : Statement (.satomMaxD pd base si m) := by
  intro h
  refine (decode_3e (by omega) (by omega) (by omega) (by omega)).trans ?_
  simp only [Instr.wf] at h
  simp [decodeLongScalar, reservedUnless, memFieldsOf_toWord, scalarMemKind, h, decodeScalarMem, evenOnly, decodeAtomD]

theorem satomMinuD (pd : Pair) (base : Pair) (si : SReg) (m : MemFields) : Statement (.satomMinuD pd base si m) := by
  intro h
  refine (decode_3e (by omega) (by omega) (by omega) (by omega)).trans ?_
  simp only [Instr.wf] at h
  simp [decodeLongScalar, reservedUnless, memFieldsOf_toWord, scalarMemKind, h, decodeScalarMem, evenOnly, decodeAtomD]

theorem satomMaxuD (pd : Pair) (base : Pair) (si : SReg) (m : MemFields) : Statement (.satomMaxuD pd base si m) := by
  intro h
  refine (decode_3e (by omega) (by omega) (by omega) (by omega)).trans ?_
  simp only [Instr.wf] at h
  simp [decodeLongScalar, reservedUnless, memFieldsOf_toWord, scalarMemKind, h, decodeScalarMem, evenOnly, decodeAtomD]

theorem satomXchgD (pd : Pair) (base : Pair) (si : SReg) (m : MemFields) : Statement (.satomXchgD pd base si m) := by
  intro h
  refine (decode_3e (by omega) (by omega) (by omega) (by omega)).trans ?_
  simp only [Instr.wf] at h
  simp [decodeLongScalar, reservedUnless, memFieldsOf_toWord, scalarMemKind, h, decodeScalarMem, evenOnly, decodeAtomD]

theorem satomCasD (pd : Pair) (base : Pair) (q : Fin 16) (m : MemFields) : Statement (.satomCasD pd base q m) := by
  intro h
  refine (decode_3e (by omega) (by omega) (by omega) (by omega)).trans ?_
  simp only [Instr.wf] at h
  simp [decodeLongScalar, reservedUnless, memFieldsOf_toWord, scalarMemKind, h, decodeScalarMem, evenOnly, decodeAtomD]

theorem satomFaddD (pd : Pair) (base : Pair) (si : SReg) (m : MemFields) : Statement (.satomFaddD pd base si m) := by
  intro h
  refine (decode_3e (by omega) (by omega) (by omega) (by omega)).trans ?_
  simp only [Instr.wf] at h
  simp [decodeLongScalar, reservedUnless, memFieldsOf_toWord, scalarMemKind, h, decodeScalarMem, evenOnly, decodeAtomD]

theorem mzero (count : Fin 64) (t : Fin 64) : Statement (.mzero count t) := by
  intro h
  refine (decode_3f (by omega) (by omega) (by omega) (by omega)).trans ?_
  simp [decodeLongCommand, reservedUnless]

theorem xseal (sd : SReg) : Statement (.xseal sd) := by
  intro h
  refine (decode_3f (by omega) (by omega) (by omega) (by omega)).trans ?_
  simp [decodeLongCommand, reservedUnless]

theorem xwait (n : Fin 16) : Statement (.xwait n) := by
  intro h
  refine (decode_3f (by omega) (by omega) (by omega) (by omega)).trans ?_
  simp [decodeLongCommand, reservedUnless]

theorem scc (c : Cond) (sd : SReg) (sa : SReg) (sb : SReg) : Statement (.scc c sd sa sb) := by
  intro _
  have h := cond_field_lt c
  refine (decode_compare (by omega) (by omega) (by omega) (by omega)).trans ?_
  have e1 : c.field % 16 = c.field := by omega
  have e2 : c.field / 16 = 0 := by omega
  simp [decodeCompare, e1, e2]

theorem sccD (c : Cond) (sd : SReg) (pa : Pair) (pb : Pair) : Statement (.sccD c sd pa pb) := by
  intro _
  have h := cond_field_lt c
  refine (decode_compare (by omega) (by omega) (by omega) (by omega)).trans ?_
  have e1 : (16 + c.field) % 16 = c.field := by omega
  have e2 : (16 + c.field) / 16 = 1 := by omega
  simp only [decodeCompare, e1, e2, cond_field]
  simp [reservedUnless, evenOnly]

theorem sgetsr (sd : SReg) (r : SpecialReg) : Statement (.sgetsr sd r) := by
  intro h
  have hb := specialReg_field_lt r
  refine (decode_control (by omega) (by omega) (by omega) (by omega)).trans ?_
  simp only [Instr.wf, Bool.or_eq_true, decide_eq_true_eq, beq_iff_eq] at h
  by_cases hr : r = .cyc
  · have : sd.val % 2 = 0 := by rcases h with h | h; exact absurd hr h; exact h
    subst hr
    simp [decodeControl, reservedUnless, evenOnly, this]
  · simp [decodeControl, reservedUnless, evenOnly, hr]

theorem ssetsr (r : SpecialReg) (sa : SReg) : Statement (.ssetsr r sa) := by
  intro _
  have hb := specialReg_field_lt r
  refine (decode_control (by omega) (by omega) (by omega) (by omega)).trans ?_
  simp [decodeControl, reservedUnless]

theorem sgetc (sd : SReg) (n : Fin 4) (beat : Fin 3) : Statement (.sgetc sd n beat) := by
  intro _
  refine (decode_control (by omega) (by omega) (by omega) (by omega)).trans ?_
  have e1 : (beat.val * 16 + n.val) / 16 = beat.val := by omega
  have e2 : (beat.val * 16 + n.val) / 4 % 4 = 0 := by omega
  have e3 : Fin.ofNat 4 (beat.val * 16 + n.val) = n := by apply Fin.ext; simp only [Fin.ofNat]; omega
  simp only [decodeControl, e1, e2, e3, ofNat_val]
  simp [reservedUnless]

theorem ssetc (n : Fin 4) (beat : Fin 3) (sa : SReg) : Statement (.ssetc n beat sa) := by
  intro _
  refine (decode_control (by omega) (by omega) (by omega) (by omega)).trans ?_
  have e1 : (beat.val * 16 + n.val) / 16 = beat.val := by omega
  have e2 : (beat.val * 16 + n.val) / 4 % 4 = 0 := by omega
  have e3 : Fin.ofNat 4 (beat.val * 16 + n.val) = n := by apply Fin.ext; simp only [Fin.ofNat]; omega
  simp only [decodeControl, e1, e2, e3, ofNat_val]
  simp [reservedUnless]

theorem sfence (o : Order) (sc : Scope) : Statement (.sfence o sc) := by
  intro h
  have h1 := scope_field_lt sc
  have h2 := order_field_lt o
  have h3 : o.field ≠ 0 := by cases o <;> first | decide | exact absurd h (by simp [Instr.wf, Order.fences])
  refine (decode_barrier (by omega) (by omega) (by omega) (by omega)).trans ?_
  have e1 : (o.field * 16 + sc.field) % 8 = sc.field := by omega
  have e2 : (o.field * 16 + sc.field) / 8 % 2 = 0 := by omega
  have e3 : (o.field * 16 + sc.field) / 16 = o.field := by omega
  simp only [decodeBarrier, e1, e2, e3, order_field, scope_field]
  simp [reservedUnless, h3]

theorem sslli (sd : SReg) (sa : SReg) (amount : Fin 32) : Statement (.sslli sd sa amount) := by
  intro _
  have hm := siWord_major (m := 0x0C) (d := sd.val) (a := sa.val) (i := amount.val) (by omega) (by omega) (by omega) (by omega)
  refine (decodeIn_short _ (by omega)).trans ?_
  unfold decodeScalar
  rw [hm, siWord_d (by omega) (by omega) (by omega), siWord_a (by omega) (by omega), siWord_5_9 (by omega), siWord_0_5]
  have e1 : amount.val / 32 = 0 := by omega
  have e2 : amount.val % 32 = amount.val := by omega
  simp [reservedUnless, e1, e2]

theorem ssrli (sd : SReg) (sa : SReg) (amount : Fin 32) : Statement (.ssrli sd sa amount) := by
  intro _
  have hm := siWord_major (m := 0x0D) (d := sd.val) (a := sa.val) (i := amount.val) (by omega) (by omega) (by omega) (by omega)
  refine (decodeIn_short _ (by omega)).trans ?_
  unfold decodeScalar
  rw [hm, siWord_d (by omega) (by omega) (by omega), siWord_a (by omega) (by omega), siWord_5_9 (by omega), siWord_0_5]
  have e1 : amount.val / 32 = 0 := by omega
  have e2 : amount.val % 32 = amount.val := by omega
  simp [reservedUnless, e1, e2]

theorem ssrai (sd : SReg) (sa : SReg) (amount : Fin 32) : Statement (.ssrai sd sa amount) := by
  intro _
  have hm := siWord_major (m := 0x0E) (d := sd.val) (a := sa.val) (i := amount.val) (by omega) (by omega) (by omega) (by omega)
  refine (decodeIn_short _ (by omega)).trans ?_
  unfold decodeScalar
  rw [hm, siWord_d (by omega) (by omega) (by omega), siWord_a (by omega) (by omega), siWord_5_9 (by omega), siWord_0_5]
  have e1 : amount.val / 32 = 0 := by omega
  have e2 : amount.val % 32 = amount.val := by omega
  simp [reservedUnless, e1, e2]

theorem slrep (count : Fin 256) (stride : Fin 64) : Statement (.slrep count stride) := by
  intro _
  have hm := siWord_major (m := 0x0F) (d := 0) (a := 0) (i := (count.val * 64 + stride.val)) (by omega) (by omega) (by omega) (by omega)
  refine (decodeIn_short _ (by omega)).trans ?_
  unfold decodeScalar
  rw [hm, siWord_d (by omega) (by omega) (by omega), siWord_a (by omega) (by omega), siWord_6_8 (by omega), siWord_0_6]
  have e1 : (count.val * 64 + stride.val) / 64 = count.val := by omega
  have e2 : (count.val * 64 + stride.val) % 64 = stride.val := by omega
  rw [e1, e2]
  simp [reservedUnless]

theorem strap (code : Byte) : Statement (.strap code) := by
  intro _
  have h1 := code.isLt
  have hm := siWord_major (m := 0x13) (d := 0) (a := 0) (i := code.toNat) (by omega) (by omega) (by omega) (by omega)
  refine (decodeIn_short _ (by omega)).trans ?_
  unfold decodeScalar
  rw [hm, siWord_d (by omega) (by omega) (by omega), siWord_a (by omega) (by omega), siWord_8_6 (by omega), siWord_imm8]
  have e1 : code.toNat / 256 = 0 := by omega
  rw [e1]
  simp [reservedUnless]

/-! ### Words of majors 0x20 and 0x24 -/

theorem maskBranch (k : Nat) (off : BitVec 22) (i : BitVec 22 → Instr) (hk : k < 16)
    (hi : ∀ w, bitsAt w 22 4 = k → decodeMaskBranch w = .ok (i (BitVec.ofNat 22 w))) :
    decodeIn .scalar [0x20 * 2 ^ 26 + k * 2 ^ 22 + off.toNat] = some (i off) := by
  have key : ∀ w, bitsAt w 26 6 = 0x20 → bitsAt w 22 4 = k → BitVec.ofNat 22 w = off →
      decodeIn .scalar [w] = some (i off) := by
    intro w hm hc ho
    refine (decodeIn_short _ (by omega)).trans ?_
    unfold decodeScalar
    rw [hm]
    show (decodeMaskBranch w).toOption = _
    rw [hi w hc, ho, ok_toOption]
  refine key _ ?_ ?_ ?_
  · simp only [bitsAt]; omega
  · simp only [bitsAt]; omega
  · apply BitVec.eq_of_toNat_eq; simp only [BitVec.toNat_ofNat]; omega

theorem sbr (off : BitVec 22) : Statement (.sbr off) :=
  fun _ => maskBranch 0 off .sbr (by omega) (fun w h => by simp [decodeMaskBranch, h])
theorem sbmz (off : BitVec 22) : Statement (.sbmz off) :=
  fun _ => maskBranch 1 off .sbmz (by omega) (fun w h => by simp [decodeMaskBranch, h])
theorem sbmnz (off : BitVec 22) : Statement (.sbmnz off) :=
  fun _ => maskBranch 2 off .sbmnz (by omega) (fun w h => by simp [decodeMaskBranch, h])
theorem sbmall (off : BitVec 22) : Statement (.sbmall off) :=
  fun _ => maskBranch 3 off .sbmall (by omega) (fun w h => by simp [decodeMaskBranch, h])
theorem sbmnall (off : BitVec 22) : Statement (.sbmnall off) :=
  fun _ => maskBranch 4 off .sbmnall (by omega) (fun w h => by simp [decodeMaskBranch, h])

theorem slissue (count : Fin 256) (pk : Bool) : Statement (.slissue count pk) := by
  intro _
  have hp : pk.toNat < 2 := by cases pk <;> decide
  have hm : bitsAt (0x24 * 2 ^ 26 + count.val * 2 ^ 18 + pk.toNat) 26 6 = 0x24 := by simp only [bitsAt]; omega
  have h1 : bitsAt (0x24 * 2 ^ 26 + count.val * 2 ^ 18 + pk.toNat) 1 17 = 0 := by simp only [bitsAt]; omega
  have h2 : bitsAt (0x24 * 2 ^ 26 + count.val * 2 ^ 18 + pk.toNat) 18 8 = count.val := by simp only [bitsAt]; omega
  have h3 : bitsAt (0x24 * 2 ^ 26 + count.val * 2 ^ 18 + pk.toNat) 0 1 = pk.toNat := by simp only [bitsAt]; omega
  show decodeIn .scalar [0x24 * 2 ^ 26 + count.val * 2 ^ 18 + pk.toNat] = _
  generalize 0x24 * 2 ^ 26 + count.val * 2 ^ 18 + pk.toNat = w at hm h1 h2 h3
  refine (decodeIn_short _ (by omega)).trans ?_
  unfold decodeScalar
  rw [hm, h1, h2, h3, ofNat_val]
  cases pk <;> simp [reservedUnless]

/-! ### Long branches -/

theorem offsets_so (so lo : BitVec 16) : BitVec.ofNat 16 (bitsAt (offsets so lo) 16 16) = so := by
  apply BitVec.eq_of_toNat_eq; simp only [BitVec.toNat_ofNat, bitsAt, offsets]; omega

theorem offsets_lo (so lo : BitVec 16) : BitVec.ofNat 16 (offsets so lo) = lo := by
  apply BitVec.eq_of_toNat_eq; simp only [BitVec.toNat_ofNat, offsets]; omega

theorem longMask (k : Nat) (so lo : BitVec 16) (i : Instr) (hk : k < 5) (hi : decodeLongMaskBranch k so lo = .ok i) :
    decodeIn .scalar [0x3E * 2 ^ 26 + 0x08 * 2 ^ 18 + k * 2 ^ 14, offsets so lo] = some i := by
  have hw : 0x3E * 2 ^ 26 + 0x08 * 2 ^ 18 + k * 2 ^ 14 = longWord 0x3E 0x08 (4 * k) 0 0 := by simp only [longWord]; omega
  rw [hw]
  refine (decode_3e (by omega) (by omega) (by omega) (by omega)).trans ?_
  have e1 : bitsAt (4 * k * 4096 + 0 * 64 + 0) 14 4 = k := by simp only [bitsAt]; omega
  have e2 : bitsAt (4 * k * 4096 + 0 * 64 + 0) 0 14 = 0 := by simp only [bitsAt]; omega
  simp only [decodeLongScalar, e1, e2, offsets_so, offsets_lo, hi, hk, reservedUnless]
  rfl

theorem sbrLong (so lo : BitVec 16) : Statement (.sbrLong so lo) := fun _ => longMask 0 so lo _ (by omega) rfl
theorem sbmzLong (so lo : BitVec 16) : Statement (.sbmzLong so lo) := fun _ => longMask 1 so lo _ (by omega) rfl
theorem sbmnzLong (so lo : BitVec 16) : Statement (.sbmnzLong so lo) := fun _ => longMask 2 so lo _ (by omega) rfl
theorem sbmallLong (so lo : BitVec 16) : Statement (.sbmallLong so lo) := fun _ => longMask 3 so lo _ (by omega) rfl
theorem sbmnallLong (so lo : BitVec 16) : Statement (.sbmnallLong so lo) := fun _ => longMask 4 so lo _ (by omega) rfl

theorem longCompare (k : Nat) (sa sb : SReg) (so lo : BitVec 16) (i : Instr) (hk : k < 8)
    (hi : decodeLongCompare sa.val sb.val k so lo = .ok i) :
    decodeIn .scalar [longWord 0x3E 0x09 sa.val sb.val (8 * k), offsets so lo] = some i := by
  refine (decode_3e (by omega) (by omega) (by omega) (by omega)).trans ?_
  have e1 : 8 * k % 8 = 0 := by omega
  have e2 : 8 * k / 8 = k := by omega
  simp only [decodeLongScalar, e1, e2, offsets_so, offsets_lo, hi, reservedUnless]
  rfl

theorem sbeqLong (sa sb : SReg) (so lo : BitVec 16) : Statement (.sbeqLong sa sb so lo) :=
  fun _ => longCompare 0 sa sb so lo _ (by omega) (by simp [decodeLongCompare])
theorem sbneLong (sa sb : SReg) (so lo : BitVec 16) : Statement (.sbneLong sa sb so lo) :=
  fun _ => longCompare 1 sa sb so lo _ (by omega) (by simp [decodeLongCompare])
theorem sbltLong (sa sb : SReg) (so lo : BitVec 16) : Statement (.sbltLong sa sb so lo) :=
  fun _ => longCompare 2 sa sb so lo _ (by omega) (by simp [decodeLongCompare])
theorem sbgeLong (sa sb : SReg) (so lo : BitVec 16) : Statement (.sbgeLong sa sb so lo) :=
  fun _ => longCompare 3 sa sb so lo _ (by omega) (by simp [decodeLongCompare])
theorem sbltuLong (sa sb : SReg) (so lo : BitVec 16) : Statement (.sbltuLong sa sb so lo) :=
  fun _ => longCompare 4 sa sb so lo _ (by omega) (by simp [decodeLongCompare])
theorem sbgeuLong (sa sb : SReg) (so lo : BitVec 16) : Statement (.sbgeuLong sa sb so lo) :=
  fun _ => longCompare 5 sa sb so lo _ (by omega) (by simp [decodeLongCompare])

theorem scall (pd : Pair) (so lo : BitVec 16) : Statement (.scall pd so lo) := by
  intro _
  refine (decode_3e (by omega) (by omega) (by omega) (by omega)).trans ?_
  simp only [decodeLongScalar, offsets_so, offsets_lo, pairOf_val]
  simp [reservedUnless, evenOnly]

theorem decode_3e_word (w lit : Nat) (hm : bitsAt w 26 6 = 0x3E) :
    decodeIn .scalar [w, lit] =
      (decodeLongScalar (bitsAt w 18 8) (bitsAt w 12 6) (bitsAt w 6 6) (bitsAt w 0 6) (bitsAt w 0 18) lit).toOption := by
  rw [decodeIn_long _ _ (by omega)]
  unfold decodeScalar
  rw [hm]
  rfl

theorem sbrv (n : Fin 4) (jso jlo tso tlo : BitVec 12) : Statement (.sbrv n jso jlo tso tlo) := by
  intro _
  have key : ∀ w l, bitsAt w 26 6 = 0x3E → bitsAt w 18 8 = 0x10 → bitsAt (bitsAt w 0 18) 16 2 = n.val →
      bitsAt (bitsAt w 0 18) 4 12 = jso.toNat → bitsAt (bitsAt w 0 18) 0 4 * 256 + bitsAt l 24 8 = jlo.toNat →
      bitsAt l 12 12 = tso.toNat → BitVec.ofNat 12 l = tlo → decodeIn .scalar [w, l] = some (.sbrv n jso jlo tso tlo) := by
    intro w l h1 h2 h3 h4 h5 h6 h7
    rw [decode_3e_word _ _ h1, h2]
    simp only [decodeLongScalar, h3, h4, h5, h6, h7, ofNat_val, BitVec.ofNat_toNat, BitVec.setWidth_eq, ok_toOption]
  have h1 := jso.isLt
  have h2 := jlo.isLt
  have h3 := tso.isLt
  have h4 := tlo.isLt
  refine key _ _ ?_ ?_ ?_ ?_ ?_ ?_ ?_
  · simp only [bitsAt]; omega
  · simp only [bitsAt]; omega
  · simp only [bitsAt]; omega
  · simp only [bitsAt]; omega
  · simp only [bitsAt]; omega
  · simp only [bitsAt]; omega
  · apply BitVec.eq_of_toNat_eq; simp only [BitVec.toNat_ofNat]; omega

/-! ### Long forms with fields in the literal -/

theorem supcall (sd : SReg) (pa : Pair) (pb : Pair) (svc : BitVec 16) : Statement (.supcall sd pa pb svc) := by
  intro _
  have e1 : bitsAt svc.toNat 31 1 = 0 := by simp only [bitsAt]; omega
  have e2 : bitsAt svc.toNat 16 15 = 0 := by simp only [bitsAt]; omega
  refine (decode_3e (by omega) (by omega) (by omega) (by omega)).trans ?_
  simp [decodeLongScalar, reservedUnless, evenOnly, e1, e2]

theorem supcallWait (pa : Pair) (pb : Pair) (svc : BitVec 16) : Statement (.supcallWait pa pb svc) := by
  intro _
  have e1 : bitsAt (2 ^ 31 + svc.toNat) 31 1 = 1 := by simp only [bitsAt]; omega
  have e2 : bitsAt (2 ^ 31 + svc.toNat) 16 15 = 0 := by simp only [bitsAt]; omega
  have e3 : BitVec.ofNat 16 (2 ^ 31 + svc.toNat) = svc := by
    apply BitVec.eq_of_toNat_eq; simp only [BitVec.toNat_ofNat]; omega
  refine (decode_3e (by omega) (by omega) (by omega) (by omega)).trans ?_
  generalize 2 ^ 31 + svc.toNat = l at e1 e2 e3
  simp [decodeLongScalar, reservedUnless, evenOnly, e1, e2, e3]

theorem sgetlImm (sd : SReg) (va : Fin 128) (lane : Fin 96) : Statement (.sgetlImm sd va lane) := by
  intro _
  have key : ∀ l, bitsAt l 7 17 = 0 → bitsAt l 0 7 = lane.val → bitsAt l 24 8 = va.val →
      decodeIn .scalar [longWord 0x3E 0x50 sd.val 0 0, l] = some (.sgetlImm sd va lane) := by
    intro l e0 e1 e2
    refine (decode_3e (by omega) (by omega) (by omega) (by omega)).trans ?_
    simp [decodeLongScalar, reservedUnless, e0, e1, e2]
  refine key _ ?_ ?_ ?_ <;> (simp only [bitsAt]; omega)

theorem sgetlReg (sd : SReg) (va : Fin 128) (sb : SReg) : Statement (.sgetlReg sd va sb) := by
  intro _
  have key : ∀ l, bitsAt l 0 24 = 0 → bitsAt l 24 8 = va.val →
      decodeIn .scalar [longWord 0x3E 0x51 sd.val sb.val 0, l] = some (.sgetlReg sd va sb) := by
    intro l e0 e1
    refine (decode_3e (by omega) (by omega) (by omega) (by omega)).trans ?_
    simp [decodeLongScalar, reservedUnless, e0, e1]
  refine key _ ?_ ?_ <;> (simp only [bitsAt]; omega)

theorem scallx (va vb : Fin 128) (n : Fin 33) : Statement (.scallx va vb n) := by
  intro _
  have key : ∀ l, bitsAt l 9 7 = 0 → bitsAt l 6 2 = 0 → bitsAt l 0 6 = n.val → bitsAt l 8 1 = 0 → bitsAt l 24 8 = va.val → bitsAt l 16 8 = vb.val →
      decodeIn .scalar [longWord 0x3E 0x58 0 0 0, l] = some (.scallx va vb n) := by
    intro l e0 e1 e2 e3 e4 e5
    refine (decode_3e (by omega) (by omega) (by omega) (by omega)).trans ?_
    have hn : n.val ≤ 32 := by omega
    simp [decodeLongScalar, reservedUnless, e0, e1, e2, e3, e4, e5, hn]
  refine key _ ?_ ?_ ?_ ?_ ?_ ?_ <;> (simp only [bitsAt]; omega)

theorem scallxRet (vb : Fin 128) (n : Fin 33) : Statement (.scallxRet vb n) := by
  intro _
  have key : ∀ l, bitsAt l 9 7 = 0 → bitsAt l 6 2 = 0 → bitsAt l 0 6 = n.val → bitsAt l 8 1 = 1 → bitsAt l 24 8 = 0 → bitsAt l 16 8 = vb.val →
      decodeIn .scalar [longWord 0x3E 0x58 0 0 0, l] = some (.scallxRet vb n) := by
    intro l e0 e1 e2 e3 e4 e5
    refine (decode_3e (by omega) (by omega) (by omega) (by omega)).trans ?_
    have hn : n.val ≤ 32 := by omega
    simp [decodeLongScalar, reservedUnless, e0, e1, e2, e3, e4, e5, hn]
  refine key _ ?_ ?_ ?_ ?_ ?_ ?_ <;> (simp only [bitsAt]; omega)

/-! ### Commands -/

theorem toNat_lt_two (b : Bool) : b.toNat < 2 := by cases b <;> decide
theorem toNat_beq_one (b : Bool) : (b.toNat == 1) = b := by cases b <;> rfl

theorem mmaLit_fields (pa pb : Fin 4) (acc sat g : Bool) :
    bitsAt (mmaLit pa pb acc sat g) 0 25 = 0 ∧ bitsAt (mmaLit pa pb acc sat g) 30 2 = pa.val ∧
    bitsAt (mmaLit pa pb acc sat g) 28 2 = pb.val ∧ bitsAt (mmaLit pa pb acc sat g) 27 1 = acc.toNat ∧
    bitsAt (mmaLit pa pb acc sat g) 26 1 = sat.toNat ∧ bitsAt (mmaLit pa pb acc sat g) 25 1 = g.toNat := by
  have h1 := toNat_lt_two acc
  have h2 := toNat_lt_two sat
  have h3 := toNat_lt_two g
  simp only [bitsAt, mmaLit]
  omega

theorem mma (sa sb st : SReg) (pa pb : Fin 4) (acc sat g : Bool) : Statement (.mma sa sb st pa pb acc sat g) := by
  intro _
  obtain ⟨e1, e2, e3, e4, e5, e6⟩ := mmaLit_fields pa pb acc sat g
  refine (decode_3f (by omega) (by omega) (by omega) (by omega)).trans ?_
  simp only [decodeLongCommand, e1, e2, e3, e4, e5, e6, toNat_beq_one, ofNat_val, sreg_val]
  rfl

theorem mmaPair (sa sb st : SReg) (pa pb : Fin 4) (acc sat g : Bool) : Statement (.mmaPair sa sb st pa pb acc sat g) := by
  intro _
  obtain ⟨e1, e2, e3, e4, e5, e6⟩ := mmaLit_fields pa pb acc sat g
  refine (decode_3f (by omega) (by omega) (by omega) (by omega)).trans ?_
  simp only [decodeLongCommand, e1, e2, e3, e4, e5, e6, toNat_beq_one, ofNat_val, sreg_val]
  rfl

theorem mload (sa st : SReg) (tr : Bool) : Statement (.mload sa st tr) := by
  intro _
  have h := toNat_lt_two tr
  have e1 : bitsAt (tr.toNat * 2 ^ 31) 0 31 = 0 := by simp only [bitsAt]; omega
  have e2 : bitsAt (tr.toNat * 2 ^ 31) 31 1 = tr.toNat := by simp only [bitsAt]; omega
  refine (decode_3f (by omega) (by omega) (by omega) (by omega)).trans ?_
  generalize tr.toNat * 2 ^ 31 = l at e1 e2
  simp only [decodeLongCommand, e1, e2, toNat_beq_one, sreg_val]
  rfl

theorem mdrain (sa st : SReg) (tr : Bool) (rnd : Fin 4) (sat : Bool) : Statement (.mdrain sa st tr rnd sat) := by
  intro _
  have h := toNat_lt_two tr
  have h2 := toNat_lt_two sat
  have e1 : bitsAt (tr.toNat * 2 ^ 31 + rnd.val * 2 ^ 29 + sat.toNat * 2 ^ 28) 0 28 = 0 := by simp only [bitsAt]; omega
  have e2 : bitsAt (tr.toNat * 2 ^ 31 + rnd.val * 2 ^ 29 + sat.toNat * 2 ^ 28) 31 1 = tr.toNat := by simp only [bitsAt]; omega
  have e3 : bitsAt (tr.toNat * 2 ^ 31 + rnd.val * 2 ^ 29 + sat.toNat * 2 ^ 28) 29 2 = rnd.val := by simp only [bitsAt]; omega
  have e4 : bitsAt (tr.toNat * 2 ^ 31 + rnd.val * 2 ^ 29 + sat.toNat * 2 ^ 28) 28 1 = sat.toNat := by simp only [bitsAt]; omega
  refine (decode_3f (by omega) (by omega) (by omega) (by omega)).trans ?_
  generalize tr.toNat * 2 ^ 31 + rnd.val * 2 ^ 29 + sat.toNat * 2 ^ 28 = l at e1 e2 e3 e4
  simp only [decodeLongCommand, e1, e2, e3, e4, toNat_beq_one, ofNat_val, sreg_val]
  rfl

theorem mgidx (va : Fin 128) : Statement (.mgidx va) := by
  intro _
  have e1 : bitsAt (va.val * 2 ^ 24) 0 24 = 0 := by simp only [bitsAt]; omega
  have e2 : bitsAt (va.val * 2 ^ 24) 24 8 = va.val := by simp only [bitsAt]; omega
  refine (decode_3f (by omega) (by omega) (by omega) (by omega)).trans ?_
  generalize va.val * 2 ^ 24 = l at e1 e2
  simp [decodeLongCommand, reservedUnless, e1, e2]

theorem gemit (ss sn sq : SReg) (code : Fin 32) : Statement (.gemit ss sn sq code) := by
  intro _
  have e1 : bitsAt (code.val * 2 ^ 27) 0 27 = 0 := by simp only [bitsAt]; omega
  have e2 : bitsAt (code.val * 2 ^ 27) 27 5 = code.val := by simp only [bitsAt]; omega
  refine (decode_3f (by omega) (by omega) (by omega) (by omega)).trans ?_
  generalize code.val * 2 ^ 27 = l at e1 e2
  simp [decodeLongCommand, reservedUnless, e1, e2]

theorem copyFieldsOf_eq {l : Nat} {f : CopyFields} (e1 : bitsAt l 24 3 = f.scope.field) (e2 : bitsAt l 27 5 = f.code.val) :
    copyFieldsOf l f.cls.val = some f := by
  unfold copyFieldsOf
  rw [e1, scope_field]
  simp only
  rw [dif_pos f.cls.isLt, e2, ofNat_val]

theorem copyLit_fields (f : CopyFields) (sel rest : Nat) (hs : sel < 4) (hr : rest < 2 ^ 22) :
    bitsAt (copyLit f sel rest) 24 3 = f.scope.field ∧ bitsAt (copyLit f sel rest) 27 5 = f.code.val ∧
    bitsAt (copyLit f sel rest) 22 2 = sel ∧ bitsAt (copyLit f sel rest) 0 22 = rest := by
  have h1 := scope_field_lt f.scope
  simp only [bitsAt, copyLit]
  omega

theorem xdecomp (d : Pair) (first : SReg) (count : SReg) (f : CopyFields) : Statement (.xdecomp d first count f) := by
  intro _
  have hc := f.cls.isLt
  obtain ⟨e1, e2, e3, e4⟩ := copyLit_fields f 0 (f.cls.val * 2 ^ 19) (by omega) (by omega)
  refine (decode_3f (by omega) (by omega) (by omega) (by omega)).trans ?_
  generalize copyLit f 0 (f.cls.val * 2 ^ 19) = l at e1 e2 e3 e4
  have e5 : bitsAt l 19 2 = f.cls.val := by simp only [bitsAt] at *; omega
  have e6 : bitsAt l 21 3 = 0 := by simp only [bitsAt] at *; omega
  have e7 : bitsAt l 0 19 = 0 := by simp only [bitsAt] at *; omega
  simp [decodeLongCommand, reservedUnless, evenOnly, e5, e6, e7, copyFieldsOf_eq e1 e2]

theorem xcopy (dir : CopyDir) (d : SReg) (a : SReg) (n : Pair) (k : Pair) (f : CopyFields) : Statement (.xcopy dir d a n k f) := by
  intro h
  have hc := f.cls.isLt
  have hd := copyDir_field_lt dir
  obtain ⟨e1, e2, e3, e4⟩ := copyLit_fields f dir.field (f.cls.val * 2 ^ 19 + 2 * k.val * 2 ^ 13) (by omega) (by omega)
  refine (decode_3f (by omega) (by omega) (by omega) (by omega)).trans ?_
  generalize copyLit f dir.field (f.cls.val * 2 ^ 19 + 2 * k.val * 2 ^ 13) = l at e1 e2 e3 e4
  have e5 : bitsAt l 19 2 = f.cls.val := by simp only [bitsAt] at *; omega
  have e6 : bitsAt l 21 1 = 0 := by simp only [bitsAt] at *; omega
  have e7 : bitsAt l 0 13 = 0 := by simp only [bitsAt] at *; omega
  have e8 : bitsAt l 13 6 = 2 * k.val := by simp only [bitsAt] at *; omega
  simp only [Instr.wf, Bool.and_eq_true, Bool.or_eq_true, Bool.not_eq_true', beq_iff_eq] at h
  obtain ⟨h1, h2⟩ := h
  simp only [decodeLongCommand, e3, e5, e6, e7, e8, copyFieldsOf_eq e1 e2, copyDir_field, pairOf_val, sreg_val]
  have ha : evenOnly ([2 * n.val, 2 * k.val] ++ (if dir.globalDst then [d.val] else []) ++ (if dir.globalSrc then [a.val] else []))
      (.ok (.xcopy dir d a n k f)) = .ok (.xcopy dir d a n k f) := by
    unfold evenOnly
    rw [if_pos]
    cases g1 : dir.globalDst <;> cases g2 : dir.globalSrc <;> simp_all
  rw [ha]
  rfl

theorem xput (d : Pair) (a c : SReg) (sp : Bool) (f : CopyFields) (tag : BitVec 16) : Statement (.xput d a c sp f tag) := by
  intro h
  have hs := toNat_lt_two sp
  obtain ⟨e1, e2, e3, e4⟩ := copyLit_fields f sp.toNat tag.toNat (by omega) (by omega)
  have e5 : BitVec.ofNat 16 (copyLit f sp.toNat tag.toNat) = tag := by
    apply BitVec.eq_of_toNat_eq; simp only [BitVec.toNat_ofNat, copyLit]; omega
  refine (decode_3f (by omega) (by omega) (by omega) (by omega)).trans ?_
  generalize copyLit f sp.toNat tag.toNat = l at e1 e2 e3 e4 e5
  have e6 : bitsAt l 16 6 = 0 := by simp only [bitsAt] at *; omega
  simp only [Instr.wf, Bool.and_eq_true, beq_iff_eq] at h
  obtain ⟨⟨h1, h2⟩, h3⟩ := h
  have e7 : copyFieldsOf l 0 = some f := by rw [← h2]; exact copyFieldsOf_eq e1 e2
  cases sp
  · simp at h3
    simp [decodeLongCommand, reservedUnless, evenOnly, e3, e5, e6, e7, h1, h3]
  · simp [decodeLongCommand, reservedUnless, evenOnly, e3, e5, e6, e7, h1]

theorem xget (d : SReg) (a : Pair) (c : SReg) (sp : Bool) (f : CopyFields) (tag : BitVec 16) : Statement (.xget d a c sp f tag) := by
  intro h
  have hs := toNat_lt_two sp
  obtain ⟨e1, e2, e3, e4⟩ := copyLit_fields f sp.toNat tag.toNat (by omega) (by omega)
  have e5 : BitVec.ofNat 16 (copyLit f sp.toNat tag.toNat) = tag := by
    apply BitVec.eq_of_toNat_eq; simp only [BitVec.toNat_ofNat, copyLit]; omega
  refine (decode_3f (by omega) (by omega) (by omega) (by omega)).trans ?_
  generalize copyLit f sp.toNat tag.toNat = l at e1 e2 e3 e4 e5
  have e6 : bitsAt l 16 6 = 0 := by simp only [bitsAt] at *; omega
  simp only [Instr.wf, Bool.and_eq_true, beq_iff_eq] at h
  obtain ⟨⟨h1, h2⟩, h3⟩ := h
  have e7 : copyFieldsOf l 0 = some f := by rw [← h2]; exact copyFieldsOf_eq e1 e2
  cases sp
  · simp at h3
    simp [decodeLongCommand, reservedUnless, evenOnly, e3, e5, e6, e7, h1, h3]
  · simp [decodeLongCommand, reservedUnless, evenOnly, e3, e5, e6, e7, h1]

theorem xsig (d v : Pair) (st : Bool) (f : CopyFields) (tag : BitVec 16) : Statement (.xsig d v st f tag) := by
  intro h
  have hs := toNat_lt_two st
  obtain ⟨e1, e2, e3, e4⟩ := copyLit_fields f st.toNat tag.toNat (by omega) (by omega)
  have e5 : BitVec.ofNat 16 (copyLit f st.toNat tag.toNat) = tag := by
    apply BitVec.eq_of_toNat_eq; simp only [BitVec.toNat_ofNat, copyLit]; omega
  refine (decode_3f (by omega) (by omega) (by omega) (by omega)).trans ?_
  generalize copyLit f st.toNat tag.toNat = l at e1 e2 e3 e4 e5
  have e6 : bitsAt l 16 6 = 0 := by simp only [bitsAt] at *; omega
  simp only [Instr.wf, Bool.and_eq_true, beq_iff_eq] at h
  obtain ⟨h1, h2⟩ := h
  have e7 : copyFieldsOf l 0 = some f := by rw [← h2]; exact copyFieldsOf_eq e1 e2
  cases st <;> simp [decodeLongCommand, reservedUnless, evenOnly, e3, e5, e6, e7, h1]

/-! ### Lane words -/

theorem vadd (w : LaneWord) : Statement (.vadd w) := fun h => decode_lane 0x01 .vadd (by decide) (fun _ => rfl) w h

theorem vsub (w : LaneWord) : Statement (.vsub w) := fun h => decode_lane 0x02 .vsub (by decide) (fun _ => rfl) w h

theorem vmul (w : LaneWord) : Statement (.vmul w) := fun h => decode_lane 0x03 .vmul (by decide) (fun _ => rfl) w h

theorem vmad (w : LaneWord) : Statement (.vmad w) := fun h => decode_lane 0x04 .vmad (by decide) (fun _ => rfl) w h

theorem vmin (w : LaneWord) : Statement (.vmin w) := fun h => decode_lane 0x05 .vmin (by decide) (fun _ => rfl) w h

theorem vmax (w : LaneWord) : Statement (.vmax w) := fun h => decode_lane 0x06 .vmax (by decide) (fun _ => rfl) w h

theorem vabs (w : LaneWord) : Statement (.vabs w) := fun h => decode_lane 0x07 .vabs (by decide) (fun _ => rfl) w h

theorem vneg (w : LaneWord) : Statement (.vneg w) := fun h => decode_lane 0x08 .vneg (by decide) (fun _ => rfl) w h

theorem vcmp (w : LaneWord) : Statement (.vcmp w) := fun h => decode_lane 0x09 .vcmp (by decide) (fun _ => rfl) w h

theorem vsel (w : LaneWord) : Statement (.vsel w) := fun h => decode_lane 0x0A .vsel (by decide) (fun _ => rfl) w h

theorem vscan (w : LaneWord) : Statement (.vscan w) := fun h => decode_lane 0x0B .vscan (by decide) (fun _ => rfl) w h

theorem vand (w : LaneWord) : Statement (.vand w) := fun h => decode_lane 0x10 .vand (by decide) (fun _ => rfl) w h

theorem vor (w : LaneWord) : Statement (.vor w) := fun h => decode_lane 0x11 .vor (by decide) (fun _ => rfl) w h

theorem vxor (w : LaneWord) : Statement (.vxor w) := fun h => decode_lane 0x12 .vxor (by decide) (fun _ => rfl) w h

theorem vnot (w : LaneWord) : Statement (.vnot w) := fun h => decode_lane 0x13 .vnot (by decide) (fun _ => rfl) w h

theorem vshl (w : LaneWord) : Statement (.vshl w) := fun h => decode_lane 0x14 .vshl (by decide) (fun _ => rfl) w h

theorem vshr (w : LaneWord) : Statement (.vshr w) := fun h => decode_lane 0x15 .vshr (by decide) (fun _ => rfl) w h

theorem vsra (w : LaneWord) : Statement (.vsra w) := fun h => decode_lane 0x16 .vsra (by decide) (fun _ => rfl) w h

theorem vmulhi (w : LaneWord) : Statement (.vmulhi w) := fun h => decode_lane 0x17 .vmulhi (by decide) (fun _ => rfl) w h

theorem vclz (w : LaneWord) : Statement (.vclz w) := fun h => decode_lane 0x18 .vclz (by decide) (fun _ => rfl) w h

theorem vpopc (w : LaneWord) : Statement (.vpopc w) := fun h => decode_lane 0x19 .vpopc (by decide) (fun _ => rfl) w h

theorem vbrev (w : LaneWord) : Statement (.vbrev w) := fun h => decode_lane 0x1A .vbrev (by decide) (fun _ => rfl) w h

theorem vbfe (w : LaneWord) : Statement (.vbfe w) := fun h => decode_lane 0x1B .vbfe (by decide) (fun _ => rfl) w h

theorem vbfi (w : LaneWord) : Statement (.vbfi w) := fun h => decode_lane 0x1C .vbfi (by decide) (fun _ => rfl) w h

theorem vdiv (w : LaneWord) : Statement (.vdiv w) := fun h => decode_lane 0x20 .vdiv (by decide) (fun _ => rfl) w h

theorem vsqrt (w : LaneWord) : Statement (.vsqrt w) := fun h => decode_lane 0x21 .vsqrt (by decide) (fun _ => rfl) w h

theorem vrcp (w : LaneWord) : Statement (.vrcp w) := fun h => decode_lane 0x22 .vrcp (by decide) (fun _ => rfl) w h

theorem vrsq (w : LaneWord) : Statement (.vrsq w) := fun h => decode_lane 0x23 .vrsq (by decide) (fun _ => rfl) w h

theorem vexp2 (w : LaneWord) : Statement (.vexp2 w) := fun h => decode_lane 0x24 .vexp2 (by decide) (fun _ => rfl) w h

theorem vlog2 (w : LaneWord) : Statement (.vlog2 w) := fun h => decode_lane 0x25 .vlog2 (by decide) (fun _ => rfl) w h

theorem vsin (w : LaneWord) : Statement (.vsin w) := fun h => decode_lane 0x26 .vsin (by decide) (fun _ => rfl) w h

theorem vcos (w : LaneWord) : Statement (.vcos w) := fun h => decode_lane 0x27 .vcos (by decide) (fun _ => rfl) w h

theorem vround (w : LaneWord) : Statement (.vround w) := fun h => decode_lane 0x28 .vround (by decide) (fun _ => rfl) w h

theorem vfract (w : LaneWord) : Statement (.vfract w) := fun h => decode_lane 0x29 .vfract (by decide) (fun _ => rfl) w h

theorem vclass (w : LaneWord) : Statement (.vclass w) := fun h => decode_lane 0x2A .vclass (by decide) (fun _ => rfl) w h

theorem vdot2 (w : LaneWord) : Statement (.vdot2 w) := fun h => decode_lane 0x2B .vdot2 (by decide) (fun _ => rfl) w h

theorem vldexp (w : LaneWord) : Statement (.vldexp w) := fun h => decode_lane 0x2C .vldexp (by decide) (fun _ => rfl) w h

theorem vcvt (w : LaneWord) : Statement (.vcvt w) := fun h => decode_lane 0x30 .vcvt (by decide) (fun _ => rfl) w h

theorem vtag (w : LaneWord) : Statement (.vtag w) := fun h => decode_lane 0x31 .vtag (by decide) (fun _ => rfl) w h

theorem vgettag (w : LaneWord) : Statement (.vgettag w) := fun h => decode_lane 0x32 .vgettag (by decide) (fun _ => rfl) w h

theorem vmov (w : LaneWord) : Statement (.vmov w) := fun h => decode_lane 0x38 .vmov (by decide) (fun _ => rfl) w h

theorem vli (w : LaneWord) : Statement (.vli w) := fun h => decode_lane 0x39 .vli (by decide) (fun _ => rfl) w h

theorem vlane (w : LaneWord) : Statement (.vlane w) := fun h => decode_lane 0x3A .vlane (by decide) (fun _ => rfl) w h

theorem vmovc (w : LaneWord) : Statement (.vmovc w) := fun h => decode_lane 0x3B .vmovc (by decide) (fun _ => rfl) w h

theorem vxch (w : LaneWord) : Statement (.vxch w) := fun h => decode_lane 0x40 .vxch (by decide) (fun _ => rfl) w h

theorem vperm (w : LaneWord) : Statement (.vperm w) := fun h => decode_lane 0x41 .vperm (by decide) (fun _ => rfl) w h

theorem vrot (w : LaneWord) : Statement (.vrot w) := fun h => decode_lane 0x42 .vrot (by decide) (fun _ => rfl) w h

theorem vbcast (w : LaneWord) : Statement (.vbcast w) := fun h => decode_lane 0x43 .vbcast (by decide) (fun _ => rfl) w h

theorem vred (w : LaneWord) : Statement (.vred w) := fun h => decode_lane 0x44 .vred (by decide) (fun _ => rfl) w h

theorem vballot (w : LaneWord) : Statement (.vballot w) := fun h => decode_lane 0x45 .vballot (by decide) (fun _ => rfl) w h

theorem vcand (w : LaneWord) : Statement (.vcand w) := fun h => decode_lane 0x48 .vcand (by decide) (fun _ => rfl) w h

theorem vcor (w : LaneWord) : Statement (.vcor w) := fun h => decode_lane 0x49 .vcor (by decide) (fun _ => rfl) w h

theorem vcxor (w : LaneWord) : Statement (.vcxor w) := fun h => decode_lane 0x4A .vcxor (by decide) (fun _ => rfl) w h

theorem vcnot (w : LaneWord) : Statement (.vcnot w) := fun h => decode_lane 0x4B .vcnot (by decide) (fun _ => rfl) w h

theorem vcmov (w : LaneWord) : Statement (.vcmov w) := fun h => decode_lane 0x4C .vcmov (by decide) (fun _ => rfl) w h

theorem vxadd (w : LaneWord) : Statement (.vxadd w) := fun h => decode_lane 0x50 .vxadd (by decide) (fun _ => rfl) w h

theorem vxget (w : LaneWord) : Statement (.vxget w) := fun h => decode_lane 0x51 .vxget (by decide) (fun _ => rfl) w h

theorem vxclr (w : LaneWord) : Statement (.vxclr w) := fun h => decode_lane 0x52 .vxclr (by decide) (fun _ => rfl) w h

theorem vld (w : LaneWord) : Statement (.vld w) := fun h => decode_lane 0x60 .vld (by decide) (fun _ => rfl) w h

theorem vst (w : LaneWord) : Statement (.vst w) := fun h => decode_lane 0x61 .vst (by decide) (fun _ => rfl) w h

theorem vatom (w : LaneWord) : Statement (.vatom w) := fun h => decode_lane 0x62 .vatom (by decide) (fun _ => rfl) w h

theorem vatomn (w : LaneWord) : Statement (.vatomn w) := fun h => decode_lane 0x63 .vatomn (by decide) (fun _ => rfl) w h

theorem vlds (w : LaneWord) : Statement (.vlds w) := fun h => decode_lane 0x64 .vlds (by decide) (fun _ => rfl) w h

theorem vsts (w : LaneWord) : Statement (.vsts w) := fun h => decode_lane 0x65 .vsts (by decide) (fun _ => rfl) w h

theorem vtex (w : LaneWord) : Statement (.vtex w) := fun h => decode_lane 0x70 .vtex (by decide) (fun _ => rfl) w h

theorem vtexld (w : LaneWord) : Statement (.vtexld w) := fun h => decode_lane 0x71 .vtexld (by decide) (fun _ => rfl) w h

theorem vhgrid (w : LaneWord) : Statement (.vhgrid w) := fun h => decode_lane 0x72 .vhgrid (by decide) (fun _ => rfl) w h

theorem vhgsc (w : LaneWord) : Statement (.vhgsc w) := fun h => decode_lane 0x73 .vhgsc (by decide) (fun _ => rfl) w h

theorem vtrace (w : LaneWord) : Statement (.vtrace w) := fun h => decode_lane 0x74 .vtrace (by decide) (fun _ => rfl) w h

theorem vmbox (w : LaneWord) : Statement (.vmbox w) := fun h => decode_lane 0x75 .vmbox (by decide) (fun _ => rfl) w h

theorem vrtw (w : LaneWord) : Statement (.vrtw w) := fun h => decode_lane 0x76 .vrtw (by decide) (fun _ => rfl) w h

theorem vvis (w : LaneWord) : Statement (.vvis w) := fun h => decode_lane 0x77 .vvis (by decide) (fun _ => rfl) w h

theorem vordb (w : LaneWord) : Statement (.vordb w) := fun h => decode_lane 0x78 .vordb (by decide) (fun _ => rfl) w h

theorem vorde (w : LaneWord) : Statement (.vorde w) := fun h => decode_lane 0x79 .vorde (by decide) (fun _ => rfl) w h

theorem vqswap (w : LaneWord) : Statement (.vqswap w) := fun h => decode_lane 0x7A .vqswap (by decide) (fun _ => rfl) w h

/-! ### Xcmd words -/

theorem cxRfetch (rd : Fin 32) (rs1 : Fin 32) (rs2 : Fin 32) : Statement (.cxRfetch rd rs1 rs2) := fun _ => decode_cx0 rd rs1 rs2

theorem cxBfext (rd : Fin 32) (rs1 : Fin 32) (rs2 : Fin 32) : Statement (.cxBfext rd rs1 rs2) := fun _ => decode_cx1 rd rs1 rs2

theorem cxSwait (rd : Fin 32) (rs1 : Fin 32) (rs2 : Fin 32) : Statement (.cxSwait rd rs1 rs2) := fun _ => decode_cx2 rd rs1 rs2

theorem cxDisp (rd : Fin 32) (rs1 : Fin 32) (rs2 : Fin 32) : Statement (.cxDisp rd rs1 rs2) := fun _ => decode_cx3 rd rs1 rs2

theorem cxGuilt (rd : Fin 32) (rs1 : Fin 32) (rs2 : Fin 32) : Statement (.cxGuilt rd rs1 rs2) := fun _ => decode_cx4 rd rs1 rs2

/-! ### Steps that no word encodes -/

theorem variableLatencyResult (r : SplitRef) (k : Nat) : Statement (.variableLatencyResult r k) := fun _ => rfl

theorem parkPointRelease (r : SplitRef) : Statement (.parkPointRelease r) := fun _ => rfl

theorem forcedPark (r : SplitRef) : Statement (.forcedPark r) := fun _ => rfl

theorem splitMerge (group : Nat) (key : Nat) : Statement (.splitMerge group key) := fun _ => rfl

theorem joinDeadlockRelease (group : Nat) : Statement (.joinDeadlockRelease group) := fun _ => rfl

theorem composeRelease (node : Nat) (index : Nat) : Statement (.composeRelease node index) := fun _ => rfl

theorem starvationPrecedence (r : SplitRef) : Statement (.starvationPrecedence r) := fun _ => rfl

theorem barrierComplete (wg : Nat) : Statement (.barrierComplete wg) := fun _ => rfl

theorem clockPointChange (p : ClockPoint) : Statement (.clockPointChange p) := fun _ => rfl

theorem ltTick (core : Nat) : Statement (.ltTick core) := fun _ => rfl

theorem hubLtTick : Statement (.hubLtTick) := fun _ => rfl

theorem floorSweep : Statement (.floorSweep) := fun _ => rfl

theorem atomicLeaseExpiry (line : Nat) : Statement (.atomicLeaseExpiry line) := fun _ => rfl

theorem weirFarExpiry (line : Nat) : Statement (.weirFarExpiry line) := fun _ => rfl

theorem l2OverdueSweep (die : Nat) (slice : Nat) : Statement (.l2OverdueSweep die slice) := fun _ => rfl

theorem auditFail (die : Nat) (slice : Nat) (k : Nat) : Statement (.auditFail die slice k) := fun _ => rfl

theorem granuleToScratch (core : Nat) : Statement (.granuleToScratch core) := fun _ => rfl

theorem granuleToL1 (core : Nat) : Statement (.granuleToL1 core) := fun _ => rfl

theorem invalidatePage (ctx : Nat) (page : Nat) : Statement (.invalidatePage ctx page) := fun _ => rfl

theorem invalidateContext (ctx : Nat) : Statement (.invalidateContext ctx) := fun _ => rfl

theorem invalidateNonglobal (ctx : Nat) : Statement (.invalidateNonglobal ctx) := fun _ => rfl

theorem invalidateAll : Statement (.invalidateAll) := fun _ => rfl

theorem invalidationPortLoad : Statement (.invalidationPortLoad) := fun _ => rfl

theorem contextValidWrite (ctx : Nat) (valid : Bool) : Statement (.contextValidWrite ctx valid) := fun _ => rfl

theorem retentionRangeWrite (die : Nat) (range : Nat) (dword : Nat) (value : DWord) : Statement (.retentionRangeWrite die range dword value) := fun _ => rfl

theorem registerWrite (offset : Nat) (value : DWord) : Statement (.registerWrite offset value) := fun _ => rfl

theorem queueEnable (q : Nat) : Statement (.queueEnable q) := fun _ => rfl

theorem notify : Statement (.notify) := fun _ => rfl

theorem noopEntry (q : Nat) : Statement (.noopEntry q) := fun _ => rfl

theorem launchEntry (q : Nat) : Statement (.launchEntry q) := fun _ => rfl

theorem waitEntry (q : Nat) : Statement (.waitEntry q) := fun _ => rfl

theorem waitEntrySatisfied (q : Nat) : Statement (.waitEntrySatisfied q) := fun _ => rfl

theorem workgroupPlacement : Statement (.workgroupPlacement) := fun _ => rfl

theorem compaction (core : Nat) (pipe : Nat) (allot : Nat) : Statement (.compaction core pipe allot) := fun _ => rfl

theorem dieReservation (node : Nat) : Statement (.dieReservation node) := fun _ => rfl

theorem nodeCompletion (node : Nat) : Statement (.nodeCompletion node) := fun _ => rfl

theorem nodeFail (node : Nat) (code : FaultCode) : Statement (.nodeFail node code) := fun _ => rfl

theorem multiLaunch (m : MultiStep) : Statement (.multiLaunch m) := fun _ => rfl

theorem multiAccept (m : MultiStep) : Statement (.multiAccept m) := fun _ => rfl

theorem multiStart (m : MultiStep) : Statement (.multiStart m) := fun _ => rfl

theorem multiDone (m : MultiStep) : Statement (.multiDone m) := fun _ => rfl

theorem multiAbort (m : MultiStep) : Statement (.multiAbort m) := fun _ => rfl

theorem acceptTimeout (node : Nat) : Statement (.acceptTimeout node) := fun _ => rfl

theorem linkFailure (domain : Nat) (rank : Nat) : Statement (.linkFailure domain rank) := fun _ => rfl

theorem resume (a : ActionArgs) : Statement (.resume a) := fun _ => rfl

theorem retry (a : ActionArgs) : Statement (.retry a) := fun _ => rfl

theorem endGroup (a : ActionArgs) : Statement (.endGroup a) := fun _ => rfl

theorem endNode (a : ActionArgs) : Statement (.endNode a) := fun _ => rfl

theorem replay (ctx : Nat) (page : Nat) : Statement (.replay ctx page) := fun _ => rfl

theorem fail (ctx : Nat) (page : Nat) : Statement (.fail ctx page) := fun _ => rfl

theorem messagePost (die : Nat) : Statement (.messagePost die) := fun _ => rfl

theorem sluiceHeadWrite (die : Nat) (value : Word) : Statement (.sluiceHeadWrite die value) := fun _ => rfl

theorem replyPortWrite (region : Nat) (ctx : Nat) (ticket : Word) : Statement (.replyPortWrite region ctx ticket) := fun _ => rfl

theorem preemptContext (ctx : Nat) (hold : Bool) (tag : Word) : Statement (.preemptContext ctx hold tag) := fun _ => rfl

theorem preemptWorkgroup (ctx : Nat) (region : Nat) (hold : Bool) (tag : Word) : Statement (.preemptWorkgroup ctx region hold tag) := fun _ => rfl

theorem releaseHeld (ctx : Nat) (tag : Word) : Statement (.releaseHeld ctx tag) := fun _ => rfl

theorem workgroupSave (wg : Nat) : Statement (.workgroupSave wg) := fun _ => rfl

theorem workgroupRestore (k : Nat) : Statement (.workgroupRestore k) := fun _ => rfl

theorem orderedTimeout (group : Nat) : Statement (.orderedTimeout group) := fun _ => rfl

theorem batchRetire (group : Nat) : Statement (.batchRetire group) := fun _ => rfl

theorem copyCommandPerform (k : Nat) : Statement (.copyCommandPerform k) := fun _ => rfl

theorem matrixCommandPerform (core : Nat) (mismatch : Bool) : Statement (.matrixCommandPerform core mismatch) := fun _ => rfl

theorem rasteriserStart (node : Nat) : Statement (.rasteriserStart node) := fun _ => rfl

theorem rtWriteApply (k : Nat) : Statement (.rtWriteApply k) := fun _ => rfl

theorem tileWriteBack (k : Nat) : Statement (.tileWriteBack k) := fun _ => rfl

theorem rayRecordArrival (group : Nat) (k : Nat) : Statement (.rayRecordArrival group k) := fun _ => rfl

theorem peerRequest (r : PeerRequest) : Statement (.peerRequest r) := fun _ => rfl

theorem windowErrorResponse (k : Nat) (code : Nat) : Statement (.windowErrorResponse k code) := fun _ => rfl

theorem triggerArrival (window : Nat) (tag : BitVec 16) : Statement (.triggerArrival window tag) := fun _ => rfl

theorem triggerRun (k : Nat) : Statement (.triggerRun k) := fun _ => rfl

theorem hello (src : Source) (window : DWord) : Statement (.hello src window) := fun _ => rfl

theorem resetContext (src : Source) (ctx : Nat) : Statement (.resetContext src ctx) := fun _ => rfl

theorem openWindow (src : Source) (a : WindowArgs) : Statement (.openWindow src a) := fun _ => rfl

theorem revokeWindow (src : Source) (window : Nat) : Statement (.revokeWindow src window) := fun _ => rfl

theorem queryRas (src : Source) : Statement (.queryRas src) := fun _ => rfl

theorem setPowerCap (src : Source) (watts : Nat) : Statement (.setPowerCap src watts) := fun _ => rfl

theorem powerCapAdjust : Statement (.powerCapAdjust) := fun _ => rfl

theorem thermalThrottle : Statement (.thermalThrottle) := fun _ => rfl

theorem thermalShutdown : Statement (.thermalShutdown) := fun _ => rfl

theorem loadResidentImage (src : Source) (image : List Byte) : Statement (.loadResidentImage src image) := fun _ => rfl

theorem loadKey (src : Source) (slot : Nat) (key : BitVec 512) : Statement (.loadKey src slot key) := fun _ => rfl

theorem eraseKey (src : Source) (slot : Nat) : Statement (.eraseKey src slot) := fun _ => rfl

theorem registerDomain (src : Source) (a : DomainArgs) : Statement (.registerDomain src a) := fun _ => rfl

theorem armTrigger (src : Source) (a : TriggerArgs) : Statement (.armTrigger src a) := fun _ => rfl

theorem disarmTrigger (src : Source) (list : Nat) : Statement (.disarmTrigger src list) := fun _ => rfl

theorem spdm (src : Source) (request : List Byte) : Statement (.spdm src request) := fun _ => rfl

theorem setRpcRing (src : Source) (base : DWord) (size : Nat) : Statement (.setRpcRing src base size) := fun _ => rfl

theorem forwardedService (src : Source) : Statement (.forwardedService src) := fun _ => rfl

theorem serviceWindowFrame (rank : Nat) (f : Frame) : Statement (.serviceWindowFrame rank f) := fun _ => rfl

theorem recoverImage (f : Frame) (last : Bool) : Statement (.recoverImage f last) := fun _ => rfl

theorem hostLinkReset : Statement (.hostLinkReset) := fun _ => rfl

theorem boot : Statement (.boot) := fun _ => rfl

theorem lockstepError (pair : Nat) : Statement (.lockstepError pair) := fun _ => rfl

theorem floatPathFault (core : Nat) : Statement (.floatPathFault core) := fun _ => rfl

theorem monitorReset : Statement (.monitorReset) := fun _ => rfl

theorem illegalOpcode : Statement (.illegalOpcode) := fun _ => rfl

theorem storeAcknowledgement (r : SplitRef) (k : Nat) : Statement (.storeAcknowledgement r k) := fun _ => rfl

theorem forwardedReply (k : Nat) (status : Nat) (payload : List Byte) : Statement (.forwardedReply k status payload) := fun _ => rfl

theorem thermalThrottleRelease : Statement (.thermalThrottleRelease) := fun _ => rfl

end Sys2Proof.Laws.RoundTrip
end

