-- ==== Sys2Proof/Safety.lean ====
section
/-! DEFINITION. The terms in which claims are stated: the split whose word a step runs, a split after a scalar word, a
register or a pair of it after a write, and the forms that states keep. -/

namespace Sys2Proof.Machine

/-- The step runs a word of split `r`, which stands in group `g` with the record `sp`, and the part has power. -/
def Runs (s : State) (r : SplitRef) (g : Group) (sp : Split) : Prop := s.power = true ∧ s.running = some (r, g, sp)

/-- The core runs an Xcmd word on command core `c`, and the part has power. -/
def RunsCommand (s : State) (c : CmdCore) : Prop := s.power = true ∧ s.cmdCore s.curCmd = c

/-- A split's record after a scalar word that leaves its PCs at `spc` and `lpc`: everything but the scalar registers, their
record of writes and of contested results, the PCs and the issue bookkeeping is as before. -/
def Issued (s : State) (sp sp' : Split) (spc lpc : Word) : Prop :=
  sp' = { sp with s := sp'.s, written := sp'.written, inflight := sp'.inflight, spc := spc, lpc := lpc,
                  scalarCount := sp.scalarCount + 1, armed := none, lastIssue := s.cyc, wait := .ready }

/-- No register is written. -/
def NoWrite (sp sp' : Split) : Prop := sp'.s = sp.s ∧ sp'.written = sp.written ∧ sp'.inflight = sp.inflight

/-- What a write of `v` leaves in register `n`: nothing in s0; in s60 to s62 the bits of the lane set (R30, R91, R132). -/
def Holds (sp sp' : Split) (n : SReg) (v : Word) : Prop :=
  sp'.s[n] = if n = 0 then sp.s[n]
    else if n = 60 then v &&& beatOf sp.lanes 0
    else if n = 61 then v &&& beatOf sp.lanes 1
    else if n = 62 then v &&& beatOf sp.lanes 2
    else v

/-- The records of written registers name `n` besides what they named (R39), but for s0. -/
def Named (sp sp' : Split) (n : SReg) : Prop :=
  sp'.written = if n = 0 then sp.written else sp.written.map (fun e => (e.1, e.2 ||| BitVec.ofNat 64 (2 ^ n.val)))

/-- The same results are in flight. -/
def SameInFlight (sp sp' : Split) : Prop := sp'.inflight.map InFlight.id = sp.inflight.map InFlight.id

/-- Register `n` is written with `v`, and no other (R132); a write of s0 changes nothing at all (R91). -/
def WroteW (sp sp' : Split) (n : SReg) (v : Word) : Prop :=
  Holds sp sp' n v ∧ (∀ m : SReg, m ≠ n → sp'.s[m] = sp.s[m]) ∧ Named sp sp' n ∧ SameInFlight sp sp' ∧
  (n = 0 → NoWrite sp sp')

/-- The even and the odd register of a pair (R91). -/
def evenOf (p : Pair) : SReg := Fin.ofNat 64 (2 * p.val)
def oddOf (p : Pair) : SReg := Fin.ofNat 64 (2 * p.val + 1)

/-- The pair `p` is written with `v`, its low word in the even register, and no other register; of s[0:1] only s1 (R132). -/
def WroteD (sp sp' : Split) (p : Pair) (v : DWord) : Prop :=
  Holds sp sp' (evenOf p) v.lo ∧ Holds sp sp' (oddOf p) v.hi ∧
  (∀ m : SReg, m ≠ evenOf p → m ≠ oddOf p → sp'.s[m] = sp.s[m]) ∧ SameInFlight sp sp'

/-- No result in flight of the split is for register `n`. -/
def Settled (sp : Split) (n : SReg) : Prop :=
  ∀ f ∈ sp.inflight, ∀ w ∈ f.writes, match w with
    | .scalar m _ _ => m ≠ n.val
    | _ => True

/-- A park point that the split reaches now is complete at once, and the split acts: nothing is outstanding, no deferred fault waits,
its node has not failed, and nothing holds its group (R44, R261, R328, R333, R352). -/
def ParksThrough (s : State) (r : SplitRef) (g : Group) (sp : Split) : Prop :=
  resultsIn s r g sp = true ∧ sp.deferred = [] ∧ groupHeld s g = false ∧ ∃ n, tget s.nodes g.node = some n ∧ n.state ≠ .failed

/-- The split's record and its group after a step. -/
def At (t : State) (r : SplitRef) (g : Group) (sp : Split) : Prop :=
  tget t.groups r.gkey = some g ∧ tget g.splits r.slot = some sp

/-- An empty latch (R44, R80). -/
def LatchEmpty (g : Group) : Prop := ∀ i : Fin 3, g.latch[i] = none

/-- Splits of other groups, and other splits of the same group, are as before. -/
def OthersSame (s t : State) (r : SplitRef) : Prop :=
  ∀ x : SplitRef, (x.gkey ≠ r.gkey ∨ x.slot ≠ r.slot) → t.split x = s.split x

/-- The registers that a group holds for its lanes are as before. -/
def LanesSame (g g' : Group) : Prop := g'.regs = g.regs ∧ g'.vc = g.vc ∧ g'.xa = g.xa

/-- The memories of the state have their canonical form: near and far memory, the key map and the mailbox, the scratchpad of every
workgroup, resident or saved, and the core-local memory of every command core. -/
def State.memWf (s : State) : Bool :=
  s.mem.wf && s.keyMap.wf && s.mailbox.wf && s.wgs.all (fun e => e.2.scratch.wf) && s.saved.all (fun e => e.2.wg.scratch.wf) &&
  s.commandCores.all (fun e => e.2.mem.wf)

end Sys2Proof.Machine
end

