-- ==== Sys2Proof/Certificates/Slice0/Obligations.lean ====
section
/-! DEFINITION. The statements about the machine that the rules of the spec make. -/

open Sys2Proof Sys2Proof.Machine

/-- Every byte of near and far memory, under every key, reads as before. -/
def BytesSame (s t : State) : Prop := ∀ (key : Key) (a : Nat), t.byteUnder key a = s.byteUnder key a

/-! ### Scalar integer forms -/

/-- A two-source 32-bit form completes, writes the result `f` of the values of sa and sb to sd and nothing else, and moves the
scalar PC past itself: all that differs in the next state is the record of the split, and the model's nonce. -/
def WordForm (i : SReg → SReg → SReg → Instr) (f : Word → Word → Word) : Prop :=
  ∀ (sd sa sb : SReg) (s : State) (r : SplitRef) (g : Group) (sp : Split), Runs s r g sp →
    ∃ sp', exec (i sd sa sb) s = .next (bump (s.setSplit r sp')) ∧ Issued s sp sp' (sp.spc + 1) sp.lpc ∧
      WroteW sp sp' sd (f (readS s sp sa) (readS s sp sb))

/-- The same of a two-source 64-bit form on pairs. -/
def PairForm (i : Pair → Pair → Pair → Instr) (f : DWord → DWord → DWord) : Prop :=
  ∀ (pd pa pb : Pair) (s : State) (r : SplitRef) (g : Group) (sp : Split), Runs s r g sp →
    ∃ sp', exec (i pd pa pb) s = .next (bump (s.setSplit r sp')) ∧ Issued s sp sp' (sp.spc + 1) sp.lpc ∧
      WroteD sp sp' pd (f (readD s sp pa) (readD s sp pb))

/-- The two-source 32-bit forms of R136, each with the result that the rule gives. -/
def Claims.WordForms : Prop :=
  WordForm .sadd (fun a b => a + b) ∧
  WordForm .ssub (fun a b => a - b) ∧
  WordForm .sand (fun a b => a &&& b) ∧
  WordForm .sor (fun a b => a ||| b) ∧
  WordForm .sxor (fun a b => a ^^^ b) ∧
  WordForm .sandn (fun a b => a &&& ~~~b) ∧
  WordForm .ssll (fun a b => a <<< (b.toNat % 32)) ∧
  WordForm .ssrl (fun a b => a >>> (b.toNat % 32)) ∧
  WordForm .ssra (fun a b => a.sshiftRight (b.toNat % 32)) ∧
  WordForm .smul (fun a b => a * b) ∧
  WordForm .smulh (fun a b => BitVec.ofInt 32 (a.toInt * b.toInt / 2 ^ 32)) ∧
  WordForm .smulhu (fun a b => BitVec.ofNat 32 (a.toNat * b.toNat / 2 ^ 32)) ∧
  WordForm .smin (fun a b => if a.toInt ≤ b.toInt then a else b) ∧
  WordForm .smax (fun a b => if a.toInt ≤ b.toInt then b else a) ∧
  WordForm .sminu (fun a b => if a.toNat ≤ b.toNat then a else b) ∧
  WordForm .smaxu (fun a b => if a.toNat ≤ b.toNat then b else a)

/-- The two-source 64-bit forms of R136. -/
def Claims.PairForms : Prop :=
  PairForm .saddD (fun a b => a + b) ∧
  PairForm .ssubD (fun a b => a - b) ∧
  PairForm .sandD (fun a b => a &&& b) ∧
  PairForm .sorD (fun a b => a ||| b) ∧
  PairForm .sxorD (fun a b => a ^^^ b) ∧
  PairForm .sandnD (fun a b => a &&& ~~~b) ∧
  PairForm .ssllD (fun a b => a <<< (b.toNat % 64)) ∧
  PairForm .ssrlD (fun a b => a >>> (b.toNat % 64)) ∧
  PairForm .ssraD (fun a b => a.sshiftRight (b.toNat % 64)) ∧
  PairForm .smulD (fun a b => a * b) ∧
  PairForm .smulhD (fun a b => BitVec.ofInt 64 (a.toInt * b.toInt / 2 ^ 64)) ∧
  PairForm .smulhuD (fun a b => BitVec.ofNat 64 (a.toNat * b.toNat / 2 ^ 64)) ∧
  PairForm .sminD (fun a b => if a.toInt ≤ b.toInt then a else b) ∧
  PairForm .smaxD (fun a b => if a.toInt ≤ b.toInt then b else a) ∧
  PairForm .sminuD (fun a b => if a.toNat ≤ b.toNat then a else b) ∧
  PairForm .smaxuD (fun a b => if a.toNat ≤ b.toNat then b else a)

/-- The two-source forms of R136 in both widths. -/
def Obligations.ScalarArithmetic : Prop := Claims.WordForms ∧ Claims.PairForms

/-- The instruction completes and writes `v` to register n alone; its word is `len` words long. -/
def WritesW (i : Instr) (s : State) (r : SplitRef) (sp : Split) (len : Word) (n : SReg) (v : Word) : Prop :=
  ∃ sp', exec i s = .next (bump (s.setSplit r sp')) ∧ Issued s sp sp' (sp.spc + len) sp.lpc ∧ WroteW sp sp' n v

/-- The same for a pair. -/
def WritesD (i : Instr) (s : State) (r : SplitRef) (sp : Split) (len : Word) (p : Pair) (v : DWord) : Prop :=
  ∃ sp', exec i s = .next (bump (s.setSplit r sp')) ∧ Issued s sp sp' (sp.spc + len) sp.lpc ∧ WroteD sp sp' p v

/-- What R136 and R137 say of the signed quotient and remainder `q` and `m` and the unsigned ones `qu` and `mu` of a and b. -/
def Quotients {w : Nat} (a b q m qu mu : BitVec w) : Prop :=
  (b = 0 → q = BitVec.allOnes w ∧ m = a ∧ qu = BitVec.allOnes w ∧ mu = a) ∧
  (b ≠ 0 → qu.toNat = a.toNat / b.toNat ∧ mu.toNat = a.toNat % b.toNat) ∧
  (a.toInt = -2 ^ (w - 1) → b.toInt = -1 → q.toInt = -2 ^ (w - 1) ∧ m = 0) ∧
  (b ≠ 0 → ¬(a.toInt = -2 ^ (w - 1) ∧ b.toInt = -1) →
    q.toInt = a.toInt.tdiv b.toInt ∧ a.toInt = b.toInt * q.toInt + m.toInt)

/-- The four divisions, in both widths, complete with results that satisfy R136 and R137: outside the two corners the signed
quotient is that of integer division rounded toward zero, and a = b × quotient + remainder; the corners have the table's
results. -/
def Claims.Division : Prop :=
  ∀ (s : State) (r : SplitRef) (g : Group) (sp : Split), Runs s r g sp →
    (∀ sd sa sb : SReg, ∃ q m qu mu : Word, Quotients (readS s sp sa) (readS s sp sb) q m qu mu ∧
      WritesW (.sdiv sd sa sb) s r sp 1 sd q ∧ WritesW (.srem sd sa sb) s r sp 1 sd m ∧
      WritesW (.sdivu sd sa sb) s r sp 1 sd qu ∧ WritesW (.sremu sd sa sb) s r sp 1 sd mu) ∧
    (∀ pd pa pb : Pair, ∃ q m qu mu : DWord, Quotients (readD s sp pa) (readD s sp pb) q m qu mu ∧
      WritesD (.sdivD pd pa pb) s r sp 1 pd q ∧ WritesD (.sremD pd pa pb) s r sp 1 pd m ∧
      WritesD (.sdivuD pd pa pb) s r sp 1 pd qu ∧ WritesD (.sremuD pd pa pb) s r sp 1 pd mu)

/-- The counts of R136 for a W-bit value `a`: `lead` leading zeros, `trail` trailing zeros, `ones` one bits, and `rev` its bits in
reverse order. -/
def BitCounts {w : Nat} (a lead trail ones rev : BitVec w) : Prop :=
  lead.toNat ≤ w ∧ (∀ i, i < w → w ≤ i + lead.toNat → a.getLsbD i = false) ∧
  (lead.toNat < w → a.getLsbD (w - 1 - lead.toNat) = true) ∧
  trail.toNat ≤ w ∧ (∀ i, i < trail.toNat → a.getLsbD i = false) ∧ (trail.toNat < w → a.getLsbD trail.toNat = true) ∧
  ones.toNat = ((List.range w).filter (fun i => a.getLsbD i)).length ∧
  ∀ i, i < w → rev.getLsbD i = a.getLsbD (w - 1 - i)

/-- The one-source forms of R136 in both widths; the 64-bit counts fill the pair, its odd register with zero (R66). -/
def Claims.BitCountForms : Prop :=
  ∀ (s : State) (r : SplitRef) (g : Group) (sp : Split), Runs s r g sp →
    (∀ sd sa : SReg, ∃ lead trail ones rev : Word, BitCounts (readS s sp sa) lead trail ones rev ∧
      WritesW (.sclz sd sa) s r sp 1 sd lead ∧ WritesW (.sctz sd sa) s r sp 1 sd trail ∧
      WritesW (.spop sd sa) s r sp 1 sd ones ∧ WritesW (.sbrev sd sa) s r sp 1 sd rev) ∧
    (∀ pd pa : Pair, ∃ lead trail ones rev : DWord, BitCounts (readD s sp pa) lead trail ones rev ∧
      WritesD (.sclzD pd pa) s r sp 1 pd lead ∧ WritesD (.sctzD pd pa) s r sp 1 pd trail ∧
      WritesD (.spopD pd pa) s r sp 1 pd ones ∧ WritesD (.sbrevD pd pa) s r sp 1 pd rev)

/-- The divisions, with their corners, and the counts (R66, R136, R137). -/
def Obligations.DivisionAndCounts : Prop := Claims.Division ∧ Claims.BitCountForms

/-- The condition numbered by R67 on two values of a width. -/
def Holds? {w : Nat} (c : Cond) (a b : BitVec w) : Prop :=
  match c with
  | .eq => a = b
  | .ne => a ≠ b
  | .lt => a.toInt < b.toInt
  | .ge => b.toInt ≤ a.toInt
  | .ltu => a.toNat < b.toNat
  | .geu => b.toNat ≤ a.toNat

/-- A compare writes 1 where its condition holds and 0 where it does not; in the 64-bit form sd is one register of any number, and a
word of it that names an odd sa or sb raises REG_RANGE (R140). -/
def Obligations.Compares : Prop :=
  (∀ d a b c lit : Nat, d < 64 → a < 64 → b < 64 → c < 6 → a % 2 = 1 ∨ b % 2 = 1 →
    decodeScalar (srWord 0x02 d a b (16 + c)) lit = .error .regRange) ∧
  ∀ (c : Cond) (sd : SReg) (s : State) (r : SplitRef) (g : Group) (sp : Split), Runs s r g sp →
    (∀ sa sb : SReg, ∃ (sp' : Split) (v : Word), exec (.scc c sd sa sb) s = .next (bump (s.setSplit r sp')) ∧
      Issued s sp sp' (sp.spc + 1) sp.lpc ∧ WroteW sp sp' sd v ∧
      (Holds? c (readS s sp sa) (readS s sp sb) → v = 1) ∧ (¬Holds? c (readS s sp sa) (readS s sp sb) → v = 0)) ∧
    (∀ pa pb : Pair, ∃ (sp' : Split) (v : Word), exec (.sccD c sd pa pb) s = .next (bump (s.setSplit r sp')) ∧
      Issued s sp sp' (sp.spc + 1) sp.lpc ∧ WroteW sp sp' sd v ∧
      (Holds? c (readD s sp pa) (readD s sp pb) → v = 1) ∧ (¬Holds? c (readD s sp pa) (readD s sp pb) → v = 0))

/-- The immediate forms compute as the register forms with the immediate in place of sb: saddi and saddi.d sign-extend it, the
logical forms zero-extend it; sli writes its literal (R65, R138, R139). -/
def Obligations.Immediates : Prop :=
  ∀ (s : State) (r : SplitRef) (g : Group) (sp : Split), Runs s r g sp →
    (∀ (sd sa : SReg) (imm : BitVec 14) (n : Fin 32),
      WritesW (.saddi sd sa imm) s r sp 1 sd (readS s sp sa + imm.signExtend 32) ∧
      WritesW (.sandi sd sa imm) s r sp 1 sd (readS s sp sa &&& imm.zeroExtend 32) ∧
      WritesW (.sori sd sa imm) s r sp 1 sd (readS s sp sa ||| imm.zeroExtend 32) ∧
      WritesW (.sxori sd sa imm) s r sp 1 sd (readS s sp sa ^^^ imm.zeroExtend 32) ∧
      WritesW (.sslli sd sa n) s r sp 1 sd (readS s sp sa <<< n.val) ∧
      WritesW (.ssrli sd sa n) s r sp 1 sd (readS s sp sa >>> n.val) ∧
      WritesW (.ssrai sd sa n) s r sp 1 sd ((readS s sp sa).sshiftRight n.val)) ∧
    (∀ (pd pa : Pair) (imm : BitVec 14), WritesD (.saddiD pd pa imm) s r sp 1 pd (readD s sp pa + imm.signExtend 64)) ∧
    (∀ (sd : SReg) (v : Word), WritesW (.sli sd v) s r sp 2 sd v)

/-- A register with no result in flight reads as what it holds; s0 reads as zero, and s[0:1] as s1 × 2^32 (R91, R132). -/
def Claims.RegisterReads : Prop :=
  ∀ (s : State) (sp : Split),
    (∀ n : SReg, n ≠ 0 → Settled sp n → readS s sp n = sp.s[n]) ∧ readS s sp 0 = 0 ∧
    (∀ p : Pair, (readD s sp p).toNat = (readS s sp (evenOf p)).toNat + (readS s sp (oddOf p)).toNat * 2 ^ 32) ∧
    (readD s sp 0).toNat = (readS s sp 1).toNat * 2 ^ 32

/-- A register whose result is in flight reads as the value before that result or as the result, of which s60 to s62 have the bits of the
lane set alone; one whose value has not come yet reads as the value before (R30, R45). -/
def Claims.RegisterInFlight : Prop :=
  ∀ (s : State) (sp : Split) (n : SReg) (f : InFlight) (v : Word) (c : Bool), n ≠ 0 → sp.inflight = [f] →
    f.writes = [.scalar n.val v c] →
    (f.awaited ≠ [] → readS s sp n = sp.s[n]) ∧
    (readS s sp n = sp.s[n] ∨ readS s sp n =
      if n = 60 then v &&& beatOf sp.lanes 0 else if n = 61 then v &&& beatOf sp.lanes 1
      else if n = 62 then v &&& beatOf sp.lanes 2 else v)

/-- What a read of a register gives, with nothing and with a result in flight (R30, R45, R91, R132). -/
def Obligations.RegisterValues : Prop := Claims.RegisterReads ∧ Claims.RegisterInFlight

/-! ### Branches, calls, special registers, masks -/

/-- A short branch completes where it is `ready`: it writes no register, moves the scalar PC by `off` when taken and by 1 otherwise,
and never moves the lane PC. -/
def ShortBranch (i : Instr) (off : Word) (taken : State → Split → Prop) (ready : Split → Prop := fun _ => True) : Prop :=
  ∀ (s : State) (r : SplitRef) (g : Group) (sp : Split), Runs s r g sp → ready sp →
    ∃ sp', exec i s = .next (bump (s.setSplit r sp')) ∧ NoWrite sp sp' ∧
      (taken s sp → Issued s sp sp' (sp.spc + off) sp.lpc) ∧ (¬taken s sp → Issued s sp sp' (sp.spc + 1) sp.lpc)

/-- A long branch completes where it is `ready`: it writes no register, moves both PCs by its offsets when taken, and passes its two words
otherwise. -/
def LongBranch (i : Instr) (so lo : BitVec 16) (taken : State → Split → Prop) (ready : Split → Prop := fun _ => True) : Prop :=
  ∀ (s : State) (r : SplitRef) (g : Group) (sp : Split), Runs s r g sp → ready sp →
    ∃ sp', exec i s = .next (bump (s.setSplit r sp')) ∧ NoWrite sp sp' ∧
      (taken s sp → Issued s sp sp' (sp.spc + so.signExtend 32) (sp.lpc + lo.signExtend 32)) ∧
      (¬taken s sp → Issued s sp sp' (sp.spc + 2) sp.lpc)

/-- The comparison of the two named registers (R67, R141). -/
def Compared (c : Cond) (sa sb : SReg) (s : State) (sp : Split) : Prop := Holds? c (readS s sp sa) (readS s sp sb)

/-- No result in flight of the split is for s60, s61 or s62: every earlier write of the exec mask has completed (R142). -/
def MaskReady (sp : Split) : Prop := Settled sp 60 ∧ Settled sp 61 ∧ Settled sp 62

/-- A branch on the mask waits at issue while an earlier write of the mask has not completed (R142). -/
def WaitsForMask (i : Instr) : Prop :=
  ∀ (s : State) (r : SplitRef) (g : Group) (sp : Split), Runs s r g sp → ¬MaskReady sp →
    exec i s = .next (bump (s.setSplit r { sp with wait := .stall .mask }))

/-- The short branches (R69, R70, R141, R142). -/
def Claims.ShortBranches : Prop :=
  (∀ (sa sb : SReg) (off : BitVec 14),
    ShortBranch (.sbeq sa sb off) (off.signExtend 32) (Compared .eq sa sb) ∧
    ShortBranch (.sbne sa sb off) (off.signExtend 32) (Compared .ne sa sb) ∧
    ShortBranch (.sblt sa sb off) (off.signExtend 32) (Compared .lt sa sb) ∧
    ShortBranch (.sbge sa sb off) (off.signExtend 32) (Compared .ge sa sb) ∧
    ShortBranch (.sbltu sa sb off) (off.signExtend 32) (Compared .ltu sa sb) ∧
    ShortBranch (.sbgeu sa sb off) (off.signExtend 32) (Compared .geu sa sb)) ∧
  (∀ off : BitVec 22,
    ShortBranch (.sbr off) (off.signExtend 32) (fun _ _ => True) ∧
    ShortBranch (.sbmz off) (off.signExtend 32) (fun s sp => execMask s sp = 0) MaskReady ∧
    ShortBranch (.sbmnz off) (off.signExtend 32) (fun s sp => execMask s sp ≠ 0) MaskReady ∧
    ShortBranch (.sbmall off) (off.signExtend 32) (fun s sp => execMask s sp = sp.lanes) MaskReady ∧
    ShortBranch (.sbmnall off) (off.signExtend 32) (fun s sp => execMask s sp ≠ sp.lanes) MaskReady ∧
    WaitsForMask (.sbmz off) ∧ WaitsForMask (.sbmnz off) ∧ WaitsForMask (.sbmall off) ∧ WaitsForMask (.sbmnall off))

/-- The long branches (R69, R141, R142). -/
def Claims.LongBranches : Prop :=
  ∀ (sa sb : SReg) (so lo : BitVec 16),
    LongBranch (.sbeqLong sa sb so lo) so lo (Compared .eq sa sb) ∧
    LongBranch (.sbneLong sa sb so lo) so lo (Compared .ne sa sb) ∧
    LongBranch (.sbltLong sa sb so lo) so lo (Compared .lt sa sb) ∧
    LongBranch (.sbgeLong sa sb so lo) so lo (Compared .ge sa sb) ∧
    LongBranch (.sbltuLong sa sb so lo) so lo (Compared .ltu sa sb) ∧
    LongBranch (.sbgeuLong sa sb so lo) so lo (Compared .geu sa sb) ∧
    LongBranch (.sbrLong so lo) so lo (fun _ _ => True) ∧
    LongBranch (.sbmzLong so lo) so lo (fun s sp => execMask s sp = 0) MaskReady ∧
    LongBranch (.sbmnzLong so lo) so lo (fun s sp => execMask s sp ≠ 0) MaskReady ∧
    LongBranch (.sbmallLong so lo) so lo (fun s sp => execMask s sp = sp.lanes) MaskReady ∧
    LongBranch (.sbmnallLong so lo) so lo (fun s sp => execMask s sp ≠ sp.lanes) MaskReady ∧
    WaitsForMask (.sbmzLong so lo) ∧ WaitsForMask (.sbmnzLong so lo) ∧ WaitsForMask (.sbmallLong so lo) ∧
    WaitsForMask (.sbmnallLong so lo)

/-- The short and the long branches (R69, R70, R141, R142). -/
def Obligations.Branches : Prop := Claims.ShortBranches ∧ Claims.LongBranches

/-- Calls and returns (R143): the return pair is {pc after the word, lane PC}, s[0:1] takes nothing at all, and scalli and sret go to
the pair as it was before. -/
def Obligations.Calls : Prop :=
  ∀ (s : State) (r : SplitRef) (g : Group) (sp : Split), Runs s r g sp →
    (∀ (pd : Pair) (so lo : BitVec 16), ∃ sp', exec (.scall pd so lo) s = .next (bump (s.setSplit r sp')) ∧
      Issued s sp sp' (sp.spc + so.signExtend 32) (sp.lpc + lo.signExtend 32) ∧
      (pd = 0 → NoWrite sp sp') ∧ (pd ≠ 0 → WroteD sp sp' pd (DWord.ofWords sp.lpc (sp.spc + 2)))) ∧
    (∀ pd pa : Pair, ∃ sp', exec (.scalli pd pa) s = .next (bump (s.setSplit r sp')) ∧
      Issued s sp sp' (readD s sp pa).lo (readD s sp pa).hi ∧
      (pd = 0 → NoWrite sp sp') ∧ (pd ≠ 0 → WroteD sp sp' pd (DWord.ofWords sp.lpc (sp.spc + 1)))) ∧
    (∀ pa : Pair, ∃ sp', exec (.sret pa) s = .next (bump (s.setSplit r sp')) ∧ NoWrite sp sp' ∧
      Issued s sp sp' (readD s sp pa).lo (readD s sp pa).hi)

/-- sgetsr: cyc fills the pair that the even sd begins, with the 64-bit count; every other special register is read zero-extended
(R92, R93, R151). -/
def Obligations.SpecialReads : Prop :=
  ∀ (s : State) (r : SplitRef) (g : Group) (sp : Split), Runs s r g sp →
    (∀ pd : Pair, WritesD (.sgetsr (evenOf pd) .cyc) s r sp 1 pd (BitVec.ofNat 64 s.cyc)) ∧
    (∀ sd : SReg,
      (∀ w : Workgroup, tget s.wgs g.wg = some w → WritesW (.sgetsr sd .rck) s r sp 1 sd (w.rck.zeroExtend 32)) ∧
      WritesW (.sgetsr sd .lt) s r sp 1 sd ((s.core r.core).lt.zeroExtend 32) ∧
      WritesW (.sgetsr sd .lease) s r sp 1 sd ((s.core r.core).lease.zeroExtend 32) ∧
      WritesW (.sgetsr sd .ustat) s r sp 1 sd (sp.ustat.zeroExtend 32) ∧
      WritesW (.sgetsr sd .fpstat) s r sp 1 sd (sp.fpstat.zeroExtend 32) ∧
      WritesW (.sgetsr sd .splitid) s r sp 1 sd (BitVec.ofNat 32 r.slot) ∧
      WritesW (.sgetsr sd .rptidx) s r sp 1 sd (sp.rptidx.zeroExtend 32))

/-- ssetsr of the split's own registers replaces their bits with those of sa, and writes nothing else (R93, R151). -/
def Claims.StatusWrites : Prop :=
  ∀ (sa : SReg) (s : State) (r : SplitRef) (g : Group) (sp : Split), Runs s r g sp →
    (∃ sp', exec (.ssetsr .ustat sa) s = .next (bump (s.setSplit r { sp' with ustat := (readS s sp sa).setWidth 2 })) ∧
      NoWrite sp sp' ∧ Issued s sp sp' (sp.spc + 1) sp.lpc) ∧
    (∃ sp', exec (.ssetsr .fpstat sa) s = .next (bump (s.setSplit r { sp' with fpstat := (readS s sp sa).setWidth 5 })) ∧
      NoWrite sp sp' ∧ Issued s sp sp' (sp.spc + 1) sp.lpc)

/-- ssetsr of lt and lease from a privileged node writes the core's register, 0 as 1 in lease. The ltbase write sets every logical time, the
floor and the timestamps of every line to the value written, and every copy in an L1 or in the resident cluster is dropped; from an unprivileged node it raises
PERMISSION, and so does a write of a read-only register from any node, which is the model's reading (log entry 76) (R92, R93, R249). -/
def Claims.PrivilegedWrites : Prop :=
  ∀ (sa : SReg) (s : State) (r : SplitRef) (g : Group) (sp : Split), Runs s r g sp →
    (privileged s g = true →
      (∃ t, exec (.ssetsr .lt sa) s = .next t ∧ (∀ c, (t.core c).lt = (readS s sp sa).setWidth 16 ∧ (t.core c).l1 = []) ∧
        t.hubLt = (readS s sp sa).setWidth 16 ∧ t.floor = (readS s sp sa).setWidth 16 ∧ t.resCopies = [] ∧
        (∀ line, t.ts line = ((readS s sp sa).setWidth 16, (readS s sp sa).setWidth 16)) ∧ t.mem = s.mem ∧
        ∃ sp', t.split r = some sp' ∧ NoWrite sp sp' ∧ Issued s sp sp' (sp.spc + 1) sp.lpc) ∧
      (∃ t, exec (.ssetsr .lease sa) s = .next t ∧
        (t.core r.core).lease = (if (readS s sp sa).setWidth 16 = 0 then 1 else (readS s sp sa).setWidth 16) ∧
        (∀ c, c ≠ r.core → t.core c = s.core c) ∧ t.mem = s.mem ∧
        ∃ sp', t.split r = some sp' ∧ NoWrite sp sp' ∧ Issued s sp sp' (sp.spc + 1) sp.lpc)) ∧
    (privileged s g = false →
      exec (.ssetsr .lt sa) s = .next (bump (faultScalar s r sp 1 .permission)) ∧
      exec (.ssetsr .lease sa) s = .next (bump (faultScalar s r sp 1 .permission))) ∧
    exec (.ssetsr .cyc sa) s = .next (bump (faultScalar s r sp 1 .permission)) ∧
    exec (.ssetsr .rck sa) s = .next (bump (faultScalar s r sp 1 .permission)) ∧
    exec (.ssetsr .splitid sa) s = .next (bump (faultScalar s r sp 1 .permission)) ∧
    exec (.ssetsr .rptidx sa) s = .next (bump (faultScalar s r sp 1 .permission))

/-- swid writes field k of the group's work identifier, which lies above the fields before it; zero for k = 0 and, whatever k, in a
free-thread node; a word whose k is 6 to 63 raises RESERVED_FIELD (R53, R56, R153). -/
def Obligations.WorkIdentifier : Prop :=
  (∀ d k lit : Nat, d < 64 → 6 ≤ k → k < 64 → decodeScalar (srWord 0x03 d 0 k 0x07) lit = .error .reservedField) ∧
  ∀ (sd : SReg) (k : Fin 6) (s : State) (r : SplitRef) (g : Group) (sp : Split) (n : Node), Runs s r g sp →
    tget s.nodes g.node = some n →
    ∃ v : Word, WritesW (.swid sd k) s r sp 1 sd v ∧
      (k = 0 ∨ n.desc.free = true → v = 0) ∧
      (k ≠ 0 → n.desc.free = false →
        v = BitVec.ofNat 32 (g.wid.toNat / 2 ^ (n.desc.w.take k.val).foldl (· + ·) 0 % 2 ^ (n.desc.w.getD k.val 0)))

/-- stick adds sa and its immediate to the workgroup's clock modulo 2^16; a total of zero changes no clock and no CPT, and no other
workgroup changes (R154). -/
def Claims.ReuseClock : Prop :=
  ∀ (sa : SReg) (imm : BitVec 14) (s : State) (r : SplitRef) (g : Group) (sp : Split) (w : Workgroup), Runs s r g sp →
    tget s.wgs g.wg = some w →
    ∃ (t : State) (w' : Workgroup) (sp' : Split), exec (.stick sa imm) s = .next t ∧ tget t.wgs g.wg = some w' ∧
      w'.rck = BitVec.ofNat 16 (w.rck.toNat + ((readS s sp sa).toNat + imm.toNat)) ∧
      ((readS s sp sa).toNat + imm.toNat = 0 → w' = w) ∧ (∀ k, k ≠ g.wg → tget t.wgs k = tget s.wgs k) ∧
      t.split r = some sp' ∧ NoWrite sp sp' ∧ Issued s sp sp' (sp.spc + 1) sp.lpc ∧ t.mem = s.mem

/-- Writes of special registers: of the split's own, of privileged and read-only ones, and of the reuse clock (R92, R93, R151, R154, R249). -/
def Obligations.SpecialWrites : Prop := Claims.StatusWrites ∧ Claims.PrivilegedWrites ∧ Claims.ReuseClock

/-- The exec mask after an instruction that sets it to `m`: s60 to s62 hold its three beats, cut to the lane set, and no other
register changes. -/
def SetsMask (i : Instr) (s : State) (r : SplitRef) (sp : Split) (m : LaneMask) : Prop :=
  ∃ sp', exec i s = .next (bump (s.setSplit r sp')) ∧ Issued s sp sp' (sp.spc + 1) sp.lpc ∧
    sp'.s[60] = beatOf (m &&& sp.lanes) 0 ∧ sp'.s[61] = beatOf (m &&& sp.lanes) 1 ∧ sp'.s[62] = beatOf (m &&& sp.lanes) 2 ∧
    ∀ n : SReg, n ≠ 60 → n ≠ 61 → n ≠ 62 → sp'.s[n] = sp.s[n]

/-- The three instructions that build the exec mask from a condition register (R156). -/
def Claims.ExecMasks : Prop :=
  ∀ (n : Fin 4) (s : State) (r : SplitRef) (g : Group) (sp : Split), Runs s r g sp →
    SetsMask (.sexecSet n) s r sp (readVc s g n) ∧
    SetsMask (.sexecAnd n) s r sp (execMask s sp &&& readVc s g n) ∧
    SetsMask (.sexecAndn n) s r sp (execMask s sp &&& ~~~readVc s g n)

/-- sgetc copies a beat of a condition register to sd; ssetc writes bits of sa to the lanes of that beat that are in the split's
lane set, and no other bit of any condition register, nor any vector register, changes (R157). -/
def Claims.ConditionMoves : Prop :=
  ∀ (n : Fin 4) (beat : Fin 3) (s : State) (r : SplitRef) (g : Group) (sp : Split), Runs s r g sp →
    (∀ sd : SReg, WritesW (.sgetc sd n beat) s r sp 1 sd ((readVc s g n).extractLsb' (32 * beat.val) 32)) ∧
    (∀ sa : SReg, ∃ (t : State) (g' : Group) (sp' : Split), exec (.ssetc n beat sa) s = .next t ∧
      tget t.groups r.gkey = some g' ∧ tget g'.splits r.slot = some sp' ∧ sp'.s = sp.s ∧ sp'.written = sp.written ∧
      SameInFlight sp sp' ∧ Issued s sp sp' (sp.spc + 1) sp.lpc ∧ g'.regs = g.regs ∧ t.mem = s.mem ∧
      (∀ m : Fin 4, m ≠ n → g'.vc[m] = g.vc[m]) ∧
      ∀ i, i < 96 → (g'.vc[n]).getLsbD i =
        if sp.lanes.getLsbD i ∧ i / 32 = beat.val then (readS s sp sa).getLsbD (i % 32) else (g.vc[n]).getLsbD i)

/-- Exec masks and condition registers (R156, R157). -/
def Obligations.MasksAndConditions : Prop := Claims.ExecMasks ∧ Claims.ConditionMoves

/-- The f32 read of an accumulator, and its flags (R131). -/
def ReadsF32 (x : Exact) (v : Word) (f : BitVec 5) : Prop :=
  (x.nan = false → x.pinf = false → x.ninf = false →
    v = BitVec.ofNat 32 (deliver .f32 .rne false false ((Q.ofInt x.sum.toInt).scale (-149))).bits ∧
    f = (deliver .f32 .rne false false ((Q.ofInt x.sum.toInt).scale (-149))).flags) ∧
  (x.nan = true ∨ (x.pinf = true ∧ x.ninf = true) → v = 0x7FC00000 ∧ f = 1) ∧
  (x.nan = false → x.pinf = true → x.ninf = false → v = 0x7F800000 ∧ f = 0) ∧
  (x.nan = false → x.pinf = false → x.ninf = true → v = 0xFF800000 ∧ f = 0)

/-- The i32 read of an accumulator, and its flags (R131). -/
def ReadsI32 (x : Exact) (v : Word) (f : BitVec 5) : Prop :=
  (x.nan = false → x.pinf = false → x.ninf = false → ∀ q : Q, q = (Q.ofInt x.sum.toInt).scale (-149) →
    v = BitVec.ofInt 32 (floatToInt .rne (-2147483648) 2147483647 (.fin (decide (q.num < 0)) q.abs)).1 ∧
    f = (floatToInt .rne (-2147483648) 2147483647 (.fin (decide (q.num < 0)) q.abs)).2) ∧
  (x.nan = true ∨ (x.pinf = true ∧ x.ninf = true) → v = 0 ∧ f = 1) ∧
  (x.nan = false → x.pinf = true → x.ninf = false → v = 0x7FFFFFFF ∧ f = 1) ∧
  (x.nan = false → x.pinf = false → x.ninf = true → v = 0x80000000 ∧ f = 1)

/-- sxget writes the value of R131 and raises its flags; the accumulator stays. Infinities of both signs, or a NaN, give the
canonical NaN or 0 with NV; one infinity gives itself, or in i32 the nearer end with NV; a finite sum, VAL × 2^-149, is rounded once, to
nearest even, with the flags of the rounding. -/
def Claims.AccumulatorReads : Prop :=
  ∀ (sd : SReg) (n : Fin 2) (s : State) (r : SplitRef) (g : Group) (sp : Split), Runs s r g sp →
    (∃ (sp' : Split) (v : Word) (f : BitVec 5),
      exec (.sxgetF32 sd n) s = .next (bump (s.setSplit r { sp' with fpstat := sp.fpstat ||| f })) ∧
      Issued s sp sp' (sp.spc + 1) sp.lpc ∧ WroteW sp sp' sd v ∧ ReadsF32 g.xa[n] v f) ∧
    (∃ (sp' : Split) (v : Word) (f : BitVec 5),
      exec (.sxgetI32 sd n) s = .next (bump (s.setSplit r { sp' with fpstat := sp.fpstat ||| f })) ∧
      Issued s sp sp' (sp.spc + 1) sp.lpc ∧ WroteW sp sp' sd v ∧ ReadsI32 g.xa[n] v f)

/-- A variable-latency scalar read issues: the word passes, no register has its value yet, and the last result in flight carries
the writes `ws`. -/
def Awaits (i : Instr) (s : State) (r : SplitRef) (sp : Split) (len : Word) (ws : List RegWrite) : Prop :=
  ∃ (t : State) (sp' : Split), exec i s = .next t ∧ t.split r = some sp' ∧ Issued s sp sp' (sp.spc + len) sp.lpc ∧
    sp'.s = sp.s ∧ sp'.inflight.map InFlight.id = sp.inflight.map InFlight.id ++ [s.serial] ∧
    sp'.inflight.getLast? = some { id := s.serial, writes := ws }

/-- The same, and nothing else of the machine changes: no byte of memory, no register of the lanes, no other split. -/
def AwaitsAlone (i : Instr) (s : State) (r : SplitRef) (g : Group) (sp : Split) (len : Word) (ws : List RegWrite) : Prop :=
  ∃ (t : State) (g' : Group) (sp' : Split), exec i s = .next t ∧ At t r g' sp' ∧ Issued s sp sp' (sp.spc + len) sp.lpc ∧
    sp'.s = sp.s ∧ sp'.inflight.map InFlight.id = sp.inflight.map InFlight.id ++ [s.serial] ∧
    sp'.inflight.getLast? = some { id := s.serial, writes := ws } ∧
    LanesSame g g' ∧ g'.latch = g.latch ∧ OthersSame s t r ∧ BytesSame s t

/-- sgetl reads one 32-bit element, active or not, as a variable-latency result; a lane register of 96 or more gives 0; a register
at or above the allotment raises REG_RANGE (R43, R158). -/
def Claims.LaneReads : Prop :=
  ∀ (sd : SReg) (va : Fin 128) (s : State) (r : SplitRef) (g : Group) (sp : Split), Runs s r g sp →
    (va.val < g.regs.length →
      (∀ lane : Fin 96, AwaitsAlone (.sgetlImm sd va lane) s r g sp 2 [.scalar sd.val (readV s g va.val).data[lane] false]) ∧
      (∀ sb : SReg,
        (∀ h : (readS s sp sb).toNat < 96, AwaitsAlone (.sgetlReg sd va sb) s r g sp 2
          [.scalar sd.val (readV s g va.val).data[(readS s sp sb).toNat] false]) ∧
        (96 ≤ (readS s sp sb).toNat → AwaitsAlone (.sgetlReg sd va sb) s r g sp 2 [.scalar sd.val 0 false]))) ∧
    (g.regs.length ≤ va.val →
      (∀ lane : Fin 96, exec (.sgetlImm sd va lane) s = .next (bump (faultScalar s r sp 2 .regRange))) ∧
      (∀ sb : SReg, exec (.sgetlReg sd va sb) s = .next (bump (faultScalar s r sp 2 .regRange))))

/-- sgetr reads a dword of the group's reply slot as a variable-latency result for the pair (R43, R164); a load, it waits, unissued, while
an acquire of the split before it is still to be performed (R232). -/
def Claims.ReplyReads : Prop :=
  ∀ (pd : Pair) (k : Fin 8) (s : State) (r : SplitRef) (g : Group) (sp : Split), Runs s r g sp →
    (acquireHeld s r = false → ∀ v : DWord, (replyDword s r.core (s.nodeCtx g.node) g.region k.val).2 = v →
      AwaitsAlone (.sgetr pd k) s r g sp 1 [.scalar (2 * pd.val) v.lo false, .scalar (2 * pd.val + 1) v.hi false]) ∧
    (acquireHeld s r = true → exec (.sgetr pd k) s = .next (bump (s.setSplit r { sp with wait := .stall .loads })))

/-- Scalar reads of an exact accumulator, of a lane and of the reply slot (R43, R131, R158, R159, R164, R232). -/
def Obligations.LaneAndReplyReads : Prop := Claims.AccumulatorReads ∧ Claims.LaneReads ∧ Claims.ReplyReads

/-- A result with the writes `ws` returns: it is no longer in flight, its split stays where it is, no memory and no split of another group
changes, and `P` holds of the group and the split before and after. -/
def Returns (ws : List RegWrite) (P : Group → Group → Split → Split → Prop) : Prop :=
  ∀ (r : SplitRef) (k : Nat) (s : State) (g : Group) (sp : Split), s.power = true → At s r g sp → resultHeld s r k = false →
    sp.inflight.find? (fun f => f.id == k) = some { id := k, writes := ws } →
    ∃ (t : State) (g' : Group) (sp' : Split), exec (.variableLatencyResult r k) s = .next t ∧ At t r g' sp' ∧ P g g' sp sp' ∧
      sp'.inflight.map InFlight.id = (sp.inflight.filter (fun f => f.id != k)).map InFlight.id ∧ sp'.spc = sp.spc ∧
      sp'.lpc = sp.lpc ∧ sp'.wait = sp.wait ∧ t.mem = s.mem ∧ ∀ x : SplitRef, x.gkey ≠ r.gkey → t.split x = s.split x

/-- VARIABLE_LATENCY_RESULT: a result that nothing wrote over, and that no galley entry or peer holds up, is written when it returns, and is
no longer in flight. A scalar one is written to its register, or to the two of its pair, s0 discarding it and s60 to s62 masking it; one
of the lanes to the lanes that it names, the tag having been set when it issued; one of a condition register to those lanes of it. No
other register changes (R43, R132). -/
def Obligations.ResultReturns : Prop :=
  (∀ (n : SReg) (v : Word), Returns [.scalar n.val v false] (fun g g' sp sp' =>
    Holds sp sp' n v ∧ (∀ m : SReg, m ≠ n → sp'.s[m] = sp.s[m]) ∧ LanesSame g g')) ∧
  (∀ (p : Pair) (v w : Word), Returns [.scalar (2 * p.val) v false, .scalar (2 * p.val + 1) w false] (fun g g' sp sp' =>
    Holds sp sp' (evenOf p) v ∧ Holds sp sp' (oddOf p) w ∧
    (∀ m : SReg, m ≠ evenOf p → m ≠ oddOf p → sp'.s[m] = sp.s[m]) ∧ LanesSame g g')) ∧
  (∀ (n : Nat) (m : LaneMask) (data : Lanes) (tag old : Tag), Returns [.vector n m 0 data tag old] (fun g g' sp sp' =>
    sp'.s = sp.s ∧ g'.vc = g.vc ∧ g'.xa = g.xa ∧ g'.regs.length = g.regs.length ∧
    (∀ k, k ≠ n → g'.regs.getD k VReg.zero = g.regs.getD k VReg.zero) ∧
    (n < g.regs.length → (g'.regs.getD n VReg.zero).tag = (g.regs.getD n VReg.zero).tag ∧
      ∀ i : Fin 96, (g'.regs.getD n VReg.zero).data[i] =
        if m.getLsbD i.val then data[i] else (g.regs.getD n VReg.zero).data[i]))) ∧
  ∀ (n : Fin 4) (m bits : LaneMask), Returns [.cond n.val m 0 bits] (fun g g' sp sp' =>
    sp'.s = sp.s ∧ g'.regs = g.regs ∧ g'.xa = g.xa ∧ (∀ k : Fin 4, k ≠ n → g'.vc[k] = g.vc[k]) ∧
    ∀ i, i < 96 → (g'.vc[n]).getLsbD i = if m.getLsbD i then bits.getLsbD i else (g.vc[n]).getLsbD i)

/-! ### Faults, park points, divergence -/

/-- TAKING A FAULT on a split stops it, keeps its registers and PCs, leaves every other split and all of memory as they are, and
posts a FAULT message with the code, the address, the lanes and the PC pair to the sluice of its die: into the slot at TAIL, which
advances, where the sluice has a free slot and nothing waits. The message is a release: while an access of the split is outstanding it is
held, and TAIL stays (R333, R343, R345). -/
def Claims.TakingAFault : Prop :=
  ∀ (s : State) (r : SplitRef) (g : Group) (sp : Split) (kind : StopKind) (f : FaultInfo), At s r g sp →
    ∃ t, takeFault s r kind f = t ∧ t.split r = some { sp with stopped := some { code := f.code, kind := kind } } ∧
      OthersSame s t r ∧ t.mem = s.mem ∧ t.wgs = s.wgs ∧
      (accessesOut s r = true → (t.sluice (dieOf r.core)).tail = (s.sluice (dieOf r.core)).tail ∧ ∃ m : List DWord,
        (t.sluice (dieOf r.core)).held = (s.sluice (dieOf r.core)).held ++ [(r, m)] ∧
        m = [msgHeader 3 f.code.number (s.nodeCtx g.node) r g.region, f.aux, f.addr, f.lanes.setWidth 64,
             DWord.ofWords f.pcs.lpc f.pcs.spc, (f.lanes.extractLsb' 64 32).setWidth 64, 0, 0]) ∧
      (accessesOut s r = false → (s.sluice (dieOf r.core)).waiting = [] → 0 < (s.sluice (dieOf r.core)).free →
        (t.sluice (dieOf r.core)).tail = (s.sluice (dieOf r.core)).tail + 1 ∧
        tget (t.sluice (dieOf r.core)).slots ((s.sluice (dieOf r.core)).tail.toNat % 1024) =
          some [msgHeader 3 f.code.number (s.nodeCtx g.node) r g.region, f.aux, f.addr, f.lanes.setWidth 64,
                DWord.ofWords f.pcs.lpc f.pcs.spc, (f.lanes.extractLsb' 64 32).setWidth 64, 0, 0])

/-- A precise fault of a scalar word: the split stops with its registers, PCs, flags and lane set as before the word (R75, R332). -/
def Claims.PreciseScalarFault : Prop :=
  ∀ (s : State) (r : SplitRef) (g : Group) (sp : Split) (skip : Nat) (code : FaultCode), At s r g sp →
    ∃ sp', (faultScalar s r sp skip code).split r = some sp' ∧ sp' = { sp with wait := .ready, stopped := some { code := code, kind := .scalar skip } } ∧
      OthersSame s (faultScalar s r sp skip code) r ∧ (faultScalar s r sp skip code).mem = s.mem

/-- Taking a fault, and what a precise fault of a scalar word leaves (R75, R332, R333, R343, R345). -/
def Obligations.FaultEntry : Prop := Claims.TakingAFault ∧ Claims.PreciseScalarFault

/-- What a park point leaves of a split that goes on or waits there: its registers and lane set, counts of zero, an empty latch. -/
def Parked (s t : State) (r : SplitRef) (g : Group) (sp : Split) (spc : Word) (wait : Wait) : Prop :=
  ∃ (g' : Group) (sp' : Split), At t r g' sp' ∧ LatchEmpty g' ∧ LanesSame g g' ∧ sp'.s = sp.s ∧ sp'.lanes = sp.lanes ∧
    sp'.laneCount = 0 ∧ sp'.scalarCount = 0 ∧ sp'.lpc = sp.lpc ∧ sp'.spc = spc ∧ sp'.wait = wait ∧ OthersSame s t r ∧ t.mem = s.mem

/-- spark goes on at the next word once its results are in, and waits while one is outstanding; the latch is emptied and the counts
of R46 begin again in either case (R44, R46, R145). -/
def Claims.Spark : Prop :=
  ∀ (s : State) (r : SplitRef) (g : Group) (sp : Split), Runs s r g sp →
    (ParksThrough s r g sp → ∃ t, exec .spark s = .next t ∧ Parked s t r g sp (sp.spc + 1) .ready) ∧
    (resultsIn s r g sp = false → ∃ t, exec .spark s = .next t ∧ Parked s t r g sp (sp.spc + 1) (.park .proceed))

/-- Every byte of memory reads as before, but for those from `lo` up to `hi`; under another key, but for those of their sectors. -/
def BytesSameBut (s t : State) (slot lo hi : Nat) : Prop :=
  (∀ a, a < lo ∨ hi ≤ a → t.byteUnder (s.keyOf slot) a = s.byteUnder (s.keyOf slot) a) ∧
  ∀ (key : Key) (a : Nat), a / 32 < lo / 32 ∨ (hi + 31) / 32 ≤ a / 32 → t.byteUnder key a = s.byteUnder key a

/-- The deferral entries of a group as its region of the save area holds them now, under the context's WKEY, the oldest first; an entry in
no memory is as the group holds it (R36, R349; that the live stack is read from the region is the model's reading, log entry 59). -/
def regionEntries (s : State) (g : Group) : List Deferral :=
  (g.deferrals.reverse.zipIdx.map (fun e =>
    if isMemory (deferralAt s g e.2)
    then deferralRead e.1 (s.physRead (s.context (s.nodeCtx g.node)).wkey (deferralAt s g e.2) 320) else e.1)).reverse

/-- A memory change that is the group's deferral stack alone: none where the group has no entry, else within its 16 places (R36, R349). -/
def StackAlone (s t : State) (g : Group) : Prop :=
  (g.deferrals = [] → t.mem = s.mem) ∧
  (g.deferrals.length ≤ 16 → s.mem.wf = true →
    BytesSameBut s t (s.context (s.nodeCtx g.node)).wkey (unitBase s (s.nodeCtx g.node) g.region + 0x900)
      (unitBase s (s.nodeCtx g.node) g.region + 0x900 + 320 * 16))

/-- A record of written registers names register `n` since split point `id` (R39). -/
def Wrote (x : Side) (id n : Nat) : Prop := ((tget x.written id).getD 0).getLsbD n = true

/-- What the merge that closes split point `id` leaves of the sides `l` (R38, R39): the unions of the lane sets and of the exec masks, the OR
of the flags, rptidx zero; of s1 to s59 and s63 the common value where no side wrote the register, the one writer's, or that of the writer
with the lowest-numbered lane, UCONF being set where a register had two writers; and a side's record of writes for the points that stay
open passes to the merged split. -/
def Merged (sp : Split) (id : Nat) (l : List Side) : Prop :=
  (∀ i, i < 96 → (sp.lanes.getLsbD i = true ↔ ∃ x ∈ l, x.lanes.getLsbD i = true)) ∧
  (∀ i, i < 96 → ((maskOfWords sp.s[(60 : SReg)] sp.s[(61 : SReg)] sp.s[(62 : SReg)]).getLsbD i = true ↔
    (∃ x ∈ l, x.mask.getLsbD i = true) ∧ sp.lanes.getLsbD i = true)) ∧
  (∀ i, i < 5 → (sp.fpstat.getLsbD i = true ↔ ∃ x ∈ l, x.fpstat.getLsbD i = true)) ∧
  (sp.ustat.getLsbD 1 = true ↔ ∃ x ∈ l, x.ustat.getLsbD 1 = true) ∧
  (sp.ustat.getLsbD 0 = true ↔ (∃ x ∈ l, x.ustat.getLsbD 0 = true) ∨
    ∃ n, mergesReg n = true ∧ 2 ≤ (l.filter (fun x => ((tget x.written id).getD 0).getLsbD n)).length) ∧
  sp.rptidx = 0 ∧
  (∀ n : SReg, mergesReg n.val = true →
    ((∀ x ∈ l, ¬Wrote x id n.val) → ∀ v, (∀ x ∈ l, x.s[n] = v) → sp.s[n] = v) ∧
    ∀ x ∈ l, Wrote x id n.val → (∀ y ∈ l, y ≠ x → Wrote y id n.val → lowestLane x.lanes < lowestLane y.lanes) → sp.s[n] = x.s[n]) ∧
  ((∀ x ∈ l, (x.written.map (fun e => e.1)).Nodup) → ∀ k n, k ≠ id →
    (((tget sp.written k).getD 0).getLsbD n = true ↔ ∃ x ∈ l, Wrote x k n))

/-- sjoin that no own deferral entry and no covering join record names is a park point and no more; where its most recent match is
a join record, the split waits at the sjoin for that record. Where it is an own deferral entry whose F side has not run, the split swaps:
its lane set, exec mask, registers, flags, rptidx and arrival record go into the entry, and it goes on with those of the F side at its PC
pair. At the same sjoin a second time it merges the two sides, past the sjoin, and the entry is freed (R37 to R39, R145). -/
def Claims.Join : Prop :=
  ∀ (s : State) (r : SplitRef) (g : Group) (sp : Split), Runs s r g sp → ParksThrough s r g sp →
    ((∀ d ∈ regionEntries s g, ¬(d.slot = r.slot ∧ d.join = sp.pcs)) →
      ((∀ j ∈ g.joins, ¬(j.pcs = sp.pcs ∧ sp.lanes &&& ~~~j.lanes = 0)) →
        ∃ t, exec .sjoin s = .next t ∧ Parked s t r g sp (sp.spc + 1) .ready) ∧
      (∀ j, g.joins.head? = some j → j.pcs = sp.pcs → sp.lanes &&& ~~~j.lanes = 0 →
        ∃ t, exec .sjoin s = .next t ∧ Parked s t r g sp sp.spc (.join j.id))) ∧
    ∀ d, (regionEntries s g).find? (fun d => d.slot == r.slot && d.join == sp.pcs) = some d →
      (∀ j ∈ g.joins, j.pcs = sp.pcs → sp.lanes &&& ~~~j.lanes = 0 → j.id ≤ d.id) →
      ∃ (t : State) (g' : Group) (sp' : Split), exec .sjoin s = .next t ∧ At t r g' sp' ∧ LanesSame g g' ∧ LatchEmpty g' ∧
        g'.joins = g.joins ∧ OthersSame s t r ∧ StackAlone s t g ∧ sp'.wait = .ready ∧ sp'.laneCount = 0 ∧ sp'.scalarCount = 0 ∧
        (d.swapped = false →
          sp'.lanes = d.lanes ∧ sp'.fpstat = d.fpstat ∧ sp'.ustat = d.ustat ∧ sp'.rptidx = d.rptidx ∧ sp'.arrival = d.arrival ∧
          sp'.spc = d.pcs.spc ∧ sp'.lpc = d.pcs.lpc ∧ (∀ n : SReg, 1 ≤ n.val ∧ n.val ≤ 59 ∨ n.val = 63 → sp'.s[n] = d.s[n]) ∧
          sp'.s[(60 : SReg)] = beatOf (d.mask &&& d.lanes) 0 ∧ sp'.s[(61 : SReg)] = beatOf (d.mask &&& d.lanes) 1 ∧
          sp'.s[(62 : SReg)] = beatOf (d.mask &&& d.lanes) 2 ∧ g'.deferrals.length = g.deferrals.length ∧
          ∃ e ∈ g'.deferrals, e.id = d.id ∧ e.slot = d.slot ∧ e.join = d.join ∧ e.swapped = true ∧ e.lanes = sp.lanes ∧
            e.mask = execMask s sp ∧ e.fpstat = sp.fpstat ∧ e.ustat = sp.ustat ∧ e.rptidx = sp.rptidx ∧ e.arrival = sp.arrival ∧
            ∀ n : SReg, 1 ≤ n.val ∧ n.val ≤ 59 ∨ n.val = 63 → e.s[n] = sp.s[n]) ∧
        (d.swapped = true →
          Merged sp' d.id [Side.ofSplit s sp, Side.ofDeferral d] ∧ sp'.spc = sp.spc + 1 ∧ sp'.lpc = sp.lpc ∧
          g'.deferrals = (regionEntries s g).filter (fun e => e.id != d.id))

/-- spark and sjoin (R37 to R39, R44, R46, R145). -/
def Obligations.ParkWords : Prop := Claims.Spark ∧ Claims.Join

/-- sexit ends the split's lanes: with an own deferral entry the split goes on with the entry's saved side; otherwise, another
split being left, its slot falls free; in either case its lanes leave every join record (R41). -/
def Claims.Exit : Prop :=
  ∀ (s : State) (r : SplitRef) (g : Group) (sp : Split), Runs s r g sp → ParksThrough s r g sp →
    (∀ d, (regionEntries s g).find? (fun d => d.slot == r.slot) = some d →
      ∃ (t : State) (g' : Group) (sp' : Split), exec .sexit s = .next t ∧ At t r g' sp' ∧ sp'.spc = d.pcs.spc ∧
        sp'.lpc = d.pcs.lpc ∧ sp'.lanes = d.lanes ∧ sp'.fpstat = d.fpstat ∧ sp'.ustat = d.ustat ∧ sp'.rptidx = d.rptidx ∧
        sp'.arrival = d.arrival ∧ sp'.wait = .ready ∧ g'.deferrals = (regionEntries s g).filter (fun e => e.id != d.id) ∧
        (∀ n : SReg, 1 ≤ n.val ∧ n.val ≤ 59 ∨ n.val = 63 → sp'.s[n] = d.s[n]) ∧
        g'.joins.map JoinRec.lanes = g.joins.map (fun j => j.lanes &&& ~~~sp.lanes) ∧ StackAlone s t g) ∧
    ((regionEntries s g).find? (fun d => d.slot == r.slot) = none → (∃ k x, k ≠ r.slot ∧ tget g.splits k = some x) →
      ∃ (t : State) (g' : Group), exec .sexit s = .next t ∧ tget t.groups r.gkey = some g' ∧ tget g'.splits r.slot = none ∧
        g'.joins.map JoinRec.lanes = g.joins.map (fun j => j.lanes &&& ~~~sp.lanes) ∧ StackAlone s t g)

/-- strap parks, then raises SOFTWARE_TRAP, with its code in the message and the PC pair of the strap, a message that is held while an
access of the split is outstanding (R160, R343, R345). -/
def Claims.Trap : Prop :=
  ∀ (code : Byte) (s : State) (r : SplitRef) (g : Group) (sp : Split), Runs s r g sp → ParksThrough s r g sp →
    ∃ (t : State) (g' : Group) (sp' : Split) (m : List DWord), exec (.strap code) s = .next t ∧ At t r g' sp' ∧ LatchEmpty g' ∧
      sp'.s = sp.s ∧ sp'.spc = sp.spc ∧ sp'.lpc = sp.lpc ∧ sp'.stopped = some { code := .softwareTrap, kind := .scalar 1 } ∧
      m[1]? = some (code.setWidth 64) ∧ m[4]? = some (DWord.ofWords sp.lpc sp.spc) ∧ t.mem = s.mem ∧
      (accessesOut s r = true → (t.sluice (dieOf r.core)).held = (s.sluice (dieOf r.core)).held ++ [(r, m)]) ∧
      (accessesOut s r = false → (s.sluice (dieOf r.core)).waiting = [] → 0 < (s.sluice (dieOf r.core)).free →
        (t.sluice (dieOf r.core)).tail = (s.sluice (dieOf r.core)).tail + 1 ∧
        tget (t.sluice (dieOf r.core)).slots ((s.sluice (dieOf r.core)).tail.toNat % 1024) = some m)

/-- sexit and strap (R41, R160). -/
def Obligations.ExitAndTrap : Prop := Claims.Exit ∧ Claims.Trap

/-- sbrv, by one read of vcN over the active lanes: with no lane in T it falls through its two words; with every active lane in T
it goes to the target pair; neither is a park point, and neither changes a mask (R34, R144). -/
def Claims.UniformBranch : Prop :=
  ∀ (n : Fin 4) (jso jlo tso tlo : BitVec 12) (s : State) (r : SplitRef) (g : Group) (sp : Split), Runs s r g sp →
    (execMask s sp &&& readVc s g n = 0 →
      ∃ sp', exec (.sbrv n jso jlo tso tlo) s = .next (bump (s.setSplit r sp')) ∧ NoWrite sp sp' ∧
        Issued s sp sp' (sp.spc + 2) sp.lpc) ∧
    (execMask s sp &&& readVc s g n ≠ 0 → execMask s sp &&& ~~~readVc s g n = 0 →
      ∃ sp', exec (.sbrv n jso jlo tso tlo) s = .next (bump (s.setSplit r sp')) ∧ NoWrite sp sp' ∧
        Issued s sp sp' (sp.spc + tso.signExtend 32) (sp.lpc + tlo.signExtend 32))

/-- Splits of other groups, and the splits of the group in slots that `own` does not name, are as before. -/
def SlotsSame (s t : State) (r : SplitRef) (own : Nat → Prop) : Prop :=
  ∀ x : SplitRef, (x.gkey ≠ r.gkey ∨ ¬own x.slot) → t.split x = s.split x

/-- The registers of a split that a mask change leaves alone: all but s60 to s62, which hold the mask. -/
def MaskedTo (sp sp' : Split) (m : LaneMask) : Prop :=
  (∀ n : SReg, n ≠ 60 → n ≠ 61 → n ≠ 62 → sp'.s[n] = sp.s[n]) ∧ sp'.s[(60 : SReg)] = beatOf (m &&& sp'.lanes) 0 ∧
  sp'.s[(61 : SReg)] = beatOf (m &&& sp'.lanes) 1 ∧ sp'.s[(62 : SReg)] = beatOf (m &&& sp'.lanes) 2

/-- sbrv with lanes in both T and F, at a park that is complete at once: while a slot is free and fewer than three join records are
live, a new split of that slot takes T at the target and the parent keeps the rest with F as its exec mask; with no room for a
split, a deferral entry takes F and the split goes to the target with T, and the group's deferral stack in its region of the save area is
all of memory that may change; with no room for either, DIV_STACK_OVERFLOW. No register of the lanes and no other split changes, and of
the scalar registers the exec masks alone (R34 to R36, R144). -/
def Claims.DivergentBranch : Prop :=
  ∀ (n : Fin 4) (jso jlo tso tlo : BitVec 12) (s : State) (r : SplitRef) (g : Group) (sp : Split) (t f : LaneMask), Runs s r g sp →
    execMask s sp &&& readVc s g n = t → execMask s sp &&& ~~~readVc s g n = f → t ≠ 0 → f ≠ 0 →
    (ParksThrough s r g sp → ∀ k, g.freeSlot = some k → k ≠ r.slot → g.joinsUsed < 3 →
      ∃ (u : State) (g' : Group) (parent child : Split), exec (.sbrv n jso jlo tso tlo) s = .next u ∧ At u r g' parent ∧
        tget g'.splits k = some child ∧ child.lanes = t ∧ child.spc = sp.spc + tso.signExtend 32 ∧
        child.lpc = sp.lpc + tlo.signExtend 32 ∧ child.wait = .ready ∧ MaskedTo sp child t ∧
        parent.lanes = sp.lanes &&& ~~~t ∧ parent.spc = sp.spc + 2 ∧ parent.lpc = sp.lpc ∧ parent.wait = .ready ∧ MaskedTo sp parent f ∧
        g'.joins = { id := s.serial, pcs := { spc := sp.spc + jso.signExtend 32, lpc := sp.lpc + jlo.signExtend 32 },
                     lanes := sp.lanes } :: g.joins ∧
        LanesSame g g' ∧ LatchEmpty g' ∧ g'.deferrals = g.deferrals ∧ SlotsSame s u r (fun x => x = r.slot ∨ x = k) ∧ u.mem = s.mem) ∧
    (ParksThrough s r g sp → (g.freeSlot = none ∨ 3 ≤ g.joinsUsed) → g.deferralsUsed < 16 →
      ∃ (u : State) (g' : Group) (sp' : Split) (d : Deferral), exec (.sbrv n jso jlo tso tlo) s = .next u ∧ At u r g' sp' ∧
        g'.deferrals = d :: g.deferrals ∧ d.lanes = f ∧ d.mask = f ∧ d.slot = r.slot ∧ d.s = sp.s ∧
        d.pcs = { spc := sp.spc + 2, lpc := sp.lpc } ∧
        d.join = { spc := sp.spc + jso.signExtend 32, lpc := sp.lpc + jlo.signExtend 32 } ∧ sp'.lanes = sp.lanes &&& ~~~f ∧
        sp'.spc = sp.spc + tso.signExtend 32 ∧ sp'.lpc = sp.lpc + tlo.signExtend 32 ∧ sp'.wait = .ready ∧ MaskedTo sp sp' t ∧
        LanesSame g g' ∧ LatchEmpty g' ∧ g'.joins = g.joins ∧ OthersSame s u r ∧
        (s.mem.wf = true → BytesSameBut s u (s.context (s.nodeCtx g.node)).wkey (unitBase s (s.nodeCtx g.node) g.region + 0x900)
          (unitBase s (s.nodeCtx g.node) g.region + 0x900 + 320 * 16))) ∧
    ((g.freeSlot = none ∨ 3 ≤ g.joinsUsed) → 16 ≤ g.deferralsUsed →
      exec (.sbrv n jso jlo tso tlo) s = .next (bump (faultScalar s r sp 2 .divStackOverflow)))

/-- sbrv in its uniform and in its mixed cases (R34 to R36, R144). -/
def Obligations.DivergentBranches : Prop := Claims.UniformBranch ∧ Claims.DivergentBranch

/-- slrep arms a repeat and changes nothing else of the split but its issue bookkeeping; any scalar word but slissue discards it
(R148, as the results of the other scalar words say). slissue begins a run of count + 1 lane words with the repeat armed for its
first, leaves both PCs for the run to advance, and passes a first word armed with count 0 over (R147, R149). -/
def Obligations.LaneRuns : Prop :=
  ∀ (s : State) (r : SplitRef) (g : Group) (sp : Split), Runs s r g sp →
    (∀ (count : Fin 256) (stride : Fin 64), ∃ sp', exec (.slrep count stride) s =
        .next (bump (s.setSplit r { sp' with armed := some (count.val, stride.val) })) ∧ NoWrite sp sp' ∧
        Issued s sp sp' (sp.spc + 1) sp.lpc) ∧
    (∀ (count : Fin 256) (pk : Bool),
      ((∀ stride, sp.armed ≠ some (0, stride)) → ∃ sp', exec (.slissue count pk) s =
        .next (bump (s.setSplit r { sp' with rptidx := 0, run := some { left := count.val + 1, pk := pk, rep := sp.armed } })) ∧
        NoWrite sp sp' ∧ Issued s sp sp' sp.spc sp.lpc) ∧
      (∀ stride, sp.armed = some (0, stride) → 0 < count.val → ∃ sp', exec (.slissue count pk) s =
        .next (bump (s.setSplit r { sp' with rptidx := 0, run := some { left := count.val, pk := pk, rep := none } })) ∧
        NoWrite sp sp' ∧ Issued s sp sp' sp.spc (sp.lpc + 1)))

/-- The lanes that a thread call hands over: the active ones, in a pixel wave the covered ones of them (R50, R365). -/
def handedLanes (s : State) (g : Group) (sp : Split) : List Nat :=
  (List.range 96).filter (fun i => (execMask s sp).getLsbD i && !(g.pix.any (fun p => p.1 == i && !p.2.covered)))

/-- A thread of a lane that a thread call hands over: it carries its registers, its key and its time (R50, R51). -/
def Carries (s : State) (g : Group) (vb : Fin 128) (n : Nat) (x : Thread) : Prop :=
  x.node = g.node ∧ x.cycle = s.cyc ∧ x.order = g.order ∧
  (∀ v, (readV s g vb.val).data[x.lane]? = some v → x.key = v.toNat % 65536) ∧ x.regs.length = n ∧
  ∀ k, k < n → ∀ v, (g.regs.getD k VReg.zero).data[x.lane]? = some v → x.regs[k]? = some (v, (g.regs.getD k VReg.zero).tag)

/-- The word completes, and hands over the threads `l`; its split, another being left and no deferral entry its own, has ended. No byte of
memory but of the group's deferral stack, and no split of another group changes, nor any other split or any register of the lanes of this one. -/
def HandsOver (i : Instr) (s : State) (r : SplitRef) (g : Group) (l : List Thread) : Prop :=
  ∃ t : State, exec i s = .next t ∧ t.threads = s.threads ++ l ∧ StackAlone s t g ∧
    (∀ x : SplitRef, x.gkey ≠ r.gkey → t.split x = s.split x) ∧
    ((regionEntries s g).find? (fun d => d.slot == r.slot) = none → (∃ k x, k ≠ r.slot ∧ tget g.splits k = some x) →
      ∃ g', tget t.groups r.gkey = some g' ∧ LanesSame g g' ∧ tget g'.splits r.slot = none ∧
        ∀ k, k ≠ r.slot → tget g'.splits k = tget g.splits k) ∧
    (∀ d, (regionEntries s g).find? (fun d => d.slot == r.slot) = some d → ∃ (g' : Group) (sp' : Split), At t r g' sp' ∧ LanesSame g g' ∧ sp'.lanes = d.lanes ∧
      sp'.spc = d.pcs.spc ∧ sp'.lpc = d.pcs.lpc ∧ sp'.wait = .ready)

/-- The word parks its split, which stops there with `c`, its registers and PCs as they were: no thread is handed over. -/
def CallStops (i : Instr) (s : State) (r : SplitRef) (sp : Split) (c : FaultCode) : Prop :=
  ∃ (t : State) (g' : Group) (sp' : Split), exec i s = .next t ∧ At t r g' sp' ∧ LatchEmpty g' ∧
    sp'.stopped = some { code := c, kind := .scalar 2 } ∧ sp'.s = sp.s ∧ sp'.lanes = sp.lanes ∧ sp'.spc = sp.spc ∧ sp'.lpc = sp.lpc ∧
    t.threads = s.threads ∧ OthersSame s t r ∧ t.mem = s.mem

/-- scallx and scallx.ret outside a free-thread node raise ILLEGAL_OPCODE, and in one REG_RANGE for a carried count or a register
outside the allotment. A call raises DIV_STACK_OVERFLOW where an active lane's stack is full, and else PERMISSION where an active lane has
an index at or past the call table's length (which of the two comes first is the model's choice, log entry 77). Else each completes: the active lanes are handed to the composing unit, one thread each, and the split's lane set
leaves the group. A call's thread goes to the index in va [15:0] with va [31:16] pushed on its stack, no stack being full and both
indices inside the call table; a return's goes to the top of its stack, and a lane with an empty stack ends (R50 to R52, R146). -/
def Obligations.ThreadCalls : Prop :=
  ∀ (va vb : Fin 128) (n : Fin 33) (s : State) (r : SplitRef) (g : Group) (sp : Split), Runs s r g sp →
    (nodeFlag s g (fun d => d.free) = false →
      exec (.scallx va vb n) s = .next (bump (faultScalar s r sp 2 .illegalOpcode)) ∧
      exec (.scallxRet vb n) s = .next (bump (faultScalar s r sp 2 .illegalOpcode))) ∧
    (nodeFlag s g (fun d => d.free) = true →
      (g.regs.length < n.val ∨ g.regs.length ≤ va.val ∨ g.regs.length ≤ vb.val →
        exec (.scallx va vb n) s = .next (bump (faultScalar s r sp 2 .regRange))) ∧
      (g.regs.length < n.val ∨ g.regs.length ≤ vb.val →
        exec (.scallxRet vb n) s = .next (bump (faultScalar s r sp 2 .regRange)))) ∧
    (ParksThrough s r g sp → nodeFlag s g (fun d => d.free) = true → n.val ≤ g.regs.length → va.val < g.regs.length →
      vb.val < g.regs.length → ∀ nd, tget s.nodes g.node = some nd →
      (∃ i, (execMask s sp).getLsbD i = true ∧ 4 ≤ (g.stackOf i).length) →
      CallStops (.scallx va vb n) s r sp .divStackOverflow) ∧
    (ParksThrough s r g sp → nodeFlag s g (fun d => d.free) = true → n.val ≤ g.regs.length → va.val < g.regs.length →
      vb.val < g.regs.length → ∀ nd, tget s.nodes g.node = some nd →
      (∀ i, (execMask s sp).getLsbD i = true → (g.stackOf i).length < 4) →
      (∃ (i : Nat) (v : Word), (execMask s sp).getLsbD i = true ∧ (readV s g va.val).data[i]? = some v ∧
        (nd.desc.calllen ≤ v.toNat % 65536 ∨ nd.desc.calllen ≤ v.toNat / 65536)) →
      CallStops (.scallx va vb n) s r sp .permission) ∧
    (ParksThrough s r g sp → nodeFlag s g (fun d => d.free) = true → n.val ≤ g.regs.length → va.val < g.regs.length →
      vb.val < g.regs.length → ∀ nd, tget s.nodes g.node = some nd →
      (∀ i, (execMask s sp).getLsbD i = true → (g.stackOf i).length < 4 ∧
        ∀ v, (readV s g va.val).data[i]? = some v → v.toNat % 65536 < nd.desc.calllen ∧ v.toNat / 65536 < nd.desc.calllen) →
      ∃ l : List Thread, HandsOver (.scallx va vb n) s r g l ∧ l.map Thread.lane = handedLanes s g sp ∧
        ∀ x ∈ l, Carries s g vb n.val x ∧ ∃ v, (readV s g va.val).data[x.lane]? = some v ∧ x.index = v.toNat % 65536 ∧
          x.stack = BitVec.ofNat 16 (v.toNat / 65536) :: g.stackOf x.lane) ∧
    (ParksThrough s r g sp → nodeFlag s g (fun d => d.free) = true → n.val ≤ g.regs.length → vb.val < g.regs.length →
      ∃ l : List Thread, HandsOver (.scallxRet vb n) s r g l ∧
        l.map Thread.lane = (handedLanes s g sp).filter (fun i => !(g.stackOf i).isEmpty) ∧
        ∀ x ∈ l, Carries s g vb n.val x ∧ ∃ a rest, g.stackOf x.lane = a :: rest ∧ x.index = a.toNat ∧ x.stack = rest)

/-! ### Upcalls -/

/-- supcall and supcall.wait raise UPCALL_DENIED for a service at or above SVCLIM, and wait, unissued, while a reply is outstanding or
is to be delivered to a split that parks for it, while the sluice has 64 or fewer free slots or a message waits for one, or while a
release would (R161 to R163, R343, R346). That a supcall waits for a reply that is there but is to be delivered to a split that parks for
it, and for a message that waits for a slot, is the model's choice (log entry 14). -/
def Claims.UpcallStops : Prop :=
  ∀ (sd : SReg) (pa pb : Pair) (svc : BitVec 16) (s : State) (r : SplitRef) (g : Group) (sp : Split), Runs s r g sp →
    ((s.saveEntry (s.nodeCtx g.node)).svclim ≤ svc.toNat →
      exec (.supcall sd pa pb svc) s = .next (bump (faultScalar s r sp 2 .upcallDenied)) ∧
      exec (.supcallWait pa pb svc) s = .next (bump (faultScalar s r sp 2 .upcallDenied))) ∧
    (svc.toNat < (s.saveEntry (s.nodeCtx g.node)).svclim → (∃ u, g.upcall = some u ∧ (u.present = false ∨ g.collects u = true)) ∨
        (s.sluice (dieOf r.core)).free ≤ 64 ∨ (s.sluice (dieOf r.core)).waiting ≠ [] ∨ releaseWaits s r .system = true →
      ∃ c, exec (.supcall sd pa pb svc) s = .next (bump (s.setSplit r { sp with wait := .stall c })) ∧
        exec (.supcallWait pa pb svc) s = .next (bump (s.setSplit r { sp with wait := .stall c })))

/-- The ticket form posts its message, writes the group's ticket to sd and goes on; the next ticket counts up and skips 0; the
message carries the service, the ticket, both pairs and the PC pair of the supcall (R161, R345). -/
def Claims.TicketUpcall : Prop :=
  ∀ (sd : SReg) (pa pb : Pair) (svc : BitVec 16) (s : State) (r : SplitRef) (g : Group) (sp : Split), Runs s r g sp →
    svc.toNat < (s.saveEntry (s.nodeCtx g.node)).svclim → (∀ u, g.upcall = some u → u.present = true ∧ g.collects u = false) →
    64 < (s.sluice (dieOf r.core)).free → (s.sluice (dieOf r.core)).waiting = [] → releaseWaits s r .system = false →
    ∃ (t : State) (g' : Group) (sp' : Split) (m : List DWord), exec (.supcall sd pa pb svc) s = .next t ∧ At t r g' sp' ∧
      Issued s sp sp' (sp.spc + 2) sp.lpc ∧ WroteW sp sp' sd g.ticket ∧
      g'.ticket = (if g.ticket + 1 = 0 then 1 else g.ticket + 1) ∧ g'.upcall = some { ticket := g.ticket, present := false } ∧
      (t.sluice (dieOf r.core)).tail = (s.sluice (dieOf r.core)).tail + 1 ∧
      tget (t.sluice (dieOf r.core)).slots ((s.sluice (dieOf r.core)).tail.toNat % 1024) = some m ∧
      m[1]? = some (BitVec.ofNat 64 (svc.toNat + g.ticket.toNat * 2 ^ 16)) ∧ m[2]? = some (readD s sp pa) ∧
      m[3]? = some (readD s sp pb) ∧ m[4]? = some (DWord.ofWords sp.lpc sp.spc) ∧ LanesSame g g' ∧ OthersSame s t r ∧ t.mem = s.mem

/-- supcall.wait posts its message with ticket 0 and W, and parks for the reply; supwait on a ticket that is not the outstanding one
writes all ones to the pair and goes on, and on the outstanding one without its reply it waits (R161, R162). -/
def Claims.ReplyWaits : Prop :=
  ∀ (s : State) (r : SplitRef) (g : Group) (sp : Split), Runs s r g sp → ParksThrough s r g sp →
    (∀ (pa pb : Pair) (svc : BitVec 16), svc.toNat < (s.saveEntry (s.nodeCtx g.node)).svclim → g.upcall = none →
      64 < (s.sluice (dieOf r.core)).free → (s.sluice (dieOf r.core)).waiting = [] → releaseWaits s r .system = false →
      ∃ (t : State) (g' : Group) (sp' : Split) (m : List DWord), exec (.supcallWait pa pb svc) s = .next t ∧ At t r g' sp' ∧
        sp'.wait = .await (.reply pa.val none) ∧ sp'.s = sp.s ∧ sp'.spc = sp.spc ∧ LatchEmpty g' ∧
        g'.upcall = some { ticket := 0, present := false } ∧
        tget (t.sluice (dieOf r.core)).slots ((s.sluice (dieOf r.core)).tail.toNat % 1024) = some m ∧
        m[1]? = some (BitVec.ofNat 64 (svc.toNat + 2 ^ 48)) ∧ t.mem = s.mem) ∧
    (∀ pa : Pair, (∀ u, g.upcall = some u → u.ticket ≠ readS s sp (evenOf pa)) →
      ∃ (t : State) (g' : Group) (sp' : Split), exec (.supwait pa) s = .next t ∧ At t r g' sp' ∧ sp'.wait = .ready ∧
        sp'.spc = sp.spc + 1 ∧ sp'.lpc = sp.lpc ∧ Holds sp sp' (evenOf pa) (BitVec.allOnes 32) ∧
        Holds sp sp' (oddOf pa) (BitVec.allOnes 32) ∧ LatchEmpty g' ∧ t.mem = s.mem) ∧
    (∀ pa : Pair, readS s sp (evenOf pa) ≠ 0 → g.upcall = some { ticket := readS s sp (evenOf pa), present := false } →
      ∃ t, exec (.supwait pa) s = .next t ∧
        Parked s t r g sp sp.spc (.await (.reply pa.val (some (readS s sp (evenOf pa))))))

/-- Upcalls: their stops, the ticket form, and the waits for a reply (R161 to R163). -/
def Obligations.Upcalls : Prop := Claims.UpcallStops ∧ Claims.TicketUpcall ∧ Claims.ReplyWaits

/-! ### Barriers and fences -/

/-- sbar parks the split at the workgroup barrier once its earlier stores are acknowledged to the workgroup (R254, R272). -/
def Claims.BarrierArrival : Prop :=
  ∀ (s : State) (r : SplitRef) (g : Group) (sp : Split), Runs s r g sp →
    (releaseWaits s r .workgroup = true → exec .sbar s = .next (bump (s.setSplit r { sp with wait := .stall .acks }))) ∧
    (releaseWaits s r .workgroup = false → ParksThrough s r g sp →
      ∃ t, exec .sbar s = .next t ∧ Parked s t r g sp sp.spc (.await .barrier))

/-- The faults of the barrier-object instructions, in order: ALIGN, SCRATCH_RANGE, BARRIER_OBJECT_WRITE; the last also of an sbfree while a
split of the workgroup waits on the object (R276). -/
def Claims.ObjectFaults : Prop :=
  ∀ (sa sb : SReg) (s : State) (r : SplitRef) (g : Group) (sp : Split) (w : Workgroup), Runs s r g sp →
    tget s.wgs g.wg = some w →
    ∀ i ∈ [Instr.sbinit sa sb, .sbarrive sa, .sbwait sa, .sbfree sa],
      ((readS s sp sa).toNat % 8 ≠ 0 → exec i s = .next (bump (faultScalar s r sp 1 .align))) ∧
      ((readS s sp sa).toNat % 8 = 0 → w.size < (readS s sp sa).toNat + 8 →
        exec i s = .next (bump (faultScalar s r sp 1 .scratchRange))) ∧
      ((readS s sp sa).toNat % 8 = 0 → (readS s sp sa).toNat + 8 ≤ w.size →
        scoreboardBlocks s r.core g.wg (readS s sp sa).toNat ((readS s sp sa).toNat + 8) = false →
        releaseWaits s r .workgroup = false → acquireHeld s r = false →
        (i = .sbinit sa sb ∧ ((readS s sp sa).toNat ∈ w.objects ∨ 16 ≤ w.objects.length) ∨
         i ≠ .sbinit sa sb ∧ (readS s sp sa).toNat ∉ w.objects ∨
         i = .sbfree sa ∧ ∃ k ∈ w.groups, ∃ x, tget s.groups k = some x ∧ ∃ e ∈ x.splits, ∃ p,
           p = some (objectPhase (objectWord w (readS s sp sa).toNat)) ∧ (e.2.wait = .await (.object (readS s sp sa).toNat p) ∨
             e.2.wait = .park (.object (readS s sp sa).toNat p) ∨ e.2.wait = .held (.object (readS s sp sa).toNat p))) →
        exec i s = .next (bump (faultScalar s r sp 1 .barrierObjectWrite)))

/-- The scratchpad word of an object of a workgroup. -/
def ObjectWord (w : Workgroup) (off count arrived phase : Nat) (active : Bool) : Prop :=
  objectCount (objectWord w off) = count ∧ objectArrived (objectWord w off) = arrived ∧ objectPhase (objectWord w off) = phase ∧
  (objectWord w off).testBit 63 = active

/-- sbinit, sbarrive and sbfree on an object they may act on: sbinit makes the word active with COUNT at least 1 and the other
fields zero; sbarrive counts an arrival, records the phase in the split, and completes the phase at COUNT; sbfree clears ACTIVE and
keeps the fields. No other byte of the scratchpad changes (R274, R275). -/
def Obligations.ObjectOperations : Prop :=
  ∀ (sa sb : SReg) (s : State) (r : SplitRef) (g : Group) (sp : Split) (w : Workgroup) (off : Nat), Runs s r g sp →
    tget s.wgs g.wg = some w → (readS s sp sa).toNat = off → off % 8 = 0 → off + 8 ≤ w.size →
    scoreboardBlocks s r.core g.wg off (off + 8) = false → acquireHeld s r = false →
    (off ∉ w.objects → w.objects.length < 16 →
      ∃ (t : State) (w' : Workgroup) (sp' : Split), exec (.sbinit sa sb) s = .next t ∧ tget t.wgs g.wg = some w' ∧ off ∈ w'.objects ∧
        ObjectWord w' off (max ((readS s sp sb).toNat % 65536) 1) 0 0 true ∧ t.split r = some sp' ∧ NoWrite sp sp' ∧
        Issued s sp sp' (sp.spc + 1) sp.lpc ∧
        (∀ a, (a < off ∨ off + 8 ≤ a) → w'.scratch.read a = w.scratch.read a) ∧ t.mem = s.mem) ∧
    (off ∈ w.objects → releaseWaits s r .workgroup = false →
      ∀ count arrived phase, ObjectWord w off count arrived phase true →
      ∃ (t : State) (w' : Workgroup), exec (.sbarrive sa) s = .next t ∧ tget t.wgs g.wg = some w' ∧
        (arrived + 1 = count → ObjectWord w' off count 0 ((phase + 1) % 65536) true) ∧
        (arrived + 1 < count → ObjectWord w' off count (arrived + 1) phase true) ∧
        ((∀ k ∈ w.groups, ∀ x, tget s.groups k = some x → ∀ e ∈ x.splits, ∀ o p, e.2.wait ≠ .await (.object o p)) →
          ∃ sp', NoWrite sp sp' ∧ Issued s sp sp' (sp.spc + 1) sp.lpc ∧
          t.split r = some { sp' with arrival := some (off, phase) }) ∧
        (∀ a, (a < off ∨ off + 8 ≤ a) → w'.scratch.read a = w.scratch.read a) ∧ t.mem = s.mem) ∧
    (off ∈ w.objects → waitsOn s w off = false →
      ∀ count arrived phase, ObjectWord w off count arrived phase true →
      ∃ (t : State) (w' : Workgroup) (sp' : Split), exec (.sbfree sa) s = .next t ∧ tget t.wgs g.wg = some w' ∧ off ∉ w'.objects ∧
        ObjectWord w' off count arrived phase false ∧ t.split r = some sp' ∧ NoWrite sp sp' ∧
        Issued s sp sp' (sp.spc + 1) sp.lpc ∧
        (∀ a, (a < off ∨ off + 8 ≤ a) → w'.scratch.read a = w.scratch.read a) ∧ t.mem = s.mem)

/-- sbwait with no record for its object completes at once, as a park point only; with a record of the phase that the object is
still in, the split waits (R275). -/
def Claims.ObjectWait : Prop :=
  ∀ (sa : SReg) (s : State) (r : SplitRef) (g : Group) (sp : Split) (w : Workgroup) (off : Nat), Runs s r g sp →
    ParksThrough s r g sp → tget s.wgs g.wg = some w → (readS s sp sa).toNat = off → off % 8 = 0 → off + 8 ≤ w.size →
    scoreboardBlocks s r.core g.wg off (off + 8) = false → acquireHeld s r = false → off ∈ w.objects →
    ((∀ p, sp.arrival ≠ some (off, p)) → ∃ t, exec (.sbwait sa) s = .next t ∧ Parked s t r g sp (sp.spc + 1) .ready) ∧
    (sp.arrival = some (off, objectPhase (objectWord w off)) →
      ∃ t, exec (.sbwait sa) s = .next t ∧
        Parked s t r g sp sp.spc (.await (.object off (some (objectPhase (objectWord w off))))))

/-- Barrier objects: the faults of their instructions, and sbwait (R275, R276). -/
def Obligations.BarrierObjects : Prop := Claims.ObjectFaults ∧ Claims.ObjectWait

/-- A fence waits, unissued, for what its order names, and otherwise passes without writing a register, emptying the latch or
parking: sfence for acknowledgements (release) and returned values (acquire), gfence.rt for the wave's target writes and then as a
release at device scope (R256, R271, R373). -/
def Claims.Fences : Prop :=
  ∀ (s : State) (r : SplitRef) (g : Group) (sp : Split), Runs s r g sp →
    (∀ (o : Order) (sc : Scope),
      (fenceStall s r o sc = none → ∃ sp', exec (.sfence o sc) s = .next (bump (s.setSplit r sp')) ∧ NoWrite sp sp' ∧
        Issued s sp sp' (sp.spc + 1) sp.lpc) ∧
      (∀ c, fenceStall s r o sc = some c → exec (.sfence o sc) s = .next (bump (s.setSplit r { sp with wait := .stall c })))) ∧
    (∀ sc, fenceStall s r .release sc = none ↔ releaseWaits s r sc = false) ∧
    (∀ sc, fenceStall s r .acquire sc = none ↔ loadsOut s r = false) ∧
    (∀ sc, fenceStall s r .acqRel sc = none ↔ releaseWaits s r sc = false ∧ loadsOut s r = false) ∧
    (targetsDone s g.wave = true → releaseWaits s r .device = false →
      ∃ sp', exec .gfenceRt s = .next (bump (s.setSplit r sp')) ∧ NoWrite sp sp' ∧ Issued s sp sp' (sp.spc + 1) sp.lpc) ∧
    (targetsDone s g.wave = false → exec .gfenceRt s = .next (bump (s.setSplit r { sp with wait := .stall .render })))

/-- sbar, sfence and gfence.rt (R254, R256, R271, R272, R373). -/
def Obligations.BarriersAndFences : Prop := Claims.BarrierArrival ∧ Claims.Fences

/-! ### Scalar memory -/

/-- An access of `n` bytes, as far as its checks and waits look at it. -/
def probe (va : DWord) (n : Nat) (op : AccOp) : Access :=
  { lane := 96, va := va, size := n, op := op, data := 0, compare := 0, ext := .zero }

/-- A scalar access passes the checks of R260, waits for nothing, and reaches plain memory without a double-bit error at leaf `l`; the
galley holds nothing of its page for the group. -/
def Reaches (s : State) (r : SplitRef) (g : Group) (sp : Split) (m : MemFields) (va : DWord) (n : Nat) (op : AccOp) (l : Leaf) : Prop :=
  Runs s r g sp ∧ canonical va = true ∧ va.toNat % n = 0 ∧ memoryStall s (whoOf s r g sp) m [probe va n op] = none ∧
  pageHeld s r.core r.gkey (pageOf va) = false ∧ (translate s (some r.core) (s.nodeCtx g.node) va op.use).2 = .ok l ∧
  isMemory l.pa = true ∧ s.poisonedAt l.pa n = false

/-- The address of R259. -/
def addressOf (s : State) (sp : Split) (base : Pair) (si : SReg) (off : BitVec 19) : DWord :=
  readD s sp base + (readS s sp si).signExtend 64 + off.signExtend 64

/-- No copy of the line under the leaf's key stands in the core's L1, or the scope passes L1 by (R245). -/
def Uncached (s : State) (r : SplitRef) (m : MemFields) (l : Leaf) : Prop :=
  m.scope = .peer ∨ m.scope = .system ∨ l1Find s r.core (l.pa / 128) l.key = none

/-- The number that `n` bytes of memory hold, little-endian, as the leaf's key reads them. -/
def valueAt (s : State) (l : Leaf) (n : Nat) : Nat := ofBytes (s.physRead l.key l.pa n)

/-- The dword there. -/
def dwordAt (s : State) (l : Leaf) : DWord := BitVec.ofNat 64 (valueAt s l 8)

/-- A load issues: the value of the bytes that it reached, extended by `v`, is the result in flight of its register, and no byte
of memory changes. -/
def LoadForm (i : SReg → Pair → SReg → MemFields → Instr) (n : Nat) (v : Nat → Word) : Prop :=
  ∀ (sd : SReg) (base : Pair) (si : SReg) (m : MemFields) (s : State) (r : SplitRef) (g : Group) (sp : Split) (l : Leaf),
    Reaches s r g sp m (addressOf s sp base si m.off) n .load l → Uncached s r m l →
    Awaits (i sd base si m) s r sp 2 [.scalar sd.val (v (valueAt s l n)) false] ∧
    ∀ t, exec (i sd base si m) s = .next t → BytesSame s t ∧ OthersSame s t r

/-- The scalar loads (R259, R264). -/
def Obligations.ScalarLoads : Prop :=
  LoadForm .sldW 4 (fun x => BitVec.ofNat 32 x) ∧
  LoadForm .sldB 1 (fun x => (BitVec.ofNat 8 x).signExtend 32) ∧
  LoadForm .sldBu 1 (fun x => (BitVec.ofNat 8 x).zeroExtend 32) ∧
  LoadForm .sldH 2 (fun x => (BitVec.ofNat 16 x).signExtend 32) ∧
  LoadForm .sldHu 2 (fun x => (BitVec.ofNat 16 x).zeroExtend 32) ∧
  ∀ (pd base : Pair) (si : SReg) (m : MemFields) (s : State) (r : SplitRef) (g : Group) (sp : Split) (l : Leaf),
    Reaches s r g sp m (addressOf s sp base si m.off) 8 .load l → Uncached s r m l →
    Awaits (.sldD pd base si m) s r sp 2
      [.scalar (2 * pd.val) (dwordAt s l).lo false, .scalar (2 * pd.val + 1) (dwordAt s l).hi false] ∧
    ∀ t, exec (.sldD pd base si m) s = .next t → BytesSame s t ∧ OthersSame s t r

/-- What a store of `n` bytes at a leaf leaves of memory: the bytes of `x` there, little-endian; every other byte as before, read
under the leaf's key, and in every other 32-byte sector under every key. -/
def Stored (s t : State) (l : Leaf) (n x : Nat) : Prop :=
  (∀ k, k < n → t.byteUnder (s.keyOf l.key) (l.pa + k) = BitVec.ofNat 8 (x / 2 ^ (8 * k))) ∧
  (∀ a, a < l.pa ∨ l.pa + n ≤ a → t.byteUnder (s.keyOf l.key) a = s.byteUnder (s.keyOf l.key) a) ∧
  (∀ (key : Key) (a : Nat), a / 32 ≠ l.pa / 32 → t.byteUnder key a = s.byteUnder key a)

/-- An acknowledgement of the split is outstanding for these bytes (R246). -/
def AckOut (t : State) (r : SplitRef) (l : Leaf) (n : Nat) : Prop :=
  ∃ k a, tget t.acks k = some a ∧ a.ref = r ∧ a.pa = l.pa ∧ a.size = n

/-- A store is performed: its bytes stand in memory, its acknowledgement is outstanding, and no register changes. -/
def StoreForm (i : Pair → SReg → MemFields → Instr) (n : Nat) (x : State → Split → Nat) : Prop :=
  ∀ (base : Pair) (si : SReg) (m : MemFields) (s : State) (r : SplitRef) (g : Group) (sp : Split) (l : Leaf),
    s.mem.wf = true →
    Reaches s r g sp m (addressOf s sp base si m.off) n .store l →
    ∃ (t : State) (sp' : Split), exec (i base si m) s = .next t ∧ t.split r = some sp' ∧ NoWrite sp sp' ∧
      Issued s sp sp' (sp.spc + 2) sp.lpc ∧ Stored s t l n (x s sp) ∧ AckOut t r l n ∧ OthersSame s t r

/-- The scalar stores (R246, R259, R264). -/
def Obligations.ScalarStores : Prop :=
  (∀ sd, StoreForm (fun b si m => .sstW sd b si m) 4 (fun s sp => (readS s sp sd).toNat)) ∧
  (∀ sd, StoreForm (fun b si m => .sstB sd b si m) 1 (fun s sp => (readS s sp sd).toNat)) ∧
  (∀ sd, StoreForm (fun b si m => .sstH sd b si m) 2 (fun s sp => (readS s sp sd).toNat)) ∧
  (∀ pd, StoreForm (fun b si m => .sstD pd b si m) 8 (fun s sp => (readD s sp pd).toNat))

/-- An atomic is performed: the bytes hold `f old x` for the value `x` of its data register, the value `old` before it is the result
in flight of that register, and the acknowledgement of its write is outstanding. -/
def AtomicW (i : SReg → Pair → SReg → MemFields → Instr) (f : Word → Word → Word) : Prop :=
  ∀ (sd : SReg) (base : Pair) (si : SReg) (m : MemFields) (s : State) (r : SplitRef) (g : Group) (sp : Split) (l : Leaf),
    s.mem.wf = true →
    Reaches s r g sp m (addressOf s sp base si m.off) 4 (.atomic 0) l →
    Awaits (i sd base si m) s r sp 2 [.scalar sd.val (BitVec.ofNat 32 (valueAt s l 4)) false] ∧
    ∀ t, exec (i sd base si m) s = .next t →
      Stored s t l 4 (f (BitVec.ofNat 32 (valueAt s l 4)) (readS s sp sd)).toNat ∧ AckOut t r l 4 ∧ OthersSame s t r

/-- The same of a dword. -/
def AtomicD (i : Pair → Pair → SReg → MemFields → Instr) (f : DWord → DWord → DWord) : Prop :=
  ∀ (pd base : Pair) (si : SReg) (m : MemFields) (s : State) (r : SplitRef) (g : Group) (sp : Split) (l : Leaf),
    s.mem.wf = true →
    Reaches s r g sp m (addressOf s sp base si m.off) 8 (.atomic 0) l →
    Awaits (i pd base si m) s r sp 2
      [.scalar (2 * pd.val) (dwordAt s l).lo false, .scalar (2 * pd.val + 1) (dwordAt s l).hi false] ∧
    ∀ t, exec (i pd base si m) s = .next t →
      Stored s t l 8 (f (dwordAt s l) (readD s sp pd)).toNat ∧ AckOut t r l 8 ∧ OthersSame s t r

/-- The scalar atomics (R265, R269); fadd rounds the exact sum to nearest even, and cas stores its new value where the old one equals
its compare value. -/
def Obligations.ScalarAtomics : Prop :=
  (AtomicW .satomAddW (fun a x => a + x) ∧ AtomicW .satomAndW (fun a x => a &&& x) ∧ AtomicW .satomOrW (fun a x => a ||| x) ∧
   AtomicW .satomXorW (fun a x => a ^^^ x) ∧
   AtomicW .satomMinW (fun a x => if a.toInt ≤ x.toInt then a else x) ∧ AtomicW .satomMaxW (fun a x => if a.toInt ≤ x.toInt then x else a) ∧
   AtomicW .satomMinuW (fun a x => if a.toNat ≤ x.toNat then a else x) ∧ AtomicW .satomMaxuW (fun a x => if a.toNat ≤ x.toNat then x else a) ∧
   AtomicW .satomXchgW (fun _ x => x) ∧
   AtomicW .satomFaddW (fun a x => BitVec.ofNat 32 (fadd .f32 .rne false (decodeFloat .f32 a.toNat) (decodeFloat .f32 x.toNat)).bits)) ∧
  (AtomicD .satomAddD (fun a x => a + x) ∧ AtomicD .satomAndD (fun a x => a &&& x) ∧ AtomicD .satomOrD (fun a x => a ||| x) ∧
   AtomicD .satomXorD (fun a x => a ^^^ x) ∧
   AtomicD .satomMinD (fun a x => if a.toInt ≤ x.toInt then a else x) ∧ AtomicD .satomMaxD (fun a x => if a.toInt ≤ x.toInt then x else a) ∧
   AtomicD .satomMinuD (fun a x => if a.toNat ≤ x.toNat then a else x) ∧ AtomicD .satomMaxuD (fun a x => if a.toNat ≤ x.toNat then x else a) ∧
   AtomicD .satomXchgD (fun _ x => x) ∧
   AtomicD .satomFaddD (fun a x => BitVec.ofNat 64 (fadd .f64 .rne false (decodeFloat .f64 a.toNat) (decodeFloat .f64 x.toNat)).bits)) ∧
  ∀ (m : MemFields) (base : Pair) (s : State) (r : SplitRef) (g : Group) (sp : Split) (l : Leaf), s.mem.wf = true →
    (∀ (sd : SReg) (q : Pair), Reaches s r g sp m (addressOf s sp base 0 m.off) 4 (.atomic 0) l →
      Awaits (.satomCasW sd base q m) s r sp 2 [.scalar sd.val (BitVec.ofNat 32 (valueAt s l 4)) false] ∧
      ∀ t, exec (.satomCasW sd base q m) s = .next t →
        Stored s t l 4 (if valueAt s l 4 = (readS s sp (evenOf q)).toNat then (readS s sp (oddOf q)).toNat else valueAt s l 4) ∧
        AckOut t r l 4 ∧ OthersSame s t r) ∧
    (∀ (pd : Pair) (q : Fin 16), Reaches s r g sp m (addressOf s sp base 0 m.off) 8 (.atomic 0) l →
      Awaits (.satomCasD pd base q m) s r sp 2
        [.scalar (2 * pd.val) (dwordAt s l).lo false, .scalar (2 * pd.val + 1) (dwordAt s l).hi false] ∧
      ∀ t, exec (.satomCasD pd base q m) s = .next t →
        Stored s t l 8 (if valueAt s l 8 = (readD s sp (Fin.ofNat 32 (2 * q.val))).toNat
          then (readD s sp (Fin.ofNat 32 (2 * q.val + 1))).toNat else valueAt s l 8) ∧ AckOut t r l 8 ∧ OthersSame s t r)

/-- What a scalar memory form does with an address that fails R260: PERMISSION before ALIGN, nothing performed. -/
def Checked (i : Instr) (n : Nat) (va : State → Split → DWord) : Prop :=
  ∀ (s : State) (r : SplitRef) (g : Group) (sp : Split), Runs s r g sp →
    (canonical (va s sp) = false → exec i s = .next (bump (faultScalar s r sp 2 .permission 0 (va s sp)))) ∧
    (canonical (va s sp) = true → (va s sp).toNat % n ≠ 0 → exec i s = .next (bump (faultScalar s r sp 2 .align 0 (va s sp))))

/-- The address checks of the scalar loads, stores and atomics (R75, R260, R265). -/
def Obligations.AddressFaults : Prop :=
  (∀ x : DWord, canonical x = true ↔ ∀ k, 57 ≤ k → k < 64 → x.getLsbD k = x.getLsbD 56) ∧
  ∀ (sd si : SReg) (pd base : Pair) (m : MemFields),
    Checked (.sldW sd base si m) 4 (fun s sp => addressOf s sp base si m.off) ∧
    Checked (.sldB sd base si m) 1 (fun s sp => addressOf s sp base si m.off) ∧
    Checked (.sldBu sd base si m) 1 (fun s sp => addressOf s sp base si m.off) ∧
    Checked (.sldH sd base si m) 2 (fun s sp => addressOf s sp base si m.off) ∧
    Checked (.sldHu sd base si m) 2 (fun s sp => addressOf s sp base si m.off) ∧
    Checked (.sldD pd base si m) 8 (fun s sp => addressOf s sp base si m.off) ∧
    Checked (.sstW sd base si m) 4 (fun s sp => addressOf s sp base si m.off) ∧
    Checked (.sstB sd base si m) 1 (fun s sp => addressOf s sp base si m.off) ∧
    Checked (.sstH sd base si m) 2 (fun s sp => addressOf s sp base si m.off) ∧
    Checked (.sstD pd base si m) 8 (fun s sp => addressOf s sp base si m.off) ∧
    Checked (.satomAddW sd base si m) 4 (fun s sp => addressOf s sp base si m.off) ∧
    Checked (.satomAndW sd base si m) 4 (fun s sp => addressOf s sp base si m.off) ∧
    Checked (.satomOrW sd base si m) 4 (fun s sp => addressOf s sp base si m.off) ∧
    Checked (.satomXorW sd base si m) 4 (fun s sp => addressOf s sp base si m.off) ∧
    Checked (.satomMinW sd base si m) 4 (fun s sp => addressOf s sp base si m.off) ∧
    Checked (.satomMaxW sd base si m) 4 (fun s sp => addressOf s sp base si m.off) ∧
    Checked (.satomMinuW sd base si m) 4 (fun s sp => addressOf s sp base si m.off) ∧
    Checked (.satomMaxuW sd base si m) 4 (fun s sp => addressOf s sp base si m.off) ∧
    Checked (.satomXchgW sd base si m) 4 (fun s sp => addressOf s sp base si m.off) ∧
    Checked (.satomFaddW sd base si m) 4 (fun s sp => addressOf s sp base si m.off) ∧
    Checked (.satomAddD pd base si m) 8 (fun s sp => addressOf s sp base si m.off) ∧
    Checked (.satomAndD pd base si m) 8 (fun s sp => addressOf s sp base si m.off) ∧
    Checked (.satomOrD pd base si m) 8 (fun s sp => addressOf s sp base si m.off) ∧
    Checked (.satomXorD pd base si m) 8 (fun s sp => addressOf s sp base si m.off) ∧
    Checked (.satomMinD pd base si m) 8 (fun s sp => addressOf s sp base si m.off) ∧
    Checked (.satomMaxD pd base si m) 8 (fun s sp => addressOf s sp base si m.off) ∧
    Checked (.satomMinuD pd base si m) 8 (fun s sp => addressOf s sp base si m.off) ∧
    Checked (.satomMaxuD pd base si m) 8 (fun s sp => addressOf s sp base si m.off) ∧
    Checked (.satomXchgD pd base si m) 8 (fun s sp => addressOf s sp base si m.off) ∧
    Checked (.satomFaddD pd base si m) 8 (fun s sp => addressOf s sp base si m.off) ∧
    (∀ q, Checked (.satomCasW sd base q m) 4 (fun s sp => addressOf s sp base 0 m.off)) ∧
    (∀ q, Checked (.satomCasD pd base q m) 8 (fun s sp => addressOf s sp base 0 m.off))

/-- A write under a key slot is read back under it, and changes nothing in other sectors; the memory keeps its canonical form. A
dword's bytes lie lowest first (R4, R226). -/
def Obligations.MemoryWrites : Prop :=
  (∀ (s : State) (slot pa : Nat) (l : List Byte), s.mem.wf = true →
    (s.physWrite slot pa l).physRead slot pa l.length = l ∧ (s.physWrite slot pa l).mem.wf = true ∧
    (∀ a, a < pa ∨ pa + l.length ≤ a → (s.physWrite slot pa l).byteUnder (s.keyOf slot) a = s.byteUnder (s.keyOf slot) a)) ∧
  (∀ (n x : Nat), (toBytes n x).length = n ∧ ofBytes (toBytes n x) = x % 2 ^ (8 * n)) ∧
  ∀ l : List Byte, ∀ k, k < l.length → l[k]? = some (BitVec.ofNat 8 (ofBytes l / 2 ^ (8 * k)))

/-! ### Lane words -/

/-- A lane word issues on the split within a run: not its last word, with no repeat, no hold bit and no park bit. -/
def InRun (s : State) (r : SplitRef) (g : Group) (sp : Split) (w : LaneWord) (left : Nat) (pk : Bool) : Prop :=
  Runs s r g sp ∧ sp.run = some { left := left + 2, pk := pk, rep := none } ∧ w.hold = 0 ∧ w.p = false

/-- The word has issued: the lane PC passes it, the run has one word less, and of the split's own state only flags and what is in
flight or deferred may differ; the latch stays, and every split of another group is as before. -/
def Stepped (s t : State) (r : SplitRef) (g g' : Group) (sp sp' : Split) (left : Nat) (pk : Bool) : Prop :=
  At t r g' sp' ∧ sp'.lpc = sp.lpc + 1 ∧ sp'.spc = sp.spc ∧ sp'.s = sp.s ∧ sp'.lanes = sp.lanes ∧ sp'.laneCount = sp.laneCount + 1 ∧
  sp'.scalarCount = sp.scalarCount ∧ sp'.ustat = sp.ustat ∧ sp'.rptidx = 0 ∧
  sp'.run = some { left := left + 1, pk := pk, rep := none } ∧ sp'.wait = .ready ∧ sp'.stopped = sp.stopped ∧ g'.latch = g.latch ∧
  ∀ x : SplitRef, x.gkey ≠ r.gkey → t.split x = s.split x

/-- A lane opcode with its checks `p`: the first fault of R90, precise, without any effect, which is met before the first repetition when
a later one of a repeated word would raise it (R149); then a wait at issue; else it completes. -/
def LaneForm (i : LaneWord → Instr) (p : LaneSpec) : Prop :=
  ∀ (w : LaneWord) (s : State) (r : SplitRef) (g : Group) (sp : Split), Runs s r g sp →
    (∀ c a, laneFault p (laneCtx s r g sp w) = some (c, a) →
      exec (i w) s = .next (bump (faultLane s r sp c a (laneCtx s r g sp w).act))) ∧
    (∀ c a, wordFault p (laneCtx s r g sp w) = some (c, a) →
      exec (i w) s = .next (bump (faultLane s r sp c a (laneCtx s r g sp w).act))) ∧
    (wordFault p (laneCtx s r g sp w) = none → ∀ c, p.stall (laneCtx s r g sp w) = some c →
      exec (i w) s = .next (bump (s.setSplit r { sp with wait := .stall c }))) ∧
    ∀ left pk, InRun s r g sp w left pk → laneFault p (laneCtx s r g sp w) = none → p.stall (laneCtx s r g sp w) = none →
      ∃ (t : State) (g' : Group) (sp' : Split), exec (i w) s = .next t ∧ Stepped s t r g g' sp sp' left pk

/-- The order of the faults at issue (R90): RESERVED_FIELD, REG_RANGE, TAG_MISMATCH, then the word's own. A lane fault stops the split
with its registers and PCs, and changes no register of the group and no byte of memory (R89). -/
def Obligations.LaneFaults : Prop :=
  (∀ (p : LaneSpec) (x : LaneCtx),
    (p.reserved x = true → laneFault p x = some (.reservedField, 0)) ∧
    (p.reserved x = false → rangeOk p x = false → laneFault p x = some (.regRange, 0)) ∧
    (p.reserved x = false → rangeOk p x = true → p.mismatch x = true ∨ heldWide p x = true →
      laneFault p x = some (.tagMismatch, 0)) ∧
    (p.reserved x = false → rangeOk p x = true → p.mismatch x = false → heldWide p x = false → laneFault p x = p.own x)) ∧
  ∀ (s : State) (r : SplitRef) (g : Group) (sp : Split) (c : FaultCode) (a : DWord) (m : LaneMask), At s r g sp →
    (faultLane s r sp c a m).split r = some { sp with wait := .ready, stopped := some { code := c, kind := .lane } } ∧
    OthersSame s (faultLane s r sp c a m) r ∧ (faultLane s r sp c a m).mem = s.mem ∧
    ∃ g', tget (faultLane s r sp c a m).groups r.gkey = some g' ∧ LanesSame g g' ∧ g'.latch = g.latch

/-- Every lane word outside the graphics units is of that form. -/
def Claims.LaneForms : Prop :=
  (LaneForm .vadd specVadd ∧ LaneForm .vsub specVsub ∧ LaneForm .vmul specVmul ∧ LaneForm .vmad specVmad ∧ LaneForm .vmin specVmin ∧
   LaneForm .vmax specVmax ∧ LaneForm .vabs specVabs ∧ LaneForm .vneg specVneg ∧ LaneForm .vcmp specVcmp ∧ LaneForm .vsel specVsel ∧
   LaneForm .vscan specVscan) ∧
  (LaneForm .vand specVand ∧ LaneForm .vor specVor ∧ LaneForm .vxor specVxor ∧ LaneForm .vnot specVnot ∧ LaneForm .vshl specVshl ∧
   LaneForm .vshr specVshr ∧ LaneForm .vsra specVsra ∧ LaneForm .vmulhi specVmulhi ∧ LaneForm .vclz specVclz ∧
   LaneForm .vpopc specVpopc ∧ LaneForm .vbrev specVbrev ∧ LaneForm .vbfe specVbfe ∧ LaneForm .vbfi specVbfi) ∧
  (LaneForm .vdiv specVdiv ∧ LaneForm .vsqrt specVsqrt ∧ LaneForm .vrcp specVrcp ∧ LaneForm .vrsq specVrsq ∧
   LaneForm .vexp2 specVexp2 ∧ LaneForm .vlog2 specVlog2 ∧ LaneForm .vsin specVsin ∧ LaneForm .vcos specVcos ∧
   LaneForm .vround specVround ∧ LaneForm .vfract specVfract ∧ LaneForm .vclass specVclass ∧ LaneForm .vdot2 specVdot2 ∧
   LaneForm .vldexp specVldexp) ∧
  (LaneForm .vcvt specVcvt ∧ LaneForm .vtag specVtag ∧ LaneForm .vgettag specVgettag ∧ LaneForm .vmov specVmov ∧
   LaneForm .vli specVli ∧ LaneForm .vlane specVlane ∧ LaneForm .vmovc specVmovc ∧ LaneForm .vxch specVxch ∧
   LaneForm .vperm specVperm ∧ LaneForm .vrot specVrot ∧ LaneForm .vbcast specVbcast ∧ LaneForm .vqswap specVqswap ∧
   LaneForm .vred specVred ∧ LaneForm .vballot specVballot) ∧
  (LaneForm .vcand specVcand ∧ LaneForm .vcor specVcor ∧ LaneForm .vcxor specVcxor ∧ LaneForm .vcnot specVcnot ∧
   LaneForm .vcmov specVcmov ∧ LaneForm .vxadd specVxadd ∧ LaneForm .vxget specVxget ∧ LaneForm .vxclr specVxclr) ∧
  (LaneForm .vld specVld ∧ LaneForm .vlds specVlds ∧ LaneForm .vst specVst ∧ LaneForm .vsts specVsts ∧ LaneForm .vatom specVatom ∧
   LaneForm .vatomn specVatomn ∧ LaneForm .vvis specVvis)

/-! ### What the lane memory words do -/

/-- Lanes of which an access is performed: the active ones, but no helper lane of a pixel wave where the word stores (R365). -/
def performing (x : LaneCtx) (stores : Bool) (k : Nat) : Bool := x.act.getLsbD k && !(stores && x.g.helper k)

/-- The scratchpad offset of a lane: base and index, each absent as the literal, and the offset of the word, modulo 2^32 (R259). -/
def scratchAt (x : LaneCtx) (k : Nat) : Nat :=
  ((if x.w.va = .lit then 0 else x.word x.w.va k) + (if x.w.vb = .lit then 0 else x.word x.w.vb k) + x.mem.off.signExtend 32).toNat

/-- The global address of a lane: 64-bit base, sign-extended index, absent as the literal, and sign-extended offset (R259). -/
def globalAt (x : LaneCtx) (k : Nat) : DWord :=
  x.src x.w.va .n64 k + (if x.w.vb = .lit then (0 : Word) else x.word x.w.vb k).signExtend 64 + x.mem.off.signExtend 64

/-- Bytes of a width code (R266). -/
def widthBytes (sub : Nat) : Nat := if sub ≤ 1 then 1 else if sub ≤ 3 then 2 else if sub = 4 then 4 else 8

/-- What a load of a width code makes of the number it read (R266, R267). -/
def loadedAs (sub x : Nat) : DWord :=
  if sub = 0 then (BitVec.ofNat 8 x).signExtend 64 else if sub = 2 then (BitVec.ofNat 16 x).signExtend 64 else BitVec.ofNat 64 x

/-- The tag of a load's result (R267). -/
def loadsTag (x : LaneCtx) : Tag :=
  x.ov.getD (if x.w.sub = 0 ∨ x.w.sub = 2 then .i32 else if x.w.sub = 1 ∨ x.w.sub = 3 then .n32 else if x.w.sub = 4 then .raw else .n64)

/-- The value that a lane stores, or gives an atomic: vc's register, or its pair for a dword (R268, R269). -/
def laneData (x : LaneCtx) (wide : Bool) (k : Nat) : DWord := x.src x.w.vc (if wide then .n64 else .raw) k

/-- A result of the lanes `m` under tag `f` at register n, whose values are `v`. -/
def ReturnsTo (y : InFlight) (n : Nat) (m : LaneMask) (f : Tag) (v : Nat → DWord) : Prop :=
  (tagWide f = false → ∃ data old, y.writes = [.vector n m 0 data f old] ∧
    ∀ k : Fin 96, m.getLsbD k.val = true → data[k] = (v k.val).lo) ∧
  (tagWide f = true → ∃ lo hi o p, y.writes = [.vector n m 0 lo f o, .vector (n + 1) m 0 hi f p] ∧
    ∀ k : Fin 96, m.getLsbD k.val = true → lo[k] = (v k.val).lo ∧ hi[k] = (v k.val).hi)

/-- A word within a run that passes every check and waits for nothing. -/
def Free (p : LaneSpec) (s : State) (r : SplitRef) (g : Group) (sp : Split) (w : LaneWord) (left : Nat) (pk : Bool) : Prop :=
  InRun s r g sp w left pk ∧ laneFault p (laneCtx s r g sp w) = none ∧ p.stall (laneCtx s r g sp w) = none

/-- `y` has joined the results in flight, with every value that it waits for. -/
def LastInFlight (s : State) (sp sp' : Split) (y : InFlight) : Prop :=
  sp'.inflight.map InFlight.id = sp.inflight.map InFlight.id ++ [s.serial] ∧ sp'.inflight.getLast? = some y ∧ y.awaited = []

/-- The tag of vd is written at issue, and its lanes when the values return: nothing else of the lanes' registers has changed (R166). -/
def TagAtIssue (g g' : Group) (n : Nat) (f : Tag) : Prop :=
  (g'.regs.getD n VReg.zero).tag = f ∧ (tagWide f = true → (g'.regs.getD (n + 1) VReg.zero).tag = f) ∧
  (∀ k, (g'.regs.getD k VReg.zero).data = (g.regs.getD k VReg.zero).data) ∧
  (∀ k, k ≠ n → ¬(tagWide f = true ∧ k = n + 1) → g'.regs.getD k VReg.zero = g.regs.getD k VReg.zero) ∧ g'.vc = g.vc ∧ g'.xa = g.xa

/-- The lanes `l` perform their atomics on a scratchpad one after another: each reads what the ones before it left. -/
def atomicsAt (x : LaneCtx) (n : Nat) (m : Memory) (l : List Nat) : Memory × Table DWord :=
  l.foldl (fun (a : Memory × Table DWord) k =>
    let old := BitVec.ofNat 64 (ofBytes (a.1.readBytes (scratchAt x k) n))
    (a.1.writeBytes (scratchAt x k) (toBytes n (atomicNew x.w.sub.val n old (laneData x (n == 8) k)
      (if x.w.sub = 9 then x.src x.w.vd (if n = 8 then .n64 else .raw) k else 0)).toNat), (k, old) :: a.2)) (m, [])

/-- The new value of an atomic, on words and on dwords (R269). -/
def Claims.AtomicTable : Prop :=
  ∀ (n : Nat) (a x c : DWord), n = 4 ∧ a.toNat < 2 ^ 32 ∧ x.toNat < 2 ^ 32 ∧ c.toNat < 2 ^ 32 ∨ n = 8 →
    (atomicNew 0 n a x c).toNat = (a.toNat + x.toNat) % 2 ^ (8 * n) ∧
    atomicNew 1 n a x c = a &&& x ∧ atomicNew 2 n a x c = a ||| x ∧ atomicNew 3 n a x c = a ^^^ x ∧
    (∀ p q : Int, p = (BitVec.ofNat (8 * n) a.toNat).toInt → q = (BitVec.ofNat (8 * n) x.toNat).toInt →
      (p ≤ q → atomicNew 4 n a x c = a ∧ atomicNew 5 n a x c = x) ∧ (q < p → atomicNew 4 n a x c = x ∧ atomicNew 5 n a x c = a)) ∧
    (a.toNat ≤ x.toNat → atomicNew 6 n a x c = a ∧ atomicNew 7 n a x c = x) ∧
    (x.toNat < a.toNat → atomicNew 6 n a x c = x ∧ atomicNew 7 n a x c = a) ∧
    atomicNew 8 n a x c = x ∧ (a = c → atomicNew 9 n a x c = x) ∧ (a ≠ c → atomicNew 9 n a x c = a) ∧
    ∀ t, t = (if n = 8 then FloatFmt.f64 else .f32) →
      (atomicNew 10 n a x c).toNat = (fadd t .rne false (decodeFloat t a.toNat) (decodeFloat t x.toNat)).bits % 2 ^ 64

/-- The scratchpad words. vlds reads, for each active lane, the bytes at its offset, whose value is in flight for vd under a tag that is
written at issue. vsts writes, for each lane that performs, the low bytes of its data at its offset, of lanes that write one byte the
highest-numbered one. A vatom or vatomn of the scratchpad performs one atomic for each, in some order, and vatom's old values are in flight
for vd. No other byte of the scratchpad, and no byte of memory, changes (R259, R262, R267 to R270). -/
def Claims.ScratchWords : Prop :=
  ∀ (w : LaneWord) (s : State) (r : SplitRef) (g : Group) (sp : Split) (left : Nat) (pk : Bool) (x : LaneCtx) (wg : Workgroup),
    x = laneCtx s r g sp w → tget s.wgs g.wg = some wg → wg.scratch.wf = true →
    (∀ n : Fin 128, Free specVlds s r g sp w left pk → w.vd = .v n → x.act ≠ 0 →
      ∃ (t : State) (g' : Group) (sp' : Split) (y : InFlight), exec (.vlds w) s = .next t ∧ Stepped s t r g g' sp sp' left pk ∧
        t.mem = s.mem ∧ t.wgs = s.wgs ∧ TagAtIssue g g' n.val (loadsTag x) ∧ LastInFlight s sp sp' y ∧ ReturnsTo y n.val x.act (loadsTag x) (fun k =>
          loadedAs w.sub.val (ofBytes (wg.scratch.readBytes (scratchAt x k) (widthBytes w.sub.val))))) ∧
    (Free specVsts s r g sp w left pk →
      ∃ (t : State) (g' : Group) (sp' : Split) (v : Workgroup), exec (.vsts w) s = .next t ∧ Stepped s t r g g' sp sp' left pk ∧
        t.mem = s.mem ∧ LanesSame g g' ∧ sp'.inflight = sp.inflight ∧ tget t.wgs g.wg = some v ∧ v.tiles = wg.tiles ∧
        v.objects = wg.objects ∧ (∀ k, k ≠ g.wg → tget t.wgs k = tget s.wgs k) ∧
        (∀ b, (∀ k, performing x true k = true → b < scratchAt x k ∨ scratchAt x k + widthBytes w.sub.val ≤ b) →
          v.scratch.read b = wg.scratch.read b) ∧
        ∀ k i, performing x true k = true → i < widthBytes w.sub.val →
          (∀ j, k < j → performing x true j = true →
            scratchAt x k + i < scratchAt x j ∨ scratchAt x j + widthBytes w.sub.val ≤ scratchAt x k + i) →
          v.scratch.read (scratchAt x k + i) = BitVec.ofNat 8 ((laneData x (widthBytes w.sub.val == 8) k).toNat / 2 ^ (8 * i))) ∧
    ∀ n : Nat, n = (if w.mods.val % 2 = 1 then 8 else 4) → 2 ≤ w.mods.val % 4 → w.sub.val < 11 →
      (Free specVatomn s r g sp w left pk →
        ∃ (t : State) (g' : Group) (sp' : Split) (v : Workgroup) (l : List Nat), exec (.vatomn w) s = .next t ∧
          Stepped s t r g g' sp sp' left pk ∧ t.mem = s.mem ∧ LanesSame g g' ∧ sp'.inflight = sp.inflight ∧ tget t.wgs g.wg = some v ∧
          l.Perm ((List.range 96).filter (performing x true)) ∧ (∀ a, v.scratch.read a = (atomicsAt x n wg.scratch l).1.read a)) ∧
      ∀ d : Fin 128, Free specVatom s r g sp w left pk → w.vd = .v d → (∃ k, performing x true k = true) →
        ∃ (t : State) (g' : Group) (sp' : Split) (v : Workgroup) (l : List Nat) (y : InFlight) (f : Tag), exec (.vatom w) s = .next t ∧
          Stepped s t r g g' sp sp' left pk ∧ t.mem = s.mem ∧ tget t.wgs g.wg = some v ∧
          l.Perm ((List.range 96).filter (performing x true)) ∧ (∀ a, v.scratch.read a = (atomicsAt x n wg.scratch l).1.read a) ∧
          TagAtIssue g g' d.val f ∧ tagWide f = (n == 8) ∧ (∀ u, x.tagOf w.vc = some u → f = u) ∧
          LastInFlight s sp sp' y ∧
          ReturnsTo y d.val (maskOf (performing x true)) f (fun k => (tget (atomicsAt x n wg.scratch l).2 k).getD 0)

/-- A state that differs from another in its groups and its serial alone. -/
def GroupsAside (s t : State) : Prop := { t with groups := s.groups, serial := s.serial } = s

/-- The word has performed the accesses `l` one after another, in a state that differs from `s` in the record of its own result alone: the
bytes of memory, the acknowledgements and the results in flight are what they leave. -/
def Performed (s t : State) (r : SplitRef) (g : Group) (sp sp' : Split) (m : MemFields) (result : Option Nat) (l : List Access) : Prop :=
  ∃ s1 u : State, GroupsAside s s1 ∧ u = performAll s1 (whoOf s r g sp) m result l ∧ BytesSame u t ∧ t.acks = u.acks ∧
    t.remotes = u.remotes ∧ t.coreTab = u.coreTab ∧ ∃ sp1 su, s1.split r = some sp1 ∧ u.split r = some su ∧ sp'.inflight = su.inflight ∧
      (result = none → sp1.inflight = sp.inflight) ∧
      ∀ k, result = some k → ∃ y, sp1.inflight = sp.inflight ++ [y] ∧ y.id = k ∧
        y.awaited = (List.range 96).filter (fun i => l.any (fun a => a.lane == i))

/-- The accesses of a word: one for each lane that performs, at its address. -/
def laneAccesses (x : LaneCtx) (stores : Bool) (n : Nat) (op : AccOp) (e : Ext) (d c : Nat → DWord) : List Access :=
  ((List.range 96).filter (performing x stores)).map (fun k =>
    { lane := k, va := globalAt x k, size := n, op := op, data := d k, compare := c k, ext := e })

/-- The global words perform one access for each lane, at the address of R259: vld reads, in ascending order; vst stores, of the lanes that
write one byte the highest-numbered alone; vatom and vatomn perform their atomics in some order. vld and vatom have a result in flight
(R259, R262, R267 to R270). -/
def Claims.GlobalWords : Prop :=
  ∀ (w : LaneWord) (s : State) (r : SplitRef) (g : Group) (sp : Split) (left : Nat) (pk : Bool) (x : LaneCtx), x = laneCtx s r g sp w →
    (∀ n : Fin 128, Free specVld s r g sp w left pk → w.vd = .v n → x.act ≠ 0 →
      ∃ (t : State) (g' : Group) (sp' : Split), exec (.vld w) s = .next t ∧ Stepped s t r g g' sp sp' left pk ∧
        TagAtIssue g g' n.val (loadsTag x) ∧ Performed s t r g sp sp' x.mem (some s.serial)
          (laneAccesses x false (widthBytes w.sub.val) .load (if w.sub = 0 ∨ w.sub = 2 then .sign else .zero) (fun _ => 0) (fun _ => 0))) ∧
    (Free specVst s r g sp w left pk →
      ∃ (t : State) (g' : Group) (sp' : Split), exec (.vst w) s = .next t ∧ Stepped s t r g g' sp sp' left pk ∧ LanesSame g g' ∧
        Performed s t r g sp sp' x.mem none (storeSplit
          (laneAccesses x true (widthBytes w.sub.val) .store .zero (laneData x (widthBytes w.sub.val == 8)) (fun _ => 0)))) ∧
    ∀ (n : Nat) (l0 : List Access), n = (if w.mods.val % 2 = 1 then 8 else 4) → w.mods.val % 4 < 2 → w.sub.val < 11 →
      l0 = laneAccesses x true n (.atomic w.sub.val) .zero (laneData x (n == 8))
        (fun k => if w.sub = 9 then x.src w.vd (if n = 8 then .n64 else .raw) k else 0) →
      (Free specVatomn s r g sp w left pk →
        ∃ (t : State) (g' : Group) (sp' : Split) (l : List Access), exec (.vatomn w) s = .next t ∧ Stepped s t r g g' sp sp' left pk ∧
          LanesSame g g' ∧ l.Perm l0 ∧ Performed s t r g sp sp' x.mem none l) ∧
      ∀ d : Fin 128, Free specVatom s r g sp w left pk → w.vd = .v d → (∃ k, performing x true k = true) →
        ∃ (t : State) (g' : Group) (sp' : Split) (l : List Access), exec (.vatom w) s = .next t ∧ Stepped s t r g g' sp sp' left pk ∧
          (∃ f, TagAtIssue g g' d.val f ∧ tagWide f = (n == 8)) ∧ l.Perm l0 ∧ Performed s t r g sp sp' x.mem (some s.serial) l

/-- The bytes that a store access writes. -/
def writesByte (a : Access) (b : Nat) : Prop := a.va.toNat ≤ b ∧ b < a.va.toNat + a.size

/-- Accesses are performed one after another, each in the state that those before it leave. At plain memory a load takes the bytes there and
changes none; a store leaves its bytes, and an atomic its new value, with their acknowledgement outstanding; an absent page holds an access
in the galley, which changes no byte. Of the stores of one instruction exactly one writes a byte, the last of them in lane order
(R235, R246, R261, R262, R264, R336). -/
def Claims.Accesses : Prop :=
  (∀ (s : State) (w : Who) (m : MemFields) (result : Option Nat),
    performAll s w m result [] = s ∧
    ∀ (a : Access) (l : List Access) (u : State) (d : Done), performAccess s w m result a = (u, d) →
      (pageHeld s w.ref.core w.gkey (pageOf a.va) = false → d ≠ .held →
        performAll s w m result (a :: l) = performAll (settle u w result a d) w m result l) ∧
      (pageHeld s w.ref.core w.gkey (pageOf a.va) = false → d = .held →
        BytesSame (performAll u w m result l) (performAll s w m result (a :: l))) ∧
      (pageHeld s w.ref.core w.gkey (pageOf a.va) = true → BytesSame (performAll s w m result l) (performAll s w m result (a :: l)))) ∧
  (∀ (s : State) (w : Who) (k : Nat) (a : Access) (v : DWord) (sp : Split) (y : InFlight), s.split w.ref = some sp →
    BytesSame s (settle s w (some k) a (.value v)) ∧
    ∃ sp', (settle s w (some k) a (.value v)).split w.ref = some sp' ∧ (y ∈ sp.inflight → y.id = k → y.fill a.lane v ∈ sp'.inflight) ∧
      (y ∈ sp.inflight → y.id ≠ k → y ∈ sp'.inflight)) ∧
  (∀ (s : State) (w : Who) (m : MemFields) (result : Option Nat) (a : Access) (s1 u : State) (l : Leaf) (d : Done),
    translate s (some w.ref.core) w.ctx a.va a.op.use = (s1, .ok l) → isMemory l.pa = true → s.poisonedAt l.pa a.size = false →
    performAccess s w m result a = (u, d) → s.mem.wf = true → 0 < a.size → l.pa % 128 + a.size ≤ 128 →
    (a.op = .load → BytesSame s u ∧ (Uncached s w.ref m l → d = .value (extend a.ext a.size (valueAt s l a.size)))) ∧
    (a.op = .store → d = .value 0 ∧ l.pa % 32 + a.size ≤ 32 → Stored s u l a.size a.data.toNat ∧ AckOut u w.ref l a.size) ∧
    (∀ op, a.op = .atomic op → l.pa % 32 + a.size ≤ 32 → d = .value (BitVec.ofNat 64 (valueAt s l a.size)) ∧
      Stored s u l a.size (atomicNew op a.size (BitVec.ofNat 64 (valueAt s l a.size)) a.data a.compare).toNat ∧ AckOut u w.ref l a.size)) ∧
  (∀ (s : State) (w : Who) (m : MemFields) (result : Option Nat) (a : Access) (s1 : State) (c : FaultCode),
    translate s (some w.ref.core) w.ctx a.va a.op.use = (s1, .error c) →
    performAccess s w m result a = (s1, if c = .pageNotPresent then .held else .failed c) ∧ BytesSame s s1) ∧
  ∀ l : List Access, (∀ a ∈ l, a.op = .store ∧ 0 < a.size ∧ a.va.toNat % a.size = 0 ∧ 2 ^ 64 % a.size = 0) →
    ∀ b : Nat, ∀ before a after, l = before ++ a :: after → writesByte a b → (∀ c ∈ after, ¬writesByte c b) →
      ((storeSplit l).filter (fun c => decide (c.va.toNat ≤ b) && decide (b < c.va.toNat + c.size))).length = 1 ∧
      ∃ c ∈ storeSplit l, writesByte c b ∧ c.lane = a.lane ∧
        BitVec.ofNat 8 (c.data.toNat / 2 ^ (8 * (b - c.va.toNat))) = BitVec.ofNat 8 (a.data.toNat / 2 ^ (8 * (b - a.va.toNat)))

/-- The lane words outside the graphics units, and what those of them that reach memory or the scratchpad read and write. -/
def Obligations.LaneWords : Prop :=
  Claims.LaneForms ∧ Claims.AtomicTable ∧ Claims.ScratchWords ∧ Claims.GlobalWords ∧ Claims.Accesses

/-- Lanes `act` of vd, or of the pair that it begins for a 64-bit tag, are written with `v` under tag `f`; every other lane, every
other register, the condition registers and the accumulators stay (R165, R166). -/
def WroteV (g g' : Group) (act : LaneMask) (n : Fin 128) (f : Tag) (v : Fin 96 → DWord) : Prop :=
  (g'.regs.getD n.val VReg.zero).tag = f ∧
  (∀ i : Fin 96, (g'.regs.getD n.val VReg.zero).data[i] =
    if act.getLsbD i.val then (v i).lo else (g.regs.getD n.val VReg.zero).data[i]) ∧
  (tagWide f = true → (g'.regs.getD (n.val + 1) VReg.zero).tag = f ∧
    ∀ i : Fin 96, (g'.regs.getD (n.val + 1) VReg.zero).data[i] =
      if act.getLsbD i.val then (v i).hi else (g.regs.getD (n.val + 1) VReg.zero).data[i]) ∧
  (∀ k, k ≠ n.val → ¬(tagWide f = true ∧ k = n.val + 1) → g'.regs.getD k VReg.zero = g.regs.getD k VReg.zero) ∧
  g'.regs.length = g.regs.length ∧ g'.vc = g.vc ∧ g'.xa = g.xa

/-- A word within a run whose destination is in range under tag `f`, with a non-empty exec mask. -/
def Writing (s : State) (r : SplitRef) (g : Group) (sp : Split) (w : LaneWord) (left : Nat) (pk : Bool) (n : Fin 128) (f : Tag) : Prop :=
  InRun s r g sp w left pk ∧ w.vd = .v n ∧ destInRange g.regs.length w.vd (tagWide f) = true ∧ execMask s sp ≠ 0

/-- It completes, writes `v` under tag `f` to its active lanes, and raises no flag. -/
def LaneResult (i : Instr) (s : State) (r : SplitRef) (g : Group) (sp : Split) (w : LaneWord) (left : Nat) (pk : Bool) (n : Fin 128)
    (f : Tag) (v : Fin 96 → DWord) : Prop :=
  ∃ (t : State) (g' : Group) (sp' : Split), exec i s = .next t ∧ Stepped s t r g g' sp sp' left pk ∧ sp'.fpstat = sp.fpstat ∧
    sp'.inflight.map InFlight.id = sp.inflight.map InFlight.id ∧ t.mem = s.mem ∧
    WroteV g g' (laneCtx s r g sp w).act n f v

/-- Element `h` of a value of a format: its halves for a packed one. -/
def elemAt (f : Tag) (h v : Nat) : Nat := if tagPacked f then v / 65536 ^ h % 65536 else v

/-- The elements of a value of a format. -/
def elemsOf (f : Tag) : Nat := if tagPacked f then 2 else 1

/-- A signed format. -/
def signedTag (f : Tag) : Bool := f == .i32 || f == .i16x2 || f == .i64

/-- An element of an integer operand after its modifiers (R172). -/
def intOperand (x : LaneCtx) (f : Tag) (m : Nat) (o : Opnd) (i h : Nat) : Int :=
  elemInt (signedTag f) (elemBits f) (modify (tagKind f) m (elemAt f h (x.src o f i).toNat))

/-- The bits of an integer result (R170): the exact result modulo 2^n, or with saturate clamped to the format's range. -/
def IntIs (f : Tag) (sat : Bool) (exact : Int) (bits : Nat) : Prop :=
  bits < 2 ^ elemBits f ∧
  (sat = false → (bits : Int) = exact % (2 : Int) ^ elemBits f) ∧
  (sat = true → elemInt (signedTag f) (elemBits f) bits =
    max (if signedTag f then -(2 : Int) ^ (elemBits f - 1) else 0)
      (min ((if signedTag f then (2 : Int) ^ (elemBits f - 1) else (2 : Int) ^ elemBits f) - 1) exact))

/-- A polymorphic word over sources `os` in an integer format: each element of its result is `op` of its operands' elements. -/
def IntForm (i : LaneWord → Instr) (os : LaneWord → List Opnd) (modified : Bool) (op : List Int → Int) : Prop :=
  ∀ (w : LaneWord) (s : State) (r : SplitRef) (g : Group) (sp : Split) (left : Nat) (pk : Bool) (n : Fin 128) (f : Tag),
    Writing s r g sp w left pk n f → (laneCtx s r g sp w).poly (os w) = some f → tagIsInt f = true → w.rnd = 0 →
    (∀ o ∈ os w, srcInRange g.regs.length o (tagWide f) = true) →
    (modified = false ∨ w.mods = 0 ∨ signedTag f = true) →
    ∃ v : Fin 96 → DWord, LaneResult (i w) s r g sp w left pk n f v ∧
      ∀ (k : Fin 96) (h : Nat), (laneCtx s r g sp w).act.getLsbD k.val = true → h < elemsOf f →
        IntIs f w.sat (op ((os w).zipIdx.map (fun e =>
          intOperand (laneCtx s r g sp w) f (if modified ∧ e.2 < 2 then w.mods.val / 4 ^ e.2 % 4 else 0) e.1 k.val h)))
          (elemAt f h (v k).toNat)

/-- Integer arithmetic of the lanes, in all six integer formats (R170, R172, R173, R174). -/
def Claims.LaneInts : Prop :=
  IntForm .vadd (fun w => [w.va, w.vb]) true (fun l => l.getD 0 0 + l.getD 1 0) ∧
  IntForm .vsub (fun w => [w.va, w.vb]) true (fun l => l.getD 0 0 - l.getD 1 0) ∧
  IntForm .vmul (fun w => [w.va, w.vb]) true (fun l => l.getD 0 0 * l.getD 1 0) ∧
  IntForm .vmad (fun w => [w.va, w.vb, w.vc]) true (fun l => l.getD 0 0 * l.getD 1 0 + l.getD 2 0) ∧
  IntForm .vmin (fun w => [w.va, w.vb]) true (fun l => min (l.getD 0 0) (l.getD 1 0)) ∧
  IntForm .vmax (fun w => [w.va, w.vb]) true (fun l => max (l.getD 0 0) (l.getD 1 0)) ∧
  IntForm .vabs (fun w => [w.va]) false (fun l => if l.getD 0 0 < 0 then -l.getD 0 0 else l.getD 0 0) ∧
  IntForm .vneg (fun w => [w.va]) false (fun l => -l.getD 0 0)

/-- It completes, writes `v` under tag `f` to its active lanes, and raises the flags `e` of those lanes. -/
def LaneFlagged (i : Instr) (s : State) (r : SplitRef) (g : Group) (sp : Split) (w : LaneWord) (left : Nat) (pk : Bool) (n : Fin 128)
    (f : Tag) (v : Fin 96 → DWord) (e : Fin 96 → BitVec 5) : Prop :=
  ∃ (t : State) (g' : Group) (sp' : Split), exec i s = .next t ∧ Stepped s t r g g' sp sp' left pk ∧
    (∀ b, b < 5 → (sp'.fpstat.getLsbD b = true ↔ sp.fpstat.getLsbD b = true ∨
      ∃ k : Fin 96, (laneCtx s r g sp w).act.getLsbD k.val = true ∧ (e k).getLsbD b = true)) ∧
    sp'.inflight.map InFlight.id = sp.inflight.map InFlight.id ∧ t.mem = s.mem ∧ WroteV g g' (laneCtx s r g sp w).act n f v

/-- A word within a run that passes every check, whose destination is v`n`, with a non-empty exec mask. -/
def Passes (p : LaneSpec) (s : State) (r : SplitRef) (g : Group) (sp : Split) (w : LaneWord) (left : Nat) (pk : Bool) (n : Fin 128) : Prop :=
  InRun s r g sp w left pk ∧ laneFault p (laneCtx s r g sp w) = none ∧ w.vd = .v n ∧ execMask s sp ≠ 0

/-- An element of an operand in a format after its modifiers, as bits (R172). -/
def modified (x : LaneCtx) (f : Tag) (m : Nat) (o : Opnd) (i h : Nat) : Nat := modify (tagKind f) m (elemAt f h (x.src o f i).toNat)

/-- A word over sources `os` in a floating format, which its checks `p` find by `fmt`: each element of its result, under tag `res`, and the
flags that it raises are as `P` says of the word, the format and its operands' elements. -/
def FloatForm (i : LaneWord → Instr) (p : LaneSpec) (fmt : LaneCtx → Option Tag) (os : LaneWord → List Opnd) (res : Tag → Tag)
    (P : LaneCtx → FloatFmt → List Nat → Nat → BitVec 5 → Prop) : Prop :=
  ∀ (w : LaneWord) (s : State) (r : SplitRef) (g : Group) (sp : Split) (left : Nat) (pk : Bool) (n : Fin 128) (f : Tag) (x : LaneCtx),
    Passes p s r g sp w left pk n → x = laneCtx s r g sp w → fmt x = some f → tagIsInt f = false →
    ∃ (v : Fin 96 → DWord) (e : Fin 96 → Nat → BitVec 5),
      LaneFlagged (i w) s r g sp w left pk n (res f) v (fun k => if tagPacked f then e k 0 ||| e k 1 else e k 0) ∧
      ∀ (k : Fin 96) (h : Nat), x.act.getLsbD k.val = true → h < elemsOf f →
        P x (floatOf f) ((os w).zipIdx.map (fun o =>
          modified x f (if o.2 = 0 then w.mods.val % 4 else if o.2 = 1 then w.mods.val / 4 else 0) o.1 k.val h))
          (elemAt (res f) h (v k).toNat) (e k h)

/-- The result of an operation on the decoded values of elements. -/
def Computes (op : FloatFmt → Rounding → Bool → List Machine.Num → FloatResult) (x : LaneCtx) (t : FloatFmt) (l : List Nat) (b : Nat)
    (e : BitVec 5) : Prop :=
  b = (op t x.mode x.w.sat (l.map (decodeFloat t))).bits ∧ e = (op t x.mode x.w.sat (l.map (decodeFloat t))).flags

/-- The lesser, or the greater, of two floating elements, with -0 below +0; of one NaN the other, of two the canonical one, with NV where one
signals (R173). -/
def MinMax (greater : Bool) (_ : LaneCtx) (t : FloatFmt) (l : List Nat) (b : Nat) (e : BitVec 5) : Prop :=
  ∀ p q : Nat, l = [p, q] → ∀ a c : Machine.Num, a = decodeFloat t p → c = decodeFloat t q →
    e = (if a.signals || c.signals then flagNV else 0) ∧
    (a.isNan = true → c.isNan = true → b = t.nan) ∧ (a.isNan = true → c.isNan = false → b = q) ∧ (a.isNan = false → c.isNan = true → b = p) ∧
    (a.isNan = false → c.isNan = false → (b = p ∨ b = q) ∧ ∀ y ∈ [a, c],
      (if greater then orderLess (decodeFloat t b) y else orderLess y (decodeFloat t b)) = false)

/-- A transcendental result: what its function gives of the operand and of some candidate, which is free (R119). -/
def Approximates (op : FloatFmt → Bool → Nat → Machine.Num → FloatResult) (x : LaneCtx) (t : FloatFmt) (l : List Nat) (b : Nat) (e : BitVec 5) : Prop :=
  ∃ cand, ∀ p, l = [p] → b = (op t x.w.sat cand (decodeFloat t p)).bits ∧ e = (op t x.w.sat cand (decodeFloat t p)).flags

/-- vround: the integer that the mode gives, a zero result with the operand's sign, no NX; vfract: va - floor(va) rounded to nearest, below
1; vclass: one bit, for the class (R183, R184). -/
def Rounds (x : LaneCtx) (t : FloatFmt) (l : List Nat) (b : Nat) (e : BitVec 5) : Prop :=
  ∀ p, l = [p] → match decodeFloat t p with
    | .nan s => b = t.nan ∧ e = if s then flagNV else 0
    | .inf _ => b = p ∧ e = 0
    | .fin n q => e = 0 ∧ (q.isZero = true → b = p) ∧ (q.isZero = false → b = if roundMag x.mode n q = 0 then signBit t n
        else (roundFloat t .rne false n (Q.ofInt (roundMag x.mode n q))).bits)

def Fraction (_ : LaneCtx) (t : FloatFmt) (l : List Nat) (b : Nat) (e : BitVec 5) : Prop :=
  ∀ p, l = [p] → match decodeFloat t p with
    | .nan s => b = t.nan ∧ e = if s then flagNV else 0
    | .inf _ => b = t.nan ∧ e = flagNV
    | .fin n q => ∀ a : Q, a = (if n then q.neg else q) → ∀ d, d = deliver t .rne false false (a.sub (Q.ofInt a.floor)) →
        e = d.flags ∧ b = if d.bits = t.bias * 2 ^ t.man then t.bias * 2 ^ t.man - 1 else d.bits

def Classes (_ : LaneCtx) (t : FloatFmt) (l : List Nat) (b : Nat) (e : BitVec 5) : Prop :=
  e = 0 ∧ ∀ p, l = [p] → b = match decodeFloat t p with
    | .nan s => if s then 2 ^ 8 else 2 ^ 9
    | .inf n => if n then 2 ^ 0 else 2 ^ 7
    | .fin n q => if q.isZero then (if n then 2 ^ 3 else 2 ^ 4) else if q.lt (Q.pow2 t.emin) then (if n then 2 ^ 2 else 2 ^ 5)
        else if n then 2 ^ 1 else 2 ^ 6

/-- Floating arithmetic of the lanes: each element once rounded, by the word's mode, with the special cases and flags of R111 to R117; the
words of one operation without rounding; vdot2 with one rounding in f32, and vldexp by a power of two, whose exponents beyond ±4400 act as
those do, every format's range ending before them (R172, R173, R183, R184). -/
def Claims.LaneFloats : Prop :=
  (FloatForm .vadd specVadd (fun x => x.poly [x.w.va, x.w.vb]) (fun w => [w.va, w.vb]) id
      (Computes (fun t m z l => fadd t m z (l.getD 0 (.inf false)) (l.getD 1 (.inf false)))) ∧
   FloatForm .vsub specVsub (fun x => x.poly [x.w.va, x.w.vb]) (fun w => [w.va, w.vb]) id
      (Computes (fun t m z l => fadd t m z (l.getD 0 (.inf false)) (l.getD 1 (.inf false)).negate)) ∧
   FloatForm .vmul specVmul (fun x => x.poly [x.w.va, x.w.vb]) (fun w => [w.va, w.vb]) id
      (Computes (fun t m z l => fmul t m z (l.getD 0 (.inf false)) (l.getD 1 (.inf false)))) ∧
   FloatForm .vmad specVmad (fun x => x.poly [x.w.va, x.w.vb, x.w.vc]) (fun w => [w.va, w.vb, w.vc]) id
      (Computes (fun t m z l => fmad t m z (l.getD 0 (.inf false)) (l.getD 1 (.inf false)) (l.getD 2 (.inf false)))) ∧
   FloatForm .vmin specVmin (fun x => x.poly [x.w.va, x.w.vb]) (fun w => [w.va, w.vb]) id (MinMax false) ∧
   FloatForm .vmax specVmax (fun x => x.poly [x.w.va, x.w.vb]) (fun w => [w.va, w.vb]) id (MinMax true)) ∧
  (FloatForm .vdiv specVdiv (fun x => x.floatTag fullFloat [x.w.va, x.w.vb]) (fun w => [w.va, w.vb]) id
      (Computes (fun t m z l => fdiv t m z (l.getD 0 (.inf false)) (l.getD 1 (.inf false)))) ∧
   FloatForm .vsqrt specVsqrt (fun x => x.floatTag fullFloat [x.w.va]) (fun w => [w.va]) id
      (Computes (fun t m z l => fsqrt t m z (l.getD 0 (.inf false)))) ∧
   FloatForm .vround specVround (fun x => x.floatTag fullFloat [x.w.va]) (fun w => [w.va]) id Rounds ∧
   FloatForm .vfract specVfract (fun x => x.floatTag fullFloat [x.w.va]) (fun w => [w.va]) id Fraction ∧
   FloatForm .vclass specVclass (fun x => x.floatTag fullFloat [x.w.va]) (fun w => [w.va])
      (fun f => if tagPacked f then .n16x2 else .n32) Classes) ∧
  (FloatForm .vrcp specVrcp (fun x => x.floatTag shortFloat [x.w.va]) (fun w => [w.va]) id (Approximates rcpResult) ∧
   FloatForm .vrsq specVrsq (fun x => x.floatTag shortFloat [x.w.va]) (fun w => [w.va]) id (Approximates rsqResult) ∧
   FloatForm .vexp2 specVexp2 (fun x => x.floatTag shortFloat [x.w.va]) (fun w => [w.va]) id (Approximates exp2Result) ∧
   FloatForm .vlog2 specVlog2 (fun x => x.floatTag shortFloat [x.w.va]) (fun w => [w.va]) id (Approximates log2Result) ∧
   FloatForm .vsin specVsin (fun x => x.floatTag shortFloat [x.w.va]) (fun w => [w.va]) id (Approximates sinResult) ∧
   FloatForm .vcos specVcos (fun x => x.floatTag shortFloat [x.w.va]) (fun w => [w.va]) id (Approximates cosResult)) ∧
  ∀ (w : LaneWord) (s : State) (r : SplitRef) (g : Group) (sp : Split) (left : Nat) (pk : Bool) (n : Fin 128) (f : Tag) (x : LaneCtx),
    x = laneCtx s r g sp w →
    (Passes specVdot2 s r g sp w left pk n → x.floatTag dotTag [w.va, w.vb] = some f →
      ∀ half : Nat → Opnd → Nat → Nat → Machine.Num, half = (fun m o k h => decodeFloat (floatOf f) (modified x f m o k h)) →
      ∀ y : Fin 96 → FloatResult, y = (fun k => dot2 x.mode w.sat (half (w.mods.val % 4) w.va k.val 0) (half (w.mods.val / 4) w.vb k.val 0)
        (half (w.mods.val % 4) w.va k.val 1) (half (w.mods.val / 4) w.vb k.val 1) (decodeFloat .f32 (x.src w.vc .f32 k.val).toNat)) →
      LaneFlagged (.vdot2 w) s r g sp w left pk n .f32 (fun k => BitVec.ofNat 64 (y k).bits) (fun k => (y k).flags)) ∧
    (Passes specVldexp s r g sp w left pk n → x.floatTag fullFloat [w.va] = some f →
      ∃ (v : Fin 96 → DWord) (e : Fin 96 → Nat → BitVec 5),
        LaneFlagged (.vldexp w) s r g sp w left pk n f v (fun k => if tagPacked f then e k 0 ||| e k 1 else e k 0) ∧
        ∀ (k : Fin 96) (h : Nat), x.act.getLsbD k.val = true → h < elemsOf f →
          match decodeFloat (floatOf f) (modified x f (w.mods.val % 4) w.va k.val h) with
          | .nan q => elemAt f h (v k).toNat = (floatOf f).nan ∧ e k h = if q then flagNV else 0
          | .inf _ => elemAt f h (v k).toNat = modified x f (w.mods.val % 4) w.va k.val h ∧ e k h = 0
          | .fin neg q => (q.isZero = true → elemAt f h (v k).toNat = modified x f (w.mods.val % 4) w.va k.val h ∧ e k h = 0) ∧
              (q.isZero = false → ∀ d, d = roundFloat (floatOf f) x.mode w.sat neg
                (q.scale (max (-4400) (min 4400 (x.word w.vb k.val).toInt))) → elemAt f h (v k).toNat = d.bits ∧ e k h = d.flags))

/-- The special cases of the transcendental words, and their bounds: of an operand that is no special case the result is exact, overflows,
is the exact value rounded to nearest, or is a candidate within the bound, which raises NX (R115, R117, R119). -/
def Claims.Transcendentals : Prop :=
  ∀ (t : FloatFmt) (z : Bool) (cand : Nat), t ∈ [FloatFmt.f32, .f16, .bf16] →
    (∀ op ∈ [rcpResult, rsqResult, exp2Result, log2Result, sinResult, cosResult], ∀ q,
      op t z cand (.nan q) = nanResult t (if q then flagNV else 0)) ∧
    (∀ n, rcpResult t z cand (.inf n) = zeroResult t n ∧ sinResult t z cand (.inf n) = nanResult t flagNV ∧
      cosResult t z cand (.inf n) = nanResult t flagNV) ∧
    rsqResult t z cand (.inf false) = zeroResult t false ∧ rsqResult t z cand (.inf true) = nanResult t flagNV ∧
    exp2Result t z cand (.inf false) = infResult t false z 0 ∧ exp2Result t z cand (.inf true) = zeroResult t false ∧
    log2Result t z cand (.inf false) = infResult t false z 0 ∧ log2Result t z cand (.inf true) = nanResult t flagNV ∧
    (∀ n q, q.isZero = true → rcpResult t z cand (.fin n q) = infResult t n z flagDZ ∧
      rsqResult t z cand (.fin n q) = infResult t n z flagDZ ∧ log2Result t z cand (.fin n q) = infResult t true z flagDZ ∧
      sinResult t z cand (.fin n q) = zeroResult t n ∧ cosResult t z cand (.fin n q) = deliver t .rne false false (Q.ofInt 1)) ∧
    (∀ q, q.isZero = false → rsqResult t z cand (.fin true q) = nanResult t flagNV ∧ log2Result t z cand (.fin true q) = nanResult t flagNV) ∧
    (∀ q, q.isZero = false → q.isPow2 = true → log2Result t z cand (.fin false q) = deliver t .rne z false (Q.ofInt q.log2)) ∧
    (∀ n q y, q.isZero = false → q.isPow2 = true → exactly t ((Q.ofInt (if n then -1 else 1)).div q) = some y →
      rcpResult t z cand (.fin n q) = y) ∧
    ∀ x bound err : Q, ∀ near, near = roundFloat t .rne z (decide (x.num < 0)) x.abs →
      (near.flags &&& flagOF ≠ 0 → boundedResult t z cand x bound err = near) ∧
      (near.flags &&& flagOF = 0 → (boundedResult t z cand x bound err).flags.getLsbD 4 = true ∧
        ((boundedResult t z cand x bound err).bits = near.bits ∨ ∃ n q, decodeFloat t (boundedResult t z cand x bound err).bits = .fin n q ∧
          ((((if n then q.neg else q).sub x).abs.add err).le bound) = true))

/-- vmulhi: the high half of the exact product (R180). -/
def Claims.HighProduct : Prop :=
  ∀ (w : LaneWord) (s : State) (r : SplitRef) (g : Group) (sp : Split) (left : Nat) (pk : Bool) (n : Fin 128) (f : Tag) (x : LaneCtx),
    Passes specVmulhi s r g sp w left pk n → x = laneCtx s r g sp w → x.mulhi = some f →
    f ∈ [Tag.i32, .n32, .i64, .n64] ∧ ∃ v : Fin 96 → DWord, LaneResult (.vmulhi w) s r g sp w left pk n f v ∧
      ∀ k : Fin 96, x.act.getLsbD k.val = true →
        IntIs f false (intOperand x f 0 w.va k.val 0 * intOperand x f 0 w.vb k.val 0 / (2 : Int) ^ elemBits f) (v k).toNat

/-- Integer and floating arithmetic of the lanes (R119, R170, R172 to R174, R180, R183, R184). -/
def Obligations.LaneIntegers : Prop :=
  Claims.LaneInts ∧ Claims.HighProduct ∧ Claims.LaneFloats ∧ Claims.Transcendentals

/-- A shift word: each element of its result is `op` of va's element, the width, and the amount taken modulo it. -/
def ShiftForm (i : LaneWord → Instr) (op : Nat → Nat → Nat → Int) : Prop :=
  ∀ (w : LaneWord) (s : State) (r : SplitRef) (g : Group) (sp : Split) (left : Nat) (pk : Bool) (n : Fin 128) (f : Tag),
    Writing s r g sp w left pk n f → (laneCtx s r g sp w).fmtA = f → f ∈ [Tag.raw, .i32, .n32, .i16x2, .n16x2, .i64, .n64] →
    srcInRange g.regs.length w.va (tagWide f) = true → srcInRange g.regs.length w.vb false = true →
    ((laneCtx s r g sp w).ov ≠ none ∨ (laneCtx s r g sp w).tagOf w.vb ∈ [none, some .i32, some .n32]) →
    ∃ v : Fin 96 → DWord, LaneResult (i w) s r g sp w left pk n f v ∧
      ∀ (k : Fin 96) (h : Nat), (laneCtx s r g sp w).act.getLsbD k.val = true → h < elemsOf f →
        (elemAt f h (v k).toNat : Int) = op (elemAt f h ((laneCtx s r g sp w).src w.va f k.val).toNat) (elemBits f)
          (((laneCtx s r g sp w).word w.vb k.val).toNat % elemBits f) % (2 ^ elemBits f : Nat)

/-- A bitwise word: `op` of every bit of its sources, as wide as its result tag (R178). -/
def BitForm (i : LaneWord → Instr) (os : LaneWord → List Opnd) (op : List DWord → DWord) : Prop :=
  ∀ (w : LaneWord) (s : State) (r : SplitRef) (g : Group) (sp : Split) (left : Nat) (pk : Bool) (n : Fin 128) (f : Tag),
    Writing s r g sp w left pk n f → (laneCtx s r g sp w).bitTag (os w) = some f →
    (∀ o ∈ os w, srcInRange g.regs.length o ((laneCtx s r g sp w).wide (os w) o) = true) →
    LaneResult (i w) s r g sp w left pk n f (fun k => op ((os w).map (fun o => (laneCtx s r g sp w).src o f k.val)))

/-- The sources of a field word are in range, and their tags, or the override, meet R182. -/
def FieldOk (x : LaneCtx) (os : List Opnd) : Prop :=
  (∀ o ∈ os, srcInRange x.g.regs.length o false = true) ∧
  ((x.ov = none ∧ ∀ o ∈ os, x.tagOf o ∈ [none, some .raw, some .i32, some .n32]) ∨
   ∃ f, x.ov = some f ∧ tagWide f = false ∧ f ≠ .handle)

/-- The tag of a field word's result: the override, or that of the source it names (R182). -/
def fieldTag (x : LaneCtx) (o : Opnd) : Tag := x.ov.getD ((x.tagOf o).getD .raw)

/-- Bits of the lanes: the bitwise forms and the shifts, in every format that they accept, and the field forms (R178, R179, R182). -/
def Claims.BitWords : Prop :=
  BitForm .vand (fun w => [w.va, w.vb]) (fun l => l.getD 0 0 &&& l.getD 1 0) ∧
  BitForm .vor (fun w => [w.va, w.vb]) (fun l => l.getD 0 0 ||| l.getD 1 0) ∧
  BitForm .vxor (fun w => [w.va, w.vb]) (fun l => l.getD 0 0 ^^^ l.getD 1 0) ∧
  BitForm .vnot (fun w => [w.va]) (fun l => ~~~l.getD 0 0) ∧
  ShiftForm .vshl (fun a _ k => (a : Int) * (2 ^ k : Nat)) ∧
  ShiftForm .vshr (fun a _ k => ((a / 2 ^ k : Nat) : Int)) ∧
  ShiftForm .vsra (fun a w k => (BitVec.ofNat w a).toInt / ((2 ^ k : Nat) : Int)) ∧
  ∀ (w : LaneWord) (s : State) (r : SplitRef) (g : Group) (sp : Split) (left : Nat) (pk : Bool) (n : Fin 128),
    Writing s r g sp w left pk n .n32 →
    (FieldOk (laneCtx s r g sp w) [w.va, w.vb] →
      ∃ v : Fin 96 → DWord, LaneResult (.vbfe w) s r g sp w left pk n (fieldTag (laneCtx s r g sp w) w.va) v ∧
        ∀ k : Fin 96, (laneCtx s r g sp w).act.getLsbD k.val = true → ∀ a b o m, a = (laneCtx s r g sp w).word w.va k.val →
          b = (laneCtx s r g sp w).word w.vb k.val → o = b.toNat % 32 → m = min (b.toNat / 256 % 64) (32 - o) → ∀ j, j < 32 →
          (v k).getLsbD j = if j < m then a.getLsbD (o + j) else decide (w.sub = 1) && decide (0 < m) && a.getLsbD (o + m - 1)) ∧
    (FieldOk (laneCtx s r g sp w) [w.va, w.vb, w.vc] →
      ∃ v : Fin 96 → DWord, LaneResult (.vbfi w) s r g sp w left pk n (fieldTag (laneCtx s r g sp w) w.vc) v ∧
        ∀ k : Fin 96, (laneCtx s r g sp w).act.getLsbD k.val = true → ∀ a b c o m, a = (laneCtx s r g sp w).word w.va k.val →
          b = (laneCtx s r g sp w).word w.vb k.val → c = (laneCtx s r g sp w).word w.vc k.val → o = b.toNat % 32 →
          m = min (b.toNat / 256 % 64) (32 - o) → ∀ j, j < 32 →
          (v k).getLsbD j = if o ≤ j ∧ j < o + m then a.getLsbD (j - o) else c.getLsbD j)

/-- The counts and the reversal over the source's whole width; the counts are one n32 register (R181). -/
def Claims.BitCountWords : Prop :=
  ∀ (w : LaneWord) (s : State) (r : SplitRef) (g : Group) (sp : Split) (left : Nat) (pk : Bool) (n : Fin 128) (f : Tag) (x : LaneCtx),
    x = laneCtx s r g sp w → x.fmtA = f →
    ∃ v : Fin 96 → DWord × DWord × DWord,
      (Passes specVclz s r g sp w left pk n → LaneResult (.vclz w) s r g sp w left pk n .n32 (fun k => (v k).1)) ∧
      (Passes specVpopc s r g sp w left pk n → LaneResult (.vpopc w) s r g sp w left pk n .n32 (fun k => (v k).2.1)) ∧
      (Passes specVbrev s r g sp w left pk n → LaneResult (.vbrev w) s r g sp w left pk n f (fun k => (v k).2.2)) ∧
      ∀ k : Fin 96,
        (tagWide f = false → ∃ lead trail ones rev : Word, BitCounts (x.src w.va f k.val).lo lead trail ones rev ∧
          v k = (lead.setWidth 64, ones.setWidth 64, rev.setWidth 64)) ∧
        (tagWide f = true → ∃ lead trail ones rev : DWord, BitCounts (x.src w.va f k.val) lead trail ones rev ∧ v k = (lead, ones, rev))

/-- The bitwise forms, shifts, field forms and counts of the lanes (R178, R179, R181, R182). -/
def Obligations.LaneBits : Prop := Claims.BitWords ∧ Claims.BitCountWords

/-- A word that writes bits of condition register `d`, in its active lanes only, and no vector register (R175, R194). -/
def CondResult (i : Instr) (s : State) (r : SplitRef) (g : Group) (sp : Split) (w : LaneWord) (left : Nat) (pk : Bool) (d : Fin 4)
    (b : Nat → Bool) : Prop :=
  ∃ (t : State) (g' : Group) (sp' : Split), exec i s = .next t ∧ Stepped s t r g g' sp sp' left pk ∧ sp'.fpstat = sp.fpstat ∧
    g'.regs = g.regs ∧ g'.xa = g.xa ∧ (∀ m : Fin 4, m ≠ d → g'.vc[m] = g.vc[m]) ∧ t.mem = s.mem ∧
    ∀ k, k < 96 → (g'.vc[d]).getLsbD k = if (laneCtx s r g sp w).act.getLsbD k then b k else (g.vc[d]).getLsbD k

/-- The integer conditions of R84. -/
def condInt (c : Nat) (a b : Int) : Bool :=
  match c with
  | 0 => decide (a = b) | 1 => decide (a ≠ b) | 2 => decide (a < b) | 3 => decide (a ≤ b) | 4 => decide (b < a) | _ => decide (b ≤ a)

/-- Condition registers: the condition words, vcmp on integer formats, and the readers vsel and vmovc (R84, R175, R176, R190, R194). -/
def Claims.ConditionWords : Prop :=
  ∀ (w : LaneWord) (s : State) (r : SplitRef) (g : Group) (sp : Split) (left : Nat) (pk : Bool), InRun s r g sp w left pk →
    (∀ (d a b : Fin 4), w.sub.val = d.val → w.mods.val = a.val + 4 * b.val →
      CondResult (.vcand w) s r g sp w left pk d (fun k => (readVc s g a).getLsbD k && (readVc s g b).getLsbD k) ∧
      CondResult (.vcor w) s r g sp w left pk d (fun k => (readVc s g a).getLsbD k || (readVc s g b).getLsbD k) ∧
      CondResult (.vcxor w) s r g sp w left pk d (fun k => (readVc s g a).getLsbD k != (readVc s g b).getLsbD k) ∧
      CondResult (.vcnot w) s r g sp w left pk d (fun k => !(readVc s g a).getLsbD k) ∧
      CondResult (.vcmov w) s r g sp w left pk d (fun k => (readVc s g a).getLsbD k)) ∧
    (∀ (d : Fin 4) (f : Tag) (high : Bool), w.sub.val = d.val + (if high then 4 else 0) → w.mods.val < 6 →
      (laneCtx s r g sp w).poly [w.va, w.vb] = some f → tagIsInt f = true → w.rnd = 0 → (high = true → tagPacked f = true) →
      (∀ o ∈ [w.va, w.vb], srcInRange g.regs.length o (tagWide f) = true) →
      CondResult (.vcmp w) s r g sp w left pk d (fun k =>
        condInt w.mods.val (intOperand (laneCtx s r g sp w) f 0 w.va k (if high then 1 else 0))
          (intOperand (laneCtx s r g sp w) f 0 w.vb k (if high then 1 else 0)))) ∧
    (∀ (n : Fin 128) (c : Fin 4) (f : Tag), Writing s r g sp w left pk n f → w.sub.val = c.val → w.rnd = 0 →
      (laneCtx s r g sp w).poly [w.va, w.vb] = some f → (∀ o ∈ [w.va, w.vb], srcInRange g.regs.length o (tagWide f) = true) →
      LaneResult (.vsel w) s r g sp w left pk n f (fun k =>
        (laneCtx s r g sp w).src (if (readVc s g c).getLsbD k.val then w.va else w.vb) f k.val)) ∧
    (∀ (n : Fin 128) (c : Fin 4), Writing s r g sp w left pk n .n32 → w.sub.val = c.val →
      LaneResult (.vmovc w) s r g sp w left pk n .n32 (fun k => if (readVc s g c).getLsbD k.val then 1 else 0))

/-- The floating conditions of R84 by the order -1, 0 or 1 of two values that are no NaN. -/
def condFloat (c : Nat) (o : Int) : Bool :=
  match c with
  | 0 => decide (o = 0) | 1 => decide (o ≠ 0) | 2 => decide (o < 0) | 3 => decide (o ≤ 0) | 4 => decide (0 < o) | 5 => decide (0 ≤ o)
  | 6 => true | _ => false

/-- vcmp on floating formats: of numbers by their order, zeros being equal; with a NaN only the conditions 1 and 7 hold, and NV is raised
by the ordered conditions 2 to 5 and by a NaN that signals. It writes bits of one condition register in its active lanes (R84, R175). -/
def Claims.FloatCompare : Prop :=
  ∀ (w : LaneWord) (s : State) (r : SplitRef) (g : Group) (sp : Split) (left : Nat) (pk : Bool) (d : Fin 4) (f : Tag) (high : Bool)
    (x : LaneCtx) (a b : Nat → Machine.Num), x = laneCtx s r g sp w → InRun s r g sp w left pk → laneFault specVcmp x = none →
    w.sub.val = d.val + (if high then 4 else 0) → w.mods.val < 8 → x.poly [w.va, w.vb] = some f → tagIsInt f = false →
    a = (fun k => decodeFloat (floatOf f) (elemAt f (if high then 1 else 0) (x.src w.va f k).toNat)) →
    b = (fun k => decodeFloat (floatOf f) (elemAt f (if high then 1 else 0) (x.src w.vb f k).toNat)) →
    ∃ (t : State) (g' : Group) (sp' : Split), exec (.vcmp w) s = .next t ∧ Stepped s t r g g' sp sp' left pk ∧
      g'.regs = g.regs ∧ g'.xa = g.xa ∧ (∀ m : Fin 4, m ≠ d → g'.vc[m] = g.vc[m]) ∧ t.mem = s.mem ∧
      (∀ k, k < 96 → (g'.vc[d]).getLsbD k = if x.act.getLsbD k then
          (if (a k).isNan || (b k).isNan then w.mods.val == 1 || w.mods.val == 7 else condFloat w.mods.val (compareNum (a k) (b k)))
        else (g.vc[d]).getLsbD k) ∧
      ∀ nv : Prop, (nv ↔ ∃ k, x.act.getLsbD k = true ∧ ((a k).isNan = true ∨ (b k).isNan = true) ∧
        (2 ≤ w.mods.val ∧ w.mods.val ≤ 5 ∨ (a k).signals = true ∨ (b k).signals = true)) →
      (nv → sp'.fpstat = sp.fpstat ||| flagNV) ∧ (¬nv → sp'.fpstat = sp.fpstat)

/-- The value of an element that vxadd adds (R195). -/
def addend (f : Tag) (v : Nat) : Machine.Num := if f = .i32 then Machine.Num.ofInt (elemInt true 32 v) else decodeFloat (floatOf f) v

/-- The exact accumulators. vxadd adds every active lane's value, both halves of a packed one: a finite value by its multiple of 2^-149, an
infinity and a NaN by its flag. vxget gives every active lane the value of R131, raises its flags once, and leaves the accumulator. vxclr
clears one whatever the mask. No other accumulator, no register but vxget's vd, and no memory changes (R130, R131, R195 to R197). -/
def Claims.AccumulatorWords : Prop :=
  ∀ (w : LaneWord) (s : State) (r : SplitRef) (g : Group) (sp : Split) (left : Nat) (pk : Bool) (x : LaneCtx) (n : Fin 2),
    x = laneCtx s r g sp w →
    (∀ (f : Tag) (l : List Machine.Num), InRun s r g sp w left pk → laneFault specVxadd x = none → w.sub.val = n.val →
      x.floatTag exactTag [w.va] = some f →
      l = ((List.range 96).filter (fun k => x.act.getLsbD k)).flatMap (fun k =>
        (List.range (elemsOf f)).map (fun h => addend f (elemAt f h (x.src w.va f k).toNat))) →
      ∃ (t : State) (g' : Group) (sp' : Split), exec (.vxadd w) s = .next t ∧ Stepped s t r g g' sp sp' left pk ∧ sp'.fpstat = sp.fpstat ∧
        g'.regs = g.regs ∧ g'.vc = g.vc ∧ t.mem = s.mem ∧ (∀ m : Fin 2, m ≠ n → g'.xa[m] = g.xa[m]) ∧
        g'.xa[n].nan = (g.xa[n].nan || l.any Machine.Num.isNan) ∧
        g'.xa[n].pinf = (g.xa[n].pinf || l.any (fun v => v.isInf && !v.isNeg)) ∧
        g'.xa[n].ninf = (g.xa[n].ninf || l.any (fun v => v.isInf && v.isNeg)) ∧
        g'.xa[n].sum = l.foldl (fun a v => a + BitVec.ofInt 320 ((v.toQ.scale 149).num / (v.toQ.scale 149).den)) g.xa[n].sum) ∧
    (∀ d : Fin 128, Passes specVxget s r g sp w left pk d →
      (w.sub.val = n.val → ∃ (v : Word) (fl : BitVec 5), ReadsF32 g.xa[n] v fl ∧
        LaneFlagged (.vxget w) s r g sp w left pk d .f32 (fun _ => v.setWidth 64) (fun _ => fl)) ∧
      (w.sub.val = n.val + 2 → ∃ (v : Word) (fl : BitVec 5), ReadsI32 g.xa[n] v fl ∧
        LaneFlagged (.vxget w) s r g sp w left pk d .i32 (fun _ => v.setWidth 64) (fun _ => fl))) ∧
    (InRun s r g sp w left pk → w.sub.val = n.val →
      ∃ (t : State) (g' : Group) (sp' : Split), exec (.vxclr w) s = .next t ∧ Stepped s t r g g' sp sp' left pk ∧ sp'.fpstat = sp.fpstat ∧
        g'.regs = g.regs ∧ g'.vc = g.vc ∧ t.mem = s.mem ∧ (∀ m : Fin 2, m ≠ n → g'.xa[m] = g.xa[m]) ∧
        g'.xa[n].nan = false ∧ g'.xa[n].pinf = false ∧ g'.xa[n].ninf = false ∧ g'.xa[n].sum = 0)

/-- The words of the condition registers, and those of the exact accumulators (R84, R130, R131, R175, R176, R190, R194 to R197). -/
def Obligations.LaneConditions : Prop := Claims.ConditionWords ∧ Claims.FloatCompare ∧ Claims.AccumulatorWords

/-- Moves between lanes and registers: vlane, vmov, vtag, and the cross-lane forms read all 96 lanes and write active ones; a lane at
or past 96 reads as zero (R186, R188, R190, R191). -/
def Claims.MoveWords : Prop :=
  ∀ (w : LaneWord) (s : State) (r : SplitRef) (g : Group) (sp : Split) (left : Nat) (pk : Bool) (n : Fin 128),
    (Writing s r g sp w left pk n .n32 →
      (w.sub = 0 → LaneResult (.vlane w) s r g sp w left pk n .n32 (fun k => BitVec.ofNat 64 k.val)) ∧
      (w.sub = 1 → LaneResult (.vlane w) s r g sp w left pk n .n32 (fun k => BitVec.ofNat 64 (k.val % 32))) ∧
      (w.sub = 2 → LaneResult (.vlane w) s r g sp w left pk n .n32 (fun k => BitVec.ofNat 64 (k.val / 32)))) ∧
    (∀ f, Writing s r g sp w left pk n f → (laneCtx s r g sp w).fmtA = f → srcInRange g.regs.length w.va (tagWide f) = true →
      LaneResult (.vmov w) s r g sp w left pk n f (fun k => (laneCtx s r g sp w).src w.va f k.val)) ∧
    (∀ (a : Fin 128) (f : Tag), Writing s r g sp w left pk n f → w.va = .v a → Tag.ofNumber w.sub.val = some f → f ≠ .handle →
      (readV s g a.val).tag ≠ .handle → srcInRange g.regs.length w.va (tagWide f || tagWide (readV s g a.val).tag) = true →
      LaneResult (.vtag w) s r g sp w left pk n f (fun k => (laneCtx s r g sp w).src w.va f k.val)) ∧
    (∀ (a : Fin 128) (f : Tag), Writing s r g sp w left pk n f → w.va = .v a → (readV s g a.val).tag = f →
      srcInRange g.regs.length w.va (tagWide f) = true →
      (∀ d, d < 6 → w.sub.val = d → LaneResult (.vxch w) s r g sp w left pk n f (fun k =>
        (laneCtx s r g sp w).src w.va f (if k.val ^^^ 2 ^ d ≤ 95 then k.val ^^^ 2 ^ d else k.val))) ∧
      (∀ d : Fin 3, w.sub.val = d.val → LaneResult (.vqswap w) s r g sp w left pk n f (fun k =>
        (laneCtx s r g sp w).src w.va f (k.val ^^^ (d.val + 1)))) ∧
      (srcInRange g.regs.length w.vb false = true →
        ((laneCtx s r g sp w).tagOf w.vb ∈ [none, some .i32, some .n32] →
          LaneResult (.vperm w) s r g sp w left pk n f (fun k =>
            if ((laneCtx s r g sp w).word w.vb k.val).toNat < 96
            then (laneCtx s r g sp w).src w.va f ((laneCtx s r g sp w).word w.vb k.val).toNat else 0)) ∧
        LaneResult (.vrot w) s r g sp w left pk n f (fun k =>
          (laneCtx s r g sp w).src w.va f ((k.val + ((laneCtx s r g sp w).word w.vb 0).toNat) % 96)) ∧
        (w.sub = 0 → LaneResult (.vbcast w) s r g sp w left pk n f (fun _ =>
          if ((laneCtx s r g sp w).word w.vb 0).toNat < 96
          then (laneCtx s r g sp w).src w.va f ((laneCtx s r g sp w).word w.vb 0).toNat else 0))) ∧
      ∀ m, w.sub = 1 → m < 96 → (laneCtx s r g sp w).act.getLsbD m = true →
        (∀ k, k < m → (laneCtx s r g sp w).act.getLsbD k = false) →
        LaneResult (.vbcast w) s r g sp w left pk n f (fun _ => (laneCtx s r g sp w).src w.va f m))

/-- vli writes the literal under the override's tag, or raw, spread to a pair by its format; vli.hi writes it to the odd register alone,
and tags the pair (R78, R189). -/
def Claims.Literals : Prop :=
  ∀ (w : LaneWord) (s : State) (r : SplitRef) (g : Group) (sp : Split) (left : Nat) (pk : Bool) (n : Fin 128) (f : Tag),
    Passes specVli s r g sp w left pk n → (laneCtx s r g sp w).ov.getD .raw = f →
    (w.sub = 0 → LaneResult (.vli w) s r g sp w left pk n f (fun _ =>
      if f = .i64 then w.w2.signExtend 64
      else if f = .f64 then BitVec.ofNat 64 (fconvert .f64 .rne false (decodeFloat .f32 w.w2.toNat)).bits
      else w.w2.setWidth 64)) ∧
    (w.sub = 1 → tagWide f = true → LaneResult (.vli w) s r g sp w left pk n f (fun k =>
      DWord.ofWords w.w2 (g.regs.getD n.val VReg.zero).data[k]))

/-- What a conversion makes of one element `a` of format `f` in format `t` (R112, R113, R116, R185). -/
def ConvertsTo (f t : Tag) (m : Rounding) (sat : Bool) (a b : Nat) (e : BitVec 5) : Prop :=
  (tagIsInt f = true → tagIsInt t = true → IntIs t sat (elemInt (signedTag f) (elemBits f) a) b ∧ e = 0) ∧
  (tagIsInt f = true → tagIsInt t = false → ∀ y, y = fconvert (floatOf t) m sat (Machine.Num.ofInt (elemInt (signedTag f) (elemBits f) a)) →
    b = y.bits ∧ e = y.flags) ∧
  (tagIsInt f = false → tagIsInt t = true → ∀ y,
    y = floatToInt m (if signedTag t then -(2 : Int) ^ (elemBits t - 1) else 0)
      ((if signedTag t then (2 : Int) ^ (elemBits t - 1) else (2 : Int) ^ elemBits t) - 1) (decodeFloat (floatOf f) a) →
    (b : Int) = y.1 % (2 : Int) ^ elemBits t ∧ e = y.2) ∧
  (tagIsInt f = false → tagIsInt t = false →
    (floatOf f = floatOf t → (decodeFloat (floatOf f) a).isNan = false → b = a ∧ e = 0) ∧
    (floatOf f ≠ floatOf t ∨ (decodeFloat (floatOf f) a).isNan = true → ∀ y, y = fconvert (floatOf t) m sat (decodeFloat (floatOf f) a) →
      b = y.bits ∧ e = y.flags))

/-- vcvt: each element converted, from va; into a packed format from an unpacked one the low half from va and the high half from vb; from a
packed one into an unpacked one the half that H selects (R185). -/
def Claims.Conversions : Prop :=
  ∀ (w : LaneWord) (s : State) (r : SplitRef) (g : Group) (sp : Split) (left : Nat) (pk : Bool) (n : Fin 128) (f t : Tag) (x : LaneCtx),
    Passes specVcvt s r g sp w left pk n → x = laneCtx s r g sp w → x.cvtFrom = some f → Tag.ofNumber w.sub.val = some t →
    tagComputes t = true →
    ∃ (v : Fin 96 → DWord) (e : Fin 96 → Nat → BitVec 5),
      LaneFlagged (.vcvt w) s r g sp w left pk n t v (fun k => if tagPacked t then e k 0 ||| e k 1 else e k 0) ∧
      ∀ (k : Fin 96) (h : Nat), x.act.getLsbD k.val = true → h < elemsOf t →
        ConvertsTo f t x.mode w.sat
          (if tagPacked f then elemAt f (if tagPacked t then h else w.mods.val % 2) (x.src w.va f k.val).toNat
           else if tagPacked t ∧ h = 1 then (x.src w.vb f k.val).toNat else (x.src w.va f k.val).toNat)
          (elemAt t h (v k).toNat) (e k h)

/-- One step of a scan: add, the lesser or the greater, element by element (R173, R177). -/
def scanStep (x : LaneCtx) (f : Tag) (op : Nat) : DWord → DWord → LaneValue :=
  lift2 f (if op = 0 then addElem (tagKind f) x.mode x.w.sat else minMaxElem (tagKind f) (decide (op = 2)))

/-- The identity of a scan, in both halves of a packed format (R177). -/
def IdentityOf (f : Tag) (op : Nat) (v : DWord) : Prop :=
  ∀ h, h < elemsOf f →
    (op = 0 → elemAt f h v.toNat = 0) ∧
    (op = 1 → tagIsInt f = true → elemInt (signedTag f) (elemBits f) (elemAt f h v.toNat) =
      (if signedTag f then (2 : Int) ^ (elemBits f - 1) else (2 : Int) ^ elemBits f) - 1) ∧
    (op = 2 → tagIsInt f = true → elemInt (signedTag f) (elemBits f) (elemAt f h v.toNat) =
      if signedTag f then -(2 : Int) ^ (elemBits f - 1) else 0) ∧
    (op = 1 → tagIsInt f = false → decodeFloat (floatOf f) (elemAt f h v.toNat) = .inf false) ∧
    (op = 2 → tagIsInt f = false → decodeFloat (floatOf f) (elemAt f h v.toNat) = .inf true)

/-- The running values of a loop over the lanes `l`: the first is the first lane's, each later one a step with its own lane's. -/
def RunsOver (step : DWord → DWord → LaneValue) (src : Nat → DWord) (l : List Nat) (acc : Nat → DWord) (e : Nat → BitVec 5) : Prop :=
  ∀ j k, l[j]? = some k → (j = 0 → acc j = src k ∧ e j = 0) ∧
    ∀ i, j = i + 1 → acc j = (step (acc i) (src k)).1 ∧ e j = (step (acc i) (src k)).2

/-- vscan gives each active lane the running value over the active lanes up to it, or with X the one before it, the first the identity;
vred gives every active lane the last. They raise the flags of their steps (R177, R192). -/
def Claims.Scans : Prop :=
  ∀ (w : LaneWord) (s : State) (r : SplitRef) (g : Group) (sp : Split) (left : Nat) (pk : Bool) (n : Fin 128) (f : Tag) (x : LaneCtx)
    (l : List Nat), x = laneCtx s r g sp w → l = (List.range 96).filter (fun k => x.act.getLsbD k) →
    (Passes specVscan s r g sp w left pk n → x.poly [w.va] = some f → w.sub.val % 4 < 3 → w.sub.val < 8 →
      ∃ (acc : Nat → DWord) (e : Nat → BitVec 5) (v : Fin 96 → DWord) (fl : Fin 96 → BitVec 5) (ident : DWord),
        RunsOver (scanStep x f (w.sub.val % 4)) (x.src w.va f) l acc e ∧ IdentityOf f (w.sub.val % 4) ident ∧
        LaneFlagged (.vscan w) s r g sp w left pk n f v fl ∧ ∀ j (k : Fin 96), l[j]? = some k.val → fl k = e j ∧
          v k = if w.sub.val < 4 then acc j else if j = 0 then ident else acc (j - 1)) ∧
    (Passes specVred s r g sp w left pk n → x.redTag = some f → w.sub.val < 6 →
      ∃ (acc : Nat → DWord) (e : Nat → BitVec 5) (fl : Fin 96 → BitVec 5),
        RunsOver (if w.sub.val < 3 then scanStep x f w.sub.val else fun a b =>
          (if w.sub.val = 3 then a &&& b else if w.sub.val = 4 then a ||| b else a ^^^ b, 0)) (x.src w.va f) l acc e ∧
        LaneFlagged (.vred w) s r g sp w left pk n f (fun _ => acc (l.length - 1)) fl ∧ ∀ j (k : Fin 96), l[j]? = some k.val → fl k = e j)

/-- Moves, literals, conversions, scans and reductions of the lanes (R177, R185, R186, R188 to R192). -/
def Obligations.LaneMoves : Prop := Claims.MoveWords ∧ Claims.Literals ∧ Claims.Conversions ∧ Claims.Scans

/-! ### Graphics words -/

/-- A graphics word with its checks `p`: ILLEGAL_OPCODE, REG_RANGE and TAG_MISMATCH in the order of R90, precise; and where it is `ready`
it completes within its run. -/
def GfxForm (i : LaneWord → Instr) (p : GfxSpec) (ready : LaneCtx → Prop) : Prop :=
  ∀ (w : LaneWord) (s : State) (r : SplitRef) (g : Group) (sp : Split), Runs s r g sp →
    (p.illegal (laneCtx s r g sp w) = true →
      exec (i w) s = .next (bump (faultLane s r sp .illegalOpcode 0 (execMask s sp)))) ∧
    (p.illegal (laneCtx s r g sp w) = false → rangesOk (laneCtx s r g sp w) (p.regs (laneCtx s r g sp w)) = false →
      exec (i w) s = .next (bump (faultLane s r sp .regRange 0 (laneCtx s r g sp w).act))) ∧
    (p.illegal (laneCtx s r g sp w) = false → rangesOk (laneCtx s r g sp w) (p.regs (laneCtx s r g sp w)) = true →
      (p.mismatch (laneCtx s r g sp w) = true →
        exec (i w) s = .next (bump (faultLane s r sp .tagMismatch 0 (laneCtx s r g sp w).act))) ∧
      (p.mismatch (laneCtx s r g sp w) = false → ready (laneCtx s r g sp w) → ∀ left pk, InRun s r g sp w left pk →
        ∃ (t : State) (g' : Group) (sp' : Split), exec (i w) s = .next t ∧ Stepped s t r g g' sp sp' left pk))

/-- The word's descriptor is an image `d` that can be read now (R366, R377). -/
def ImageAt (x : LaneCtx) (d : ImageDesc) : Prop :=
  x.unitStall = none ∧ (readImage x.s x.who unitFields x.pairVa).2 = .got d

/-- The word's descriptor, at a 64-byte boundary, is a grid `d` that can be read now (R377, R382). -/
def GridAt (x : LaneCtx) (d : GridDesc) : Prop :=
  x.unitStall = none ∧ x.pairVa.toNat % 64 = 0 ∧
  ∃ b, (readDescriptor x.s x.who (cachedFields x.s unitFields) x.pairVa 32).2 = .got b ∧ gridReserved (dwordsIn 4 b) = false ∧
    parseGrid (dwordsIn 4 b) = d

/-- The texture, grid, ray and render-target words: their faults at issue, and where they complete. -/
def Obligations.GraphicsWords : Prop :=
  GfxForm .vtex specVtex (fun x => ∃ d, ImageAt x d ∧ rangesOk x (manyRegs x.w.vd (channelCount d)) = true) ∧
  GfxForm .vtexld specVtexld (fun x => ∃ d, ImageAt x d ∧ (d.fmt = 1 → rangesOk x [(onlyVector x.w.vd, true)] = true)) ∧
  GfxForm .vhgrid specVhgrid (fun x => ∃ d, GridAt x d ∧
    rangesOk x (manyRegs x.w.vb d.dims ++ manyRegs x.w.vd (d.levels * d.feats)) = true ∧ x.notF32 x.w.vb d.dims = false) ∧
  GfxForm .vhgsc specVhgsc (fun x => ∃ d, GridAt x d ∧
    rangesOk x (manyRegs x.w.vb d.dims ++ manyRegs x.w.vc (d.levels * d.feats)) = true ∧ x.notF32 x.w.vb d.dims = false ∧
    x.notF32 x.w.vc (d.levels * d.feats) = false ∧ groupReleaseWaits x.s x.r x.g x.mem.scope = false) ∧
  GfxForm .vtrace specVtrace (fun x => x.unitStall = none) ∧
  GfxForm .vmbox specVmbox (fun _ => True) ∧
  GfxForm .vrtw specVrtw (fun x => ∃ d, ImageAt x d ∧ (2 ≤ d.fmt → x.w.mods.val / 2 = 0) ∧
    (d.fmt = 1 → rangesOk x [(onlyVector x.w.vc, true)] = true ∧ x.tagOf (regAt x.w.vc 1) ≠ some .handle)) ∧
  GfxForm .vorde specVorde (fun x => x.g.sect = none ∨
    targetsDone x.s x.g.wave = true ∧ groupReleaseWaits x.s x.r x.g .device = false)

/-- Cell and fraction of a coordinate at a level of resolution `n`: the coordinate is clamped to 0 to 1, and a NaN counts as 0 (R383). -/
def CellIs (n : Nat) (w : Word) (c : Nat) (f : Word) : Prop :=
  ((numOf w).isNan = true ∨ (numOf w).isNeg = true → c = 0 ∧ f = 0) ∧
  (numOf w = .inf false ∨ (∃ q, numOf w = .fin false q ∧ (q.den : Int) ≤ q.num) → c = n - 1 ∧ f = 0x3F800000) ∧
  ∀ q, numOf w = .fin false q → q.num < q.den →
    c = (q.num * n / q.den).toNat ∧ f = f32Of (.fin false ((q.mul (Q.ofInt n)).sub (Q.ofInt c)))

/-- Resolution of a level, and entry and weight of corner `e` of a lane's cell there: dense where the level's grid fits its table, hashed
otherwise (R382, R383). -/
def Claims.GridCorners : Prop :=
  ∀ (d : GridDesc) (l : Nat) (coord : List Word) (e : Nat),
    (∀ q, numOf d.grow = .fin false q → 0 < q.num → 0 < q.den →
      d.res l * q.den ^ l ≤ d.nbase * q.num.toNat ^ l ∧ d.nbase * q.num.toNat ^ l < (d.res l + 1) * q.den ^ l) ∧
    (0 < d.res l → ∃ (c q : Nat → Nat) (f t : Nat → Word),
      (∀ a, a < d.dims → CellIs (d.res l) (coord.getD a 0) (c a) (f a) ∧ q a = c a + (if e.testBit a then 1 else 0) ∧
        t a = if e.testBit a then f a else subF 0x3F800000 (f a)) ∧ (∀ a, d.dims ≤ a → q a = 0) ∧
      (d.d3 = false → (gridCorner d l coord e).2 = mulF (mulF 0x3F800000 (t 0)) (t 1)) ∧
      (d.d3 = true → (gridCorner d l coord e).2 = mulF (mulF (mulF 0x3F800000 (t 0)) (t 1)) (t 2)) ∧
      ((d.res l + 1) ^ d.dims ≤ 2 ^ d.logt →
        (gridCorner d l coord e).1 = q 0 + q 1 * (d.res l + 1) + q 2 * (d.res l + 1) ^ 2) ∧
      (2 ^ d.logt < (d.res l + 1) ^ d.dims → (gridCorner d l coord e).1 =
        ((q 0 % 2 ^ 32) ^^^ (q 1 * 0x9F3B5A27 % 2 ^ 32) ^^^ (q 2 * 0xE6C1D2B5 % 2 ^ 32)) % 2 ^ d.logt))

/-- The reads of one lane of vhgrid, corner after corner of each level, and its L·F results (R383). -/
def Claims.GridReads : Prop :=
  ∀ (w : Who) (d : GridDesc) (coord : List Word) (st : Nat → State) (b : Nat → List Byte),
    (∀ l e, l < d.levels → e < 2 ^ d.dims →
      agentRead (st (l * 2 ^ d.dims + e)) w unitFields
        (d.table + BitVec.ofNat 64 (2 * ((l * 2 ^ d.logt + (gridCorner d l coord e).1) * d.feats))) (2 * d.feats) =
        (st (l * 2 ^ d.dims + e + 1), .ok (b (l * 2 ^ d.dims + e)))) →
    ∃ out : List Word, unitValue (st 0) w (.grid d coord) = (st (d.levels * 2 ^ d.dims), .ok out) ∧ out.length = d.levels * d.feats ∧
      ∀ l k, l < d.levels → k < d.feats → ∃ acc : Nat → Word, acc 0 = 0 ∧ out[l * d.feats + k]? = some (acc (2 ^ d.dims)) ∧
        ∀ e, e < 2 ^ d.dims → acc (e + 1) = addF (acc e) (mulF (gridCorner d l coord e).2
          (f32Of (decodeFloat .f16 (ofBytes (((b (l * 2 ^ d.dims + e)).drop (2 * k)).take 2)))))

/-- The contributions to entry `n` of the gradient table: of every active lane that is no helper, and of every corner that maps to the
entry, lanes ascending and then corners (R384). -/
def contributions (x : LaneCtx) (d : GridDesc) (n : Nat) : List Word :=
  ((List.range 96).filter (fun i => x.act.getLsbD i && !x.g.helper i)).flatMap (fun i =>
    (List.range (2 ^ d.dims)).flatMap (fun e => (List.range d.levels).flatMap (fun l => (List.range d.feats).filterMap (fun k =>
      if (l * 2 ^ d.logt + (gridCorner d l (x.coords d i) e).1) * d.feats + k = n
      then some (mulF (gridCorner d l (x.coords d i) e).2 (x.word (regAt x.w.vc (l * d.feats + k)) i)) else none))))

/-- vhgrid tags its L·F results f32 at issue, and changes no byte. vhgsc performs one atomic f32 add to each entry that some
contribution reaches, of their sum from left to right, in some order; it writes no register (R383, R384). -/
def Claims.GridWords : Prop :=
  ∀ (w : LaneWord) (s : State) (r : SplitRef) (g : Group) (sp : Split) (left : Nat) (pk : Bool) (x : LaneCtx) (d : GridDesc),
    InRun s r g sp w left pk → x = laneCtx s r g sp w → GridAt x d →
    (∀ n : Fin 128, w.vd = .v n → execMask s sp ≠ 0 → rangesOk x (specVhgrid.regs x) = true → specVhgrid.mismatch x = false →
      rangesOk x (manyRegs x.w.vb d.dims ++ manyRegs x.w.vd (d.levels * d.feats)) = true → x.notF32 x.w.vb d.dims = false →
      ∃ (t : State) (g' : Group) (sp' : Split), exec (.vhgrid w) s = .next t ∧ Stepped s t r g g' sp sp' left pk ∧ BytesSame s t ∧
        (∀ k, k < d.levels * d.feats → (g'.regs.getD (n.val + k) VReg.zero).tag = .f32) ∧
        ∀ k, k < n.val ∨ n.val + d.levels * d.feats ≤ k → g'.regs.getD k VReg.zero = g.regs.getD k VReg.zero) ∧
    (rangesOk x (specVhgsc.regs x) = true → specVhgsc.mismatch x = false →
      rangesOk x (manyRegs x.w.vb d.dims ++ manyRegs x.w.vc (d.levels * d.feats)) = true → x.notF32 x.w.vb d.dims = false →
      x.notF32 x.w.vc (d.levels * d.feats) = false → groupReleaseWaits s r g x.mem.scope = false →
      ∃ (t : State) (g' : Group) (sp' : Split) (s1 u : State) (l : List Access) (k : Nat), exec (.vhgsc w) s = .next t ∧
        Stepped s t r g g' sp sp' left pk ∧ LanesSame g g' ∧ BytesSame s s1 ∧
        u = performAll s1 { whoOf s r g sp with seq := k } x.mem none l ∧ BytesSame u t ∧ t.acks = u.acks ∧
        (l.map Access.va).Nodup ∧
        (∀ n, contributions x d n ≠ [] → canonical (d.grad + BitVec.ofNat 64 (4 * n)) = true → ∃ a ∈ l, a.va = d.grad + BitVec.ofNat 64 (4 * n)) ∧
        ∀ a ∈ l, a.size = 4 ∧ a.op = .atomic 10 ∧ canonical a.va = true ∧ ∃ n c rest, a.va = d.grad + BitVec.ofNat 64 (4 * n) ∧
          contributions x d n = c :: rest ∧ a.data = (rest.foldl addF c).setWidth 64)

/-- What the words leave. vtex and vtexld tag their results at issue; vtrace appends one ray for each active lane, every lane having a
slot, gives each its next ticket under tag handle, and one with a NaN among its words its miss record; vmbox pops the first record of each active lane; vrtw adds writes of its own wave
only, and changes no register; none of these writes memory (R378 to R381, R386, R389, R370). vorde ends the section of its wave,
and vordb begins one at its park (R374). -/
def Claims.UnitWords : Prop :=
  ∀ (w : LaneWord) (s : State) (r : SplitRef) (g : Group) (sp : Split) (left : Nat) (pk : Bool) (x : LaneCtx),
    InRun s r g sp w left pk → x = laneCtx s r g sp w →
    (∀ (n : Fin 128) (d : ImageDesc), w.vd = .v n → execMask s sp ≠ 0 → ImageAt x d →
      (rangesOk x (specVtex.regs x) = true → specVtex.mismatch x = false → rangesOk x (manyRegs x.w.vd (channelCount d)) = true →
        ∃ (t : State) (g' : Group) (sp' : Split), exec (.vtex w) s = .next t ∧ Stepped s t r g g' sp sp' left pk ∧ BytesSame s t ∧
          (∀ k, k < channelCount d → (g'.regs.getD (n.val + k) VReg.zero).tag = if d.fmt = 3 then .n32 else .f32) ∧
          ∀ k, k < n.val ∨ n.val + channelCount d ≤ k → g'.regs.getD k VReg.zero = g.regs.getD k VReg.zero) ∧
      (rangesOk x (specVtexld.regs x) = true → specVtexld.mismatch x = false →
        (d.fmt = 1 → rangesOk x [(onlyVector x.w.vd, true)] = true) →
        ∃ (t : State) (g' : Group) (sp' : Split), exec (.vtexld w) s = .next t ∧ Stepped s t r g g' sp sp' left pk ∧ BytesSame s t ∧
          (g'.regs.getD n.val VReg.zero).tag = (if d.fmt = 1 then .n64 else .n32) ∧
          (d.fmt = 1 → (g'.regs.getD (n.val + 1) VReg.zero).tag = .n64) ∧
          ∀ k, k ≠ n.val → ¬(d.fmt = 1 ∧ k = n.val + 1) → g'.regs.getD k VReg.zero = g.regs.getD k VReg.zero)) ∧
    (∀ n : Fin 128, w.vd = .v n → execMask s sp ≠ 0 → x.unitStall = none → rangesOk x (specVtrace.regs x) = true →
      specVtrace.mismatch x = false → g.slots ≤ 160 → (∀ k, g.laneSlots k < 8) → (∀ y ∈ g.rays, y.id < s.serial) →
      ∃ (t : State) (g' : Group) (sp' : Split) (l : List Ray), exec (.vtrace w) s = .next t ∧ Stepped s t r g g' sp sp' left pk ∧
        WroteV g g' x.act n .handle (fun k => (nextTicket (g.rayTickets.getD k.val 0)).setWidth 64) ∧ t.mem = s.mem ∧
        g'.rays = g.rays ++ l ∧ l.map Ray.lane = x.lanes ∧ g'.mailbox = g.mailbox ∧
        ∀ y ∈ l, y.root = x.pairVa ∧ y.ticket = nextTicket (g.rayTickets.getD y.lane 0) ∧ y.slot = r.slot ∧
          ((∃ v ∈ y.ray, (numOf v).isNan = true) →
            y.record = some { ticket := y.ticket, t := plusInf, prim := 0xFFFFFFFF, b1 := 0, b2 := 0 })) ∧
    (∀ n : Fin 128, w.vd = .v n → execMask s sp ≠ 0 → rangesOk x (specVmbox.regs x) = true →
      ∃ (t : State) (g' : Group) (sp' : Split), exec (.vmbox w) s = .next t ∧ Stepped s t r g g' sp sp' left pk ∧ t.mem = s.mem ∧
        (∀ k : Nat, k < 96 → g'.mailbox.filter (fun m => m.1 == k) =
          if x.act.getLsbD k then (g.mailbox.filter (fun m => m.1 == k)).tail else g.mailbox.filter (fun m => m.1 == k)) ∧
        (g'.regs.getD n.val VReg.zero).tag = .handle ∧ (g'.regs.getD (n.val + 1) VReg.zero).tag = .f32 ∧
        (g'.regs.getD (n.val + 2) VReg.zero).tag = .n32 ∧ (g'.regs.getD (n.val + 3) VReg.zero).tag = .f32 ∧
        (g'.regs.getD (n.val + 4) VReg.zero).tag = .f32) ∧
    (∀ d : ImageDesc, ImageAt x d → pixelWave s g = true → rangesOk x (specVrtw.regs x) = true → specVrtw.mismatch x = false →
      (2 ≤ d.fmt → x.w.mods.val / 2 = 0) →
      (d.fmt = 1 → rangesOk x [(onlyVector x.w.vc, true)] = true ∧ x.tagOf (regAt x.w.vc 1) ≠ some .handle) →
      ∃ (t : State) (g' : Group) (sp' : Split), exec (.vrtw w) s = .next t ∧ Stepped s t r g g' sp sp' left pk ∧ LanesSame g g' ∧
        BytesSame s t ∧ ∀ e ∈ t.rtWrites, e ∈ s.rtWrites ∨
          (e.2.wave = g.wave ∧ e.2.image = d ∧ e.2.keep = x.w.mods.val ∧ x.act.getLsbD e.2.lane = true)) ∧
    (pixelWave s g = true →
      (g.sect ≠ none → targetsDone s g.wave = true → groupReleaseWaits s r g .device = false →
        ∃ (t : State) (g' : Group) (sp' : Split), exec (.vorde w) s = .next t ∧ Stepped s t r g g' sp sp' left pk ∧ LanesSame g g' ∧
          t.mem = s.mem ∧ g'.sect = none ∧ g'.ordered = true) ∧
      (ParksThrough s r g sp →
        ∃ (t : State) (g' : Group) (sp' : Split), exec (.vordb w) s = .next t ∧ At t r g' sp' ∧ LatchEmpty g' ∧ LanesSame g g' ∧
          t.mem = s.mem ∧ g'.sect.isSome = true ∧ sp'.lpc = sp.lpc + 1 ∧ sp'.spc = sp.spc ∧ sp'.s = sp.s ∧
          sp'.run = some { left := left + 1, pk := pk, rep := none } ∧
          (sp'.wait = .ready ∨ sp'.wait = .await .order) ∧ (g.sect ≠ none → sp'.wait = .ready)))

/-- What the graphics words leave: texels, rays and render targets, and the hash grids with what they read and add. -/
def Obligations.GraphicsResults : Prop := Claims.UnitWords ∧ Claims.GridCorners ∧ Claims.GridReads ∧ Claims.GridWords

/-! ### Commands of the copy and matrix engines -/

/-- The command `kind` has been issued: the word has retired, it writes no register, the command stands last in its group's open batch
with nothing of it performed, and memory, the lanes' registers and every other split are as before (R239, R277, R296). -/
def Commanded (s t : State) (r : SplitRef) (g : Group) (sp : Split) (id : Nat) (kind : CmdKind) : Prop :=
  ∃ (g' : Group) (sp' : Split) (c : Command), At t r g' sp' ∧ NoWrite sp sp' ∧ Issued s sp sp' (sp.spc + 2) sp.lpc ∧
    g'.openBatch = g.openBatch ++ [id] ∧ g'.batches = g.batches ∧ LanesSame g g' ∧ g'.latch = g.latch ∧
    tget t.commands id = some c ∧ c.kind = kind ∧ c.ref = r ∧ c.pcs = sp.pcs ∧ c.progress = 0 ∧ c.page = none ∧
    BytesSame s t ∧ OthersSame s t r

/-- Nothing holds a matrix command of the core back at its issue: its queue has room, and the scoreboard room for `n` entries. -/
def MatrixRoom (s : State) (core n : Nat) : Prop :=
  (s.core core).matrix.length < 32 ∧ (s.core core).scoreboard.length + n ≤ 32

/-- A queued command that a group on a higher pipe issued in this very cycle. -/
def IssuedAfter (s : State) (pipe : Nat) (e : Nat × Bool) : Prop :=
  e.1 ≠ s.serial ∧ ∃ c, tget s.commands e.1 = some c ∧ c.cycle = s.cyc ∧ pipe < c.ref.pipe

/-- An entry joins the queue of a core, from a pipe: last, but that those of one cycle stand in ascending order of their pipes
(R297). -/
def Enters (s t : State) (core pipe : Nat) (e : Nat × Bool) : Prop :=
  ∃ before after, (s.core core).matrix = before ++ after ∧ (t.core core).matrix = before ++ e :: after ∧
    (∀ x ∈ before, ¬IssuedAfter s pipe x) ∧ ∀ x, after.head? = some x → IssuedAfter s pipe x

/-- A matrix command has been issued: it stands in its core's queue, in its place. -/
def Queued (i : Instr) (s : State) (r : SplitRef) (g : Group) (sp : Split) (kind : CmdKind) : Prop :=
  ∃ t, exec i s = .next t ∧ Commanded s t r g sp s.serial kind ∧ Enters s t r.core r.pipe (s.serial, false)

/-- Matrix commands at issue: with their descriptors read and their checks passed they join the queue of the core; mma.pair joins that
of the other core too (R296, R300, R306, R308 to R310). -/
def Obligations.MatrixIssue : Prop :=
  ∀ (s : State) (r : SplitRef) (g : Group) (sp : Split) (w : Workgroup), Runs s r g sp → tget s.wgs g.wg = some w →
    (∀ (sa sb : SReg) (t : Fin 64) (pa pb : Fin 4) (acc sat gather : Bool) (a b : MatDesc), MatrixRoom s r.core 0 →
      readMat s r.core g.wg w .a (readS s sp sa).toNat (linesOfA gather g.gatherIssued) = .got a →
      readMat s r.core g.wg w .b (readS s sp sb).toNat MatDesc.allLines = .got b →
      mmaCheck a b t.val pa.val pb.val sat w.tileCount = none →
      Queued (.mma sa sb t pa pb acc sat gather) s r g sp (.mma a b t.val pa.val pb.val acc sat gather false) ∧
      (nodeFlag s g (fun d => d.pair) = false ∨ w.follower = true →
        exec (.mmaPair sa sb t pa pb acc sat gather) s = .next (bump (faultScalar s r sp 2 .matrixConfig))) ∧
      (nodeFlag s g (fun d => d.pair) = true → w.follower = false → ∀ k, w.twin = some k → k / 64 ≠ r.core →
        (s.core (k / 64)).matrix.length < 32 →
        ∃ u, exec (.mmaPair sa sb t pa pb acc sat gather) s = .next u ∧
          Commanded s u r g sp s.serial (.mma a b t.val pa.val pb.val acc sat gather true) ∧
          Enters s u r.core r.pipe (s.serial, false) ∧ Enters s u (k / 64) r.pipe (s.serial, true))) ∧
    (∀ count t : Fin 64,
      (w.tileCount < t.val + (count.val + 1) → exec (.mzero count t) s = .next (bump (faultScalar s r sp 2 .matrixConfig))) ∧
      (t.val + (count.val + 1) ≤ w.tileCount → MatrixRoom s r.core 0 →
        Queued (.mzero count t) s r g sp (.mzero t.val (count.val + 1)))) ∧
    (∀ (sd : SReg) (t : Fin 64) (tr : Bool) (d : MatDesc),
      readMat s r.core g.wg w .load (readS s sp sd).toNat MatDesc.allLines = .got d → d.k ≤ 64 → t.val < w.tileCount →
      MatrixRoom s r.core 0 → Queued (.mload sd t tr) s r g sp (.mload d t.val tr)) ∧
    (∀ (sd : SReg) (t : Fin 64) (tr : Bool) (rnd : Fin 4) (sat : Bool) (d : MatDesc),
      readMat s r.core g.wg w .drain (readS s sp sd).toNat MatDesc.allLines = .got d → d.k ≤ 64 → t.val < w.tileCount →
      drainForbids d.fmt rnd.val sat = false → (∀ x ∈ d.spans, touchesObject w x.1 x.2 = false) → MatrixRoom s r.core d.spans.length →
      Queued (.mdrain sd t tr rnd sat) s r g sp (.mdrain d t.val tr rnd.val sat)) ∧
    (∀ va : Fin 128, va.val < g.regs.length → (readV s g va.val).tag ∈ [Tag.raw, .i32, .n32] → MatrixRoom s r.core 0 →
      (∀ e ∈ (readV s g va.val).data.toList.take 64, e.getLsbD 31 = true ∨ e.toNat < 2 ^ 16) →
      Queued (.mgidx va) s r g sp (.mgidx ((readV s g va.val).data.toList.take 64)))

/-- The scratchpad as a command reads it: each byte as it stands, or as it stood before another agent overwrote it after the command
issued (R298). -/
def ReadsAs (w : Workgroup) (id : Nat) (m : Memory) : Prop :=
  ∀ x, m.read x = w.scratch.read x ∨ ∃ o ∈ w.overwritten, o.off = x ∧ o.byte = m.read x ∧ id < o.serial

/-- The array performs the command `id` of kind `kind`, first in the queue of `core`: it leaves the queue and the command table, and its
workgroup goes from `w` to one that `P` describes. -/
def Performs (kind : CmdKind) (P : Nat → Workgroup → Prop) : Workgroup → Prop := fun w =>
  ∀ (s : State) (core id : Nat) (rest : List (Nat × Bool)) (c : Command), s.power = true → (s.core core).matrix = (id, false) :: rest →
    (∀ e ∈ rest, e.1 ≠ id) → tget s.commands id = some c → c.kind = kind → tget s.wgs c.wg = some w → matrixReady s id c = true →
    ∃ (u : State) (v : Workgroup), exec (.matrixCommandPerform core false) s = .next u ∧ tget u.wgs c.wg = some v ∧
      tget u.commands id = none ∧ (u.core core).matrix = rest ∧ u.mem = s.mem ∧ P id v

/-- Matrix commands performed: mzero leaves its tiles zero and every other element; an integer mma on dense operands without saturation
adds to each element of its block, or to zero, the sum of its products, modulo 2^32; mload of a 32-bit format leaves the elements'
bits, and zero outside the block; mdrain of one leaves each element in its bytes; mgidx sets the table of its group. A command reads each
byte of the scratchpad as it stands or as it stood before it was overwritten after the command's issue (R123, R289, R297, R298, R301,
R302, R306, R308, R309). -/
def Obligations.MatrixPerform : Prop :=
  ∀ w : Workgroup, w.groups ≠ [] → w.scratch.wf = true →
    (∀ t n, Performs (.mzero t n) (fun _ v => v.scratch = w.scratch ∧
      ∀ x i j, i < 64 → j < 64 → v.tile x i j = if t ≤ x ∧ x < t + n then 0 else w.tile x i j) w) ∧
    (∀ (a b : MatDesc) (t pa pb : Nat) (acc : Bool), matInt a.fmt = true → matInt b.fmt = true → b.sparse = 0 → a.lines ≤ 64 →
      b.lines ≤ 64 → Performs (.mma a b t pa pb acc false false false) (fun id v => v.scratch = w.scratch ∧
        ∃ ma mb, ReadsAs w id ma ∧ ReadsAs w id mb ∧ ∀ i j, i < 64 → j < 64 → v.tile t i j =
          if i < a.lines ∧ j < b.lines then
            BitVec.ofInt 32 ((if acc then (w.tile t i j).toInt else 0) +
              (List.range b.k).foldl (fun x q => x + a.int ma i q * b.int mb j q) 0)
          else w.tile t i j) w) ∧
    (∀ (d : MatDesc) (t : Nat) (tr : Bool), d.fmt = 7 ∨ d.fmt = 8 → Performs (.mload d t tr) (fun id v => v.scratch = w.scratch ∧
      ∃ m, ReadsAs w id m ∧ ∀ i j line k, i < 64 → j < 64 → (line, k) = (if tr then (j, i) else (i, j)) → v.tile t i j =
        if line < d.lines ∧ k < d.k then BitVec.ofNat 32 (ofBytes (m.readBytes (d.data + line * d.pitch + 4 * k) 4)) else 0) w) ∧
    (∀ (d : MatDesc) (t rnd : Nat) (tr sat : Bool), d.fmt = 7 ∨ d.fmt = 8 → 4 * d.k ≤ d.pitch →
      Performs (.mdrain d t tr rnd sat) (fun _ v => v.tiles = w.tiles ∧ v.scratch.wf = true ∧
        (∀ line k i, line < d.lines → k < d.k → i < 4 → v.scratch.read (d.data + line * d.pitch + 4 * k + i) =
          (if tr then w.tile t k line else w.tile t line k).extractLsb' (8 * i) 8) ∧
        ∀ x, (∀ line, line < d.lines → x < d.data + line * d.pitch ∨ d.data + line * d.pitch + 4 * d.k ≤ x) →
          v.scratch.read x = w.scratch.read x) w) ∧
    ∀ (table : List Word) (s : State) (core id : Nat) (rest : List (Nat × Bool)) (c : Command) (g : Group), s.power = true →
      (s.core core).matrix = (id, false) :: rest → tget s.commands id = some c → c.kind = .mgidx table → c.cycle < s.cyc →
      tget s.wgs c.wg = some w → tget s.groups c.ref.gkey = some g →
      ∃ (u : State) (g' : Group), exec (.matrixCommandPerform core false) s = .next u ∧ tget u.groups c.ref.gkey = some g' ∧
        g'.gather = table ∧ LanesSame g g' ∧ u.mem = s.mem

/-! ### The copy engine -/

/-- A move at issue: the fault of its check; a wait while the scoreboard has no room for its destination; else its command is in the
open batch, and its destination on the scoreboard (R242, R277, R280). -/
def MoveForm (i : Instr) (s : State) (r : SplitRef) (g : Group) (sp : Split) (w : Workgroup) (kind : CmdKind) : Prop :=
  ∃ x : CopyPlan, planOf kind = some x ∧
    (∀ c a, x.check w = some (c, a) → exec i s = .next (bump (faultScalar s r sp 2 c 0 a))) ∧
    (x.check w = none → 32 < (s.core r.core).scoreboard.length + x.ranges.length →
      exec i s = .next (bump (s.setSplit r { sp with wait := .stall (.entries x.ranges.length) }))) ∧
    (x.check w = none → (s.core r.core).scoreboard.length + x.ranges.length ≤ 32 →
      ∃ t, exec i s = .next t ∧ Commanded s t r g sp s.serial kind ∧
        (t.core r.core).scoreboard = (s.core r.core).scoreboard ++
          x.ranges.map (fun y => { cmd := s.serial, wg := g.wg, lo := y.1, hi := y.2 }))

/-- xcopy, xput and xget at issue: an odd register for a global address is REG_RANGE; else they are moves whose shape, strides and
addresses come from their operands; with Pk = 0 each side's stride is the row length (R278 to R280, R284). -/
def Claims.MoveIssue : Prop :=
  ∀ (s : State) (r : SplitRef) (g : Group) (sp : Split) (w : Workgroup) (f : CopyFields) (tag : BitVec 16), Runs s r g sp →
    tget s.wgs g.wg = some w →
    (∀ (dir : CopyDir) (d a : SReg) (n k : Pair) (toPad fromPad : Bool), toPad = (dir == .gs || dir == .ss) →
      fromPad = (dir == .sg || dir == .ss) →
      (oddPair toPad d = true ∨ oddPair fromPad a = true →
        exec (.xcopy dir d a n k f) s = .next (bump (faultScalar s r sp 2 .regRange))) ∧
      (oddPair toPad d = false → oddPair fromPad a = false → ∀ len rows : Nat,
        len = (readS s sp (evenOf n)).toNat % 2 ^ 24 → rows = (readS s sp (oddOf n)).toNat % 2 ^ 12 + 1 →
        MoveForm (.xcopy dir d a n k f) s r g sp w
          (.copy dir (sideOf s sp toPad d) (sideOf s sp fromPad a) len rows
            (if k = 0 then BitVec.ofNat 64 len else (readS s sp (oddOf k)).signExtend 64)
            (if k = 0 then BitVec.ofNat 64 len else (readS s sp (evenOf k)).signExtend 64) f))) ∧
    (∀ (d : Pair) (a count : SReg) (spad : Bool),
      (oddPair spad a = true → exec (.xput d a count spad f tag) s = .next (bump (faultScalar s r sp 2 .regRange))) ∧
      (oddPair spad a = false → MoveForm (.xput d a count spad f tag) s r g sp w
        (.put (readD s sp d) (sideOf s sp spad a) (readS s sp count).toNat spad f tag))) ∧
    (∀ (d : SReg) (a : Pair) (count : SReg) (spad : Bool),
      (oddPair spad d = true → exec (.xget d a count spad f tag) s = .next (bump (faultScalar s r sp 2 .regRange))) ∧
      (oddPair spad d = false → MoveForm (.xget d a count spad f tag) s r g sp w
        (.get (sideOf s sp spad d) (readD s sp a) (readS s sp count).toNat spad f tag)))

/-- xsig, xdecomp and gemit at issue; xseal gives the open batch its number, and the next number is never 0; xwait n waits while more
than n sealed batches are unretired, and takes the deferred fault of a command that it covers (R239, R240, R277, R282, R283, R285,
R360). -/
def Claims.BatchesAndSignals : Prop :=
  ∀ (s : State) (r : SplitRef) (g : Group) (sp : Split), Runs s r g sp →
    (∀ (d v : Pair) (set : Bool) (f : CopyFields) (tag : BitVec 16),
      (canonical (readD s sp d) = false →
        exec (.xsig d v set f tag) s = .next (bump (faultScalar s r sp 2 .permission 0 (readD s sp d)))) ∧
      (canonical (readD s sp d) = true → (readD s sp d).toNat % 8 ≠ 0 →
        exec (.xsig d v set f tag) s = .next (bump (faultScalar s r sp 2 .align 0 (readD s sp d)))) ∧
      (canonical (readD s sp d) = true → (readD s sp d).toNat % 8 = 0 →
        ∃ t, exec (.xsig d v set f tag) s = .next t ∧
          Commanded s t r g sp s.serial (.signal (readD s sp d) (readD s sp v) set f tag (s.commandsOf r.gkey)))) ∧
    (∀ (d : Pair) (first count : SReg) (f : CopyFields) (img : ImageDesc), (s.core r.core).galley.length < 256 →
      (readImage s (whoOf s r g sp) (copyMem f) (readD s sp d)).2 = .got img →
      ∃ (t : State) (id : Nat), exec (.xdecomp d first count f) s = .next t ∧
        Commanded s t r g sp id (.decomp img (readS s sp first) (readS s sp count) f)) ∧
    (∀ (ss sn sq : SReg) (code : Fin 32) (nd : Node) (wg : Workgroup), s.nodeOf g = some nd → tget s.wgs g.wg = some wg →
      (nd.desc.gfx = false ∨ nd.desc.gstage ≠ 1 → exec (.gemit ss sn sq code) s = .next (bump (faultScalar s r sp 2 .illegalOpcode))) ∧
      (nd.desc.gfx = true → nd.desc.gstage = 1 → (readS s sp ss).toNat % 64 = 0 → (readS s sp sn).toNat ≤ 4096 →
        (readS s sp sn = 0 ∨ (readS s sp ss).toNat + 64 * (readS s sp sn).toNat ≤ wg.size) →
        (s.core r.core).galley.length < 256 → ∀ (b : List Byte) (d0 d1 d2 d3 : Nat),
        (readDescriptor s (whoOf s r g sp) unitFields nd.args 32).2 = .got b → dwordsIn 4 b = [d0, d1, d2, d3] →
        d0 % 64 = 0 → d0 < 2 ^ 57 → d1 < 2 ^ 32 → d2 < 2 ^ 33 → d3 = 0 →
        ∃ (t : State) (id : Nat), exec (.gemit ss sn sq code) s = .next t ∧
          Commanded s t r g sp id (.emit (readS s sp ss).toNat (readS s sp sn).toNat (readS s sp sq).toNat
            ((BitVec.ofNat 57 d0).signExtend 64) d1 nd.args code))) ∧
    (∀ sd : SReg,
      (15 ≤ g.batches.length → ∃ c, exec (.xseal sd) s = .next (bump (s.setSplit r { sp with wait := .stall c }))) ∧
      (g.batches.length < 15 → ∃ (t : State) (g' : Group) (sp' : Split), exec (.xseal sd) s = .next t ∧ At t r g' sp' ∧
        g'.batches = g.batches ++ [(g.batchNo.toNat, g.openBatch)] ∧ g'.openBatch = [] ∧ g'.batchNo ≠ 0 ∧
        (g.batchNo ≠ 0xFFFF → g'.batchNo = g.batchNo + 1) ∧ LanesSame g g' ∧ t.mem = s.mem ∧
        WroteW sp sp' sd (g.batchNo.setWidth 32) ∧ Issued s sp sp' (sp.spc + 2) sp.lpc ∧ OthersSame s t r)) ∧
    (∀ n : Fin 16,
      (n.val < g.batches.length → exec (.xwait n) s = .next (bump (s.setSplit r { sp with wait := .stall (.batches n.val) }))) ∧
      (g.batches.length ≤ n.val → (∀ x ∈ sp.deferred, ∀ c, x.cmd = some c → c ∈ g.uncovered) →
        ∃ sp', exec (.xwait n) s = .next (bump (s.setSplit r sp')) ∧ NoWrite sp sp' ∧ Issued s sp sp' (sp.spc + 2) sp.lpc) ∧
      (g.batches.length ≤ n.val → (∃ x ∈ sp.deferred, ∃ c, x.cmd = some c ∧ c ∉ g.uncovered) →
        ∃ (t : State) (sp' : Split) (d : Deferred), exec (.xwait n) s = .next t ∧ t.split r = some sp' ∧ d ∈ sp.deferred ∧
          sp'.stopped = some { code := d.code, kind := .deferred .proceed } ∧ sp'.s = sp.s ∧ sp'.spc = sp.spc + 2 ∧ sp'.lpc = sp.lpc ∧
          OthersSame s t r ∧ t.mem = s.mem))

/-- A copy command that has performed nothing yet, of a workgroup that has groups. -/
def Unperformed (s : State) (id : Nat) (c : Command) (w : Workgroup) (kind : CmdKind) : Prop :=
  s.power = true ∧ tget s.commands id = some c ∧ c.kind = kind ∧ c.progress = 0 ∧ c.page = none ∧ c.remote = [] ∧
  tget s.wgs c.wg = some w ∧ w.groups ≠ [] ∧ w.scratch.wf = true

/-- The command has been performed: it has left the table, and nothing of the groups or of other workgroups has changed. -/
def Copied (s u : State) (id : Nat) (c : Command) (w v : Workgroup) : Prop :=
  exec (.copyCommandPerform id) s = .next u ∧ tget u.commands id = none ∧ u.groups = s.groups ∧ tget u.wgs c.wg = some v ∧
  (∀ k, k ≠ c.wg → tget u.wgs k = tget s.wgs k) ∧ v.tiles = w.tiles ∧ v.objects = w.objects

/-- A piece of `n` bytes of a command's global side lies in one line of plain memory, at leaf `l`. -/
def InLine (s : State) (c : Command) (va : DWord) (n : Nat) (u : PageUse) (l : Leaf) : Prop :=
  canonical va = true ∧ va.toNat % 128 + n ≤ 128 ∧ (s.core c.ref.core).galley.length < 256 ∧
  pageHeld s c.ref.core c.ref.gkey (pageOf va) = false ∧ (translate s (some c.ref.core) (s.nodeCtx c.node) va u).2 = .ok l ∧
  isMemory l.pa = true

/-- A copy performed leaves at its destination the bytes that stood at its source, and no other byte changed: within the scratchpad, in
rows apart from each other and from their sources; and in a row of one line, from the scratchpad to memory and from memory to the
scratchpad. Where one row overlaps its source in the scratchpad, each destination byte is its source byte as it stood before the command,
or as the command itself wrote it; which of them the rule leaves open (R277, R279, R281). -/
def Claims.CopyPerformed : Prop :=
  (∀ (s : State) (id : Nat) (c : Command) (w : Workgroup) (d a sd sa : DWord) (len rows : Nat) (f : CopyFields) (dst src : Nat → Nat),
    Unperformed s id c w (.copy .ss d a len rows sd sa f) → 0 < len → 0 < rows →
    (∀ r, dst r = (d + sd * BitVec.ofNat 64 r).toNat % 2 ^ 32 ∧ src r = (a + sa * BitVec.ofNat 64 r).toNat % 2 ^ 32) →
    (∀ r q, r < rows → q < rows → (r ≠ q → dst r + len ≤ dst q ∨ dst q + len ≤ dst r) ∧
      (src r + len ≤ dst q ∨ dst q + len ≤ src r)) →
    ∃ (u : State) (v : Workgroup), Copied s u id c w v ∧ u.mem = s.mem ∧
      (∀ r, r < rows → v.scratch.readBytes (dst r) len = w.scratch.readBytes (src r) len) ∧
      ∀ x, (∀ r, r < rows → x < dst r ∨ dst r + len ≤ x) → v.scratch.read x = w.scratch.read x) ∧
  (∀ (s : State) (id : Nat) (c : Command) (w : Workgroup) (d a sd sa : DWord) (len dst src : Nat) (f : CopyFields),
    Unperformed s id c w (.copy .ss d a len 1 sd sa f) → 0 < len → dst = d.toNat → src = a.toNat → dst + len < 2 ^ 32 →
    src + len < 2 ^ 32 →
    ∃ (u : State) (v : Workgroup), Copied s u id c w v ∧ u.mem = s.mem ∧
      (∀ i, i < len → v.scratch.read (dst + i) = w.scratch.read (src + i) ∨
        (dst ≤ src + i ∧ src + i < dst + len ∧ v.scratch.read (dst + i) = v.scratch.read (src + i))) ∧
      ∀ x, x < dst ∨ dst + len ≤ x → v.scratch.read x = w.scratch.read x) ∧
  (∀ (s : State) (id : Nat) (c : Command) (w : Workgroup) (d a sd sa : DWord) (len : Nat) (f : CopyFields) (l : Leaf),
    Unperformed s id c w (.copy .sg d a len 1 sd sa f) → 0 < len → a.toNat < 2 ^ 32 → s.mem.wf = true → InLine s c d len .store l →
    ∃ (u : State) (v : Workgroup), Copied s u id c w v ∧ v.scratch = w.scratch ∧ BytesSameBut s u l.key l.pa (l.pa + len) ∧
      ∀ i, i < len → u.byteUnder (s.keyOf l.key) (l.pa + i) = w.scratch.read (a.toNat + i)) ∧
  ∀ (s : State) (id : Nat) (c : Command) (w : Workgroup) (d a sd sa : DWord) (len : Nat) (f : CopyFields) (l : Leaf),
    Unperformed s id c w (.copy .gs d a len 1 sd sa f) → 0 < len → d.toNat < 2 ^ 32 → InLine s c a len .load l →
    s.poisonedAt l.pa len = false → Uncached s c.ref (copyMem f) l →
    ∃ (u : State) (v : Workgroup), Copied s u id c w v ∧ BytesSame s u ∧
      v.scratch.readBytes d.toNat len = s.physRead l.key l.pa len ∧
      ∀ x, x < d.toNat ∨ d.toNat + len ≤ x → v.scratch.read x = w.scratch.read x

/-- Commands of the copy engine at issue, batches, and a copy performed (R239, R240, R277 to R285, R360). -/
def Obligations.CopyCommands : Prop := Claims.MoveIssue ∧ Claims.BatchesAndSignals ∧ Claims.CopyPerformed

/-! ### The command complex -/

/-- An Xcmd word whose checks, `faults` of the core and the state in the order of the fault numbers, fail first with `n`: the core
writes nothing, and goes on in M mode at mtvec with `n` in mcause and its pc in mepc. -/
def Traps (i : Instr) (s : State) (c : CmdCore) (n : Nat) : Prop :=
  ∃ t, exec i s = .next t ∧ (∀ k, k ≠ s.curCmd → t.cmdCore k = s.cmdCore k) ∧ t.mem = s.mem ∧
    t.cmdCore s.curCmd = { c with mepc := c.pc, mcause := BitVec.ofNat 64 n, mtval := 0, mstatus := (t.cmdCore s.curCmd).mstatus,
                                  machine := true, pc := c.mtvec &&& ~~~(3 : DWord) } ∧
    (t.cmdCore s.curCmd).mstatus.getLsbD 3 = false ∧ (t.cmdCore s.curCmd).mstatus.getLsbD 7 = c.mstatus.getLsbD 3

/-- The word completes: rd takes `v`, x0 stays, and the pc advances; core-local memory becomes `m`. -/
def Answers (s t : State) (c : CmdCore) (rd : Fin 32) (v : DWord) (m : Memory) : Prop :=
  t.cmdCore s.curCmd = { c with x := if rd = 0 then c.x else c.x.set rd v, pc := c.pc + 4, mem := m, instret := c.instret + 1 } ∧
  (∀ k, k ≠ s.curCmd → t.cmdCore k = s.cmdCore k) ∧ t.groups = s.groups ∧ BytesSame s t

/-- The Xcmd words in M mode (R407): cx.bfext takes a bit field of up to 64 bits; cx.rfetch moves the oldest frame into core-local
memory, which frees its slot for the frame that may wait there (the model's choice, log entry 91), or answers -1; cx.swait reads its dword and waits while it is below rs2 and no interrupt is pending; cx.guilt adds to a
context's count; cx.disp takes a launch entry, or answers 1 while the pool is full. Each has its faults, and each is an illegal
instruction in U mode (its trap's entry is the model's choice, log entry 18). -/
def Obligations.CommandWords : Prop :=
  ∀ (rd rs1 rs2 : Fin 32) (s : State) (c : CmdCore), RunsCommand s c →
    (c.machine = false → Traps (.cxRfetch rd rs1 rs2) s c 2 ∧ Traps (.cxBfext rd rs1 rs2) s c 2 ∧ Traps (.cxSwait rd rs1 rs2) s c 2 ∧
      Traps (.cxDisp rd rs1 rs2) s c 2 ∧ Traps (.cxGuilt rd rs1 rs2) s c 2) ∧
    (c.machine = true → ∀ a b : Nat, a = (c.get rs1).toNat → b = (c.get rs2).toNat →
      ((2 ^ 13 ≤ b → Traps (.cxBfext rd rs1 rs2) s c 27) ∧
       (b < 2 ^ 13 → ∃ (t : State) (v : DWord), exec (.cxBfext rd rs1 rs2) s = .next t ∧ Answers s t c rd v c.mem ∧
          ∀ j, j < 64 → v.getLsbD j = (decide (j < b / 64) && decide (b % 64 + j < 64) && (c.get rs1).getLsbD (b % 64 + j)))) ∧
      ((a % 4096 ≠ 0 → Traps (.cxRfetch rd rs1 rs2) s c 24) ∧
       (a % 4096 = 0 → Config.localMemorySize < a + 4096 → Traps (.cxRfetch rd rs1 rs2) s c 25) ∧
       (a % 4096 = 0 → a + 4096 ≤ Config.localMemorySize → rs2 = 0 →
          (s.frames = [] → ∃ t, exec (.cxRfetch rd rs1 rs2) s = .next t ∧ Answers s t c rd (BitVec.allOnes 64) c.mem) ∧
          ∀ slot f l, s.frames = (slot, f) :: l → ∃ t, exec (.cxRfetch rd rs1 rs2) s = .next t ∧
            (∀ x ∈ l, x ∈ t.frames) ∧ (∀ x ∈ t.frames, x ∈ l ∨ x.1 = slot) ∧ (tget s.aperture slot = none → t.frames = l) ∧
            Answers s t c rd (BitVec.ofNat 64 f.length) (c.mem.writeBytes a (frameBytes f)))) ∧
      ((a % 8 ≠ 0 → Traps (.cxSwait rd rs1 rs2) s c 24) ∧
       (a % 8 = 0 → cmdReadable s a 8 = false → Traps (.cxSwait rd rs1 rs2) s c 25) ∧
       (a % 8 = 0 → cmdReadable s a 8 = true → ∀ v : Nat, v = ofBytes (homeRead s none (s.keyMapSlot a) a 8).2 →
          (b ≤ v ∨ c.pendingIrq = true → ∃ t, exec (.cxSwait rd rs1 rs2) s = .next t ∧ Answers s t c rd (BitVec.ofNat 64 v) c.mem) ∧
          (v < b → c.pendingIrq = false → ∃ t, exec (.cxSwait rd rs1 rs2) s = .next t ∧ t.cmdCore s.curCmd = c ∧ BytesSame s t))) ∧
      (((s.context (a % 1024)).valid = false → Traps (.cxGuilt rd rs1 rs2) s c 26) ∧
       ((s.context (a % 1024)).valid = true → 1024 ≤ a ∨ 256 ≤ b → Traps (.cxGuilt rd rs1 rs2) s c 27) ∧
       ((s.context (a % 1024)).valid = true → a < 1024 → b < 256 → ∃ t, exec (.cxGuilt rd rs1 rs2) s = .next t ∧
          t.cmdCore s.curCmd = (c.done rd (BitVec.ofNat 64 (t.context a).guilt)) ∧
          (t.context a).guilt = min 255 ((s.context a).guilt + b) ∧ t.mem = s.mem)) ∧
      ((a % 64 ≠ 0 → Traps (.cxDisp rd rs1 rs2) s c 24) ∧
       (a % 64 = 0 → (s.context (b % 1024)).valid = false → Traps (.cxDisp rd rs1 rs2) s c 26) ∧
       (a % 64 = 0 → (s.context (b % 1024)).valid = true → 1024 ≤ b → Traps (.cxDisp rd rs1 rs2) s c 27) ∧
       (a % 64 = 0 → (s.context (b % 1024)).valid = true → b < 1024 →
          (∃ (t : State) (v : DWord), exec (.cxDisp rd rs1 rs2) s = .next t ∧ t.cmdCore s.curCmd = c.done rd v ∧ (v = 0 ∨ v = 1 ∨ v = 2) ∧
            BytesSame s t) ∧
          (16384 ≤ poolCount s → ∃ t, exec (.cxDisp rd rs1 rs2) s = .next t ∧ Answers s t c rd 1 c.mem ∧
            t.nodes.map (fun e => e.1) = s.nodes.map (fun e => e.1)))))

/-! ### Events -/

/-- The event leaves `t`, but for the counter of free values. -/
def Leaves (i : Instr) (s t : State) : Prop := exec i s = .next (bump t)

/-- Parks, joins and barriers end as their rules say: a park whose results are in lets its split go on, one whose results are not
leaves it; a split with 1,024 scalar words, or 256 lane words of a run, since its last park is parked; the splits that wait for a join
record merge once they are all its lanes, into the split with the lowest-numbered lane, which goes on past the sjoin with the union of
lanes, masks and flags, the registers of R39 and the deferred faults of all, while the record is freed and the other slots are empty; a
deadlock of joins lets every split go on past its sjoin and frees their records; the barrier opens when every group has arrived, and not before; a split that has been ready for 1,024 cycles goes first
(R37 to R42, R44, R46, R57, R272). A word that is no instruction stops its split, once the results that earlier words have in flight are
in (R75). -/
def Obligations.ParkEvents : Prop :=
  ∀ s : State, s.power = true →
    (∀ (r : SplitRef) (g : Group) (sp : Split), At s r g sp → sp.stopped = none →
      (sp.wait = .park .proceed → ParksThrough s r g sp → Leaves (.parkPointRelease r) s (s.setSplit r { sp with wait := .ready })) ∧
      (∀ k, sp.wait = .park k → resultsIn s r g sp = false → Leaves (.parkPointRelease r) s s) ∧
      (sp.wait = .ready → ParksThrough s r g sp →
        (sp.run = none ∧ 1024 ≤ sp.scalarCount) ∨ (sp.run ≠ none ∧ 256 ≤ sp.laneCount) →
        ∃ t, exec (.forcedPark r) s = .next t ∧ Parked s t r g sp sp.spc .ready) ∧
      (sp.wait = .ready → 1024 ≤ s.cyc - sp.lastIssue → tget (s.core r.core).precedence r.pipe = none →
        ∃ t, exec (.starvationPrecedence r) s = .next t ∧ tget (t.core r.core).precedence r.pipe = some r ∧ t.groups = s.groups)) ∧
    (∀ (k id : Nat) (g : Group) (j : JoinRec) (waiting : Table Split), tget s.groups k = some g →
      g.joins.find? (fun j => j.id == id) = some j → waiting = g.splits.filter (fun e => e.2.wait == .join id && e.2.stopped.isNone) →
      (j.lanes &&& ~~~(waiting.foldl (fun m e => m ||| e.2.lanes) (0 : LaneMask)) ≠ 0 → Leaves (.splitMerge k id) s s) ∧
      (j.lanes &&& ~~~(waiting.foldl (fun m e => m ||| e.2.lanes) (0 : LaneMask)) = 0 → waiting ≠ [] → groupHeld s g = false →
        ∃ (t : State) (g' : Group) (slot : Nat) (sp : Split), exec (.splitMerge k id) s = .next t ∧ tget t.groups k = some g' ∧
          tget g'.splits slot = some sp ∧ (∃ e ∈ waiting, e.1 = slot ∧ sp.spc = e.2.spc + 1 ∧ sp.lpc = e.2.lpc ∧
            ∀ x ∈ waiting, lowestLane e.2.lanes ≤ lowestLane x.2.lanes) ∧
          Merged sp id (waiting.map (fun e => Side.ofSplit s e.2)) ∧ sp.deferred = waiting.flatMap (fun e => e.2.deferred) ∧
          (∀ i, i ≠ slot → (∀ e ∈ waiting, e.1 ≠ i) → tget g'.splits i = tget g.splits i) ∧
          ((g.splits.map (fun e => e.1)).Nodup → ∀ i, i ≠ slot → (∃ e ∈ waiting, e.1 = i) → tget g'.splits i = none) ∧
          sp.wait = .ready ∧ g'.joins = g.joins.filter (fun x => x.id != id) ∧ LanesSame g g' ∧ t.mem = s.mem)) ∧
    (∀ (k : Nat) (g : Group), tget s.groups k = some g →
      (joinDeadlock g = true → ∃ (t : State) (g' : Group), exec (.joinDeadlockRelease k) s = .next t ∧ tget t.groups k = some g' ∧
        LanesSame g g' ∧ t.mem = s.mem ∧ (∀ j ∈ g'.joins, j ∈ g.joins) ∧ ∀ slot sp, tget g.splits slot = some sp →
          (∀ j ∈ g'.joins, joinWait g slot sp ≠ some j.id) ∧
          ∃ sp', tget g'.splits slot = some sp' ∧ sp'.spc = sp.spc + 1 ∧ sp'.ustat = sp.ustat ||| 2 ∧ sp'.lanes = sp.lanes ∧ sp'.s = sp.s) ∧
      (joinDeadlock g = false → Leaves (.joinDeadlockRelease k) s s)) ∧
    (∀ (wg : Nat) (w : Workgroup), tget s.wgs wg = some w → w.groups.Nodup →
      ((∀ k ∈ w.groups, ∀ g, tget s.groups k = some g → groupArrived g = true) → ∃ t, exec (.barrierComplete wg) s = .next t ∧
        t.mem = s.mem ∧ ∀ k ∈ w.groups, ∀ g, tget s.groups k = some g → ∃ g', tget t.groups k = some g' ∧ LanesSame g g' ∧
          ∀ slot sp, tget g.splits slot = some sp → ∃ sp', tget g'.splits slot = some sp' ∧
            sp'.spc = (if atBarrier sp then sp.spc + 1 else sp.spc) ∧ sp'.s = sp.s ∧ sp'.lanes = sp.lanes ∧ sp'.lpc = sp.lpc) ∧
      ((∃ k ∈ w.groups, ∃ g, tget s.groups k = some g ∧ groupArrived g = false) → Leaves (.barrierComplete wg) s s)) ∧
    (∀ (r : SplitRef) (k : Nat) (a : Ack), tget s.acks k = some a → a.ref = r →
      Leaves (.storeAcknowledgement r k) s { s with acks := tdel s.acks k }) ∧
    (∀ (r : SplitRef) (g : Group) (sp : Split), Runs s r g sp →
      (sp.inflight = [] → ∃ skip t, exec .illegalOpcode s = .next t ∧ t.split r =
          some { sp with wait := .ready, stopped := some { code := .illegalOpcode, kind := if sp.run.isSome then .lane else .scalar skip } } ∧
        OthersSame s t r ∧ t.mem = s.mem) ∧
      (sp.inflight ≠ [] → Leaves .illegalOpcode s (s.setSplit r { sp with wait := .stall .results })))

/-- The floor has advanced by one sweep: every logical time and every timestamp below the new floor is raised to it, every copy in an L1 or
in the resident cluster whose lease ends below it is dropped, and no byte of memory changes (R248). -/
def Swept (s t : State) (f : BitVec 16) : Prop :=
  t.floor = f ∧ t.mem = s.mem ∧ t.groups = s.groups ∧ t.hubLt = tsMax s.hubLt f ∧
  (∀ c, t.core c = { s.core c with lt := tsMax (s.core c).lt f, l1 := (s.core c).l1.filter (fun l => tsLe f l.rts) }) ∧
  (∀ line, t.ts line = (tsMax (s.ts line).1 f, tsMax (s.ts line).2 f)) ∧ t.resCopies = s.resCopies.filter (fun y => tsLe f y.rts)

/-- Clocks, logical time, leases, the weir, overdue lines, audits and granules move only as their rules say, and only when due (R23,
R210, R219, R221, R222, R247, R248, R251, R252, R416). Which point Oluvos chooses beside the present one, within a step of it, hangs on
measurements that are free values (R412; log entry 6). -/
def Obligations.ClockEvents : Prop :=
  ∀ s : State, s.power = true →
    (∀ p, (mayChoose s p = true → Leaves (.clockPointChange p) s { s with issueClock := p }) ∧
      (mayChoose s p = false → Leaves (.clockPointChange p) s s) ∧ (s.throttled = true → (mayChoose s p = true ↔ p = .low)) ∧
      (s.throttled = false → mayChoose s s.issueClock = true ∧
        (mayChoose s p = true → s.issueClock = .low → p ≠ .high) ∧ (mayChoose s p = true → s.issueClock = .high → p ≠ .low) ∧
        (overCap s = true → mayChoose s (lowerPoint s.issueClock) = true ∧
          (mayChoose s p = true → p = s.issueClock ∨ p = lowerPoint s.issueClock)))) ∧
    (∀ core, ((s.core core).ticked < s.cyc / 1024 → Leaves (.ltTick core) s
        (s.modCore core (fun c => { c with lt := c.lt + 1, ticked := c.ticked + 1 }))) ∧
      (s.cyc / 1024 ≤ (s.core core).ticked → Leaves (.ltTick core) s s)) ∧
    ((s.hubTicked < s.cyc / 1024 → Leaves .hubLtTick s { s with hubLt := s.hubLt + 1, hubTicked := s.hubTicked + 1 }) ∧
      (s.cyc / 1024 ≤ s.hubTicked → Leaves .hubLtTick s s)) ∧
    ((nearTop s.floor s.hubLt = true ∨ (∃ c, nearTop s.floor (s.core c).lt = true) ∨
        (∃ line, nearTop s.floor (s.ts line).1 = true ∨ nearTop s.floor (s.ts line).2 = true) →
        ∃ t, exec .floorSweep s = .next t ∧ Swept s t (s.floor + 4096)) ∧
      (nearTop s.floor s.hubLt = false → nearTop s.floor s.idleLt = false → (∀ e ∈ s.coreTab, nearTop s.floor e.2.lt = false) →
        (∀ e ∈ s.lineTs, nearTop s.floor e.2.1 = false ∧ nearTop s.floor e.2.2 = false) → Leaves .floorSweep s s)) ∧
    (∀ line l, tget s.leases line = some l →
      (l.ends ≤ s.cyc → ∃ t, exec (.atomicLeaseExpiry line) s = .next t ∧ tget t.leases line = none ∧ t.mem = s.mem) ∧
      (s.cyc < l.ends → Leaves (.atomicLeaseExpiry line) s s)) ∧
    (∀ line, ∃ t, exec (.weirFarExpiry line) s = .next t ∧ t.mem = s.mem ∧
      (t.die (homeDie (128 * line))).weir.map (fun e => (e.line, e.far)) = (s.die (homeDie (128 * line))).weir.map (fun e =>
        (e.line, e.far && !(e.line == line && decide (65536 ≤ s.cyc - e.last))))) ∧
    (∀ die slice, ∃ t, exec (.l2OverdueSweep die slice) s = .next t ∧ t.mem = s.mem ∧
      (t.die die).l2.map (fun l => (l.line, l.ovd)) =
        (s.die die).l2.map (fun l => (l.line, l.ovd || (l.slice == slice && l2Overdue (nowUnits s) l)))) ∧
    (∀ die slice k a, ((s.die die).auditRecs.filter (fun a => a.slice == slice))[k]? = some a →
      (a.deadline ≤ s.cyc / 256 → ∃ t, exec (.auditFail die slice k) s = .next t ∧
        tget (t.die die).audit a.ctx = some (min 255 ((tget (s.die die).audit a.ctx).getD 0 + 4)) ∧
        (t.die die).auditRecs = (s.die die).auditRecs.erase a) ∧
      (s.cyc / 256 < a.deadline → Leaves (.auditFail die slice k) s s)) ∧
    (∀ core c, c = s.core core →
      (8 < c.ways → c.scratchGranules < granuleNeed s core →
        ((∀ l ∈ c.l1, l.way = c.ways - 1 → leased s core l.line = false) →
          Leaves (.granuleToScratch core) s (s.setCore core
            { c with stopping := false, scratchGranules := c.scratchGranules + 1, l1 := c.l1.filter (fun l => l.way != c.ways - 1) })) ∧
        ((∃ l ∈ c.l1, l.way = c.ways - 1 ∧ leased s core l.line = true) →
          Leaves (.granuleToScratch core) s (s.setCore core { c with stopping := true }))) ∧
      (c.ways ≤ 8 ∨ granuleNeed s core ≤ c.scratchGranules →
        (c.stopping = true → Leaves (.granuleToScratch core) s (s.setCore core { c with stopping := false })) ∧
        (c.stopping = false → Leaves (.granuleToScratch core) s s)) ∧
      (granuleNeed s core < c.scratchGranules →
        Leaves (.granuleToL1 core) s (s.setCore core { c with scratchGranules := c.scratchGranules - 1 })) ∧
      (c.scratchGranules ≤ granuleNeed s core → Leaves (.granuleToL1 core) s s))

/-- No translation cache of the part holds an entry that `gone` names. -/
def Dropped (t : State) (gone : TlbEntry → Bool) : Prop :=
  (∀ k c, tget t.coreTab k = some c → ∀ e ∈ c.tlb, gone e = false) ∧ ∀ k d, tget t.dieTab k = some d → ∀ e ∈ d.tlb, gone e = false

/-- Invalidations drop what they name from every translation cache; invalidations of a context let its new WKEY, ROOT and PART be
used; a hart's load of the port waits while an access that one of its contexts translated is still to be performed by the
render-target unit or at a peer; a write of VALID 1 clears GUILT and the context's AUDIT counter of every die; a write to a retention
range moves no line, and leaves retained only lines of reserved ways that lie in their range; stores to the control region change the
register that they name (R201, R206 to R208, R222, R225, R228, R315, R342). That a store to the region which is not aligned to 8 bytes
changes nothing is the model's choice (log entry 71): R415 says so of the ports alone. -/
def Obligations.RegisterEvents : Prop :=
  ∀ s : State, s.power = true →
    (∀ ctx page, ∃ t, exec (.invalidatePage ctx page) s = .next t ∧ t.mem = s.mem ∧ t.groups = s.groups ∧ t.contexts = s.contexts ∧
      Dropped t (fun e => e.hits ctx (s.context ctx).usedPart (page % 2 ^ 45))) ∧
    (∀ ctx, ∃ t, exec (.invalidateContext ctx) s = .next t ∧ t.mem = s.mem ∧ t.groups = s.groups ∧ Dropped t (fun e => e.ctx == ctx) ∧
      (t.context ctx).usedWkey = (s.context ctx).wkey ∧ (t.context ctx).usedRoot = (s.context ctx).root ∧
      (t.context ctx).usedPart = (s.context ctx).part) ∧
    (∀ ctx, ∃ t, exec (.invalidateNonglobal ctx) s = .next t ∧ t.mem = s.mem ∧ t.groups = s.groups ∧ t.contexts = s.contexts ∧
      Dropped t (fun e => e.ctx == ctx && !e.g)) ∧
    (∃ t, exec .invalidateAll s = .next t ∧ t.mem = s.mem ∧ t.groups = s.groups ∧ Dropped t (fun _ => true) ∧
      ∀ ctx c, tget s.contexts ctx = some c → (t.context ctx).usedWkey = c.wkey ∧ (t.context ctx).usedRoot = c.root ∧
        (t.context ctx).usedPart = c.part) ∧
    (s.rtTiles = [] → s.rtWrites = [] → s.remotes = [] → Leaves .invalidationPortLoad s
      { s with residentLoads := s.residentLoads ++ [0], invalidated := s.invalidated.filter (fun e => e.1 != s.curHart) }) ∧
    (∀ ctx, (s.curHart, ctx) ∈ s.invalidated → translated s ctx = true →
      Leaves .invalidationPortLoad s { s with portLoads := s.portLoads ++ [s.curHart] }) ∧
    (∀ ctx, (∃ t, exec (.contextValidWrite ctx true) s = .next t ∧ (t.context ctx).valid = true ∧ (t.context ctx).guilt = 0 ∧
        t.mem = s.mem ∧ ∀ k d, tget t.dieTab k = some d → tget d.audit ctx = none) ∧
      Leaves (.contextValidWrite ctx false) s
        (s.setContext ctx { s.context ctx with valid := false, barred := false, unbarred := true })) ∧
    (∀ die range dword value, ∃ t, exec (.retentionRangeWrite die range dword value) s = .next t ∧ t.mem = s.mem ∧
      (t.die die).l2.map (fun l => { l with retained := none }) = (s.die die).l2.map (fun l => { l with retained := none }) ∧
      ∀ l j, l ∈ (t.die die).l2 → l.retained = some j → ∃ lo n x, rangeWays (t.die die) j = some (lo, n) ∧ lo ≤ l.way ∧
        l.way < lo + n ∧ tget (t.die die).retention j = some x ∧ x.base ≤ l.line ∧ l.line < x.limit) ∧
    (∀ offset value, offset % 8 ≠ 0 → Leaves (.registerWrite offset value) s s) ∧
    (∀ offset value c, offset % 8 = 0 → placeOf offset = .context c 0 → ∃ t, exec (.registerWrite offset value) s = .next t ∧
      (t.context c).wkey = (value.extractLsb' 0 6).toNat ∧ (t.context c).root = (value.extractLsb' 12 40).toNat ∧
      (t.context c).part = (value.extractLsb' 52 12).toNat ∧ (t.context c).usedRoot = (s.context c).usedRoot ∧ t.mem = s.mem)

/-- The pool holds the same nodes. -/
def SameNodes (s t : State) : Prop := t.nodes.map (fun e => (e.1, e.2.state)) = s.nodes.map (fun e => (e.1, e.2.state))

/-- An offence of a context: its GUILT is one more, and 255 at the most, and the context is barred if that has reached GLIMIT and it may be
barred; no other context changes, nor anything else but the counter of free values (R315). -/
def Charged (i : Instr) (s : State) (c : Nat) : Prop :=
  ∃ (t : State) (x : Context), exec i s = .next t ∧ x.guilt = min 255 ((s.context c).guilt + 1) ∧
    x.barred = ((s.context c).barred || (decide ((s.context c).glimit ≤ x.guilt) && !(s.context c).unbarred)) ∧
    { x with guilt := (s.context c).guilt, barred := (s.context c).barred } = s.context c ∧
    { t with fresh := s.fresh } = { s with notifies := s.notifies.drop 1 }.setContext c x

/-- Queue ports (R311 to R315, R317): enabling zeroes the counts; a notify that the resident cluster or the queue's own context sends an
enabled queue moves TAIL where it names a place at most the ring's size ahead, is ignored where that is behind or equal, and is rejected
and charged to the context where it is further, TAIL staying as it is; a notify of another context is charged, one of a barred context
is not; a no-op entry is taken, a launch entry enters its node with its predecessors less the decrements held, a wait entry is taken when
its signal has reached its value and else the port waits at it; an entry that cannot be read or is malformed is charged and taken. -/
def Obligations.QueueEvents : Prop :=
  ∀ (s : State) (q : Nat), s.power = true →
    (((s.queue q).en = false → Leaves (.queueEnable q) s
        (s.setQueue q { s.queue q with tail := 0, head := 0, waiting := none, en := true })) ∧
      ((s.queue q).en = true → Leaves (.queueEnable q) s s)) ∧
    (∀ (n : Notify) (l : List Notify) (d : Nat), s.notifies = n :: l → d = (n.value - (s.queue n.queue).tail).toNat →
      ((s.queue n.queue).enabled = false ∨ (∃ c, n.ctx = some c ∧ (s.context c).barred = true) →
        Leaves .notify s { s with notifies := l }) ∧
      (∀ c, (s.queue n.queue).enabled = true → n.ctx = some c → (s.context c).barred = false → c ≠ (s.queue n.queue).ctx →
        Charged .notify s c) ∧
      ((s.queue n.queue).enabled = true →
        n.ctx = none ∨ (n.ctx = some (s.queue n.queue).ctx ∧ (s.context (s.queue n.queue).ctx).barred = false) →
        (d ≠ 0 → d < 2 ^ 31 → d ≤ (s.queue n.queue).size → Leaves .notify s
          ({ s with notifies := l }.setQueue n.queue { s.queue n.queue with tail := n.value })) ∧
        (d = 0 ∨ 2 ^ 31 ≤ d → Leaves .notify s { s with notifies := l }) ∧
        ((s.queue n.queue).size < d → d < 2 ^ 31 →
          (n.ctx = none → Leaves .notify s { s with notifies := l }) ∧ (∀ c, n.ctx = some c → Charged .notify s c)))) ∧
    (portReads s q = true → (s.queue q).waiting = none → (s.queue q).later = [] → ∀ e : FaultCode,
      (hubDwords s (s.queue q).ctx (entryVa (s.queue q) (s.queue q).head) 8).2 = .error e →
      ∀ i ∈ [Instr.noopEntry q, .launchEntry q, .waitEntry q], ∃ t, exec i s = .next t ∧
        (t.queue q).head = (s.queue q).head + 1 ∧ SameNodes s t ∧
        (t.context (s.queue q).ctx).guilt = min 255 ((s.context (s.queue q).ctx).guilt + 1)) ∧
    (portReads s q = true → (s.queue q).waiting = none → ∀ (d : List Nat),
      (hubDwords s (s.queue q).ctx (entryVa (s.queue q) (s.queue q).head) 8).2 = .ok d →
      (d.all (fun x => x == 0) = true → d.length = 8 → (s.queue q).later = [] → ∃ t, exec (.noopEntry q) s = .next t ∧
        (t.queue q).head = (s.queue q).head + 1 ∧ (t.queue q).tail = (s.queue q).tail ∧ SameNodes s t) ∧
      (bitsAt (d.getD 0 0) 0 8 = 1 → (s.queue q).later = [] → ∀ (s1 s2 : State) (x : Desc) (args : DWord),
        (hubDwords s (s.queue q).ctx (entryVa (s.queue q) (s.queue q).head) 8).1 = s1 →
        launchEntry s1 (s.queue q).ctx d = (s2, some (x, args)) → s2.serial = s.serial → s1.queues = s.queues →
        s2.queues = s.queues →
        ∃ (t : State) (n : Node), exec (.launchEntry q) s = .next t ∧ (t.queue q).head = (s.queue q).head + 1 ∧
          tget t.nodes s.serial = some n ∧ n.desc = x ∧ n.args = args ∧ n.ctx = (s.queue q).ctx ∧ n.pos = (s.queue q).head ∧
          n.count = x.preds - (tget (s.queue q).credits ((s.queue q).head.toNat % 256)).elim 0 (fun e => e.1) ∧
          n.state = (if n.count = 0 then .ready else .waiting)) ∧
      (3 ≤ bitsAt (d.getD 0 0) 0 8 → (s.queue q).later = [] →
        (∀ i ∈ [Instr.noopEntry q, .launchEntry q, .waitEntry q], ∃ t, exec i s = .next t ∧
          (t.queue q).head = (s.queue q).head + 1 ∧ SameNodes s t ∧
          (t.context (s.queue q).ctx).guilt = min 255 ((s.context (s.queue q).ctx).guilt + 1))) ∧
      (bitsAt (d.getD 0 0) 0 8 = 2 → entryReserved d 3 = true → d.getD 1 0 < 2 ^ 57 → d.getD 1 0 % 8 = 0 → (s.queue q).later = [] →
        ∀ (s1 : State) (b : List Byte), (hubDwords s (s.queue q).ctx (entryVa (s.queue q) (s.queue q).head) 8).1 = s1 →
        s1.queues = s.queues → (hubRead s1 (s.queue q).ctx (address57 (d.getD 1 0)) 8).2 = .ok b →
        ((d.getD 2 0) % 2 ^ 64 ≤ ofBytes b → ∃ t, exec (.waitEntry q) s = .next t ∧ (t.queue q).head = (s.queue q).head + 1) ∧
        (ofBytes b < (d.getD 2 0) % 2 ^ 64 → ∃ t, exec (.waitEntry q) s = .next t ∧ (t.queue q).head = (s.queue q).head ∧
          (t.queue q).waiting = some (address57 (d.getD 1 0), BitVec.ofNat 64 (d.getD 2 0))))) ∧
    (∀ (va value : DWord) (b : List Byte), (s.queue q).waiting = some (va, value) → portReads s q = true → (s.queue q).later = [] →
      (hubRead s (s.queue q).ctx va 8).2 = .ok b →
      (value.toNat ≤ ofBytes b → ∃ t, exec (.waitEntrySatisfied q) s = .next t ∧ (t.queue q).head = (s.queue q).head + 1 ∧
        (t.queue q).waiting = none) ∧
      (ofBytes b < value.toNat → ∃ t, exec (.waitEntrySatisfied q) s = .next t ∧ (t.queue q).head = (s.queue q).head ∧
        (t.queue q).waiting = some (va, value)))

/-- A group as it is when it is first placed: one split, at scalar PC and lane PC 0, over the lanes whose f0 lies below N0; s2 and s3 hold
the launch arguments, s4 and s5 its work identifier, 0 in a free-thread node, s60 to s62 its mask, and every other scalar register 0, as
are FPSTAT, USTAT, RPTIDX, the condition registers and the exact accumulators; the latch and the stacks are empty; each lane of a
free-thread group has its own identifier in v0 and v1, tagged n64, and every other vector register is zero and raw (R31, R33, R49). -/
def NewGroup (n : Node) (wid : Nat) (g : Group) : Prop :=
  ∃ sp, g.splits = [(0, sp)] ∧ sp.spc = 0 ∧ sp.lpc = 0 ∧ sp.wait = .ready ∧ sp.stopped = none ∧ sp.run = none ∧ sp.inflight = [] ∧
    (∀ i, i < 96 → sp.lanes.getLsbD i = decide (i < n.desc.n.getD 0 1)) ∧ sp.s[(2 : SReg)] = n.args.lo ∧ sp.s[(3 : SReg)] = n.args.hi ∧
    sp.s[(4 : SReg)] = (if n.desc.free then 0 else BitVec.ofNat 32 wid) ∧
    sp.s[(5 : SReg)] = (if n.desc.free then 0 else BitVec.ofNat 32 (wid / 2 ^ 32)) ∧
    (∀ i : SReg, i.val < 2 ∨ 6 ≤ i.val ∧ i.val < 60 ∨ i.val = 63 → sp.s[i] = 0) ∧
    maskOfWords sp.s[(60 : SReg)] sp.s[(61 : SReg)] sp.s[(62 : SReg)] = sp.lanes ∧
    sp.fpstat = 0 ∧ sp.ustat = 0 ∧ sp.rptidx = 0 ∧ sp.armed = none ∧ sp.deferred = [] ∧
    (∀ c : Fin 4, g.vc[c] = 0) ∧ (∀ a : Fin 2, g.xa[a] = Exact.zero) ∧
    g.regs.length = n.desc.allot ∧ LatchEmpty g ∧ g.joins = [] ∧ g.deferrals = [] ∧ g.mailbox = [] ∧
    (∀ l ∈ g.conts, l = []) ∧ g.wid = BitVec.ofNat 64 wid ∧
    ∀ k x, g.regs[k]? = some x →
      (n.desc.free = false ∨ 2 ≤ k → x = VReg.zero) ∧
      (n.desc.free = true → k < 2 → x.tag = .n64 ∧ ∀ i : Fin 96, x.data[i] =
        if i.val < n.desc.n.getD 0 1 then BitVec.ofNat 32 (if k = 0 then wid + i.val else (wid + i.val) / 2 ^ 32) else 0)

/-- Placement (R319 to R323, R353): with no ready node nothing is placed; where nothing fits, nodes are judged and bound and no more;
a fresh workgroup that comes first is placed, one that was saved is left for its restore and a composed group for its release. Where the pool has one ready node, its
next workgroup goes to the core that R320 picks, into its lowest free slot, with the next identifier in ascending order: its one group,
or as many as f1 counts, is as R33 says, no other workgroup changes, and the node's wait for room counts again. -/
def Claims.Placement : Prop :=
  ∀ s : State, s.power = true →
    (readyOrder s = [] → Leaves .workgroupPlacement s s) ∧
    (firstPlaced (poolJudged s) = none → Leaves .workgroupPlacement s (poolJudged s)) ∧
    (∀ node t, firstPlaced (poolJudged s) = some (node, .fresh, t) → Leaves .workgroupPlacement s t) ∧
    (∀ node w t, firstPlaced (poolJudged s) = some (node, w, t) → w ≠ .fresh → Leaves .workgroupPlacement s (poolJudged s)) ∧
    ∀ (node c wid slot : Nat) (n : Node), s.nodes = [(node, n)] → n.state = .ready → n.multi = none → n.desc.coop = false →
      n.desc.pair = false → n.desc.gstage ≠ 2 → s.saved = [] → (∀ x ∈ s.threads, x.node ≠ node) → n.next < totalWorkgroups n →
      wid = widFrom n (firstField n.desc) n.next → coreFor s node n .fresh wid (wantOf node n) = some c →
      regionsFit s n (wantOf node n).groups = true → firstFree ((coreWgs s c).map (fun e => e.1 % 64)) 0 64 = some slot →
      ∃ (t : State) (w : Workgroup), exec .workgroupPlacement s = .next t ∧ tget t.wgs (wgKey c slot) = some w ∧ w.node = node ∧
        w.wid = BitVec.ofNat 64 wid ∧ w.groups.length = (wantOf node n).groups ∧ w.size = scratchBytes n.desc ∧ w.scratch = [] ∧
        w.tileCount = n.desc.acct ∧ w.objects = [] ∧ w.rck = 0 ∧ w.cpt = 256 ∧ w.twin = none ∧ w.preempt = none ∧ w.lastTick = s.cyc ∧
        (∀ k, k ≠ wgKey c slot → tget t.wgs k = tget s.wgs k) ∧
        (∃ n', t.nodes = [(node, n')] ∧ n'.next = n.next + 1 ∧ n'.waitFrom = s.cyc ∧ n'.reserves = [] ∧ n'.state = .ready ∧
          n'.ended = n.ended ∧ (n.desc.aff ≠ 6 → tget n'.dies (affinitySet n.desc wid) = some (dieOf c))) ∧
        ((wantOf node n).groups = 1 → ∃ k g, w.groups = [k] ∧ k / 256 = c ∧ tget t.groups k = some g ∧ g.node = node ∧
          g.wg = wgKey c slot ∧ NewGroup n wid g ∧ ∀ k', k' ≠ k → tget t.groups k' = tget s.groups k')

/-- Compaction (R322): only where a group of this size fails to fit the core for want of an aligned block, and only on the pipe that R321
picks; only bases change, those of parked groups of that pipe. The part that `wantsBlock` gives is this one, with the workgroups placed
that go with the group, where its node is cooperative (R325). -/
def Claims.Compacts : Prop :=
  ∀ s : State, s.power = true → ∀ core pipe allot,
    (wantsBlock s core allot = none → Leaves (.compaction core pipe allot) s s) ∧
    (∀ u given, wantsBlock s core allot = some (u, given) →
      (∀ p moves, compactPipe u core allot given = some (p, moves) →
        (p ≠ pipe → Leaves (.compaction core pipe allot) s s) ∧
        (p = pipe → Leaves (.compaction core pipe allot) s { s with groups := s.groups.map (fun e =>
            if e.1 / 32 = core * 8 + pipe then
              match moves.find? (fun m => m.1 == e.2.base) with
              | some m => (e.1, { e.2 with base := m.2 })
              | none => e
            else e) })) ∧
      (compactPipe u core allot given = none → Leaves (.compaction core pipe allot) s s)) ∧
    ∃ t, exec (.compaction core pipe allot) s = .next t ∧ t.mem = s.mem ∧ t.wgs = s.wgs ∧ t.nodes = s.nodes ∧
      ∀ k g, tget s.groups k = some g → ∃ base, tget t.groups k = some { g with base := base } ∧
        (base ≠ g.base → k / 32 = core * 8 + pipe ∧
          ∀ u given, wantsBlock s core allot = some (u, given) → (k, g) ∈ u.groups → groupParked g = true)

/-- Reservation (R324): a node that may place work has placed none for 2^20 cycles, and none of its work fits, whatever other nodes
reserve: it reserves the die of its next work's affinity set, or every die where the set has none. Short of that time, nothing changes. -/
def Claims.Reserves : Prop :=
  ∀ (s : State) (node : Nat) (n : Node), s.power = true → tget s.nodes node = some n →
    (∀ wid, waitingWid s node n = some wid → mayPlace n = true → 2 ^ 20 ≤ s.cyc - n.waitFrom →
      placeFirst (unreserved s node) node n = none →
      (∀ d, setDie n wid = some d → Leaves (.dieReservation node) s (s.setNode node { n with reserves := [d] })) ∧
      (setDie n wid = none → Leaves (.dieReservation node) s (s.setNode node { n with reserves := List.range Config.dies }))) ∧
    (waitingWid s node n = none ∨ mayPlace n = false ∨ s.cyc - n.waitFrom < 2 ^ 20 ∨
      (placeFirst (unreserved s node) node n).isSome = true → Leaves (.dieReservation node) s s)

/-- Completion and failure (R257, R318, R326 to R328). A node whose share is done leaves the pool, the hub's logical time at least its own;
then its signal dword is set, or added to, as its own context's store, and a successor that waits for it alone is ready. A node that is
not done stays. A failing node is failed: nothing more of it is placed, its waiting threads and saved workgroups are gone, its splits
that wait at a park point end, no memory changes; a failed one that fails again is left as it is, and leaves the pool once nothing of it
is left, an ABORT or report of failure that it has still to send among it (R330). -/
def Claims.NodesEnd : Prop :=
  ∀ (s : State) (node : Nat) (n : Node), s.power = true → tget s.nodes node = some n →
    (shareDone s node n = true → donesIn s n = true →
      (n.desc.signal = 0 →
        (n.desc.succ = [] ∨ 4096 ≤ n.queue → Leaves (.nodeCompletion node) s { s with
          nodes := tdel s.nodes node, hubLt := tsMax s.hubLt n.time, bound := s.bound.filter (fun b => b.node != node) }) ∧
        (∀ (k id : Nat) (m : Node), n.desc.succ = [k] → n.queue < 4096 → m.state = .waiting → m.count = 1 →
          (tdel s.nodes node).find? (fun e => e.2.queue == n.queue && e.2.pos == n.pos + BitVec.ofNat 32 k && e.2.state != .failed) =
            some (id, m) →
          Leaves (.nodeCompletion node) s { s with
            nodes := tput (tdel s.nodes node) id
              { m with count := 0, state := .ready, readyAt := s.cyc, waitFrom := s.cyc, carried := tsMax m.carried n.time },
            hubLt := tsMax s.hubLt n.time, bound := s.bound.filter (fun b => b.node != node) })) ∧
      (∀ (u : State) (l : Leaf), n.desc.signal ≠ 0 → canonical (address57 n.desc.signal) = true →
        translate { s with hubLt := tsMax s.hubLt n.time } none n.ctx (address57 n.desc.signal) .store = (u, .ok l) →
        isMemory l.pa = true → l.pa % 8 = 0 → u.poisonedAt l.pa 8 = false → u.mem.wf = true →
        ∃ t, exec (.nodeCompletion node) s = .next t ∧ tget t.nodes node = none ∧
          (n.desc.sigop = 0 → Stored u t l 8 n.desc.sigval.toNat) ∧
          (n.desc.sigop = 1 → Stored u t l 8 (BitVec.ofNat 64 (ofBytes (u.physRead l.key l.pa 8)) + n.desc.sigval).toNat))) ∧
    (n.state ≠ .failed → shareDone s node n = false ∨ donesIn s n = false → Leaves (.nodeCompletion node) s s) ∧
    (n.state = .failed →
      ((∀ k w, (k, w) ∈ s.wgs → w.node ≠ node) → nodeOutstanding s node n = false →
        (∀ m, n.multi = some m → m.launched = none ∨ m.aborted = true) →
        Leaves (.nodeCompletion node) s { s with nodes := tdel s.nodes node }) ∧
      ((∃ k w, (k, w) ∈ s.wgs ∧ w.node = node) ∨ nodeOutstanding s node n = true ∨
        (∃ m, n.multi = some m ∧ m.launched ≠ none ∧ m.aborted = false) → Leaves (.nodeCompletion node) s s)) ∧
    (∀ code, n.state ≠ .failed → ∃ (t : State) (n' : Node), exec (.nodeFail node code) s = .next t ∧
      tget t.nodes node = some n' ∧ n'.state = .failed ∧ n'.waves = [] ∧ n'.reserves = [] ∧ n'.desc = n.desc ∧ n'.next = n.next ∧
      (∀ x ∈ t.threads, x.node ≠ node) ∧ (∀ b ∈ t.bound, b.node ≠ node) ∧ (∀ k v, (k, v) ∈ t.saved → v.wg.node ≠ node) ∧
      (∀ k g, tget t.groups k = some g → g.node = node → g.upcall = none ∧ ∀ slot sp, tget g.splits slot = some sp → endsNow sp = false) ∧
      t.mem = s.mem) ∧
    (∀ code, n.state = .failed → Leaves (.nodeFail node code) s s)

/-- Composing (R50 to R52, R319, R390): a group is released when it comes first among the unplaced work of the ready nodes, and not before;
nothing changes before it is due, nor for a failed node. Where the pool has one ready node, all of whose threads wait at one index, the
threads that fill its next group leave the waiting ones for a new group on the core that R320 picks, once the group is due and has room;
one that is due and finds no core is bound where only granules are wanting (R323). That a composed group stands as work identifier 0 is
the model's choice (log entry 82). -/
def Claims.Composes : Prop :=
  ∀ (s : State) (node index : Nat) (n : Node) (l : List Thread), s.power = true → tget s.nodes node = some n →
    l = fillGroup 96 0 (waitingThreads s node index) →
    (∀ k w t, firstPlaced s = some (k, w, t) →
      (k = node → w = .composed index → Leaves (.composeRelease node index) s t) ∧
      (k ≠ node ∨ w ≠ .composed index → Leaves (.composeRelease node index) s s)) ∧
    (firstPlaced s = none → Leaves (.composeRelease node index) s s) ∧
    ((s.nodes.map (fun e => e.1)).Nodup →
      l = [] ∨ n.state = .failed ∨ groupDue s node n (waitingThreads s node index) l = false → Leaves (.composeRelease node index) s s) ∧
    (s.nodes = [(node, n)] → n.state = .ready → n.multi = none → (∀ x ∈ s.threads, x.node = node ∧ x.index = index) → l ≠ [] →
      groupDue s node n (waitingThreads s node index) l = true →
      (coreFor s node n (.composed index) 0 (wantOf node n) = none → Leaves (.composeRelease node index) s s ∧
        (n.desc.coop = false → nextWork s node n = none → Leaves .workgroupPlacement s (bindComposed s node index n))) ∧
      ∀ c, coreFor s node n (.composed index) 0 (wantOf node n) = some c →
        (regionsFit s n 1 = false → Leaves (.composeRelease node index) s s) ∧
        (regionsFit s n 1 = true → ∀ (u : State) (pcs : PcPair), callEntry s n index = (u, some pcs) →
          ∃ (t : State), Leaves (.composeRelease node index) s (unbind (placedOne { t with
              threads := t.threads.filter (fun x => !l.contains x) } node c 0) node (fun w => w == .composed index)) ∧
            t = placeWorkgroup u node n c 0 [composedSeed u.fresh n l pcs] none false 0 ∧ t.threads = u.threads) ∧
        (regionsFit s n 1 = true → ∀ u, callEntry s n index = (u, none) → Leaves (.composeRelease node index) s s))

/-- A batch (R240): a group's oldest sealed batch retires once its commands are performed, and not before. -/
def Claims.BatchRetires : Prop :=
  ∀ (s : State) (k : Nat) (g : Group) (b : Nat × List Nat) (l : List (Nat × List Nat)), s.power = true → tget s.groups k = some g →
    g.batches = b :: l →
    ∃ t g', exec (.batchRetire k) s = .next t ∧ tget t.groups k = some g' ∧ (∀ x, x ≠ k → tget t.groups x = tget s.groups x) ∧
      { t with groups := s.groups, fresh := s.fresh } = s ∧
      ((∀ c ∈ b.2, tget s.commands c = none) → g' = { g with batches := l }) ∧
      ((∃ c ∈ b.2, ∃ x, tget s.commands c = some x) → g' = g)

/-- The pool (R50 to R52, R240, R318 to R328): placement, compaction, reservation, completion and failure of nodes, composed groups, and
the retirement of batches. -/
def Obligations.PoolEvents : Prop :=
  Claims.Placement ∧ Claims.Compacts ∧ Claims.Reserves ∧ Claims.NodesEnd ∧ Claims.Composes ∧ Claims.BatchRetires

/-- The event leaves a pool in which node `node` has become `n`; nothing else has changed but the counter of free values. -/
def NodeIs (i : Instr) (s : State) (node : Nat) (n : Node) : Prop :=
  ∃ t, exec i s = .next t ∧ tget t.nodes node = some n ∧ (∀ k, k ≠ node → tget t.nodes k = tget s.nodes k) ∧
    { t with nodes := s.nodes, fresh := s.fresh } = s

/-- The same, and messages have left the part. -/
def Sends (i : Instr) (s : State) (node : Nat) (n : Node) (l : List OutMessage) : Prop :=
  ∃ t, exec i s = .next t ∧ tget t.nodes node = some n ∧ (∀ k, k ≠ node → tget t.nodes k = tget s.nodes k) ∧
    t.out = s.out ++ l ∧ { t with nodes := s.nodes, out := s.out, fresh := s.fresh } = s

/-- One message of a launch to every other part of its domain. -/
def toParts (x : Domain) (n : Node) (m : Multi) (gen : Word) (msg : MultiMessage) : List OutMessage :=
  ((List.range x.size).filter (fun r => r != m.rank)).map (fun r => .multi r n.desc.domain gen msg)

/-- The launch aborts on this part: the node is failed with the code that was reported, a part other than the origin holds ABORT, the
node's threads and saved workgroups are gone, no memory changed. The origin has its ABORT still to send. -/
def Aborts (i : Instr) (s : State) (node : Nat) (m : Multi) (code : Nat) : Prop :=
  ∃ (t : State) (n' : Node), exec i s = .next t ∧ tget t.nodes node = some n' ∧ n'.state = .failed ∧
    n'.multi = some { m with aborted := m.aborted || !m.origin, code := code } ∧ n'.waves = [] ∧ (∀ x ∈ t.threads, x.node ≠ node) ∧
    (∀ k v, (k, v) ∈ t.saved → v.wg.node ≠ node) ∧ t.mem = s.mem

/-- What each part of a launch does (R329): the origin stamps a ready node with its domain's next generation, which skips 0, and sends
LAUNCH with it, the descriptor and the arguments to every other part, and not twice; a share that is placed as it must be sends ACCEPT to
the origin once, where an ACCEPT is counted once; START needs every ACCEPT, goes to every other part once, and makes a share ready at
that time, unless the part holds ABORT; a part's share that is done sends DONE and leaves its pool, and a DONE is counted once. -/
def Claims.Launches : Prop :=
  ∀ (s : State) (node : Nat) (n : Node) (m : Multi), s.power = true → tget s.nodes node = some n → n.multi = some m →
    (∀ x : Domain, tget s.domains n.desc.domain = some x →
      (m.origin = true → m.launched = none → n.state = .ready → ∃ t, exec (.multiLaunch (.send node)) s = .next t ∧
        tget t.nodes node = some { n with multi := some { m with gen := x.nextGen, launched := some s.time } } ∧
        (∀ k, k ≠ node → tget t.nodes k = tget s.nodes k) ∧
        t.domains = tput s.domains n.desc.domain { x with nextGen := if x.nextGen + 1 = 0 then 1 else x.nextGen + 1 } ∧
        t.out = s.out ++ toParts x n m x.nextGen
          (.launch n.ctx (n.queue % 4096) (BitVec.ofNat 64 n.desc.addr) n.args n.desc.raw) ∧
        { t with nodes := s.nodes, domains := s.domains, out := s.out, fresh := s.fresh } = s) ∧
      (m.origin = false ∨ m.launched ≠ none ∨ n.state ≠ .ready → Leaves (.multiLaunch (.send node)) s s)) ∧
    ((m.origin = false → m.accepted = false → m.aborted = false → n.state ≠ .failed → n.desc.coop = false ∨ totalWorkgroups n ≤ n.next →
        Sends (.multiAccept (.send node)) s node { n with multi := some { m with accepted := true } }
          [.multi m.root n.desc.domain m.gen .accept]) ∧
      (m.origin = true ∨ m.accepted = true ∨ m.aborted = true ∨ n.state = .failed ∨
        (n.desc.coop = true ∧ n.next < totalWorkgroups n) → Leaves (.multiAccept (.send node)) s s)) ∧
    (∀ rank, nodeOfGen s true n.desc.domain m.gen rank = some (node, n) → NodeIs (.multiAccept (.take n.desc.domain m.gen rank)) s node
      { n with multi := some { m with accepts := rank :: m.accepts.filter (fun r => r != rank) } }) ∧
    ((∀ x : Domain, tget s.domains n.desc.domain = some x → n.state = .ready → acceptsIn s n = true → m.origin = true →
        m.launched ≠ none → m.started = false → m.aborted = false → Sends (.multiStart (.send node)) s node
          { n with waitFrom := s.cyc, multi := some { m with started := true } } (toParts x n m m.gen .start)) ∧
      (acceptsIn s n = false ∨ m.origin = false ∨ m.launched = none ∨ m.started = true ∨ m.aborted = true ∨ n.state ≠ .ready →
        Leaves (.multiStart (.send node)) s s)) ∧
    (∀ rank, nodeOfGen s false n.desc.domain m.gen rank = some (node, n) →
      (m.aborted = false → n.state = .waiting → NodeIs (.multiStart (.take n.desc.domain m.gen rank)) s node
        { n with state := .ready, readyAt := s.cyc, waitFrom := s.cyc, multi := some { m with started := true } }) ∧
      (m.aborted = true ∨ n.state = .failed → NodeIs (.multiStart (.take n.desc.domain m.gen rank)) s node n)) ∧
    ((shareDone s node n = true → m.origin = false → m.started = true → Leaves (.multiDone (.send node)) s
        { s with nodes := tdel s.nodes node, hubLt := tsMax s.hubLt n.time,
                 out := s.out ++ [.multi m.root n.desc.domain m.gen .done] }) ∧
      (shareDone s node n = false ∨ m.origin = true ∨ m.started = false → Leaves (.multiDone (.send node)) s s)) ∧
    (∀ rank, nodeOfGen s true n.desc.domain m.gen rank = some (node, n) → n.state ≠ .ready →
      NodeIs (.multiDone (.take n.desc.domain m.gen rank)) s node
        { n with multi := some { m with dones := rank :: m.dones.filter (fun r => r != rank) } }) ∧
    (∀ rank n', nodeOfGen s true n.desc.domain m.gen rank = some (node, n) →
      n' = { n with multi := some { m with dones := rank :: m.dones.filter (fun r => r != rank) } } → shareDone s node n = true →
      (donesIn s n' = false → NodeIs (.multiDone (.take n.desc.domain m.gen rank)) s node n') ∧
      (donesIn s n' = true → n.desc.signal = 0 → n.desc.succ = [] →
        ∃ t, exec (.multiDone (.take n.desc.domain m.gen rank)) s = .next t ∧ tget t.nodes node = none ∧ t.mem = s.mem ∧
          t.hubLt = tsMax s.hubLt n.time))

/-- A LAUNCH that is taken (R329, R319, R317): the share enters the pool under the next number, with the origin's generation and rank, not
ready, with no predecessors and nothing placed. -/
def Claims.TakesLaunch : Prop :=
  ∀ (s : State) (gen : Word) (ctx q rank : Nat) (desc args : DWord) (raw : List DWord) (d : Desc), s.power = true →
    d = parseDesc (desc.toNat % 2 ^ 57) (raw.map (fun x => x.toNat)) →
    (16384 ≤ poolCount s ∨ raw.length ≠ 32 ∨ descOk s (raw.map (fun x => x.toNat)) d = false →
      Leaves (.multiLaunch (.takeLaunch gen ctx q desc args raw rank)) s s) ∧
    (∀ x : Domain, poolCount s < 16384 → raw.length = 32 → descOk s (raw.map (fun x => x.toNat)) d = true → d.multi = true →
      tget s.domains d.domain = some x → ∃ (t : State) (n : Node) (m : Multi),
        exec (.multiLaunch (.takeLaunch gen ctx q desc args raw rank)) s = .next t ∧ t.nodes = tput s.nodes s.serial n ∧ t.mem = s.mem ∧
        n.state = .waiting ∧ n.ctx = ctx ∧ n.args = args ∧ n.desc = { d with preds := 0 } ∧ n.next = 0 ∧ n.multi = some m ∧ m.gen = gen ∧
        m.origin = false ∧ m.root = rank ∧ m.rank = x.rank ∧ m.started = false ∧ m.accepted = false ∧ m.aborted = false)

/-- How a launch fails (R330): a part that takes ABORT, or an origin that takes a report of failure, aborts it with the code reported; a
missing ACCEPT aborts it 10 ms after LAUNCH, whatever the clock point, and not before; a failed link to another part aborts it at the
origin; the origin of a node that has failed sends ABORT to every other part, and another part reports its failure to the origin, once. -/
def Claims.LaunchesAbort : Prop :=
  ∀ (s : State) (node : Nat) (n : Node) (m : Multi), s.power = true → tget s.nodes node = some n → n.multi = some m →
    (n.state = .failed → m.launched ≠ none → m.aborted = false →
      (m.origin = false → Sends (.multiAbort (.send node)) s node { n with multi := some { m with aborted := true } }
        [.multi m.root n.desc.domain m.gen (.abort m.code)]) ∧
      (∀ x : Domain, m.origin = true → tget s.domains n.desc.domain = some x → Sends (.multiAbort (.send node)) s node
        { n with multi := some { m with aborted := true } } (toParts x n m m.gen (.abort m.code)))) ∧
    (n.state ≠ .failed ∨ m.launched = none ∨ m.aborted = true → Leaves (.multiAbort (.send node)) s s) ∧
    (∀ rank code, n.state ≠ .failed → nodeOfGen s false n.desc.domain m.gen rank = some (node, n) ∨
        (nodeOfGen s false n.desc.domain m.gen rank = none ∧ nodeOfGen s true n.desc.domain m.gen rank = some (node, n)) →
      Aborts (.multiAbort (.takeAbort n.desc.domain m.gen rank code)) s node m (code.elim 0 (fun c => c.number))) ∧
    (∀ c, m.launched = some c → m.origin = true → m.started = false → n.state ≠ .failed →
      (accepted s n = false → c + 10000 * 20400 ≤ s.time → Aborts (.acceptTimeout node) s node m 0) ∧
      (accepted s n = true ∨ s.time < c + 10000 * 20400 → Leaves (.acceptTimeout node) s s)) ∧
    (∀ (rank : Nat) (x : Domain), tget s.domains n.desc.domain = some x →
      (rank < x.size → m.origin = true → m.launched ≠ none → m.rank ≠ rank → n.state ≠ .failed → s.nodes = [(node, n)] →
        Aborts (.linkFailure n.desc.domain rank) s node m 0) ∧
      (x.size ≤ rank → Leaves (.linkFailure n.desc.domain rank) s s))

/-- Multi-chip launches (R329, R330): LAUNCH, ACCEPT, START and DONE on the origin and on the other parts; ABORT, a missing ACCEPT and a
failed link. The code that a launch is aborted with where none is reported, 0, is the model's choice (log entry 46). -/
def Obligations.MultiChipEvents : Prop := Claims.Launches ∧ Claims.TakesLaunch ∧ Claims.LaunchesAbort

/-- The resident kernel's answers (R328, R334, R338, R340 to R343, R346, R356): RESUME goes on after a faulting scalar word and RETRY at
it; END_GROUP ends the group, and END_NODE fails its node too; REPLAY lets a held fetch issue again and FAIL turns it into a precise
PAGE_NOT_PRESENT, once the results that the split has in flight are in; a waiting message is posted once a slot is free, a PAGE message
as its page's entries then are, and a FAULT message once the accesses of its split are performed; HEAD moves only between its old value and TAIL; a reply is present
once its ticket matches; a raster-ordered section held for 2^20 cycles ends its group. -/
def Obligations.KernelEvents : Prop :=
  ∀ s : State, s.power = true →
    (∀ (a : ActionArgs) (k : Nat) (g : Group) (sp : Split) (x : Stop), groupOfRegion s a.ctx a.region = some (k, g) →
      At s (refOf k a.slot) g sp → sp.stopped = some x →
      (∀ skip, x.kind = .scalar skip →
        Leaves (.resume a) s (s.setSplit (refOf k a.slot)
          { sp with stopped := none, armed := none, spc := sp.spc + BitVec.ofNat 32 skip, wait := .ready }) ∧
        Leaves (.retry a) s (s.setSplit (refOf k a.slot) { sp with stopped := none, wait := .ready })) ∧
      (x.kind = .lane → Leaves (.retry a) s (s.setSplit (refOf k a.slot) { sp with stopped := none, wait := .ready })) ∧
      (x.kind = .terminal → Leaves (.resume a) s s ∧ Leaves (.retry a) s s) ∧
      (∃ t, exec (.endGroup a) s = .next t ∧ tget t.groups k = none ∧ t.mem = s.mem) ∧
      (∀ n, tget s.nodes g.node = some n → ∃ (t : State) (n' : Node), exec (.endNode a) s = .next t ∧ tget t.groups k = none ∧
        tget t.nodes g.node = some n' ∧ n'.state = .failed)) ∧
    (∀ (ctx page core : Nat) (c : Core) (e : GalleyEntry) (sp : Split), s.coreTab = [(core, c)] → c.galley = [e] →
      e.on ctx page = true → e.kind = .fetch → s.split e.ref = some sp → sp.wait = .stall .fetch →
      (∃ t, exec (.replay ctx page) s = .next t ∧ t.split e.ref = some { sp with wait := .ready } ∧ (t.core core).galley = [] ∧
        t.mem = s.mem) ∧
      (sp.run = none → ∃ t skip, exec (.fail ctx page) s = .next t ∧ (t.core core).galley = [] ∧ t.mem = s.mem ∧
        (sp.inflight = [] →
          t.split e.ref = some { sp with wait := .ready, stopped := some { code := .pageNotPresent, kind := .scalar skip } }) ∧
        (sp.inflight ≠ [] → t.split e.ref = some { sp with wait := .stall (.failing skip e.va) }))) ∧
    (∀ (die : Nat) (m : List DWord) (l : List (List DWord)), (s.sluice die).waiting = m :: l →
      (0 < (s.sluice die).free →
        (∀ x, postedNow s m = some x → ∃ t, exec (.messagePost die) s = .next t ∧ (t.sluice die).waiting = l ∧
          (t.sluice die).tail = (s.sluice die).tail + 1 ∧ (t.sluice die).head = (s.sluice die).head ∧
          tget (t.sluice die).slots ((s.sluice die).tail.toNat % 1024) = some x) ∧
        (postedNow s m = none → Leaves (.messagePost die) s (s.setSluice die { s.sluice die with waiting := l }))) ∧
      ((s.sluice die).free = 0 → Leaves (.messagePost die) s s)) ∧
    (∀ (m : List DWord), (pageOfMessage m = none → postedNow s m = some m) ∧
      ∀ core ctx page, pageOfMessage m = some (core, ctx, page) → postedNow s m = pageMessage s core ctx page) ∧
    (∀ (die : Nat) (x : SplitRef × List DWord) (l : List (SplitRef × List DWord)), (s.sluice die).waiting = [] →
      ((∀ y ∈ (s.sluice die).held, accessesOut s y.1 = true) → Leaves (.messagePost die) s s) ∧
      ((s.sluice die).held = x :: l → accessesOut s x.1 = false → 0 < (s.sluice die).free →
        ∃ t, exec (.messagePost die) s = .next t ∧ (t.sluice die).waiting = [] ∧ (t.sluice die).held = l ∧
          (t.sluice die).tail = (s.sluice die).tail + 1 ∧ (t.sluice die).head = (s.sluice die).head ∧
          tget (t.sluice die).slots ((s.sluice die).tail.toNat % 1024) = some x.2)) ∧
    (∀ die value,
      ((value - (s.sluice die).head).toNat ≤ ((s.sluice die).tail - (s.sluice die).head).toNat →
        Leaves (.sluiceHeadWrite die value) s (s.setSluice die { s.sluice die with head := value })) ∧
      (((s.sluice die).tail - (s.sluice die).head).toNat < (value - (s.sluice die).head).toNat → Leaves (.sluiceHeadWrite die value) s s)) ∧
    (∀ (region ctx k : Nat) (g : Group) (u : Upcall) (ticket : Word), groupOfRegion s ctx region = some (k, g) → g.upcall = some u →
      (u.ticket = ticket → Leaves (.replyPortWrite region ctx ticket) s
        (s.setGroup k { g with upcall := some { u with present := true } })) ∧
      (u.ticket ≠ ticket → Leaves (.replyPortWrite region ctx ticket) s (s.setGroup k g))) ∧
    (∀ (k c : Nat) (g : Group), tget s.groups k = some g → g.sect = some c → g.splits ≠ [] →
      (2 ^ 20 ≤ s.cyc - c → ∃ t, exec (.orderedTimeout k) s = .next t ∧ tget t.groups k = none ∧ t.mem = s.mem) ∧
      (s.cyc - c < 2 ^ 20 → Leaves (.orderedTimeout k) s s))

/-- A request of the pre-emption port has named a workgroup: it is asked to park, for each request that names it, and held if one asks
that; nothing else of it changes (R351). -/
def Asks (w w' : Workgroup) (hold : Bool) (id : Nat) : Prop :=
  w' = { w with preempt := some { hold := (w.preempt.elim false (fun p => p.hold)) || hold, requests := id :: w.preempt.elim [] (fun p => p.requests) } }

/-- Every workgroup of a part but those of `taken` is as before, and those are asked. -/
def AsksOnly (s t : State) (taken : Nat → Prop) (hold : Bool) : Prop :=
  t.mem = s.mem ∧ t.groups = s.groups ∧ t.nodes = s.nodes ∧ t.saved = s.saved ∧
  (∀ k w, tget s.wgs k = some w → ∃ w', tget t.wgs k = some w' ∧ (taken k → Asks w w' hold s.serial) ∧ (¬ taken k → w' = w)) ∧
  ∀ k, tget s.wgs k = none → tget t.wgs k = none

/-- Requests (R351): those of a context ask all its workgroups, one of a region the workgroup of the group there, and in either case the
twins of those named, and the whole of a cooperative node; one that names no resident group asks none. A release lets every held saved
workgroup of the context be placed again, and no other. That a second request for a workgroup joins the first, HOLD standing where either
sets it, and that one which names no resident workgroup asks none, is the model's reading (DEDUCED, log entry 58). -/
def Claims.Requests : Prop :=
  ∀ s : State, s.power = true →
    (∀ ctx hold tag, ∃ t, exec (.preemptContext ctx hold tag) s = .next t ∧ AsksOnly s t (fun k => k ∈ takenWith s
        ((s.wgs.filter (fun (e : Nat × Workgroup) => s.nodeCtx e.2.node == ctx)).map (fun e => e.1))) hold ∧
      ∀ k w, tget s.wgs k = some w → s.nodeCtx w.node = ctx → ∃ w', tget t.wgs k = some w' ∧ Asks w w' hold s.serial) ∧
    (∀ ctx region hold tag k g, groupOfRegion s ctx region = some (k, g) →
      ∃ t, exec (.preemptWorkgroup ctx region hold tag) s = .next t ∧ AsksOnly s t (fun k => k ∈ takenWith s [g.wg]) hold ∧
        ∀ w, tget s.wgs g.wg = some w → ∃ w', tget t.wgs g.wg = some w' ∧ Asks w w' hold s.serial) ∧
    (∀ ctx region hold tag, groupOfRegion s ctx region = none →
      ∃ t, exec (.preemptWorkgroup ctx region hold tag) s = .next t ∧ AsksOnly s t (fun _ => False) hold) ∧
    (∀ ctx tag, ∃ t, exec (.releaseHeld ctx tag) s = .next t ∧ t.mem = s.mem ∧ t.groups = s.groups ∧ t.wgs = s.wgs ∧ t.nodes = s.nodes ∧
      ∀ k v, tget s.saved k = some v → ∃ v', tget t.saved k = some v' ∧
        (v.ctx = ctx → v.hold = true → v' = { v with hold := false, released := some s.serial }) ∧
        (v.ctx ≠ ctx ∨ v.hold = false → v' = v))

/-- A workgroup that has been saved: its groups with their latches empty, held if it was asked to be, with the cycles of its present tick
that had passed, and the state of its barrier; none of its own placement is kept (R352). -/
def SavedAs (s : State) (w : Workgroup) (twin : Option Nat) (v : SavedWg) : Prop :=
  v.wg = { w with preempt := none, lastTick := s.cyc - w.lastTick, groups := [], twin := twin } ∧
  v.groups = (w.groups.filterMap (fun x => tget s.groups x)).map emptyLatch ∧ v.hold = w.preempt.elim false (fun p => p.hold) ∧
  v.ctx = s.nodeCtx w.node ∧ v.actions = [] ∧ v.released = none ∧ v.barrier = barrierState v.groups

/-- Saves (R352): a workgroup that is ready to be saved leaves its slot, its groups leave theirs, and nothing else leaves; one that is not
stays; the two of a twin pair are saved together, each the other's twin. -/
def Claims.Saves : Prop :=
  ∀ (s : State) (k : Nat) (w : Workgroup), s.power = true → tget s.wgs k = some w →
    (w.twin = none →
      (saveReady s k w = true → w.groups ≠ [] → ∃ t v, exec (.workgroupSave k) s = .next t ∧ tget t.wgs k = none ∧
        (∀ x, x ≠ k → tget t.wgs x = tget s.wgs x) ∧ tget t.saved s.serial = some v ∧ SavedAs s w none v ∧
        (∀ x, x ≠ s.serial → tget t.saved x = tget s.saved x) ∧ (∀ x ∈ w.groups, tget t.groups x = none) ∧
        ∀ x, x ∉ w.groups → tget t.groups x = tget s.groups x) ∧
      (saveReady s k w = false ∨ w.groups = [] → Leaves (.workgroupSave k) s s)) ∧
    (∀ o v, w.twin = some o → o ≠ k → tget s.wgs o = some v →
      (saveReady s k w = true → saveReady s o v = true → w.groups ≠ [] → (∀ x ∈ w.groups, x ∉ v.groups) →
        ∃ t x y, exec (.workgroupSave k) s = .next t ∧ tget t.wgs k = none ∧ tget t.wgs o = none ∧
          tget t.saved s.serial = some x ∧ tget t.saved (s.serial + 1) = some y ∧ SavedAs s w (some (s.serial + 1)) x ∧
          SavedAs s v (some s.serial) y) ∧
      (saveReady s k w = false ∨ saveReady s o v = false → Leaves (.workgroupSave k) s s))

/-- Restores (R319, R353): a saved workgroup is restored when it is what the pool places next, and not before; a held one is no work of its
node, and is not restored by itself. The one saved workgroup of the one ready node, no fresh one being left, goes to the core that R320
picks. -/
def Claims.Restores : Prop :=
  ∀ (s : State) (k : Nat), s.power = true →
    (∀ ids t, firstRestored s = some (ids, t) → (k ∈ ids → Leaves (.workgroupRestore k) s t) ∧ (k ∉ ids → Leaves (.workgroupRestore k) s s)) ∧
    (firstRestored s = none → Leaves (.workgroupRestore k) s s) ∧
    (∀ v, tget s.saved k = some v → v.hold = true → restoreOne s k = none) ∧
    (∀ node n wid, nextWork s node n = some (.saved k, wid) → ∃ v, (k, v) ∈ s.saved ∧ v.hold = false ∧ v.wg.node = node) ∧
    ∀ (node c : Nat) (n : Node) (v : SavedWg) (u : State), s.nodes = [(node, n)] → s.saved = [(k, v)] → v.wg.node = node → v.hold = false →
      v.wg.twin = none → n.desc.coop = false → mayPlace n = true → n.desc.gstage ≠ 2 → totalWorkgroups n ≤ n.next →
      (∀ x ∈ s.threads, x.node ≠ node) →
      bestCore s ((savedCores s n k v).filter (fun c => fits s c (savedWant n v))) = some c → ∀ x, restoreOn s k v n c none = some x →
      u = x.goOn →
      ∃ t, exec (.workgroupRestore k) s = .next t ∧ t.wgs = u.wgs ∧ t.groups = u.groups ∧ t.saved = u.saved ∧ t.mem = u.mem ∧
        t.coreTab = u.coreTab ∧ t.nodes = u.nodes

/-- Pre-emption (R351 to R353): requests, saves and restores. -/
def Obligations.PreemptionEvents : Prop := Claims.Requests ∧ Claims.Saves ∧ Claims.Restores

/-- The rasteriser (R361 to R364): when a pixel node is ready its waves are made of the entries that it emits, in their order; the node
fails where its allotment is below 8, where a descriptor or an entry cannot be read, and where a reserved field of one is not zero; no
other node's start, and no second start, does anything. -/
def Claims.Rasterises : Prop :=
  ∀ (s : State) (node : Nat) (n : Node), s.power = true → tget s.nodes node = some n →
    (n.desc.gstage ≠ 2 ∨ n.desc.gfx = false ∨ n.rasterised = true ∨ n.state ≠ .ready → Leaves (.rasteriserStart node) s s) ∧
    (n.desc.gstage = 2 → n.desc.gfx = true → n.rasterised = false → n.state = .ready →
      (n.desc.allot < 8 → ∃ t n', exec (.rasteriserStart node) s = .next t ∧ tget t.nodes node = some n' ∧ n'.state = .failed ∧
        t.mem = s.mem) ∧
      (8 ≤ n.desc.allot →
        (∀ u e, readRaster { s with hubLt := tsMax s.hubLt n.carried } n = (u, .error e) → tget u.nodes node = some n →
          ∃ t n', exec (.rasteriserStart node) s = .next t ∧ tget t.nodes node = some n' ∧ n'.state = .failed ∧ t.mem = u.mem) ∧
        (∀ u r entries, readRaster { s with hubLt := tsMax s.hubLt n.carried } n = (u, .ok (r, entries)) → tget u.nodes node = some n →
          (rasterReserved r = true ∨ (∃ e ∈ entries, primitiveReserved e = true) →
            ∃ t n', exec (.rasteriserStart node) s = .next t ∧ tget t.nodes node = some n' ∧ n'.state = .failed ∧ t.mem = u.mem) ∧
          (rasterReserved r = false → (∀ e ∈ entries, primitiveReserved e = false) →
            ∃ t, exec (.rasteriserStart node) s = .next t ∧ tget t.nodes node = some { n with
                rasterised := true,
                waves := wavesOf ((entries.zipIdx).filterMap (fun e => setupPrim e.1 e.2)) (bitsAt (r.getD 1 0) 0 14) (bitsAt (r.getD 1 0) 16 14) } ∧
              (∀ k, k ≠ node → tget t.nodes k = tget u.nodes k) ∧ { t with nodes := u.nodes, fresh := u.fresh } = u))))

/-- Setting up an entry (R362): each vertex is snapped to 1/256 pixel, to nearest even; an entry with a coordinate that is not finite or is
2^24 or more is discarded, one of area 0 too, and one that CULL discards; vertices 1 and 2 are swapped where the area is negative. A pixel
is covered where each edge is positive at its sample, or zero on an edge that the tie rule takes. -/
def Claims.Coverage : Prop :=
  (∀ w : Word, (∀ n q, decodeFloat .f32 w.toNat = .fin n q → ∀ i : Int, i = roundInt .rne ((if n then q.neg else q).scale 8) →
      snap w = if 2 ^ 24 ≤ i.natAbs then none else some i) ∧
    ((∀ n q, decodeFloat .f32 w.toNat ≠ .fin n q) → snap w = none)) ∧
  ∀ (b : List Byte) (slot : Nat),
    (∀ j, j < 3 → snap (entryWord b (4 * j)) = none ∨ snap (entryWord b (4 * j + 1)) = none → setupPrim b slot = none) ∧
    ∀ (x y : Nat → Int) (a : Int), (∀ j, j < 3 → snap (entryWord b (4 * j)) = some (x j) ∧ snap (entryWord b (4 * j + 1)) = some (y j)) →
      a = (x 1 - x 0) * (y 2 - y 0) - (y 1 - y 0) * (x 2 - x 0) →
      (a = 0 ∨ (0 < a ∧ (entryWord b 13).getLsbD 0 = true) ∨ (a < 0 ∧ (entryWord b 13).getLsbD 1 = true) → setupPrim b slot = none) ∧
      (a ≠ 0 → ¬ (0 < a ∧ (entryWord b 13).getLsbD 0 = true) → ¬ (a < 0 ∧ (entryWord b 13).getLsbD 1 = true) →
        ∃ p : Prim, setupPrim b slot = some p ∧ p.area = (a.natAbs : Int) ∧ p.user = entryWord b 12 ∧
          p.seq = (entryWord b 14).toNat ∧ p.slot = slot ∧
          ∀ o : Nat → Nat, o 0 = 0 → o 1 = (if a < 0 then 2 else 1) → o 2 = (if a < 0 then 1 else 2) →
            (∀ j, j < 3 → (p.at j).x = x (o j) ∧ (p.at j).y = y (o j) ∧
              (p.at j).z = decodeFloat .f32 (entryWord b (4 * o j + 2)).toNat ∧
              (p.at j).iw = decodeFloat .f32 (entryWord b (4 * o j + 3)).toNat) ∧
            ∀ px py : Nat, p.covers px py = true ↔ ∀ (i u v : Nat) (e : Int), i < 3 → u = o ((i + 1) % 3) → v = o ((i + 2) % 3) →
              e = (x v - x u) * (256 * py + 128 - y u) - (y v - y u) * (256 * px + 128 - x u) →
              0 < e ∨ (e = 0 ∧ (0 < y v - y u ∨ (y v - y u = 0 ∧ x v - x u < 0))))

/-- The number of the tile of a pixel, in a viewport whose width less 1 is given (R363). -/
def tileNumber (width : Nat) (p : PixInfo) : Nat := p.py / 8 * ((width + 8) / 8) + p.px / 8

/-- Pixel waves (R363): a primitive makes a wave on a tile where it covers a pixel of the viewport there; its lanes are those of the quads
that hold such a pixel, each pixel in its own lane, a helper lane where it is not covered; the waves go in ascending tile, and within a
tile in ascending SEQ and slot. -/
def Claims.PixelWaves : Prop :=
  (∀ (p : Prim) (width height tx ty : Nat) (hit : Nat → Nat → Prop),
    (∀ px py, hit px py ↔ px ≤ width ∧ py ≤ height ∧ p.covers px py = true) →
    ((∀ px py, px / 8 = tx → py / 8 = ty → ¬ hit px py) → p.wave width height tx ty = none) ∧
    (∀ px py, px / 8 = tx → py / 8 = ty → hit px py → ∃ v, p.wave width height tx ty = some v) ∧
    ∀ v, p.wave width height tx ty = some v → v.seq = p.seq ∧ v.slot = p.slot ∧ (∀ i, 64 ≤ i → v.lanes.getLsbD i = false) ∧
      ∀ px py lane : Nat, px / 8 = tx → py / 8 = ty →
        lane = 4 * (py % 8 / 2 * 4 + px % 8 / 2) + px % 2 + 2 * (py % 2) →
        (v.lanes.getLsbD lane = true ↔ ∃ x y, x / 2 = px / 2 ∧ y / 2 = py / 2 ∧ hit x y) ∧
        (v.lanes.getLsbD lane = true → (∃ c, (lane, { seq := p.seq, slot := p.slot, px := px, py := py, covered := c }) ∈ v.pix ∧
          (c = true ↔ hit px py)) ∧
          ∀ k, k < 6 → (v.regs.getD k []).getD lane 0 = (p.laneWords px py).getD k 0)) ∧
  ∀ (l : List Prim) (width height : Nat), (l.map Prim.slot).Pairwise (· < ·) →
    (∀ v, v ∈ wavesOf l width height ↔
      ∃ p ∈ l, ∃ tx ty, tx < (width + 8) / 8 ∧ ty < (height + 8) / 8 ∧ p.wave width height tx ty = some v) ∧
    (wavesOf l width height).Pairwise (fun v w => ∀ x ∈ v.pix, ∀ y ∈ w.pix, tileNumber width x.2 < tileNumber width y.2 ∨
      (tileNumber width x.2 = tileNumber width y.2 ∧ (v.seq < w.seq ∨ (v.seq = w.seq ∧ v.slot < w.slot))))

/-- The lane of some lanes' pixels shades this write's pixel, covered, at an earlier raster position (R371). -/
def EarlierAt (x : RtWrite) (q : PixInfo) : Prop :=
  q.covered = true ∧ q.px = x.px ∧ q.py = x.py ∧ (q.seq < x.seq ∨ (q.seq = x.seq ∧ q.slot < x.slot))

/-- Raster order (R371): a write is applied once it has its translations, every covered lane of another wave of its node on its pixel at an
earlier raster position has ended (resident, saved, handed to the composing unit or still to be launched), and the writes before it on that
pixel are applied: of its own wave those issued before, of others those of earlier positions. -/
def Claims.RasterOrder : Prop :=
  ∀ (s : State) (x : RtWrite),
    mayApply s x = true ↔ x.held = false ∧
      (∀ k g i q, (k, g) ∈ s.groups → g.node = x.node → g.wave ≠ x.wave → (i, q) ∈ g.pix → g.liveLanes.getLsbD i = true → ¬ EarlierAt x q) ∧
      (∀ k v g i q, (k, v) ∈ s.saved → v.wg.node = x.node → g ∈ v.groups → g.wave ≠ x.wave → (i, q) ∈ g.pix →
        g.liveLanes.getLsbD i = true → ¬ EarlierAt x q) ∧
      (∀ t q, t ∈ s.threads → t.node = x.node → t.pix = some q → ¬ EarlierAt x q) ∧
      (∀ n w i q, tget s.nodes x.node = some n → w ∈ n.waves → (i, q) ∈ w.pix → ¬ EarlierAt x q) ∧
      ∀ k y, (k, y) ∈ s.rtWrites → y.node = x.node → y.px = x.px → y.py = x.py → y.image = x.image →
        (y.wave = x.wave → x.order ≤ y.order) ∧
        (y.wave ≠ x.wave → x.seq < y.seq ∨ (y.seq = x.seq ∧ (x.slot < y.slot ∨ (y.slot = x.slot ∧ x.order ≤ y.order))))

/-- Encoding a tile (R372): the first row of the rule's table that holds gives the mode byte, if one is written, and the bytes. -/
def Claims.Encodes : Prop :=
  ∀ (d : ImageDesc) (px : List DWord) (kept : Bool) (within : Int → Int → Prop) (plain : List Byte),
    (∀ lo hi, within lo hi ↔ ∀ p ∈ px, ∀ c, c < 4 → ∀ v : BitVec 8,
      v = p.extractLsb' (8 * c) 8 - (px.headD 0).extractLsb' (8 * c) 8 → lo ≤ v.toInt ∧ v.toInt ≤ hi) →
    plain = px.flatMap (fun p => toBytes d.bpp p.toNat) →
    (d.meta_ = 0 → encodeTile d px kept = (none, plain)) ∧
    (d.meta_ ≠ 0 → d.fmt ≠ 0 → encodeTile d px kept = (some 0x08, plain)) ∧
    (d.meta_ ≠ 0 → d.fmt = 0 → kept = true → encodeTile d px kept = (none, [])) ∧
    (d.meta_ ≠ 0 → d.fmt = 0 → kept = false →
      ((∀ p ∈ px, p = px.headD 0) → (encodeTile d px kept).1 = some 0x81 ∧ (encodeTile d px kept).2.length = 32) ∧
      ((∃ p ∈ px, p ≠ px.headD 0) →
        (within (-2) 1 → (encodeTile d px kept).1 = some 0x93 ∧ (encodeTile d px kept).2.length = 3 * 32) ∧
        (¬ within (-2) 1 → within (-8) 7 → (encodeTile d px kept).1 = some 0xA5 ∧ (encodeTile d px kept).2.length = 5 * 32) ∧
        (¬ within (-2) 1 → ¬ within (-8) 7 → encodeTile d px kept = (some 0x08, plain))))

/-- A tile after a write to it. -/
def Written (tile : RtTile) (x : RtWrite) : RtTile :=
  { tile with
    pixels := tile.pixels.set (pixelIn x.px x.py) (keepChannels x.image x.keep (tile.pixels.getD (pixelIn x.px x.py) 0) x.data),
    touched := tile.touched || writesChannel x.image x.keep,
    maps := tile.maps ++ x.maps.filter (fun m => !tile.maps.any (fun y => y.page == m.page)),
    waves := if tile.waves.contains x.wave then tile.waves else tile.waves ++ [x.wave] }

/-- The render-target unit (R370 to R372, R417): a write whose turn has not come stays; one whose turn has come is put into its tile, in
each channel that it does not keep; a tile that the unit does not hold is read first, at its own pages, and where one of these is absent
the write waits for it. A tile that is written back is encoded, its data before its mode byte, and no longer held. -/
def Claims.Renders : Prop :=
  ∀ (s : State) (k : Nat), s.power = true →
    (∀ x, tget s.rtWrites k = some x →
      (mayApply s x = false → Leaves (.rtWriteApply k) s s) ∧
      (mayApply s x = true →
        (∀ key tile, heldTile s x.node x.image (x.image.tileOf 0 x.px x.py) = some (key, tile) → Leaves (.rtWriteApply k) s
          { s with rtWrites := tdel s.rtWrites k, rtTiles := tput s.rtTiles key (Written tile x) }) ∧
        (heldTile s x.node x.image (x.image.tileOf 0 x.px x.py) = none →
          (∀ v maps, mapPages s (whoseWrite s x) (tileVas x.image (x.image.tileOf 0 x.px x.py)) x.maps = (v, .ok maps) →
            ∀ u mode pixels, readTile v (whoseWrite s x) x.image (x.image.tileOf 0 x.px x.py) maps = (u, .ok (mode, pixels)) →
            ∃ tile, tile.node = x.node ∧ tile.image = x.image ∧ tile.tile = x.image.tileOf 0 x.px x.py ∧ tile.pixels = pixels ∧
              tile.touched = false ∧ tile.waves = [] ∧ tile.maps = maps ∧
              Leaves (.rtWriteApply k) s { u with serial := u.serial + 1, rtWrites := tdel u.rtWrites k, rtTiles := tput u.rtTiles u.serial (Written tile x) }) ∧
          (∀ v va, mapPages s (whoseWrite s x) (tileVas x.image (x.image.tileOf 0 x.px x.py)) x.maps = (v, .error (.pageNotPresent, va)) →
            (v.core (whoseWrite s x).ref.core).galley.length < 256 →
            ∃ t, exec (.rtWriteApply k) s = .next t ∧ tget t.rtWrites k = some { x with held := true } ∧ t.rtTiles = v.rtTiles ∧
              t.mem = v.mem)))) ∧
    (∀ x mode bytes u, tget s.rtTiles k = some x → encodeTile x.image x.pixels (x.state == 1 && !x.touched) = (mode, bytes) →
      u = writeMapped s { ref := x.ref, wg := x.wg, node := x.node, ctx := x.ctx, pcs := { spc := 0, lpc := 0 }, seq := k } x.maps
        (x.image.tileVa x.tile) bytes →
      ∃ t, exec (.tileWriteBack k) s = .next t ∧ tget t.rtTiles k = none ∧ (∀ y, y ≠ k → tget t.rtTiles y = tget s.rtTiles y) ∧
        t.groups = s.groups ∧ t.wgs = s.wgs ∧ t.rtWrites = s.rtWrites ∧ (mode = none → t.mem = u.mem) ∧
        ∀ m, mode = some m → t.mem = (writeMapped u { ref := x.ref, wg := x.wg, node := x.node, ctx := x.ctx, pcs := { spc := 0, lpc := 0 }, seq := k }
          x.maps (x.image.modeVa x.tile) [BitVec.ofNat 8 m]).mem) ∧
    (∀ (d : ImageDesc) (keep : Nat) (old new : DWord) (c : Nat), d.fmt = 0 → c < 4 →
      bitsAt (keepChannels d keep old new).toNat (8 * c) 8 = bitsAt (if bitsAt keep c 1 = 1 then old else new).toNat (8 * c) 8)

/-- Records (R386, R389): the record of a ray that has been traversed arrives in its lane's mailbox, after those already there, and frees
the ray's place; before that nothing arrives. -/
def Claims.RecordsArrive : Prop :=
  ∀ (s : State) (k id : Nat) (g : Group) (y : Ray), s.power = true → tget s.groups k = some g →
    g.rays.find? (fun z => z.id == id) = some y →
    (y.record = none → Leaves (.rayRecordArrival k id) s s) ∧
    (∀ r, y.record = some r → ∃ t, exec (.rayRecordArrival k id) s = .next t ∧
      tget t.groups k = some { g with rays := g.rays.filter (fun z => z.id != y.id), mailbox := g.mailbox ++ [(y.lane, r)] } ∧
      (∀ x, x ≠ k → tget t.groups x = tget s.groups x) ∧ { t with groups := s.groups, fresh := s.fresh } = s)

/-- Graphics units (R361 to R364, R370 to R372, R386, R389, R417): the rasteriser, the entries that it sets up and the waves that it makes of
them; the render-target unit, the order in which it applies writes and the encoding of its tiles; and the rays' records. -/
def Obligations.GraphicsEvents : Prop :=
  Claims.Rasterises ∧ Claims.Coverage ∧ Claims.PixelWaves ∧ Claims.Renders ∧ Claims.RasterOrder ∧ Claims.Encodes ∧ Claims.RecordsArrive

/-- The out-going response of a request. -/
def Responded (s t : State) (rank : Nat) (e : Option Nat) (data : List Byte) : Prop := t.out = s.out ++ [.response rank e data]

/-- Windows and triggers (R258, R398, R401, R403, R404): a request of a requester that no domain names is discarded and counted; another gets
the code of the first check that fails, is logged and changes no memory; a read inside one line is answered with the bytes; a store inside
one stands there afterwards; a read or an atomic that meets a double-bit error performs nothing and is no arrival; an error response
defers WINDOW_REVOKED to its split; an arrival counts towards each armed list of its window and tag; a run ends after its last
entry. -/
def Obligations.WindowEvents : Prop :=
  ∀ s : State, s.power = true →
    (∀ (r : PeerRequest) (id : BitVec 16), r.via = some id →
      (∀ k x, (k, x) ∈ s.domains → ∀ l ∈ x.links, l.2 ≠ .hostPort id) →
      Leaves (.peerRequest r) s { s with strangers := s.strangers + 1 }) ∧
    (∀ r : PeerRequest, (∀ id, r.via = some id → named s id = true) →
      (∀ code, ((s.window r.window).valid = false ∨ (s.window r.window).gen ≠ r.gen) ∧ code = 1 ∨
          ((s.window r.window).valid = true ∧ (s.window r.window).gen = r.gen) ∧
          ((r.window ≠ 4095 ∧ (s.window r.window).part ≠ r.part) ∧ code = 2 ∨
           (r.window = 4095 ∨ (s.window r.window).part = r.part) ∧
           ((s.window r.window).len < r.offset + r.size ∧ code = 3 ∨
            r.offset + r.size ≤ (s.window r.window).len ∧ (s.window r.window).allows r.op = false ∧ code = 4)) →
        ∃ t, exec (.peerRequest r) s = .next t ∧ Responded s t r.rank (some code) [] ∧ t.mem = s.mem ∧
          t.windowErrors = s.windowErrors + 1) ∧
      (windowError s r = none → 0 < r.size → ((s.window r.window).base + r.offset) % 128 + r.size ≤ 128 →
        (r.op = .read → s.poisonedAt ((s.window r.window).base + r.offset) r.size = false →
          ∃ t, exec (.peerRequest r) s = .next t ∧ BytesSame s t ∧
            Responded s t r.rank none (s.physRead (s.window r.window).key ((s.window r.window).base + r.offset) r.size)) ∧
        (s.poisonedAt ((s.window r.window).base + r.offset) r.size = true → (∀ b, r.op ≠ .write b) → (∀ x, r.op ≠ .set x) →
          ∃ t, exec (.peerRequest r) s = .next t ∧ Responded s t r.rank (some 0x10) [] ∧ t.mem = s.mem ∧ t.arrivals = s.arrivals) ∧
        (∀ b, r.op = .write b → b.length = r.size → s.mem.wf = true →
          ∃ t, exec (.peerRequest r) s = .next t ∧ Responded s t r.rank none [] ∧
            Stored s t { pa := (s.window r.window).base + r.offset, cls := 0, key := (s.window r.window).key } r.size (ofBytes b)) ∧
        (∀ x, r.op = .set x → r.size = 8 → ((s.window r.window).base + r.offset) % 8 = 0 → s.mem.wf = true →
          ∃ t, exec (.peerRequest r) s = .next t ∧ Responded s t r.rank none [] ∧
            Stored s t { pa := (s.window r.window).base + r.offset, cls := 0, key := (s.window r.window).key } 8 x.toNat))) ∧
    (∀ k code m sp, tget s.remotes k = some m → m.purpose = .store → s.split m.ref = some sp →
      ∃ t d, exec (.windowErrorResponse k code) s = .next t ∧ tget t.remotes k = none ∧
        t.split m.ref = some { sp with deferred := sp.deferred ++ [d] } ∧ d.code = .windowRevoked ∧ d.window = m.request.window ∧
        d.pcs = m.pcs) ∧
    (∀ window tag k x, (window, tag) ∈ s.arrivals → tget s.triggers k = some x →
      ∃ t, exec (.triggerArrival window tag) s = .next t ∧ tget t.triggers k = some
        (if x.armed && x.window == window && x.tag == tag then
          (if x.threshold ≤ x.count + 1 then { x with count := 0, pending := x.pending + 1, armed := x.rearm }
           else { x with count := x.count + 1 })
         else x)) ∧
    (∀ window tag, (window, tag) ∉ s.arrivals → Leaves (.triggerArrival window tag) s s) ∧
    (∀ k x i, tget s.triggers k = some x → x.run = some i → x.n ≤ i →
      ∃ t, exec (.triggerRun k) s = .next t ∧ tget t.triggers k = some { x with run := none } ∧ t.mem = s.mem)

/-- Oluvos has taken the request in a mailbox slot: it is answered there with the status and payload, over the state `u`. -/
def Answered (i : Instr) (s : State) (slot : Nat) (st : Status) (p : List Byte) (u : State) : Prop :=
  exec i s = .next (bump (replyMail u slot st p))

/-- The mailbox slot holds a request for a service, whose turn has come, and Oluvos runs. -/
def Requested (s : State) (slot svc : Nat) : Prop := s.power = true ∧ oluvosUp s = true ∧ mailRequest s slot svc = true

/-- The same, of partition 0 and no longer than a slot. -/
def Asked (s : State) (slot svc : Nat) : Prop := Requested s slot svc ∧ mailPart s slot = 0 ∧ mailLength s slot ≤ 108

/-- Services of Oluvos that the resident kernel may ask for, and those it may not (R222, R227, R402, R403, R405, R406, R409, R412), each once
its turn has come. The model's choices, which no rule gives: that HELLO and SPDM, which R406 does not list for the mailbox, are DENIED
there, BAD_ARG for a key slot that is full or none, for a context, a window or a list that is none and for a request longer than its slot
(log entry 66), BAD_ARG for a ring outside memory (log entry 68), and the GEN of a window that is opened again (DEDUCED, log entry 88). -/
def Obligations.ResidentServices : Prop :=
  ∀ (s : State) (slot : Nat),
    (∀ i : Source → Instr, i ∈ [Instr.queryRas, fun x => .setPowerCap x 500, fun x => .eraseKey x 1, fun x => .revokeWindow x 0] →
      inTurn s (.resident slot) = false → s.power = true → Leaves (i (.resident slot)) s s) ∧
    (Requested s slot 5 → mailPart s slot ≠ 0 → Answered (.queryRas (.resident slot)) s slot .denied [] s) ∧
    (Requested s slot 5 → mailPart s slot = 0 → 108 < mailLength s slot → Answered (.queryRas (.resident slot)) s slot .badArg [] s) ∧
    (Asked s slot 1 → ∀ w, Answered (.hello (.resident slot) w) s slot .denied [] s) ∧
    (Asked s slot 2 → ∀ ctx, (1024 ≤ ctx → Answered (.resetContext (.resident slot) ctx) s slot .badArg [] s) ∧
      (ctx < 1024 → contextNodes s ctx = [] → Answered (.resetContext (.resident slot) ctx) s slot .ok []
        (s.setContext ctx { s.context ctx with valid := false, guilt := 0, barred := false, unbarred := true }))) ∧
    (Asked s slot 3 → ∀ a, (windowArgsOk a = false → Answered (.openWindow (.resident slot) a) s slot .badArg [] s) ∧
      (windowArgsOk a = true → (∃ w, w < 4095 ∧ (s.window w).valid = false) → ∃ w gen, w < 4095 ∧ (s.window w).valid = false ∧ gen ≠ 0 ∧
        gen = (if (s.window w).gen = 0 then 1 else (s.window w).gen) ∧
        Answered (.openWindow (.resident slot) a) s slot .ok (Config.windowReport w gen)
          { s with windows := tput s.windows w { valid := true, base := a.base, len := a.len, rd := a.rd, wr := a.wr, at' := a.at',
                                                 trg := a.trg, key := a.key, part := a.part, gen := gen } })) ∧
    (Asked s slot 4 → ∀ w, (4095 ≤ w ∨ (s.window w).valid = false → Answered (.revokeWindow (.resident slot) w) s slot .badArg [] s) ∧
      (w < 4095 → (s.window w).valid = true → Answered (.revokeWindow (.resident slot) w) s slot .ok []
        { s with windows := tput s.windows w { s.window w with valid := false, gen := (s.window w).gen + 1 } })) ∧
    (Asked s slot 5 → Answered (.queryRas (.resident slot)) s slot .ok (rasPayload s) s) ∧
    (Asked s slot 6 → ∀ watts, (watts < 300 ∨ 2000 < watts → Answered (.setPowerCap (.resident slot) watts) s slot .badArg [] s) ∧
      (300 ≤ watts → watts ≤ 2000 → Answered (.setPowerCap (.resident slot) watts) s slot .ok []
        { s with powerCap := watts, issueClock := if s.throttled then .low else cappedPoint watts })) ∧
    (Asked s slot 8 → ∀ k v, (k = 0 ∨ 64 ≤ k ∨ tget s.keySlots k ≠ none → Answered (.loadKey (.resident slot) k v) s slot .badArg [] s) ∧
      (1 ≤ k → k < 64 → tget s.keySlots k = none → Answered (.loadKey (.resident slot) k v) s slot .ok []
        { s with keySlots := tput s.keySlots k { load := s.serial, value := v }, serial := s.serial + 1 })) ∧
    (Asked s slot 9 → ∀ k, (k = 0 ∨ 64 ≤ k → Answered (.eraseKey (.resident slot) k) s slot .badArg [] s) ∧
      (1 ≤ k → k < 64 → ∃ u, Answered (.eraseKey (.resident slot) k) s slot .ok [] u ∧ tget u.keySlots k = none ∧ u.mem = s.mem ∧
        ∀ d die, tget u.dieTab d = some die → ∀ l ∈ die.l2, l.key ≠ k)) ∧
    (Asked s slot 10 → ∀ a : DomainArgs, a.id < 2 ^ 14 → 1 ≤ a.size → a.size ≤ 64 → a.rank < a.size →
      ∃ u x, Answered (.registerDomain (.resident slot) a) s slot .ok [] u ∧ tget u.domains a.id = some x ∧ x.size = a.size ∧
        x.rank = a.rank ∧ x.links = a.links ∧ u.rank = a.rank) ∧
    (Asked s slot 11 → ∀ (a : TriggerArgs) (k : Nat), a.window < 4096 → (s.window a.window).valid = true →
      (s.window a.window).part = BitVec.ofNat 12 (s.context a.ctx).part → a.tag ≠ 0 → 1 ≤ a.threshold → a.threshold ≤ 65535 → 1 ≤ a.n →
      a.n ≤ 64 → (List.range 1024).find? (listFree s) = some k →
      ∃ u x, Answered (.armTrigger (.resident slot) a) s slot .ok (toBytes 2 k) u ∧ tget u.triggers k = some x ∧ x.armed = true ∧
        x.count = 0 ∧ x.window = a.window ∧ x.tag = a.tag ∧ x.threshold = a.threshold ∧ x.va = a.va ∧ x.n = a.n) ∧
    (Asked s slot 12 → ∀ k, (1024 ≤ k → Answered (.disarmTrigger (.resident slot) k) s slot .badArg [] s) ∧
      (k < 1024 → Answered (.disarmTrigger (.resident slot) k) s slot .ok []
        { s with triggers := tmod s.triggers k (fun t => { t with armed := false }) })) ∧
    (Asked s slot 13 → ∀ r, Answered (.spdm (.resident slot) r) s slot .denied [] s) ∧
    (Asked s slot 14 → ∀ base size,
      (inMemory base.toNat (4096 * size) = true →
        Answered (.setRpcRing (.resident slot) base size) s slot .ok [] { s with rpcRing := some (base, size) }) ∧
      (inMemory base.toNat (4096 * size) = false → Answered (.setRpcRing (.resident slot) base size) s slot .badArg [] s))

/-- A host's frame, whose turn has come, is the next of its session, of partition 0. -/
def NextFrame (s : State) (f : Frame) (x : Session) (svc : Nat) : Prop :=
  s.power = true ∧ oluvosUp s = true ∧ inTurn s (.host f) = true ∧ f.service = BitVec.ofNat 16 svc ∧ f.part = 0 ∧ s.session = some x ∧
  f.seq = x.last + 1

/-- The frame is answered: the session's last SEQ is the frame's, and its stored reply has the status and payload. -/
def Replied (t : State) (f : Frame) (x : Session) (st : Status) (p : List Byte) : Prop :=
  t.session = some { x with last := f.seq, reply := some (replyBytes f st p) }

/-- Bytes stand in memory under a key slot. -/
def StandAt (t : State) (key a : Nat) (l : List Byte) : Prop := ∀ j v, l[j]? = some v → t.byteUnder (t.keyOf key) (a + j) = v

/-- Services of the host and of peers (R394 to R397, R405, R406, R408 to R410), each once its turn has come: HELLO opens a session, and one of
another partition leaves the session as it is; a report is read from the state as it is once the frame's slot is free; SPDM's requests are
answered from the requester's own negotiation, and one that is not supported is an error; a resident image that verifies is measured and
started, one that does not leaves measurement 4 as it was and starts nothing; a service at or above 0x0100 is copied to a free place of the
resident kernel's ring, whose answer is the reply; a peer's frame is answered in its own session, and a service that is not for peers is
denied. The model's choices: that a second image is denied even after one that failed, and BAD_ARG for one too long (log entry 66); the
places of the ring, when it is full, and where its answers stand (log entry 68); the codes of SPDM (PRESUMED, log entry 89). -/
def Obligations.HostServices : Prop :=
  ∀ (s : State) (f : Frame),
    (∀ window : DWord, s.power = true → s.boot ≠ .rom → inTurn s (.host f) = true → f.service = 1 → window.toNat % 4096 = 0 →
      (f.part = 0 → ∃ t y, exec (.hello (.host f) window) s = .next t ∧ t.session = some y ∧ y.last = f.seq ∧ y.window = window ∧
        y.reply.isSome = true) ∧
      (f.part ≠ 0 → ∃ t, exec (.hello (.host f) window) s = .next t ∧ t.session = s.session)) ∧
    (s.power = true → inTurn s (.host f) = false → Leaves (.queryRas (.host f)) s s ∧ Leaves (.forwardedService (.host f)) s s) ∧
    (∀ x, NextFrame s f x 5 → ∃ t, exec (.queryRas (.host f)) s = .next t ∧ Replied t f x .ok (rasPayload (fetched s f))) ∧
    (∀ x, NextFrame s f x 13 → ∃ t, exec (.spdm (.host f) f.payload) s = .next t ∧
      Replied t f x .ok (spdmServe (fetched s f) 0 f.payload).2 ∧ t.spdm = (spdmServe (fetched s f) 0 f.payload).1.spdm) ∧
    (∀ (who : Nat) (request : List Byte), 4 ≤ request.length → SpdmCode.number? (numberAt request 1 1) = none →
      spdmServe s who request = (s, [0x13, 0x7F, 7, BitVec.ofNat 8 (numberAt request 1 1)])) ∧
    (∀ x image, NextFrame s f x 7 →
      (s.imageAsked = true → ∃ t, exec (.loadResidentImage (.host f) image) s = .next t ∧ Replied t f x .denied [] ∧
        t.measurements = s.measurements ∧ t.boot = s.boot) ∧
      (s.imageAsked = false → 2 ^ 28 < image.length → ∃ t, exec (.loadResidentImage (.host f) image) s = .next t ∧
        Replied t f x .badArg [] ∧ t.measurements = s.measurements ∧ t.boot = s.boot) ∧
      (s.imageAsked = false → image.length ≤ 2 ^ 28 →
        ∃ t, exec (.loadResidentImage (.host f) image) s = .next t ∧ t.imageAsked = true ∧
          (Config.rsaVerifies true image = true ∧ Config.slhVerifies true image = true →
            tget t.measurements 4 = some (sha384 image) ∧ t.boot = .running ∧ Replied t f x .ok []) ∧
          (Config.rsaVerifies true image = false ∨ Config.slhVerifies true image = false →
            t.measurements = s.measurements ∧ t.boot = s.boot ∧ Replied t f x .verifyFailed []))) ∧
    (∀ x base size, s.power = true → oluvosUp s = true → inTurn s (.host f) = true → 0x100 ≤ f.service.toNat → s.session = some x →
      f.seq = x.last + 1 →
      (s.rpcRing = none → ∃ t, exec (.forwardedService (.host f)) s = .next t ∧ Replied t f x .badService []) ∧
      (s.rpcRing = some (base, size) → (∀ k, k < size → ∃ i e, (i, e) ∈ s.forwarded ∧ e.place = base.toNat + 4096 * k) →
        ∃ t, exec (.forwardedService (.host f)) s = .next t ∧ Replied t f x .busy []) ∧
      (s.rpcRing = some (base, size) → ∀ k, k < size → (∀ i e, (i, e) ∈ s.forwarded → e.place ≠ base.toNat + 4096 * k) →
        ∃ t a, exec (.forwardedService (.host f)) s = .next t ∧ (∃ j, j < size ∧ a = base.toNat + 4096 * j) ∧
          (∀ i e, (i, e) ∈ s.forwarded → e.place ≠ a) ∧
          tget t.forwarded s.serial = some { frame := f, host := true, place := a } ∧
          t.session = some { x with last := f.seq, reply := none } ∧
          (s.mem.wf = true → (frameBytes f).length ≤ 4096 → StandAt t (s.keyMapSlot a) a (frameBytes f)))) ∧
    (∀ k a status p y, s.power = true → tget s.forwarded k = some { frame := f, host := true, place := a } → s.session = some y →
      y.last = f.seq →
      (ringHolds (readLines (s.keyMapSlot a) 34 s a (16 + p.length)).2 status p = true →
        ∃ t, exec (.forwardedReply k status p) s = .next t ∧ tget t.forwarded k = none ∧ Replied t f y (statusOf status) p) ∧
      (ringHolds (readLines (s.keyMapSlot a) 34 s a (16 + p.length)).2 status p = false → Leaves (.forwardedReply k status p) s s)) ∧
    (∀ rank, s.power = true →
      (oluvosUp s = false ∨ inTurn s (.peer rank f) = false → Leaves (.serviceWindowFrame rank f) s s) ∧
      (oluvosUp s = true → inTurn s (.peer rank f) = true →
        (f.service = 1 → f.part = 0 → ∃ t y, exec (.serviceWindowFrame rank f) s = .next t ∧ tget t.peerSessions rank = some y ∧
          y.last = f.seq) ∧
        ∀ x, tget s.peerSessions rank = some x → f.seq = x.last + 1 →
          (f.service = 5 → f.part = 0 → ∃ t, exec (.serviceWindowFrame rank f) s = .next t ∧ tget t.peerSessions rank =
            some { x with last := f.seq, reply := some (replyBytes f .ok (rasPayload s)) }) ∧
          (f.service ≠ 1 → f.service ≠ 5 → f.service ≠ 13 → ∃ t, exec (.serviceWindowFrame rank f) s = .next t ∧
            tget t.peerSessions rank = some { x with last := f.seq, reply := some (replyBytes f .denied []) })))

/-- What becomes of the flash at a reset: it stays, but where an image is being written it is left torn (R24, R411). -/
def FlashAfter (s t : State) : Prop :=
  (s.flashing = none → t.flash = s.flash ∧ t.torn = s.torn) ∧
  ∀ b, s.flashing = some b → t.flash = Config.tornFlash s.fresh b ∧ t.torn = true

/-- Boot, recovery, power and reliability events (R24, R405, R408, R411 to R413): only a reset of the host link wakes the part, and it
boots from the ROM; the boot measures the ROM and the fused state, and the image once it verifies, and starts an image that verifies, else
recovery; recovery begins to write an image only once the whole of it verifies, a write that ends resets the part, and a reset during the
write leaves an image that does not boot; throttling holds the low point; a shutdown loses all memory; the services that a lockstep pair
has in progress answer RETRY. That the RAS log stands after a monitor's reset is the model's reading (DEDUCED, log entry 67). -/
def Obligations.PlatformEvents : Prop :=
  ∀ s : State,
    (∃ t, exec .hostLinkReset s = .next t ∧ t.power = true ∧ t.boot = .rom ∧ t.mem = State.reset.mem ∧ t.groups = [] ∧ t.nodes = [] ∧
      FlashAfter s t) ∧
    (∀ b, s.flashing = some b → (flashWritten s).flash = b ∧ (flashWritten s).torn = false ∧ (flashWritten s).boot = .rom ∧
      (flashWritten s).flashing = none ∧ (flashWritten s).mem = State.reset.mem) ∧
    (s.power = true →
      (∃ t, exec .thermalShutdown s = .next t ∧ t.power = false ∧ t.mem = State.reset.mem ∧ t.groups = [] ∧ FlashAfter s t) ∧
      (∃ t, exec .monitorReset s = .next t ∧ t.power = true ∧ t.boot = .rom ∧ t.mem = State.reset.mem ∧ t.groups = [] ∧
        t.rasLog = s.rasLog ++ [.clock]) ∧
      (s.boot = .rom → ∃ t, exec .boot s = .next t ∧ tget t.measurements 1 = some (sha384 Config.romImage) ∧
        tget t.measurements 2 = some (sha384 Config.fusedState) ∧
        (oluvosVerifies s.flash = true → s.torn = false → tget t.measurements 3 = some (sha384 s.flash) ∧ t.boot = .oluvos ∧
          t.udsReachable = false ∧ (t.window 4095).valid = true ∧
          ∀ k, k < 4 → tget t.commandCores k = some (CmdCore.started s.flash)) ∧
        (oluvosVerifies s.flash = false ∨ s.torn = true → tget t.measurements 3 = none ∧ t.boot = .recovery)) ∧
      (s.boot ≠ .rom → Leaves .boot s s) ∧
      (∃ t, exec .powerCapAdjust s = .next t ∧ t.mem = s.mem ∧ t.groups = s.groups ∧ t.powerCap = s.powerCap ∧
        (t.issueClock = s.issueClock ∨ t.issueClock = lowerPoint s.issueClock ∨
          s.throttled = false ∧ t.issueClock = higherPoint s.issueClock)) ∧
      Leaves .thermalThrottle s { s with throttled := true, issueClock := .low } ∧
      (s.throttled = true → Leaves .thermalThrottleRelease s { s with throttled := false, issueClock := cappedPoint s.powerCap }) ∧
      (s.throttled = false → Leaves .thermalThrottleRelease s s) ∧
      (∀ pair u, pair < 4 → oluvosUp s = true →
        u = { s with commandCores := tput s.commandCores pair (CmdCore.started s.flash), rasLog := s.rasLog ++ [.lockstep pair] } →
        ((∀ slot, (slot, pair) ∉ s.serving) → Leaves (.lockstepError pair) s u) ∧
        (∀ slot, s.serving = [(slot, pair)] → Leaves (.lockstepError pair) s (replyMail u slot .retry []))) ∧
      (∀ pair, 4 ≤ pair → Leaves (.lockstepError pair) s s) ∧
      (∀ core, ∃ t, exec (.floatPathFault core) s = .next t ∧ (t.core core).noPlacement = true ∧ t.groups = s.groups ∧ t.mem = s.mem ∧
        t.rasLog = s.rasLog ++ [.floatPath core]) ∧
      (∀ (f : Frame) (x : Session), s.boot = .recovery → inTurn s (.host f) = true → f.service = 15 → f.part = 0 → s.session = some x →
        f.seq = x.last + 1 →
        (∃ t, exec (.recoverImage f false) s = .next t ∧ t.recovery = s.recovery ++ f.payload ∧ t.flash = s.flash ∧
          t.flashing = none ∧ Replied t f x .ok []) ∧
        (oluvosVerifies (s.recovery ++ f.payload) = true → ∃ t, exec (.recoverImage f true) s = .next t ∧
          t.flashing = some (s.recovery ++ f.payload) ∧ t.recovery = [] ∧ t.boot = .recovery ∧ t.flash = s.flash) ∧
        (oluvosVerifies (s.recovery ++ f.payload) = false → ∃ t, exec (.recoverImage f true) s = .next t ∧ t.flash = s.flash ∧
          t.flashing = none ∧ t.recovery = [] ∧ Replied t f x .verifyFailed [])))

/-! ### Words, steps, reset -/

/-- Every well-formed instruction is what its own words decode to, in the stream that it belongs to, every operand with it. -/
def Obligations.DecodeEncode : Prop := ∀ i : Instr, Laws.RoundTrip.Statement i

/-- Words written out from the spec's encodings, one or more of each family, and the instructions that they are (R63 to R90, R134 to
R164, R407). -/
def Obligations.DecodedWords : Prop :=
  decodeIn .scalar [0x70427FFB] = some (.sbltu 4 9 0x3FFB) ∧
  decodeIn .scalar [0x0C028003] = some (.sret 5) ∧
  decodeIn .scalar [0x0C000209] = some (.sexecAnd 2) ∧
  decodeIn .scalar [0x0C50230B] = some (.sgetc 5 3 2) ∧
  decodeIn .scalar [0x0CC00505] = some (.sgetsr 12 .fpstat) ∧
  decodeIn .scalar [0x48000004] = some (.stick 0 4) ∧
  decodeIn .scalar [0x4C000005] = some (.strap 5) ∧
  decodeIn .scalar [0x10002308] = some (.sfence .release .device) ∧
  decodeIn .scalar [0xF8009000, 0x12345678] = some (.sli 9 0x12345678) ∧
  decodeIn .scalar [0xF84100A0, 0x04006002] = some (.sbrv 1 10 4 6 2) ∧
  decodeIn .scalar [0xF8608280, 0x80000021] = some (.supcallWait 4 5 0x21) ∧
  decodeIn .scalar [0xF9407000, 0x0C000028] = some (.sgetlImm 7 12 40) ∧
  decodeIn .scalar [0x10000009] = some .gfenceRt ∧
  decodeIn .scalar [0xF8807108, 0xFB400010] = some (.sldW 7 2 8
    { code := 31, scope := .device, order := .acquire, inv := false, cls := 0, off := 16 }) ∧
  decodeIn .lane [0x60038402, 0x00004000, 0x43400010] = some (.vld
    { vd := .v 3, va := .s 4, vb := .v 2, vc := .v 0, pred := none, hold := 0, p := false, sub := 4, mods := 0, ovr := 0, rnd := 0,
      sat := false, w2 := 0x43400010 }) ∧
  decodeIn .scalar [0xFC40C188, 0x58000000] = some (.xcopy .gs 12 6 4 0 { code := 11, scope := .group, cls := 0 }) ∧
  decodeIn .scalar [0xFC48D000, 0] = some (.xseal 13) ∧
  decodeIn .scalar [0xFC4C0001, 0] = some (.xwait 1) ∧
  decodeIn .scalar [0x10024A01] = some (.sbinit 9 10) ∧
  decodeIn .command [0x00C5950B] = some (.cxBfext 10 11 12) ∧
  decodeIn .command [0x00C5A50B] = some (.cxSwait 10 11 12) ∧
  decodeIn .scalar [0x4C000005, 0] = none ∧ decodeIn .scalar [0xF8009000] = none

/-- A split's word may not be run: the split stops with a precise fault where no result of an earlier word is in flight, and waits for the
results otherwise (R75, R89). -/
def StopsFirst (s : State) (r : SplitRef) (sp : Split) (code : FaultCode) (skip : Nat) : Prop :=
  (sp.inflight = [] → ∃ t, step s = .next t ∧ t.split r =
    some { sp with wait := .ready, stopped := some { code := code, kind := if sp.run.isSome then .lane else .scalar skip } }) ∧
  (sp.inflight ≠ [] → ∃ t, step s = .next t ∧ t.split r = some { sp with wait := .stall .results })

/-- The step at a pipe's move, once the part runs: the split that the pipe picks runs the instruction that its fetch finds, with it as the
running split, after the bookkeeping of issue; the cycles that the move names have passed. Where no fault of the hardware is due (R413),
that is all. A word that is no instruction stops its split with the code of its decoding; a fetch that is held leaves it waiting. -/
def PipeStep (s : State) (n core pipe : Nat) (l : List (Nat × Move)) : Prop :=
  ∀ (s1 u : State) (r : SplitRef) (g : Group) (sp : Split), s.schedule = (n, .pipe core pipe) :: l →
    s1 = passCycles { s with schedule := l } n → s1.boot = .running → pickSplit s1 core pipe = some r → At s1 r g sp →
    (mustPark sp && sp.wait == .ready) = false →
    (∀ i, fetchInstr s1 r g sp = (u, .instr i) → u.residueFails = [] → u.upsets = [] → u.floatOnset = [] →
      step s = exec i (noteIssue { u with cur := some r } r) ∧ (noteIssue { u with cur := some r } r).running = some (r, g, sp)) ∧
    (∀ c skip lanes, sp.stopped = none → fetchInstr s1 r g sp = (u, .notInstr c skip lanes) → StopsFirst s r sp c skip) ∧
    (∀ va, fetchInstr s1 r g sp = (u, .held va) → ∃ t, step s = .next t ∧ t.split r = some { sp with wait := .stall .fetch })

/-- What the fetch finds (R61, R63, R75, R76, R89, R90, R133): the bytes of the page that the address translates to; at the scalar PC a word,
and for a long form the word after it as its literal; within a run three words at the lane PC. They are the instruction that they decode to,
and where their decoding is an error, or the node may not use them, they are none, with that error's code, or ILLEGAL_OPCODE. The
first fetch of a group whose saved image was edited where it may not be faults (R354). -/
def FetchFinds (s : State) : Prop :=
  (∀ (w : Who) (va : DWord) (u : State) (l : Leaf), canonical va = true → pageHeld s w.ref.core w.gkey (pageOf va) = false →
    translate s (some w.ref.core) w.ctx va .fetch = (u, .ok l) → isMemory l.pa = true → u.poisonedAt l.pa 4 = false →
    ∃ t, fetchWord s w va = (t, .word (ofBytes (t.physRead l.key l.pa 4)))) ∧
  ∀ (r : SplitRef) (g : Group) (sp : Split) (n : Node) (who : Who), tget s.nodes g.node = some n → who = whoOf s r g sp →
    (g.edited = true → ∃ (t : State) (skip : Nat) (va : DWord), fetchInstr s r g sp = (t, .unfetched .permission skip va)) ∧
    (g.edited = false → sp.run = none → (∀ skip va, sp.wait ≠ .stall (.failing skip va)) →
      ∀ (t : State) (w : Nat), fetchWord s who (scalarVa n.desc sp.spc) = (t, .word w) →
      (nodeForbids n w = false →
        (∀ i, decodeIn .scalar [w] = some i → fetchInstr s r g sp = (t, .instr i)) ∧
        (∀ c, isLong w = false → decodeScalar w 0 = .error c → ∃ lanes, fetchInstr s r g sp = (t, .notInstr c 1 lanes))) ∧
      (nodeForbids n w = true → isLong w = false → ∃ lanes, fetchInstr s r g sp = (t, .notInstr .illegalOpcode 1 lanes)) ∧
      ∀ (u : State) (lit : Nat), fetchWord t who (scalarVa n.desc (sp.spc + 1)) = (u, .word lit) →
        (nodeForbids n w = false →
          (∀ i, decodeIn .scalar [w, lit] = some i → fetchInstr s r g sp = (u, .instr i)) ∧
          (∀ c, isLong w = true → decodeScalar w lit = .error c → ∃ lanes, fetchInstr s r g sp = (u, .notInstr c 2 lanes))) ∧
        (nodeForbids n w = true → isLong w = true → ∃ lanes, fetchInstr s r g sp = (u, .notInstr .illegalOpcode 2 lanes))) ∧
    (g.edited = false → sp.run.isSome = true → (∀ skip va, sp.wait ≠ .stall (.failing skip va)) →
      ∀ (t u x : State) (w0 w1 w2 : Nat), fetchWord s who (laneVa n.desc sp.lpc) = (t, .word w0) →
      fetchWord t who (laneVa n.desc sp.lpc + 4) = (u, .word w1) → fetchWord u who (laneVa n.desc sp.lpc + 8) = (x, .word w2) →
      (nodeForbidsLane n w0 = false →
        (∀ i, decodeIn .lane [w0, w1, w2] = some i → fetchInstr s r g sp = (x, .instr i)) ∧
        (∀ c, decodeLane w0 w1 w2 = .error c → ∃ lanes, fetchInstr s r g sp = (x, .notInstr c 0 lanes))) ∧
      (nodeForbidsLane n w0 = true → ∃ lanes, fetchInstr s r g sp = (x, .notInstr .illegalOpcode 0 lanes)))

/-- A step runs the instruction that the words at its program counter decode to: at a pipe's move the fetch of the split that the
pipe picks; at a command core's move the four bytes at its pc, an Xcmd word or one of the core's base instruction set; at a hart's move its
word of that set; at a move that is a step of the part, that step, once it may come: until the resident cluster has started the array is
held idle (R408). -/
def Obligations.StepRunsDecoded : Prop :=
  ∀ (s : State) (n : Nat) (l : List (Nat × Move)), s.power = true →
    FetchFinds s ∧ (∀ core pipe, PipeStep s n core pipe l) ∧
    (∀ (k w : Nat) (s1 : State), s.schedule = (n, .command k) :: l → s1 = passCycles { s with schedule := l } n → k < 4 →
      oluvosUp s1 = true → (s1.cmdCore k).asked = false → interruptDue (s1.cmdCore k) = false → fetchCmd (s1.cmdCore k) = some w →
      (∀ i, w % 4 = 3 → decodeXcmd w = some i → step s = exec i { s1 with curCmd := k }) ∧
      (xcmdOf w = none → step s = .next (bump (rvStep { s1 with curCmd := k } (s1.cmdCore k) w)))) ∧
    (∀ (h w len : Nat) (i : Rv) (s1 t u : State) (c : CmdCore), s.schedule = (n, .hart h) :: l → s1 = passCycles { s with schedule := l } n →
      h < 16 → s1.boot = .running → t = { s1 with curCmd := 4 + h, curHart := h } →
      c = { s1.cmdCore (4 + h) with pendingIrq := hartInterrupt t h } → c.asked = false → s1.portLoads.contains h = false →
      interruptDue c = false → fetchHart t h c = (u, some w) → rvOf w = some (len, i) → step s = .next (bump (rvRun u c len i))) ∧
    (∀ (i : Instr) (s1 : State), isEvent i = true → s.schedule = (n, .event i) :: l → s1 = passCycles { s with schedule := l } n →
      (s1.boot = .running ∨ beforeStart i = true → step s = exec i s1) ∧
      (s1.boot ≠ .running → beforeStart i = false → step s = .next (bump s1)))

/-- A part that is off does nothing but wake: every step but that of a host-link reset stops, and so does every meaning but that one's
where it is a step of the part (R24). -/
def Claims.OffStaysOff : Prop :=
  ∀ s : State, s.power = false →
    (s.schedule = [] → step s = .fault .poweredOff) ∧
    (∀ n m l, s.schedule = (n, m) :: l → m ≠ .event .hostLinkReset → step s = .fault .poweredOff) ∧
    (∀ n l, s.schedule = (n, .event .hostLinkReset) :: l → ∃ t, step s = .next t ∧ t.power = true ∧ t.boot = .rom)

/-- The part right after power-on: the cycle count is zero, every core's logical time is 0 and its lease 0x000A, the boot ROM has not
run, nothing is measured, and nothing is resident: no group, node, context, window or key (R24, R93, R408). Memory in its
canonical form lists nothing. -/
def Claims.ResetState : Prop :=
  State.reset.power = true ∧ State.reset.cyc = 0 ∧ (∀ k, (State.reset.core k).lt = 0 ∧ (State.reset.core k).lease = 0x000A) ∧
  State.reset.boot = .rom ∧ State.reset.measurements = [] ∧ State.reset.udsReachable = true ∧ State.reset.groups = [] ∧
  State.reset.nodes = [] ∧ (∀ k, (State.reset.context k).valid = false) ∧ (∀ k, (State.reset.window k).valid = false) ∧
  (∀ k, tget State.reset.keySlots k = none) ∧ State.reset.mem = [] ∧ State.reset.memWf = true

/-- The part right after power-on, and a part that is off (R24, R93, R408). -/
def Obligations.ResetAndPower : Prop := Claims.ResetState ∧ Claims.OffStaysOff

/-- Every step keeps the memories of the state in their canonical form: near and far memory, the key map, the mailbox, the scratchpads of
resident and saved workgroups, and core-local memory. -/
def Obligations.StepKeepsMemoryForm : Prop :=
  ∀ s t : State, step s = .next t → s.memWf = true → t.memWf = true

/-- vgettag (R187): in a run, with both registers in range, it completes whatever va's tag is; every active lane of vd has the number
of the tag of va, of the tag that a latch entry holds, or 0 where the latch is empty or the source has no tag; vd is tagged n32. -/
def Obligations.TagReads : Prop :=
  ∀ (w : LaneWord) (s : State) (r : SplitRef) (g : Group) (sp : Split) (left : Nat) (pk : Bool) (n : Fin 128),
    Writing s r g sp w left pk n .n32 → srcInRange g.regs.length w.va false = true →
    (∀ a : Fin 128, w.va = .v a → LaneResult (.vgettag w) s r g sp w left pk n .n32
      (fun _ => BitVec.ofNat 64 (tagNumber (readV s g a.val).tag))) ∧
    (∀ l : Fin 3, w.va = .l l → LaneResult (.vgettag w) s r g sp w left pk n .n32
      (fun _ => match g.latch[l] with
        | some v => if v.slot = r.slot then BitVec.ofNat 64 (tagNumber v.tag) else 0
        | none => 0)) ∧
    ((∀ a, w.va ≠ .v a) → (∀ l, w.va ≠ .l l) → LaneResult (.vgettag w) s r g sp w left pk n .n32 (fun _ => 0))

/-- vballot (R193): every active lane of vd has the beat's 32 bits of the condition register, cut to the word's own active lanes, and vd
is tagged n32; a word that names beat 3 raises RESERVED_FIELD, whatever its other fields. -/
def Obligations.Ballot : Prop :=
  (∀ (w : LaneWord) (s : State) (r : SplitRef) (g : Group) (sp : Split) (left : Nat) (pk : Bool) (n : Fin 128) (c : Fin 4) (beat : Fin 3),
    Writing s r g sp w left pk n .n32 → w.sub.val = c.val + 4 * beat.val →
    LaneResult (.vballot w) s r g sp w left pk n .n32 (fun _ =>
      ((readVc s g c &&& (laneCtx s r g sp w).act).extractLsb' (32 * beat.val) 32).zeroExtend 64)) ∧
  ∀ w0 w1 w2 : Nat, bitsAt w0 24 8 = 0x45 → bitsAt w1 14 2 = 3 → decodeLane w0 w1 w2 = .error .reservedField
end

