-- ==== Sys2Proof/Laws/Bits.lean ====
section
/-! SUPPORT. Numbers built bit by bit: the bits of lane masks, of reversed words, and the counts of bits. -/

namespace Sys2Proof.Machine

/-- Adding a power of two above every bit of a number sets that bit alone. -/
theorem testBit_add_pow {a n : Nat} (h : a < 2 ^ n) (j : Nat) : (a + 2 ^ n).testBit j = (a.testBit j || decide (j = n)) := by
  rcases Nat.lt_trichotomy j n with hj | hj | hj
  · rw [Nat.add_comm, Nat.testBit_two_pow_add_gt hj]
    simp [Nat.ne_of_lt hj]
  · subst hj
    rw [Nat.add_comm, Nat.testBit_two_pow_add_eq, Nat.testBit_lt_two_pow h]
    simp
  · have h1 : a + 2 ^ n < 2 ^ j := by
      have : 2 ^ (n + 1) ≤ 2 ^ j := Nat.pow_le_pow_right (by omega) hj
      rw [Nat.pow_succ] at this
      omega
    have h2 : a < 2 ^ j := by omega
    rw [Nat.testBit_lt_two_pow h1, Nat.testBit_lt_two_pow h2]
    simp; omega

/-- The number whose bits below n are those of a predicate. -/
theorem foldBits_lt (p : Nat → Bool) (n : Nat) :
    (List.range n).foldl (fun a i => if p i then a + 2 ^ i else a) 0 < 2 ^ n := by
  induction n with
  | zero => simp
  | succ n ih =>
    rw [List.range_succ, List.foldl_append]
    simp only [List.foldl_cons, List.foldl_nil, Nat.pow_succ]
    split <;> omega

theorem foldBits_testBit (p : Nat → Bool) (n j : Nat) :
    ((List.range n).foldl (fun a i => if p i then a + 2 ^ i else a) 0).testBit j = (decide (j < n) && p j) := by
  induction n with
  | zero => simp
  | succ n ih =>
    rw [List.range_succ, List.foldl_append]
    simp only [List.foldl_cons, List.foldl_nil]
    have hlt := foldBits_lt p n
    split
    · next hp =>
      rw [testBit_add_pow hlt, ih]
      by_cases hj : j = n
      · subst hj; simp [hp]
      · have : (decide (j < n + 1)) = decide (j < n) := by
          apply Bool.eq_iff_iff.2; simp; omega
        simp only [this]
        simp [hj]
    · next hp =>
      rw [ih]
      by_cases hj : j = n
      · subst hj; simp [hp]
      · have : (decide (j < n + 1)) = decide (j < n) := by
          apply Bool.eq_iff_iff.2; simp; omega
        rw [this]

/-- The lanes of a mask are those of its predicate. -/
@[simp] theorem maskOf_getLsbD (p : Nat → Bool) (i : Nat) : (maskOf p).getLsbD i = (decide (i < 96) && p i) := by
  simp only [maskOf, BitVec.getLsbD_ofNat, foldBits_testBit]
  by_cases h : i < 96 <;> simp [h]

/-- A number built from its highest bit down. -/
theorem foldRev (p : Nat → Bool) (w : Nat) : ∀ k, k ≤ w →
    ∃ q, (List.range k).foldl (fun n i => if p i then n + 2 ^ (w - 1 - i) else n) 0 = q * 2 ^ (w - k) ∧
      ∀ j, q.testBit j = (decide (j < k) && p (k - 1 - j)) := by
  intro k
  induction k with
  | zero => intro _; exact ⟨0, by simp, by simp⟩
  | succ k ih =>
    intro hk
    obtain ⟨q, h1, h2⟩ := ih (by omega)
    have e1 : w - k = w - (k + 1) + 1 := by omega
    have e2 : w - 1 - k = w - (k + 1) := by omega
    rw [List.range_succ, List.foldl_append, h1]
    simp only [List.foldl_cons, List.foldl_nil, e1, e2, Nat.pow_succ]
    refine ⟨2 * q + (if p k then 1 else 0), ?_, ?_⟩
    · split
      · rw [Nat.add_mul, Nat.one_mul, Nat.mul_comm 2 q, Nat.mul_assoc, Nat.mul_comm 2]
      · rw [Nat.mul_comm 2 q, Nat.mul_comm _ 2, ← Nat.mul_assoc]; rfl
    · intro j
      cases j with
      | zero =>
        simp only [Nat.testBit_zero]
        cases hp : p k <;> simp [hp]
      | succ j =>
        rw [Nat.testBit_succ]
        have : (2 * q + (if p k then 1 else 0)) / 2 = q := by split <;> omega
        rw [this, h2]
        have e3 : k - 1 - j = k + 1 - 1 - (j + 1) := by omega
        rw [e3]
        congr 1
        apply Bool.eq_iff_iff.2; simp

/-- Bit i of the reversed value is bit W − 1 − i of the value (R136). -/
theorem bitrev_getLsbD {w : Nat} (a : BitVec w) (i : Nat) (h : i < w) : (bitrev a).getLsbD i = a.getLsbD (w - 1 - i) := by
  obtain ⟨q, h1, h2⟩ := foldRev (fun i => a.getLsbD i) w w (Nat.le_refl w)
  simp only [bitrev, BitVec.getLsbD_ofNat, h, decide_true, Bool.true_and]
  have h3 := h2 i
  simp only [h, decide_true, Bool.true_and] at h3
  rw [← h3]
  simp only [Nat.sub_self, Nat.pow_zero, Nat.mul_one] at h1
  rw [h1]

/-- The count of one bits. -/
theorem foldCount (p : Nat → Bool) (n : Nat) :
    (List.range n).foldl (fun c i => if p i then c + 1 else c) 0 = ((List.range n).filter p).length := by
  induction n with
  | zero => rfl
  | succ n ih =>
    rw [List.range_succ, List.foldl_append, List.filter_append, ih]
    simp only [List.foldl_cons, List.foldl_nil, List.length_append]
    cases h : p n <;> simp [h]

/-- `popcount` is the number of one bits (R136). -/
theorem popcount_toNat {w : Nat} (a : BitVec w) (h : w < 2 ^ w) :
    (popcount a).toNat = ((List.range w).filter (fun i => a.getLsbD i)).length := by
  have h1 : ((List.range w).filter (fun i => a.getLsbD i)).length ≤ w := by
    have := List.length_filter_le (fun i => a.getLsbD i) (List.range w)
    simpa using this
  unfold popcount
  rw [foldCount (fun i => a.getLsbD i) w, BitVec.toNat_ofNat, Nat.mod_eq_of_lt (by omega)]

/-- `clz` counts the leading zero bits (R136). -/
theorem clz_counts {w : Nat} (a : BitVec w) (hw : w < 2 ^ w) :
    (clz a).toNat ≤ w ∧ (∀ i, i < w → w ≤ i + (clz a).toNat → a.getLsbD i = false) ∧
  ((clz a).toNat < w → a.getLsbD (w - 1 - (clz a).toNat) = true) := by
  by_cases h : a = 0
  · subst h
    have : (clz (0 : BitVec w)).toNat = w := by simp [clz, Nat.mod_eq_of_lt hw]
    rw [this]; simp
  · have h0 : a.toNat ≠ 0 := fun e => h (BitVec.eq_of_toNat_eq (by simpa using e))
    have hl : a.toNat.log2 < w := (Nat.log2_lt h0).2 a.isLt
    have e : (clz a).toNat = w - 1 - a.toNat.log2 := by
      simp only [clz, h, if_false, BitVec.toNat_ofNat]
      rw [Nat.mod_eq_of_lt]; omega
    rw [e]
    refine ⟨by omega, ?_, ?_⟩
    · intro i hi hj
      have : a.toNat < 2 ^ i := (Nat.log2_lt h0).1 (by omega)
      rw [BitVec.getLsbD, Nat.testBit_lt_two_pow this]
    · intro _
      have : w - 1 - (w - 1 - a.toNat.log2) = a.toNat.log2 := by omega
      rw [this, BitVec.getLsbD]
      have := Nat.testBit_log2 h0
      exact this

end Sys2Proof.Machine
end

