-- ==== Sys2Proof/Laws/Exec.lean ====
section
/-! SUPPORT. What exec calls for each instruction. -/

namespace Sys2Proof.Machine

@[simp] theorem exec_sadd (sd sa sb : SReg) (s : State) :
    exec (.sadd sd sa sb) s = execSadd sd sa sb s := rfl
@[simp] theorem exec_ssub (sd sa sb : SReg) (s : State) :
    exec (.ssub sd sa sb) s = execSsub sd sa sb s := rfl
@[simp] theorem exec_sand (sd sa sb : SReg) (s : State) :
    exec (.sand sd sa sb) s = execSand sd sa sb s := rfl
@[simp] theorem exec_sor (sd sa sb : SReg) (s : State) :
    exec (.sor sd sa sb) s = execSor sd sa sb s := rfl
@[simp] theorem exec_sxor (sd sa sb : SReg) (s : State) :
    exec (.sxor sd sa sb) s = execSxor sd sa sb s := rfl
@[simp] theorem exec_sandn (sd sa sb : SReg) (s : State) :
    exec (.sandn sd sa sb) s = execSandn sd sa sb s := rfl
@[simp] theorem exec_ssll (sd sa sb : SReg) (s : State) :
    exec (.ssll sd sa sb) s = execSsll sd sa sb s := rfl
@[simp] theorem exec_ssrl (sd sa sb : SReg) (s : State) :
    exec (.ssrl sd sa sb) s = execSsrl sd sa sb s := rfl
@[simp] theorem exec_ssra (sd sa sb : SReg) (s : State) :
    exec (.ssra sd sa sb) s = execSsra sd sa sb s := rfl
@[simp] theorem exec_smul (sd sa sb : SReg) (s : State) :
    exec (.smul sd sa sb) s = execSmul sd sa sb s := rfl
@[simp] theorem exec_smulh (sd sa sb : SReg) (s : State) :
    exec (.smulh sd sa sb) s = execSmulh sd sa sb s := rfl
@[simp] theorem exec_smulhu (sd sa sb : SReg) (s : State) :
    exec (.smulhu sd sa sb) s = execSmulhu sd sa sb s := rfl
@[simp] theorem exec_sdiv (sd sa sb : SReg) (s : State) :
    exec (.sdiv sd sa sb) s = execSdiv sd sa sb s := rfl
@[simp] theorem exec_sdivu (sd sa sb : SReg) (s : State) :
    exec (.sdivu sd sa sb) s = execSdivu sd sa sb s := rfl
@[simp] theorem exec_srem (sd sa sb : SReg) (s : State) :
    exec (.srem sd sa sb) s = execSrem sd sa sb s := rfl
@[simp] theorem exec_sremu (sd sa sb : SReg) (s : State) :
    exec (.sremu sd sa sb) s = execSremu sd sa sb s := rfl
@[simp] theorem exec_smin (sd sa sb : SReg) (s : State) :
    exec (.smin sd sa sb) s = execSmin sd sa sb s := rfl
@[simp] theorem exec_smax (sd sa sb : SReg) (s : State) :
    exec (.smax sd sa sb) s = execSmax sd sa sb s := rfl
@[simp] theorem exec_sminu (sd sa sb : SReg) (s : State) :
    exec (.sminu sd sa sb) s = execSminu sd sa sb s := rfl
@[simp] theorem exec_smaxu (sd sa sb : SReg) (s : State) :
    exec (.smaxu sd sa sb) s = execSmaxu sd sa sb s := rfl
@[simp] theorem exec_sclz (sd sa : SReg) (s : State) :
    exec (.sclz sd sa) s = execSclz sd sa s := rfl
@[simp] theorem exec_spop (sd sa : SReg) (s : State) :
    exec (.spop sd sa) s = execSpop sd sa s := rfl
@[simp] theorem exec_sbrev (sd sa : SReg) (s : State) :
    exec (.sbrev sd sa) s = execSbrev sd sa s := rfl
@[simp] theorem exec_sctz (sd sa : SReg) (s : State) :
    exec (.sctz sd sa) s = execSctz sd sa s := rfl
@[simp] theorem exec_saddD (pd pa pb : Pair) (s : State) :
    exec (.saddD pd pa pb) s = execSaddD pd pa pb s := rfl
@[simp] theorem exec_ssubD (pd pa pb : Pair) (s : State) :
    exec (.ssubD pd pa pb) s = execSsubD pd pa pb s := rfl
@[simp] theorem exec_sandD (pd pa pb : Pair) (s : State) :
    exec (.sandD pd pa pb) s = execSandD pd pa pb s := rfl
@[simp] theorem exec_sorD (pd pa pb : Pair) (s : State) :
    exec (.sorD pd pa pb) s = execSorD pd pa pb s := rfl
@[simp] theorem exec_sxorD (pd pa pb : Pair) (s : State) :
    exec (.sxorD pd pa pb) s = execSxorD pd pa pb s := rfl
@[simp] theorem exec_sandnD (pd pa pb : Pair) (s : State) :
    exec (.sandnD pd pa pb) s = execSandnD pd pa pb s := rfl
@[simp] theorem exec_ssllD (pd pa pb : Pair) (s : State) :
    exec (.ssllD pd pa pb) s = execSsllD pd pa pb s := rfl
@[simp] theorem exec_ssrlD (pd pa pb : Pair) (s : State) :
    exec (.ssrlD pd pa pb) s = execSsrlD pd pa pb s := rfl
@[simp] theorem exec_ssraD (pd pa pb : Pair) (s : State) :
    exec (.ssraD pd pa pb) s = execSsraD pd pa pb s := rfl
@[simp] theorem exec_smulD (pd pa pb : Pair) (s : State) :
    exec (.smulD pd pa pb) s = execSmulD pd pa pb s := rfl
@[simp] theorem exec_smulhD (pd pa pb : Pair) (s : State) :
    exec (.smulhD pd pa pb) s = execSmulhD pd pa pb s := rfl
@[simp] theorem exec_smulhuD (pd pa pb : Pair) (s : State) :
    exec (.smulhuD pd pa pb) s = execSmulhuD pd pa pb s := rfl
@[simp] theorem exec_sdivD (pd pa pb : Pair) (s : State) :
    exec (.sdivD pd pa pb) s = execSdivD pd pa pb s := rfl
@[simp] theorem exec_sdivuD (pd pa pb : Pair) (s : State) :
    exec (.sdivuD pd pa pb) s = execSdivuD pd pa pb s := rfl
@[simp] theorem exec_sremD (pd pa pb : Pair) (s : State) :
    exec (.sremD pd pa pb) s = execSremD pd pa pb s := rfl
@[simp] theorem exec_sremuD (pd pa pb : Pair) (s : State) :
    exec (.sremuD pd pa pb) s = execSremuD pd pa pb s := rfl
@[simp] theorem exec_sminD (pd pa pb : Pair) (s : State) :
    exec (.sminD pd pa pb) s = execSminD pd pa pb s := rfl
@[simp] theorem exec_smaxD (pd pa pb : Pair) (s : State) :
    exec (.smaxD pd pa pb) s = execSmaxD pd pa pb s := rfl
@[simp] theorem exec_sminuD (pd pa pb : Pair) (s : State) :
    exec (.sminuD pd pa pb) s = execSminuD pd pa pb s := rfl
@[simp] theorem exec_smaxuD (pd pa pb : Pair) (s : State) :
    exec (.smaxuD pd pa pb) s = execSmaxuD pd pa pb s := rfl
@[simp] theorem exec_sclzD (pd pa : Pair) (s : State) :
    exec (.sclzD pd pa) s = execSclzD pd pa s := rfl
@[simp] theorem exec_spopD (pd pa : Pair) (s : State) :
    exec (.spopD pd pa) s = execSpopD pd pa s := rfl
@[simp] theorem exec_sbrevD (pd pa : Pair) (s : State) :
    exec (.sbrevD pd pa) s = execSbrevD pd pa s := rfl
@[simp] theorem exec_sctzD (pd pa : Pair) (s : State) :
    exec (.sctzD pd pa) s = execSctzD pd pa s := rfl
@[simp] theorem exec_scc (c : Cond) (sd sa sb : SReg) (s : State) :
    exec (.scc c sd sa sb) s = execScc c sd sa sb s := rfl
@[simp] theorem exec_sccD (c : Cond) (sd : SReg) (pa pb : Pair) (s : State) :
    exec (.sccD c sd pa pb) s = execSccD c sd pa pb s := rfl
@[simp] theorem exec_spark (s : State) :
    exec .spark s = execSpark s := rfl
@[simp] theorem exec_sexit (s : State) :
    exec .sexit s = execSexit s := rfl
@[simp] theorem exec_sjoin (s : State) :
    exec .sjoin s = execSjoin s := rfl
@[simp] theorem exec_sret (pa : Pair) (s : State) :
    exec (.sret pa) s = execSret pa s := rfl
@[simp] theorem exec_scalli (pd pa : Pair) (s : State) :
    exec (.scalli pd pa) s = execScalli pd pa s := rfl
@[simp] theorem exec_sgetsr (sd : SReg) (r : SpecialReg) (s : State) :
    exec (.sgetsr sd r) s = execSgetsr sd r s := rfl
@[simp] theorem exec_ssetsr (r : SpecialReg) (sa : SReg) (s : State) :
    exec (.ssetsr r sa) s = execSsetsr r sa s := rfl
@[simp] theorem exec_swid (sd : SReg) (k : Fin 6) (s : State) :
    exec (.swid sd k) s = execSwid sd k s := rfl
@[simp] theorem exec_sexecSet (n : Fin 4) (s : State) :
    exec (.sexecSet n) s = execSexecSet n s := rfl
@[simp] theorem exec_sexecAnd (n : Fin 4) (s : State) :
    exec (.sexecAnd n) s = execSexecAnd n s := rfl
@[simp] theorem exec_sexecAndn (n : Fin 4) (s : State) :
    exec (.sexecAndn n) s = execSexecAndn n s := rfl
@[simp] theorem exec_sgetc (sd : SReg) (n : Fin 4) (beat : Fin 3) (s : State) :
    exec (.sgetc sd n beat) s = execSgetc sd n beat s := rfl
@[simp] theorem exec_ssetc (n : Fin 4) (beat : Fin 3) (sa : SReg) (s : State) :
    exec (.ssetc n beat sa) s = execSsetc n beat sa s := rfl
@[simp] theorem exec_sxgetF32 (sd : SReg) (n : Fin 2) (s : State) :
    exec (.sxgetF32 sd n) s = execSxgetF32 sd n s := rfl
@[simp] theorem exec_sxgetI32 (sd : SReg) (n : Fin 2) (s : State) :
    exec (.sxgetI32 sd n) s = execSxgetI32 sd n s := rfl
@[simp] theorem exec_supwait (pa : Pair) (s : State) :
    exec (.supwait pa) s = execSupwait pa s := rfl
@[simp] theorem exec_sgetr (pd : Pair) (k : Fin 8) (s : State) :
    exec (.sgetr pd k) s = execSgetr pd k s := rfl
@[simp] theorem exec_sbar (s : State) :
    exec .sbar s = execSbar s := rfl
@[simp] theorem exec_sbinit (sa sb : SReg) (s : State) :
    exec (.sbinit sa sb) s = execSbinit sa sb s := rfl
@[simp] theorem exec_sbarrive (sa : SReg) (s : State) :
    exec (.sbarrive sa) s = execSbarrive sa s := rfl
@[simp] theorem exec_sbwait (sa : SReg) (s : State) :
    exec (.sbwait sa) s = execSbwait sa s := rfl
@[simp] theorem exec_sbfree (sa : SReg) (s : State) :
    exec (.sbfree sa) s = execSbfree sa s := rfl
@[simp] theorem exec_sfence (o : Order) (sc : Scope) (s : State) :
    exec (.sfence o sc) s = execSfence o sc s := rfl
@[simp] theorem exec_gfenceRt (s : State) :
    exec .gfenceRt s = execGfenceRt s := rfl
@[simp] theorem exec_saddi (sd sa : SReg) (imm : BitVec 14) (s : State) :
    exec (.saddi sd sa imm) s = execSaddi sd sa imm s := rfl
@[simp] theorem exec_sandi (sd sa : SReg) (imm : BitVec 14) (s : State) :
    exec (.sandi sd sa imm) s = execSandi sd sa imm s := rfl
@[simp] theorem exec_sori (sd sa : SReg) (imm : BitVec 14) (s : State) :
    exec (.sori sd sa imm) s = execSori sd sa imm s := rfl
@[simp] theorem exec_sxori (sd sa : SReg) (imm : BitVec 14) (s : State) :
    exec (.sxori sd sa imm) s = execSxori sd sa imm s := rfl
@[simp] theorem exec_sslli (sd sa : SReg) (amount : Fin 32) (s : State) :
    exec (.sslli sd sa amount) s = execSslli sd sa amount s := rfl
@[simp] theorem exec_ssrli (sd sa : SReg) (amount : Fin 32) (s : State) :
    exec (.ssrli sd sa amount) s = execSsrli sd sa amount s := rfl
@[simp] theorem exec_ssrai (sd sa : SReg) (amount : Fin 32) (s : State) :
    exec (.ssrai sd sa amount) s = execSsrai sd sa amount s := rfl
@[simp] theorem exec_slrep (count : Fin 256) (stride : Fin 64) (s : State) :
    exec (.slrep count stride) s = execSlrep count stride s := rfl
@[simp] theorem exec_saddiD (pd pa : Pair) (imm : BitVec 14) (s : State) :
    exec (.saddiD pd pa imm) s = execSaddiD pd pa imm s := rfl
@[simp] theorem exec_stick (sa : SReg) (imm : BitVec 14) (s : State) :
    exec (.stick sa imm) s = execStick sa imm s := rfl
@[simp] theorem exec_strap (code : Byte) (s : State) :
    exec (.strap code) s = execStrap code s := rfl
@[simp] theorem exec_sbeq (sa sb : SReg) (off : BitVec 14) (s : State) :
    exec (.sbeq sa sb off) s = execSbeq sa sb off s := rfl
@[simp] theorem exec_sbne (sa sb : SReg) (off : BitVec 14) (s : State) :
    exec (.sbne sa sb off) s = execSbne sa sb off s := rfl
@[simp] theorem exec_sblt (sa sb : SReg) (off : BitVec 14) (s : State) :
    exec (.sblt sa sb off) s = execSblt sa sb off s := rfl
@[simp] theorem exec_sbge (sa sb : SReg) (off : BitVec 14) (s : State) :
    exec (.sbge sa sb off) s = execSbge sa sb off s := rfl
@[simp] theorem exec_sbltu (sa sb : SReg) (off : BitVec 14) (s : State) :
    exec (.sbltu sa sb off) s = execSbltu sa sb off s := rfl
@[simp] theorem exec_sbgeu (sa sb : SReg) (off : BitVec 14) (s : State) :
    exec (.sbgeu sa sb off) s = execSbgeu sa sb off s := rfl
@[simp] theorem exec_sbr (off : BitVec 22) (s : State) :
    exec (.sbr off) s = execSbr off s := rfl
@[simp] theorem exec_sbmz (off : BitVec 22) (s : State) :
    exec (.sbmz off) s = execSbmz off s := rfl
@[simp] theorem exec_sbmnz (off : BitVec 22) (s : State) :
    exec (.sbmnz off) s = execSbmnz off s := rfl
@[simp] theorem exec_sbmall (off : BitVec 22) (s : State) :
    exec (.sbmall off) s = execSbmall off s := rfl
@[simp] theorem exec_sbmnall (off : BitVec 22) (s : State) :
    exec (.sbmnall off) s = execSbmnall off s := rfl
@[simp] theorem exec_slissue (count : Fin 256) (pk : Bool) (s : State) :
    exec (.slissue count pk) s = execSlissue count pk s := rfl
@[simp] theorem exec_sli (sd : SReg) (imm : Word) (s : State) :
    exec (.sli sd imm) s = execSli sd imm s := rfl
@[simp] theorem exec_sbrLong (so lo : BitVec 16) (s : State) :
    exec (.sbrLong so lo) s = execSbrLong so lo s := rfl
@[simp] theorem exec_sbmzLong (so lo : BitVec 16) (s : State) :
    exec (.sbmzLong so lo) s = execSbmzLong so lo s := rfl
@[simp] theorem exec_sbmnzLong (so lo : BitVec 16) (s : State) :
    exec (.sbmnzLong so lo) s = execSbmnzLong so lo s := rfl
@[simp] theorem exec_sbmallLong (so lo : BitVec 16) (s : State) :
    exec (.sbmallLong so lo) s = execSbmallLong so lo s := rfl
@[simp] theorem exec_sbmnallLong (so lo : BitVec 16) (s : State) :
    exec (.sbmnallLong so lo) s = execSbmnallLong so lo s := rfl
@[simp] theorem exec_sbeqLong (sa sb : SReg) (so lo : BitVec 16) (s : State) :
    exec (.sbeqLong sa sb so lo) s = execSbeqLong sa sb so lo s := rfl
@[simp] theorem exec_sbneLong (sa sb : SReg) (so lo : BitVec 16) (s : State) :
    exec (.sbneLong sa sb so lo) s = execSbneLong sa sb so lo s := rfl
@[simp] theorem exec_sbltLong (sa sb : SReg) (so lo : BitVec 16) (s : State) :
    exec (.sbltLong sa sb so lo) s = execSbltLong sa sb so lo s := rfl
@[simp] theorem exec_sbgeLong (sa sb : SReg) (so lo : BitVec 16) (s : State) :
    exec (.sbgeLong sa sb so lo) s = execSbgeLong sa sb so lo s := rfl
@[simp] theorem exec_sbltuLong (sa sb : SReg) (so lo : BitVec 16) (s : State) :
    exec (.sbltuLong sa sb so lo) s = execSbltuLong sa sb so lo s := rfl
@[simp] theorem exec_sbgeuLong (sa sb : SReg) (so lo : BitVec 16) (s : State) :
    exec (.sbgeuLong sa sb so lo) s = execSbgeuLong sa sb so lo s := rfl
@[simp] theorem exec_scall (pd : Pair) (so lo : BitVec 16) (s : State) :
    exec (.scall pd so lo) s = execScall pd so lo s := rfl
@[simp] theorem exec_sbrv (n : Fin 4) (jso jlo tso tlo : BitVec 12) (s : State) :
    exec (.sbrv n jso jlo tso tlo) s = execSbrv n jso jlo tso tlo s := rfl
@[simp] theorem exec_supcall (sd : SReg) (pa pb : Pair) (svc : BitVec 16) (s : State) :
    exec (.supcall sd pa pb svc) s = execSupcall sd pa pb svc s := rfl
@[simp] theorem exec_supcallWait (pa pb : Pair) (svc : BitVec 16) (s : State) :
    exec (.supcallWait pa pb svc) s = execSupcallWait pa pb svc s := rfl
@[simp] theorem exec_sldW (sd : SReg) (base : Pair) (si : SReg) (m : MemFields) (s : State) :
    exec (.sldW sd base si m) s = execSldW sd base si m s := rfl
@[simp] theorem exec_sldD (pd : Pair) (base : Pair) (si : SReg) (m : MemFields) (s : State) :
    exec (.sldD pd base si m) s = execSldD pd base si m s := rfl
@[simp] theorem exec_sstW (sd : SReg) (base : Pair) (si : SReg) (m : MemFields) (s : State) :
    exec (.sstW sd base si m) s = execSstW sd base si m s := rfl
@[simp] theorem exec_sstD (pd : Pair) (base : Pair) (si : SReg) (m : MemFields) (s : State) :
    exec (.sstD pd base si m) s = execSstD pd base si m s := rfl
@[simp] theorem exec_sldB (sd : SReg) (base : Pair) (si : SReg) (m : MemFields) (s : State) :
    exec (.sldB sd base si m) s = execSldB sd base si m s := rfl
@[simp] theorem exec_sldBu (sd : SReg) (base : Pair) (si : SReg) (m : MemFields) (s : State) :
    exec (.sldBu sd base si m) s = execSldBu sd base si m s := rfl
@[simp] theorem exec_sldH (sd : SReg) (base : Pair) (si : SReg) (m : MemFields) (s : State) :
    exec (.sldH sd base si m) s = execSldH sd base si m s := rfl
@[simp] theorem exec_sldHu (sd : SReg) (base : Pair) (si : SReg) (m : MemFields) (s : State) :
    exec (.sldHu sd base si m) s = execSldHu sd base si m s := rfl
@[simp] theorem exec_sstB (sd : SReg) (base : Pair) (si : SReg) (m : MemFields) (s : State) :
    exec (.sstB sd base si m) s = execSstB sd base si m s := rfl
@[simp] theorem exec_sstH (sd : SReg) (base : Pair) (si : SReg) (m : MemFields) (s : State) :
    exec (.sstH sd base si m) s = execSstH sd base si m s := rfl
@[simp] theorem exec_satomAddW (sd : SReg) (base : Pair) (si : SReg) (m : MemFields) (s : State) :
    exec (.satomAddW sd base si m) s = execSatomAddW sd base si m s := rfl
@[simp] theorem exec_satomAndW (sd : SReg) (base : Pair) (si : SReg) (m : MemFields) (s : State) :
    exec (.satomAndW sd base si m) s = execSatomAndW sd base si m s := rfl
@[simp] theorem exec_satomOrW (sd : SReg) (base : Pair) (si : SReg) (m : MemFields) (s : State) :
    exec (.satomOrW sd base si m) s = execSatomOrW sd base si m s := rfl
@[simp] theorem exec_satomXorW (sd : SReg) (base : Pair) (si : SReg) (m : MemFields) (s : State) :
    exec (.satomXorW sd base si m) s = execSatomXorW sd base si m s := rfl
@[simp] theorem exec_satomMinW (sd : SReg) (base : Pair) (si : SReg) (m : MemFields) (s : State) :
    exec (.satomMinW sd base si m) s = execSatomMinW sd base si m s := rfl
@[simp] theorem exec_satomMaxW (sd : SReg) (base : Pair) (si : SReg) (m : MemFields) (s : State) :
    exec (.satomMaxW sd base si m) s = execSatomMaxW sd base si m s := rfl
@[simp] theorem exec_satomMinuW (sd : SReg) (base : Pair) (si : SReg) (m : MemFields) (s : State) :
    exec (.satomMinuW sd base si m) s = execSatomMinuW sd base si m s := rfl
@[simp] theorem exec_satomMaxuW (sd : SReg) (base : Pair) (si : SReg) (m : MemFields) (s : State) :
    exec (.satomMaxuW sd base si m) s = execSatomMaxuW sd base si m s := rfl
@[simp] theorem exec_satomXchgW (sd : SReg) (base : Pair) (si : SReg) (m : MemFields) (s : State) :
    exec (.satomXchgW sd base si m) s = execSatomXchgW sd base si m s := rfl
@[simp] theorem exec_satomCasW (sd : SReg) (base : Pair) (q : Pair) (m : MemFields) (s : State) :
    exec (.satomCasW sd base q m) s = execSatomCasW sd base q m s := rfl
@[simp] theorem exec_satomFaddW (sd : SReg) (base : Pair) (si : SReg) (m : MemFields) (s : State) :
    exec (.satomFaddW sd base si m) s = execSatomFaddW sd base si m s := rfl
@[simp] theorem exec_satomAddD (pd : Pair) (base : Pair) (si : SReg) (m : MemFields) (s : State) :
    exec (.satomAddD pd base si m) s = execSatomAddD pd base si m s := rfl
@[simp] theorem exec_satomAndD (pd : Pair) (base : Pair) (si : SReg) (m : MemFields) (s : State) :
    exec (.satomAndD pd base si m) s = execSatomAndD pd base si m s := rfl
@[simp] theorem exec_satomOrD (pd : Pair) (base : Pair) (si : SReg) (m : MemFields) (s : State) :
    exec (.satomOrD pd base si m) s = execSatomOrD pd base si m s := rfl
@[simp] theorem exec_satomXorD (pd : Pair) (base : Pair) (si : SReg) (m : MemFields) (s : State) :
    exec (.satomXorD pd base si m) s = execSatomXorD pd base si m s := rfl
@[simp] theorem exec_satomMinD (pd : Pair) (base : Pair) (si : SReg) (m : MemFields) (s : State) :
    exec (.satomMinD pd base si m) s = execSatomMinD pd base si m s := rfl
@[simp] theorem exec_satomMaxD (pd : Pair) (base : Pair) (si : SReg) (m : MemFields) (s : State) :
    exec (.satomMaxD pd base si m) s = execSatomMaxD pd base si m s := rfl
@[simp] theorem exec_satomMinuD (pd : Pair) (base : Pair) (si : SReg) (m : MemFields) (s : State) :
    exec (.satomMinuD pd base si m) s = execSatomMinuD pd base si m s := rfl
@[simp] theorem exec_satomMaxuD (pd : Pair) (base : Pair) (si : SReg) (m : MemFields) (s : State) :
    exec (.satomMaxuD pd base si m) s = execSatomMaxuD pd base si m s := rfl
@[simp] theorem exec_satomXchgD (pd : Pair) (base : Pair) (si : SReg) (m : MemFields) (s : State) :
    exec (.satomXchgD pd base si m) s = execSatomXchgD pd base si m s := rfl
@[simp] theorem exec_satomCasD (pd : Pair) (base : Pair) (q : Fin 16) (m : MemFields) (s : State) :
    exec (.satomCasD pd base q m) s = execSatomCasD pd base q m s := rfl
@[simp] theorem exec_satomFaddD (pd : Pair) (base : Pair) (si : SReg) (m : MemFields) (s : State) :
    exec (.satomFaddD pd base si m) s = execSatomFaddD pd base si m s := rfl
@[simp] theorem exec_sgetlImm (sd : SReg) (va : Fin 128) (lane : Fin 96) (s : State) :
    exec (.sgetlImm sd va lane) s = execSgetlImm sd va lane s := rfl
@[simp] theorem exec_sgetlReg (sd : SReg) (va : Fin 128) (sb : SReg) (s : State) :
    exec (.sgetlReg sd va sb) s = execSgetlReg sd va sb s := rfl
@[simp] theorem exec_scallx (va vb : Fin 128) (n : Fin 33) (s : State) :
    exec (.scallx va vb n) s = execScallx va vb n s := rfl
@[simp] theorem exec_scallxRet (vb : Fin 128) (n : Fin 33) (s : State) :
    exec (.scallxRet vb n) s = execScallxRet vb n s := rfl
@[simp] theorem exec_mma (sa sb : SReg) (t : Fin 64) (pa pb : Fin 4) (acc sat g : Bool) (s : State) :
    exec (.mma sa sb t pa pb acc sat g) s = execMma sa sb t pa pb acc sat g s := rfl
@[simp] theorem exec_mmaPair (sa sb : SReg) (t : Fin 64) (pa pb : Fin 4) (acc sat g : Bool) (s : State) :
    exec (.mmaPair sa sb t pa pb acc sat g) s = execMmaPair sa sb t pa pb acc sat g s := rfl
@[simp] theorem exec_mzero (count t : Fin 64) (s : State) :
    exec (.mzero count t) s = execMzero count t s := rfl
@[simp] theorem exec_mload (sd : SReg) (t : Fin 64) (tr : Bool) (s : State) :
    exec (.mload sd t tr) s = execMload sd t tr s := rfl
@[simp] theorem exec_mdrain (sd : SReg) (t : Fin 64) (tr : Bool) (rnd : Fin 4) (sat : Bool) (s : State) :
    exec (.mdrain sd t tr rnd sat) s = execMdrain sd t tr rnd sat s := rfl
@[simp] theorem exec_mgidx (va : Fin 128) (s : State) :
    exec (.mgidx va) s = execMgidx va s := rfl
@[simp] theorem exec_xcopy (dir : CopyDir) (d a : SReg) (n k : Pair) (f : CopyFields) (s : State) :
    exec (.xcopy dir d a n k f) s = execXcopy dir d a n k f s := rfl
@[simp] theorem exec_xdecomp (d : Pair) (first count : SReg) (f : CopyFields) (s : State) :
    exec (.xdecomp d first count f) s = execXdecomp d first count f s := rfl
@[simp] theorem exec_xseal (sd : SReg) (s : State) :
    exec (.xseal sd) s = execXseal sd s := rfl
@[simp] theorem exec_xwait (n : Fin 16) (s : State) :
    exec (.xwait n) s = execXwait n s := rfl
@[simp] theorem exec_xput (d : Pair) (a : SReg) (count : SReg) (spad : Bool) (f : CopyFields) (tag : BitVec 16) (s : State) :
    exec (.xput d a count spad f tag) s = execXput d a count spad f tag s := rfl
@[simp] theorem exec_xget (d : SReg) (a : Pair) (count : SReg) (spad : Bool) (f : CopyFields) (tag : BitVec 16) (s : State) :
    exec (.xget d a count spad f tag) s = execXget d a count spad f tag s := rfl
@[simp] theorem exec_xsig (d v : Pair) (set : Bool) (f : CopyFields) (tag : BitVec 16) (s : State) :
    exec (.xsig d v set f tag) s = execXsig d v set f tag s := rfl
@[simp] theorem exec_gemit (ss sn sq : SReg) (code : Fin 32) (s : State) :
    exec (.gemit ss sn sq code) s = execGemit ss sn sq code s := rfl
@[simp] theorem exec_vadd (w : LaneWord) (s : State) :
    exec (.vadd w) s = execVadd w s := rfl
@[simp] theorem exec_vsub (w : LaneWord) (s : State) :
    exec (.vsub w) s = execVsub w s := rfl
@[simp] theorem exec_vmul (w : LaneWord) (s : State) :
    exec (.vmul w) s = execVmul w s := rfl
@[simp] theorem exec_vmad (w : LaneWord) (s : State) :
    exec (.vmad w) s = execVmad w s := rfl
@[simp] theorem exec_vmin (w : LaneWord) (s : State) :
    exec (.vmin w) s = execVmin w s := rfl
@[simp] theorem exec_vmax (w : LaneWord) (s : State) :
    exec (.vmax w) s = execVmax w s := rfl
@[simp] theorem exec_vabs (w : LaneWord) (s : State) :
    exec (.vabs w) s = execVabs w s := rfl
@[simp] theorem exec_vneg (w : LaneWord) (s : State) :
    exec (.vneg w) s = execVneg w s := rfl
@[simp] theorem exec_vcmp (w : LaneWord) (s : State) :
    exec (.vcmp w) s = execVcmp w s := rfl
@[simp] theorem exec_vsel (w : LaneWord) (s : State) :
    exec (.vsel w) s = execVsel w s := rfl
@[simp] theorem exec_vscan (w : LaneWord) (s : State) :
    exec (.vscan w) s = execVscan w s := rfl
@[simp] theorem exec_vand (w : LaneWord) (s : State) :
    exec (.vand w) s = execVand w s := rfl
@[simp] theorem exec_vor (w : LaneWord) (s : State) :
    exec (.vor w) s = execVor w s := rfl
@[simp] theorem exec_vxor (w : LaneWord) (s : State) :
    exec (.vxor w) s = execVxor w s := rfl
@[simp] theorem exec_vnot (w : LaneWord) (s : State) :
    exec (.vnot w) s = execVnot w s := rfl
@[simp] theorem exec_vshl (w : LaneWord) (s : State) :
    exec (.vshl w) s = execVshl w s := rfl
@[simp] theorem exec_vshr (w : LaneWord) (s : State) :
    exec (.vshr w) s = execVshr w s := rfl
@[simp] theorem exec_vsra (w : LaneWord) (s : State) :
    exec (.vsra w) s = execVsra w s := rfl
@[simp] theorem exec_vmulhi (w : LaneWord) (s : State) :
    exec (.vmulhi w) s = execVmulhi w s := rfl
@[simp] theorem exec_vclz (w : LaneWord) (s : State) :
    exec (.vclz w) s = execVclz w s := rfl
@[simp] theorem exec_vpopc (w : LaneWord) (s : State) :
    exec (.vpopc w) s = execVpopc w s := rfl
@[simp] theorem exec_vbrev (w : LaneWord) (s : State) :
    exec (.vbrev w) s = execVbrev w s := rfl
@[simp] theorem exec_vbfe (w : LaneWord) (s : State) :
    exec (.vbfe w) s = execVbfe w s := rfl
@[simp] theorem exec_vbfi (w : LaneWord) (s : State) :
    exec (.vbfi w) s = execVbfi w s := rfl
@[simp] theorem exec_vdiv (w : LaneWord) (s : State) :
    exec (.vdiv w) s = execVdiv w s := rfl
@[simp] theorem exec_vsqrt (w : LaneWord) (s : State) :
    exec (.vsqrt w) s = execVsqrt w s := rfl
@[simp] theorem exec_vrcp (w : LaneWord) (s : State) :
    exec (.vrcp w) s = execVrcp w s := rfl
@[simp] theorem exec_vrsq (w : LaneWord) (s : State) :
    exec (.vrsq w) s = execVrsq w s := rfl
@[simp] theorem exec_vexp2 (w : LaneWord) (s : State) :
    exec (.vexp2 w) s = execVexp2 w s := rfl
@[simp] theorem exec_vlog2 (w : LaneWord) (s : State) :
    exec (.vlog2 w) s = execVlog2 w s := rfl
@[simp] theorem exec_vsin (w : LaneWord) (s : State) :
    exec (.vsin w) s = execVsin w s := rfl
@[simp] theorem exec_vcos (w : LaneWord) (s : State) :
    exec (.vcos w) s = execVcos w s := rfl
@[simp] theorem exec_vround (w : LaneWord) (s : State) :
    exec (.vround w) s = execVround w s := rfl
@[simp] theorem exec_vfract (w : LaneWord) (s : State) :
    exec (.vfract w) s = execVfract w s := rfl
@[simp] theorem exec_vclass (w : LaneWord) (s : State) :
    exec (.vclass w) s = execVclass w s := rfl
@[simp] theorem exec_vdot2 (w : LaneWord) (s : State) :
    exec (.vdot2 w) s = execVdot2 w s := rfl
@[simp] theorem exec_vldexp (w : LaneWord) (s : State) :
    exec (.vldexp w) s = execVldexp w s := rfl
@[simp] theorem exec_vcvt (w : LaneWord) (s : State) :
    exec (.vcvt w) s = execVcvt w s := rfl
@[simp] theorem exec_vtag (w : LaneWord) (s : State) :
    exec (.vtag w) s = execVtag w s := rfl
@[simp] theorem exec_vgettag (w : LaneWord) (s : State) :
    exec (.vgettag w) s = execVgettag w s := rfl
@[simp] theorem exec_vmov (w : LaneWord) (s : State) :
    exec (.vmov w) s = execVmov w s := rfl
@[simp] theorem exec_vli (w : LaneWord) (s : State) :
    exec (.vli w) s = execVli w s := rfl
@[simp] theorem exec_vlane (w : LaneWord) (s : State) :
    exec (.vlane w) s = execVlane w s := rfl
@[simp] theorem exec_vmovc (w : LaneWord) (s : State) :
    exec (.vmovc w) s = execVmovc w s := rfl
@[simp] theorem exec_vxch (w : LaneWord) (s : State) :
    exec (.vxch w) s = execVxch w s := rfl
@[simp] theorem exec_vperm (w : LaneWord) (s : State) :
    exec (.vperm w) s = execVperm w s := rfl
@[simp] theorem exec_vrot (w : LaneWord) (s : State) :
    exec (.vrot w) s = execVrot w s := rfl
@[simp] theorem exec_vbcast (w : LaneWord) (s : State) :
    exec (.vbcast w) s = execVbcast w s := rfl
@[simp] theorem exec_vred (w : LaneWord) (s : State) :
    exec (.vred w) s = execVred w s := rfl
@[simp] theorem exec_vballot (w : LaneWord) (s : State) :
    exec (.vballot w) s = execVballot w s := rfl
@[simp] theorem exec_vcand (w : LaneWord) (s : State) :
    exec (.vcand w) s = execVcand w s := rfl
@[simp] theorem exec_vcor (w : LaneWord) (s : State) :
    exec (.vcor w) s = execVcor w s := rfl
@[simp] theorem exec_vcxor (w : LaneWord) (s : State) :
    exec (.vcxor w) s = execVcxor w s := rfl
@[simp] theorem exec_vcnot (w : LaneWord) (s : State) :
    exec (.vcnot w) s = execVcnot w s := rfl
@[simp] theorem exec_vcmov (w : LaneWord) (s : State) :
    exec (.vcmov w) s = execVcmov w s := rfl
@[simp] theorem exec_vxadd (w : LaneWord) (s : State) :
    exec (.vxadd w) s = execVxadd w s := rfl
@[simp] theorem exec_vxget (w : LaneWord) (s : State) :
    exec (.vxget w) s = execVxget w s := rfl
@[simp] theorem exec_vxclr (w : LaneWord) (s : State) :
    exec (.vxclr w) s = execVxclr w s := rfl
@[simp] theorem exec_vld (w : LaneWord) (s : State) :
    exec (.vld w) s = execVld w s := rfl
@[simp] theorem exec_vst (w : LaneWord) (s : State) :
    exec (.vst w) s = execVst w s := rfl
@[simp] theorem exec_vatom (w : LaneWord) (s : State) :
    exec (.vatom w) s = execVatom w s := rfl
@[simp] theorem exec_vatomn (w : LaneWord) (s : State) :
    exec (.vatomn w) s = execVatomn w s := rfl
@[simp] theorem exec_vlds (w : LaneWord) (s : State) :
    exec (.vlds w) s = execVlds w s := rfl
@[simp] theorem exec_vsts (w : LaneWord) (s : State) :
    exec (.vsts w) s = execVsts w s := rfl
@[simp] theorem exec_vtex (w : LaneWord) (s : State) :
    exec (.vtex w) s = execVtex w s := rfl
@[simp] theorem exec_vtexld (w : LaneWord) (s : State) :
    exec (.vtexld w) s = execVtexld w s := rfl
@[simp] theorem exec_vhgrid (w : LaneWord) (s : State) :
    exec (.vhgrid w) s = execVhgrid w s := rfl
@[simp] theorem exec_vhgsc (w : LaneWord) (s : State) :
    exec (.vhgsc w) s = execVhgsc w s := rfl
@[simp] theorem exec_vtrace (w : LaneWord) (s : State) :
    exec (.vtrace w) s = execVtrace w s := rfl
@[simp] theorem exec_vmbox (w : LaneWord) (s : State) :
    exec (.vmbox w) s = execVmbox w s := rfl
@[simp] theorem exec_vrtw (w : LaneWord) (s : State) :
    exec (.vrtw w) s = execVrtw w s := rfl
@[simp] theorem exec_vvis (w : LaneWord) (s : State) :
    exec (.vvis w) s = execVvis w s := rfl
@[simp] theorem exec_vordb (w : LaneWord) (s : State) :
    exec (.vordb w) s = execVordb w s := rfl
@[simp] theorem exec_vorde (w : LaneWord) (s : State) :
    exec (.vorde w) s = execVorde w s := rfl
@[simp] theorem exec_vqswap (w : LaneWord) (s : State) :
    exec (.vqswap w) s = execVqswap w s := rfl
@[simp] theorem exec_cxRfetch (rd rs1 rs2 : Fin 32) (s : State) :
    exec (.cxRfetch rd rs1 rs2) s = execCxRfetch rd rs1 rs2 s := rfl
@[simp] theorem exec_cxBfext (rd rs1 rs2 : Fin 32) (s : State) :
    exec (.cxBfext rd rs1 rs2) s = execCxBfext rd rs1 rs2 s := rfl
@[simp] theorem exec_cxSwait (rd rs1 rs2 : Fin 32) (s : State) :
    exec (.cxSwait rd rs1 rs2) s = execCxSwait rd rs1 rs2 s := rfl
@[simp] theorem exec_cxDisp (rd rs1 rs2 : Fin 32) (s : State) :
    exec (.cxDisp rd rs1 rs2) s = execCxDisp rd rs1 rs2 s := rfl
@[simp] theorem exec_cxGuilt (rd rs1 rs2 : Fin 32) (s : State) :
    exec (.cxGuilt rd rs1 rs2) s = execCxGuilt rd rs1 rs2 s := rfl
@[simp] theorem exec_variableLatencyResult (r : SplitRef) (k : Nat) (s : State) :
    exec (.variableLatencyResult r k) s = execVariableLatencyResult r k s := rfl
@[simp] theorem exec_parkPointRelease (r : SplitRef) (s : State) :
    exec (.parkPointRelease r) s = execParkPointRelease r s := rfl
@[simp] theorem exec_forcedPark (r : SplitRef) (s : State) :
    exec (.forcedPark r) s = execForcedPark r s := rfl
@[simp] theorem exec_splitMerge (group key : Nat) (s : State) :
    exec (.splitMerge group key) s = execSplitMerge group key s := rfl
@[simp] theorem exec_joinDeadlockRelease (group : Nat) (s : State) :
    exec (.joinDeadlockRelease group) s = execJoinDeadlockRelease group s := rfl
@[simp] theorem exec_composeRelease (node index : Nat) (s : State) :
    exec (.composeRelease node index) s = execComposeRelease node index s := rfl
@[simp] theorem exec_starvationPrecedence (r : SplitRef) (s : State) :
    exec (.starvationPrecedence r) s = execStarvationPrecedence r s := rfl
@[simp] theorem exec_barrierComplete (wg : Nat) (s : State) :
    exec (.barrierComplete wg) s = execBarrierComplete wg s := rfl
@[simp] theorem exec_clockPointChange (p : ClockPoint) (s : State) :
    exec (.clockPointChange p) s = execClockPointChange p s := rfl
@[simp] theorem exec_ltTick (core : Nat) (s : State) :
    exec (.ltTick core) s = execLtTick core s := rfl
@[simp] theorem exec_hubLtTick (s : State) :
    exec .hubLtTick s = execHubLtTick s := rfl
@[simp] theorem exec_floorSweep (s : State) :
    exec .floorSweep s = execFloorSweep s := rfl
@[simp] theorem exec_atomicLeaseExpiry (line : Nat) (s : State) :
    exec (.atomicLeaseExpiry line) s = execAtomicLeaseExpiry line s := rfl
@[simp] theorem exec_weirFarExpiry (line : Nat) (s : State) :
    exec (.weirFarExpiry line) s = execWeirFarExpiry line s := rfl
@[simp] theorem exec_l2OverdueSweep (die slice : Nat) (s : State) :
    exec (.l2OverdueSweep die slice) s = execL2OverdueSweep die slice s := rfl
@[simp] theorem exec_auditFail (die slice k : Nat) (s : State) :
    exec (.auditFail die slice k) s = execAuditFail die slice k s := rfl
@[simp] theorem exec_granuleToScratch (core : Nat) (s : State) :
    exec (.granuleToScratch core) s = execGranuleToScratch core s := rfl
@[simp] theorem exec_granuleToL1 (core : Nat) (s : State) :
    exec (.granuleToL1 core) s = execGranuleToL1 core s := rfl
@[simp] theorem exec_invalidatePage (ctx page : Nat) (s : State) :
    exec (.invalidatePage ctx page) s = execInvalidatePage ctx page s := rfl
@[simp] theorem exec_invalidateContext (ctx : Nat) (s : State) :
    exec (.invalidateContext ctx) s = execInvalidateContext ctx s := rfl
@[simp] theorem exec_invalidateNonglobal (ctx : Nat) (s : State) :
    exec (.invalidateNonglobal ctx) s = execInvalidateNonglobal ctx s := rfl
@[simp] theorem exec_invalidateAll (s : State) :
    exec .invalidateAll s = execInvalidateAll s := rfl
@[simp] theorem exec_invalidationPortLoad (s : State) :
    exec .invalidationPortLoad s = execInvalidationPortLoad s := rfl
@[simp] theorem exec_contextValidWrite (ctx : Nat) (valid : Bool) (s : State) :
    exec (.contextValidWrite ctx valid) s = execContextValidWrite ctx valid s := rfl
@[simp] theorem exec_retentionRangeWrite (die range dword : Nat) (value : DWord) (s : State) :
    exec (.retentionRangeWrite die range dword value) s = execRetentionRangeWrite die range dword value s := rfl
@[simp] theorem exec_registerWrite (offset : Nat) (value : DWord) (s : State) :
    exec (.registerWrite offset value) s = execRegisterWrite offset value s := rfl
@[simp] theorem exec_queueEnable (q : Nat) (s : State) :
    exec (.queueEnable q) s = execQueueEnable q s := rfl
@[simp] theorem exec_notify (s : State) :
    exec .notify s = execNotify s := rfl
@[simp] theorem exec_noopEntry (q : Nat) (s : State) :
    exec (.noopEntry q) s = execNoopEntry q s := rfl
@[simp] theorem exec_launchEntry (q : Nat) (s : State) :
    exec (.launchEntry q) s = execLaunchEntry q s := rfl
@[simp] theorem exec_waitEntry (q : Nat) (s : State) :
    exec (.waitEntry q) s = execWaitEntry q s := rfl
@[simp] theorem exec_waitEntrySatisfied (q : Nat) (s : State) :
    exec (.waitEntrySatisfied q) s = execWaitEntrySatisfied q s := rfl
@[simp] theorem exec_workgroupPlacement (s : State) :
    exec .workgroupPlacement s = execWorkgroupPlacement s := rfl
@[simp] theorem exec_compaction (core pipe allot : Nat) (s : State) :
    exec (.compaction core pipe allot) s = execCompaction core pipe allot s := rfl
@[simp] theorem exec_dieReservation (node : Nat) (s : State) :
    exec (.dieReservation node) s = execDieReservation node s := rfl
@[simp] theorem exec_nodeCompletion (node : Nat) (s : State) :
    exec (.nodeCompletion node) s = execNodeCompletion node s := rfl
@[simp] theorem exec_nodeFail (node : Nat) (code : FaultCode) (s : State) :
    exec (.nodeFail node code) s = execNodeFail node code s := rfl
@[simp] theorem exec_multiLaunch (m : MultiStep) (s : State) :
    exec (.multiLaunch m) s = execMultiLaunch m s := rfl
@[simp] theorem exec_multiAccept (m : MultiStep) (s : State) :
    exec (.multiAccept m) s = execMultiAccept m s := rfl
@[simp] theorem exec_multiStart (m : MultiStep) (s : State) :
    exec (.multiStart m) s = execMultiStart m s := rfl
@[simp] theorem exec_multiDone (m : MultiStep) (s : State) :
    exec (.multiDone m) s = execMultiDone m s := rfl
@[simp] theorem exec_multiAbort (m : MultiStep) (s : State) :
    exec (.multiAbort m) s = execMultiAbort m s := rfl
@[simp] theorem exec_acceptTimeout (node : Nat) (s : State) :
    exec (.acceptTimeout node) s = execAcceptTimeout node s := rfl
@[simp] theorem exec_linkFailure (domain rank : Nat) (s : State) :
    exec (.linkFailure domain rank) s = execLinkFailure domain rank s := rfl
@[simp] theorem exec_resume (a : ActionArgs) (s : State) :
    exec (.resume a) s = execResume a s := rfl
@[simp] theorem exec_retry (a : ActionArgs) (s : State) :
    exec (.retry a) s = execRetry a s := rfl
@[simp] theorem exec_endGroup (a : ActionArgs) (s : State) :
    exec (.endGroup a) s = execEndGroup a s := rfl
@[simp] theorem exec_endNode (a : ActionArgs) (s : State) :
    exec (.endNode a) s = execEndNode a s := rfl
@[simp] theorem exec_replay (ctx page : Nat) (s : State) :
    exec (.replay ctx page) s = execReplay ctx page s := rfl
@[simp] theorem exec_fail (ctx page : Nat) (s : State) :
    exec (.fail ctx page) s = execFail ctx page s := rfl
@[simp] theorem exec_messagePost (die : Nat) (s : State) :
    exec (.messagePost die) s = execMessagePost die s := rfl
@[simp] theorem exec_sluiceHeadWrite (die : Nat) (value : Word) (s : State) :
    exec (.sluiceHeadWrite die value) s = execSluiceHeadWrite die value s := rfl
@[simp] theorem exec_replyPortWrite (region ctx : Nat) (ticket : Word) (s : State) :
    exec (.replyPortWrite region ctx ticket) s = execReplyPortWrite region ctx ticket s := rfl
@[simp] theorem exec_preemptContext (ctx : Nat) (hold : Bool) (tag : Word) (s : State) :
    exec (.preemptContext ctx hold tag) s = execPreemptContext ctx hold tag s := rfl
@[simp] theorem exec_preemptWorkgroup (ctx region : Nat) (hold : Bool) (tag : Word) (s : State) :
    exec (.preemptWorkgroup ctx region hold tag) s = execPreemptWorkgroup ctx region hold tag s := rfl
@[simp] theorem exec_releaseHeld (ctx : Nat) (tag : Word) (s : State) :
    exec (.releaseHeld ctx tag) s = execReleaseHeld ctx tag s := rfl
@[simp] theorem exec_workgroupSave (wg : Nat) (s : State) :
    exec (.workgroupSave wg) s = execWorkgroupSave wg s := rfl
@[simp] theorem exec_workgroupRestore (k : Nat) (s : State) :
    exec (.workgroupRestore k) s = execWorkgroupRestore k s := rfl
@[simp] theorem exec_orderedTimeout (group : Nat) (s : State) :
    exec (.orderedTimeout group) s = execOrderedTimeout group s := rfl
@[simp] theorem exec_batchRetire (group : Nat) (s : State) :
    exec (.batchRetire group) s = execBatchRetire group s := rfl
@[simp] theorem exec_copyCommandPerform (k : Nat) (s : State) :
    exec (.copyCommandPerform k) s = execCopyCommandPerform k s := rfl
@[simp] theorem exec_matrixCommandPerform (core : Nat) (mismatch : Bool) (s : State) :
    exec (.matrixCommandPerform core mismatch) s = execMatrixCommandPerform core mismatch s := rfl
@[simp] theorem exec_rasteriserStart (node : Nat) (s : State) :
    exec (.rasteriserStart node) s = execRasteriserStart node s := rfl
@[simp] theorem exec_rtWriteApply (k : Nat) (s : State) :
    exec (.rtWriteApply k) s = execRtWriteApply k s := rfl
@[simp] theorem exec_tileWriteBack (k : Nat) (s : State) :
    exec (.tileWriteBack k) s = execTileWriteBack k s := rfl
@[simp] theorem exec_rayRecordArrival (group k : Nat) (s : State) :
    exec (.rayRecordArrival group k) s = execRayRecordArrival group k s := rfl
@[simp] theorem exec_peerRequest (r : PeerRequest) (s : State) :
    exec (.peerRequest r) s = execPeerRequest r s := rfl
@[simp] theorem exec_windowErrorResponse (k code : Nat) (s : State) :
    exec (.windowErrorResponse k code) s = execWindowErrorResponse k code s := rfl
@[simp] theorem exec_triggerArrival (window : Nat) (tag : BitVec 16) (s : State) :
    exec (.triggerArrival window tag) s = execTriggerArrival window tag s := rfl
@[simp] theorem exec_triggerRun (k : Nat) (s : State) :
    exec (.triggerRun k) s = execTriggerRun k s := rfl
@[simp] theorem exec_hello (src : Source) (window : DWord) (s : State) :
    exec (.hello src window) s = execHello src window s := rfl
@[simp] theorem exec_resetContext (src : Source) (ctx : Nat) (s : State) :
    exec (.resetContext src ctx) s = execResetContext src ctx s := rfl
@[simp] theorem exec_openWindow (src : Source) (a : WindowArgs) (s : State) :
    exec (.openWindow src a) s = execOpenWindow src a s := rfl
@[simp] theorem exec_revokeWindow (src : Source) (window : Nat) (s : State) :
    exec (.revokeWindow src window) s = execRevokeWindow src window s := rfl
@[simp] theorem exec_queryRas (src : Source) (s : State) :
    exec (.queryRas src) s = execQueryRas src s := rfl
@[simp] theorem exec_setPowerCap (src : Source) (watts : Nat) (s : State) :
    exec (.setPowerCap src watts) s = execSetPowerCap src watts s := rfl
@[simp] theorem exec_powerCapAdjust (s : State) :
    exec .powerCapAdjust s = execPowerCapAdjust s := rfl
@[simp] theorem exec_thermalThrottle (s : State) :
    exec .thermalThrottle s = execThermalThrottle s := rfl
@[simp] theorem exec_thermalShutdown (s : State) :
    exec .thermalShutdown s = execThermalShutdown s := rfl
@[simp] theorem exec_loadResidentImage (src : Source) (image : List Byte) (s : State) :
    exec (.loadResidentImage src image) s = execLoadResidentImage src image s := rfl
@[simp] theorem exec_loadKey (src : Source) (slot : Nat) (key : BitVec 512) (s : State) :
    exec (.loadKey src slot key) s = execLoadKey src slot key s := rfl
@[simp] theorem exec_eraseKey (src : Source) (slot : Nat) (s : State) :
    exec (.eraseKey src slot) s = execEraseKey src slot s := rfl
@[simp] theorem exec_registerDomain (src : Source) (a : DomainArgs) (s : State) :
    exec (.registerDomain src a) s = execRegisterDomain src a s := rfl
@[simp] theorem exec_armTrigger (src : Source) (a : TriggerArgs) (s : State) :
    exec (.armTrigger src a) s = execArmTrigger src a s := rfl
@[simp] theorem exec_disarmTrigger (src : Source) (list : Nat) (s : State) :
    exec (.disarmTrigger src list) s = execDisarmTrigger src list s := rfl
@[simp] theorem exec_spdm (src : Source) (request : List Byte) (s : State) :
    exec (.spdm src request) s = execSpdm src request s := rfl
@[simp] theorem exec_setRpcRing (src : Source) (base : DWord) (size : Nat) (s : State) :
    exec (.setRpcRing src base size) s = execSetRpcRing src base size s := rfl
@[simp] theorem exec_forwardedService (src : Source) (s : State) :
    exec (.forwardedService src) s = execForwardedService src s := rfl
@[simp] theorem exec_serviceWindowFrame (rank : Nat) (f : Frame) (s : State) :
    exec (.serviceWindowFrame rank f) s = execServiceWindowFrame rank f s := rfl
@[simp] theorem exec_recoverImage (f : Frame) (last : Bool) (s : State) :
    exec (.recoverImage f last) s = execRecoverImage f last s := rfl
@[simp] theorem exec_hostLinkReset (s : State) :
    exec .hostLinkReset s = execHostLinkReset s := rfl
@[simp] theorem exec_boot (s : State) :
    exec .boot s = execBoot s := rfl
@[simp] theorem exec_lockstepError (pair : Nat) (s : State) :
    exec (.lockstepError pair) s = execLockstepError pair s := rfl
@[simp] theorem exec_floatPathFault (core : Nat) (s : State) :
    exec (.floatPathFault core) s = execFloatPathFault core s := rfl
@[simp] theorem exec_monitorReset (s : State) :
    exec .monitorReset s = execMonitorReset s := rfl
@[simp] theorem exec_illegalOpcode (s : State) :
    exec .illegalOpcode s = execIllegalOpcode s := rfl
@[simp] theorem exec_storeAcknowledgement (r : SplitRef) (k : Nat) (s : State) :
    exec (.storeAcknowledgement r k) s = execStoreAcknowledgement r k s := rfl
@[simp] theorem exec_forwardedReply (k : Nat) (status : Nat) (payload : List Byte) (s : State) :
    exec (.forwardedReply k status payload) s = execForwardedReply k status payload s := rfl
@[simp] theorem exec_thermalThrottleRelease (s : State) :
    exec .thermalThrottleRelease s = execThermalThrottleRelease s := rfl

end Sys2Proof.Machine
end

