-- ==== Sys2Proof/Laws/State.lean ====
section
/-! SUPPORT. What each named update of the state leaves in each field: one lemma for each field and update. -/

namespace Sys2Proof.Machine

/-! ### setGroup -/

@[simp] theorem State.setGroup_power (s : State) (k : Nat) (g : Group) : (s.setGroup k g).power = s.power := rfl
@[simp] theorem State.setGroup_boot (s : State) (k : Nat) (g : Group) : (s.setGroup k g).boot = s.boot := rfl
@[simp] theorem State.setGroup_boots (s : State) (k : Nat) (g : Group) : (s.setGroup k g).boots = s.boots := rfl
@[simp] theorem State.setGroup_issueClock (s : State) (k : Nat) (g : Group) : (s.setGroup k g).issueClock = s.issueClock := rfl
@[simp] theorem State.setGroup_powerCap (s : State) (k : Nat) (g : Group) : (s.setGroup k g).powerCap = s.powerCap := rfl
@[simp] theorem State.setGroup_throttled (s : State) (k : Nat) (g : Group) : (s.setGroup k g).throttled = s.throttled := rfl
@[simp] theorem State.setGroup_cyc (s : State) (k : Nat) (g : Group) : (s.setGroup k g).cyc = s.cyc := rfl
@[simp] theorem State.setGroup_time (s : State) (k : Nat) (g : Group) : (s.setGroup k g).time = s.time := rfl
@[simp] theorem State.setGroup_floor (s : State) (k : Nat) (g : Group) : (s.setGroup k g).floor = s.floor := rfl
@[simp] theorem State.setGroup_hubLt (s : State) (k : Nat) (g : Group) : (s.setGroup k g).hubLt = s.hubLt := rfl
@[simp] theorem State.setGroup_hubTicked (s : State) (k : Nat) (g : Group) : (s.setGroup k g).hubTicked = s.hubTicked := rfl
@[simp] theorem State.setGroup_idleLt (s : State) (k : Nat) (g : Group) : (s.setGroup k g).idleLt = s.idleLt := rfl
@[simp] theorem State.setGroup_idleTicked (s : State) (k : Nat) (g : Group) : (s.setGroup k g).idleTicked = s.idleTicked := rfl
@[simp] theorem State.setGroup_resCopies (s : State) (k : Nat) (g : Group) : (s.setGroup k g).resCopies = s.resCopies := rfl
@[simp] theorem State.setGroup_measurements (s : State) (k : Nat) (g : Group) : (s.setGroup k g).measurements = s.measurements := rfl
@[simp] theorem State.setGroup_cdi1 (s : State) (k : Nat) (g : Group) : (s.setGroup k g).cdi1 = s.cdi1 := rfl
@[simp] theorem State.setGroup_cdi2 (s : State) (k : Nat) (g : Group) : (s.setGroup k g).cdi2 = s.cdi2 := rfl
@[simp] theorem State.setGroup_imageAsked (s : State) (k : Nat) (g : Group) : (s.setGroup k g).imageAsked = s.imageAsked := rfl
@[simp] theorem State.setGroup_udsReachable (s : State) (k : Nat) (g : Group) : (s.setGroup k g).udsReachable = s.udsReachable := rfl
@[simp] theorem State.setGroup_flash (s : State) (k : Nat) (g : Group) : (s.setGroup k g).flash = s.flash := rfl
@[simp] theorem State.setGroup_torn (s : State) (k : Nat) (g : Group) : (s.setGroup k g).torn = s.torn := rfl
@[simp] theorem State.setGroup_flashing (s : State) (k : Nat) (g : Group) : (s.setGroup k g).flashing = s.flashing := rfl
@[simp] theorem State.setGroup_recovery (s : State) (k : Nat) (g : Group) : (s.setGroup k g).recovery = s.recovery := rfl
@[simp] theorem State.setGroup_keySlots (s : State) (k : Nat) (g : Group) : (s.setGroup k g).keySlots = s.keySlots := rfl
@[simp] theorem State.setGroup_rasLog (s : State) (k : Nat) (g : Group) : (s.setGroup k g).rasLog = s.rasLog := rfl
@[simp] theorem State.setGroup_linkRetries (s : State) (k : Nat) (g : Group) : (s.setGroup k g).linkRetries = s.linkRetries := rfl
@[simp] theorem State.setGroup_floatOnset (s : State) (k : Nat) (g : Group) : (s.setGroup k g).floatOnset = s.floatOnset := rfl
@[simp] theorem State.setGroup_mem (s : State) (k : Nat) (g : Group) : (s.setGroup k g).mem = s.mem := rfl
@[simp] theorem State.setGroup_sectorKeys (s : State) (k : Nat) (g : Group) : (s.setGroup k g).sectorKeys = s.sectorKeys := rfl
@[simp] theorem State.setGroup_poisoned (s : State) (k : Nat) (g : Group) : (s.setGroup k g).poisoned = s.poisoned := rfl
@[simp] theorem State.setGroup_keyMap (s : State) (k : Nat) (g : Group) : (s.setGroup k g).keyMap = s.keyMap := rfl
@[simp] theorem State.setGroup_lineTs (s : State) (k : Nat) (g : Group) : (s.setGroup k g).lineTs = s.lineTs := rfl
@[simp] theorem State.setGroup_dieTab (s : State) (k : Nat) (g : Group) : (s.setGroup k g).dieTab = s.dieTab := rfl
@[simp] theorem State.setGroup_leases (s : State) (k : Nat) (g : Group) : (s.setGroup k g).leases = s.leases := rfl
@[simp] theorem State.setGroup_contexts (s : State) (k : Nat) (g : Group) : (s.setGroup k g).contexts = s.contexts := rfl
@[simp] theorem State.setGroup_saveTable (s : State) (k : Nat) (g : Group) : (s.setGroup k g).saveTable = s.saveTable := rfl
@[simp] theorem State.setGroup_regions (s : State) (k : Nat) (g : Group) : (s.setGroup k g).regions = s.regions := rfl
@[simp] theorem State.setGroup_coreTab (s : State) (k : Nat) (g : Group) : (s.setGroup k g).coreTab = s.coreTab := rfl
@[simp] theorem State.setGroup_wgs (s : State) (k : Nat) (g : Group) : (s.setGroup k g).wgs = s.wgs := rfl
@[simp] theorem State.setGroup_groups (s : State) (k : Nat) (g : Group) : (s.setGroup k g).groups = tput s.groups k g := rfl
@[simp] theorem State.setGroup_deadlocks (s : State) (k : Nat) (g : Group) : (s.setGroup k g).deadlocks = s.deadlocks := rfl
@[simp] theorem State.setGroup_acks (s : State) (k : Nat) (g : Group) : (s.setGroup k g).acks = s.acks := rfl
@[simp] theorem State.setGroup_commands (s : State) (k : Nat) (g : Group) : (s.setGroup k g).commands = s.commands := rfl
@[simp] theorem State.setGroup_remotes (s : State) (k : Nat) (g : Group) : (s.setGroup k g).remotes = s.remotes := rfl
@[simp] theorem State.setGroup_threads (s : State) (k : Nat) (g : Group) : (s.setGroup k g).threads = s.threads := rfl
@[simp] theorem State.setGroup_rtWrites (s : State) (k : Nat) (g : Group) : (s.setGroup k g).rtWrites = s.rtWrites := rfl
@[simp] theorem State.setGroup_rtTiles (s : State) (k : Nat) (g : Group) : (s.setGroup k g).rtTiles = s.rtTiles := rfl
@[simp] theorem State.setGroup_queues (s : State) (k : Nat) (g : Group) : (s.setGroup k g).queues = s.queues := rfl
@[simp] theorem State.setGroup_notifies (s : State) (k : Nat) (g : Group) : (s.setGroup k g).notifies = s.notifies := rfl
@[simp] theorem State.setGroup_nodes (s : State) (k : Nat) (g : Group) : (s.setGroup k g).nodes = s.nodes := rfl
@[simp] theorem State.setGroup_bound (s : State) (k : Nat) (g : Group) : (s.setGroup k g).bound = s.bound := rfl
@[simp] theorem State.setGroup_saved (s : State) (k : Nat) (g : Group) : (s.setGroup k g).saved = s.saved := rfl
@[simp] theorem State.setGroup_orphans (s : State) (k : Nat) (g : Group) : (s.setGroup k g).orphans = s.orphans := rfl
@[simp] theorem State.setGroup_requests (s : State) (k : Nat) (g : Group) : (s.setGroup k g).requests = s.requests := rfl
@[simp] theorem State.setGroup_releases (s : State) (k : Nat) (g : Group) : (s.setGroup k g).releases = s.releases := rfl
@[simp] theorem State.setGroup_domains (s : State) (k : Nat) (g : Group) : (s.setGroup k g).domains = s.domains := rfl
@[simp] theorem State.setGroup_sluices (s : State) (k : Nat) (g : Group) : (s.setGroup k g).sluices = s.sluices := rfl
@[simp] theorem State.setGroup_windows (s : State) (k : Nat) (g : Group) : (s.setGroup k g).windows = s.windows := rfl
@[simp] theorem State.setGroup_imports (s : State) (k : Nat) (g : Group) : (s.setGroup k g).imports = s.imports := rfl
@[simp] theorem State.setGroup_windowLog (s : State) (k : Nat) (g : Group) : (s.setGroup k g).windowLog = s.windowLog := rfl
@[simp] theorem State.setGroup_windowErrors (s : State) (k : Nat) (g : Group) : (s.setGroup k g).windowErrors = s.windowErrors := rfl
@[simp] theorem State.setGroup_triggers (s : State) (k : Nat) (g : Group) : (s.setGroup k g).triggers = s.triggers := rfl
@[simp] theorem State.setGroup_arrivals (s : State) (k : Nat) (g : Group) : (s.setGroup k g).arrivals = s.arrivals := rfl
@[simp] theorem State.setGroup_session (s : State) (k : Nat) (g : Group) : (s.setGroup k g).session = s.session := rfl
@[simp] theorem State.setGroup_peerSessions (s : State) (k : Nat) (g : Group) : (s.setGroup k g).peerSessions = s.peerSessions := rfl
@[simp] theorem State.setGroup_drops (s : State) (k : Nat) (g : Group) : (s.setGroup k g).drops = s.drops := rfl
@[simp] theorem State.setGroup_strangers (s : State) (k : Nat) (g : Group) : (s.setGroup k g).strangers = s.strangers := rfl
@[simp] theorem State.setGroup_hostPort (s : State) (k : Nat) (g : Group) : (s.setGroup k g).hostPort = s.hostPort := rfl
@[simp] theorem State.setGroup_aperture (s : State) (k : Nat) (g : Group) : (s.setGroup k g).aperture = s.aperture := rfl
@[simp] theorem State.setGroup_frames (s : State) (k : Nat) (g : Group) : (s.setGroup k g).frames = s.frames := rfl
@[simp] theorem State.setGroup_arrivedBytes (s : State) (k : Nat) (g : Group) : (s.setGroup k g).arrivedBytes = s.arrivedBytes := rfl
@[simp] theorem State.setGroup_asked (s : State) (k : Nat) (g : Group) : (s.setGroup k g).asked = s.asked := rfl
@[simp] theorem State.setGroup_serving (s : State) (k : Nat) (g : Group) : (s.setGroup k g).serving = s.serving := rfl
@[simp] theorem State.setGroup_spdm (s : State) (k : Nat) (g : Group) : (s.setGroup k g).spdm = s.spdm := rfl
@[simp] theorem State.setGroup_rpcRing (s : State) (k : Nat) (g : Group) : (s.setGroup k g).rpcRing = s.rpcRing := rfl
@[simp] theorem State.setGroup_forwarded (s : State) (k : Nat) (g : Group) : (s.setGroup k g).forwarded = s.forwarded := rfl
@[simp] theorem State.setGroup_out (s : State) (k : Nat) (g : Group) : (s.setGroup k g).out = s.out := rfl
@[simp] theorem State.setGroup_mailbox (s : State) (k : Nat) (g : Group) : (s.setGroup k g).mailbox = s.mailbox := rfl
@[simp] theorem State.setGroup_curHart (s : State) (k : Nat) (g : Group) : (s.setGroup k g).curHart = s.curHart := rfl
@[simp] theorem State.setGroup_invalidated (s : State) (k : Nat) (g : Group) : (s.setGroup k g).invalidated = s.invalidated := rfl
@[simp] theorem State.setGroup_portLoads (s : State) (k : Nat) (g : Group) : (s.setGroup k g).portLoads = s.portLoads := rfl
@[simp] theorem State.setGroup_residentLoads (s : State) (k : Nat) (g : Group) : (s.setGroup k g).residentLoads = s.residentLoads := rfl
@[simp] theorem State.setGroup_cdi2Handed (s : State) (k : Nat) (g : Group) : (s.setGroup k g).cdi2Handed = s.cdi2Handed := rfl
@[simp] theorem State.setGroup_commandCores (s : State) (k : Nat) (g : Group) : (s.setGroup k g).commandCores = s.commandCores := rfl
@[simp] theorem State.setGroup_rank (s : State) (k : Nat) (g : Group) : (s.setGroup k g).rank = s.rank := rfl
@[simp] theorem State.setGroup_cur (s : State) (k : Nat) (g : Group) : (s.setGroup k g).cur = s.cur := rfl
@[simp] theorem State.setGroup_curCmd (s : State) (k : Nat) (g : Group) : (s.setGroup k g).curCmd = s.curCmd := rfl
@[simp] theorem State.setGroup_residueFails (s : State) (k : Nat) (g : Group) : (s.setGroup k g).residueFails = s.residueFails := rfl
@[simp] theorem State.setGroup_upsets (s : State) (k : Nat) (g : Group) : (s.setGroup k g).upsets = s.upsets := rfl
@[simp] theorem State.setGroup_schedule (s : State) (k : Nat) (g : Group) : (s.setGroup k g).schedule = s.schedule := rfl
@[simp] theorem State.setGroup_fresh (s : State) (k : Nat) (g : Group) : (s.setGroup k g).fresh = s.fresh := rfl
@[simp] theorem State.setGroup_serial (s : State) (k : Nat) (g : Group) : (s.setGroup k g).serial = s.serial := rfl

/-! ### setWg -/

@[simp] theorem State.setWg_power (s : State) (k : Nat) (w : Workgroup) : (s.setWg k w).power = s.power := rfl
@[simp] theorem State.setWg_boot (s : State) (k : Nat) (w : Workgroup) : (s.setWg k w).boot = s.boot := rfl
@[simp] theorem State.setWg_boots (s : State) (k : Nat) (w : Workgroup) : (s.setWg k w).boots = s.boots := rfl
@[simp] theorem State.setWg_issueClock (s : State) (k : Nat) (w : Workgroup) : (s.setWg k w).issueClock = s.issueClock := rfl
@[simp] theorem State.setWg_powerCap (s : State) (k : Nat) (w : Workgroup) : (s.setWg k w).powerCap = s.powerCap := rfl
@[simp] theorem State.setWg_throttled (s : State) (k : Nat) (w : Workgroup) : (s.setWg k w).throttled = s.throttled := rfl
@[simp] theorem State.setWg_cyc (s : State) (k : Nat) (w : Workgroup) : (s.setWg k w).cyc = s.cyc := rfl
@[simp] theorem State.setWg_time (s : State) (k : Nat) (w : Workgroup) : (s.setWg k w).time = s.time := rfl
@[simp] theorem State.setWg_floor (s : State) (k : Nat) (w : Workgroup) : (s.setWg k w).floor = s.floor := rfl
@[simp] theorem State.setWg_hubLt (s : State) (k : Nat) (w : Workgroup) : (s.setWg k w).hubLt = s.hubLt := rfl
@[simp] theorem State.setWg_hubTicked (s : State) (k : Nat) (w : Workgroup) : (s.setWg k w).hubTicked = s.hubTicked := rfl
@[simp] theorem State.setWg_idleLt (s : State) (k : Nat) (w : Workgroup) : (s.setWg k w).idleLt = s.idleLt := rfl
@[simp] theorem State.setWg_idleTicked (s : State) (k : Nat) (w : Workgroup) : (s.setWg k w).idleTicked = s.idleTicked := rfl
@[simp] theorem State.setWg_resCopies (s : State) (k : Nat) (w : Workgroup) : (s.setWg k w).resCopies = s.resCopies := rfl
@[simp] theorem State.setWg_measurements (s : State) (k : Nat) (w : Workgroup) : (s.setWg k w).measurements = s.measurements := rfl
@[simp] theorem State.setWg_cdi1 (s : State) (k : Nat) (w : Workgroup) : (s.setWg k w).cdi1 = s.cdi1 := rfl
@[simp] theorem State.setWg_cdi2 (s : State) (k : Nat) (w : Workgroup) : (s.setWg k w).cdi2 = s.cdi2 := rfl
@[simp] theorem State.setWg_imageAsked (s : State) (k : Nat) (w : Workgroup) : (s.setWg k w).imageAsked = s.imageAsked := rfl
@[simp] theorem State.setWg_udsReachable (s : State) (k : Nat) (w : Workgroup) : (s.setWg k w).udsReachable = s.udsReachable := rfl
@[simp] theorem State.setWg_flash (s : State) (k : Nat) (w : Workgroup) : (s.setWg k w).flash = s.flash := rfl
@[simp] theorem State.setWg_torn (s : State) (k : Nat) (w : Workgroup) : (s.setWg k w).torn = s.torn := rfl
@[simp] theorem State.setWg_flashing (s : State) (k : Nat) (w : Workgroup) : (s.setWg k w).flashing = s.flashing := rfl
@[simp] theorem State.setWg_recovery (s : State) (k : Nat) (w : Workgroup) : (s.setWg k w).recovery = s.recovery := rfl
@[simp] theorem State.setWg_keySlots (s : State) (k : Nat) (w : Workgroup) : (s.setWg k w).keySlots = s.keySlots := rfl
@[simp] theorem State.setWg_rasLog (s : State) (k : Nat) (w : Workgroup) : (s.setWg k w).rasLog = s.rasLog := rfl
@[simp] theorem State.setWg_linkRetries (s : State) (k : Nat) (w : Workgroup) : (s.setWg k w).linkRetries = s.linkRetries := rfl
@[simp] theorem State.setWg_floatOnset (s : State) (k : Nat) (w : Workgroup) : (s.setWg k w).floatOnset = s.floatOnset := rfl
@[simp] theorem State.setWg_mem (s : State) (k : Nat) (w : Workgroup) : (s.setWg k w).mem = s.mem := rfl
@[simp] theorem State.setWg_sectorKeys (s : State) (k : Nat) (w : Workgroup) : (s.setWg k w).sectorKeys = s.sectorKeys := rfl
@[simp] theorem State.setWg_poisoned (s : State) (k : Nat) (w : Workgroup) : (s.setWg k w).poisoned = s.poisoned := rfl
@[simp] theorem State.setWg_keyMap (s : State) (k : Nat) (w : Workgroup) : (s.setWg k w).keyMap = s.keyMap := rfl
@[simp] theorem State.setWg_lineTs (s : State) (k : Nat) (w : Workgroup) : (s.setWg k w).lineTs = s.lineTs := rfl
@[simp] theorem State.setWg_dieTab (s : State) (k : Nat) (w : Workgroup) : (s.setWg k w).dieTab = s.dieTab := rfl
@[simp] theorem State.setWg_leases (s : State) (k : Nat) (w : Workgroup) : (s.setWg k w).leases = s.leases := rfl
@[simp] theorem State.setWg_contexts (s : State) (k : Nat) (w : Workgroup) : (s.setWg k w).contexts = s.contexts := rfl
@[simp] theorem State.setWg_saveTable (s : State) (k : Nat) (w : Workgroup) : (s.setWg k w).saveTable = s.saveTable := rfl
@[simp] theorem State.setWg_regions (s : State) (k : Nat) (w : Workgroup) : (s.setWg k w).regions = s.regions := rfl
@[simp] theorem State.setWg_coreTab (s : State) (k : Nat) (w : Workgroup) : (s.setWg k w).coreTab = s.coreTab := rfl
@[simp] theorem State.setWg_wgs (s : State) (k : Nat) (w : Workgroup) : (s.setWg k w).wgs = tput s.wgs k w := rfl
@[simp] theorem State.setWg_groups (s : State) (k : Nat) (w : Workgroup) : (s.setWg k w).groups = s.groups := rfl
@[simp] theorem State.setWg_deadlocks (s : State) (k : Nat) (w : Workgroup) : (s.setWg k w).deadlocks = s.deadlocks := rfl
@[simp] theorem State.setWg_acks (s : State) (k : Nat) (w : Workgroup) : (s.setWg k w).acks = s.acks := rfl
@[simp] theorem State.setWg_commands (s : State) (k : Nat) (w : Workgroup) : (s.setWg k w).commands = s.commands := rfl
@[simp] theorem State.setWg_remotes (s : State) (k : Nat) (w : Workgroup) : (s.setWg k w).remotes = s.remotes := rfl
@[simp] theorem State.setWg_threads (s : State) (k : Nat) (w : Workgroup) : (s.setWg k w).threads = s.threads := rfl
@[simp] theorem State.setWg_rtWrites (s : State) (k : Nat) (w : Workgroup) : (s.setWg k w).rtWrites = s.rtWrites := rfl
@[simp] theorem State.setWg_rtTiles (s : State) (k : Nat) (w : Workgroup) : (s.setWg k w).rtTiles = s.rtTiles := rfl
@[simp] theorem State.setWg_queues (s : State) (k : Nat) (w : Workgroup) : (s.setWg k w).queues = s.queues := rfl
@[simp] theorem State.setWg_notifies (s : State) (k : Nat) (w : Workgroup) : (s.setWg k w).notifies = s.notifies := rfl
@[simp] theorem State.setWg_nodes (s : State) (k : Nat) (w : Workgroup) : (s.setWg k w).nodes = s.nodes := rfl
@[simp] theorem State.setWg_bound (s : State) (k : Nat) (w : Workgroup) : (s.setWg k w).bound = s.bound := rfl
@[simp] theorem State.setWg_saved (s : State) (k : Nat) (w : Workgroup) : (s.setWg k w).saved = s.saved := rfl
@[simp] theorem State.setWg_orphans (s : State) (k : Nat) (w : Workgroup) : (s.setWg k w).orphans = s.orphans := rfl
@[simp] theorem State.setWg_requests (s : State) (k : Nat) (w : Workgroup) : (s.setWg k w).requests = s.requests := rfl
@[simp] theorem State.setWg_releases (s : State) (k : Nat) (w : Workgroup) : (s.setWg k w).releases = s.releases := rfl
@[simp] theorem State.setWg_domains (s : State) (k : Nat) (w : Workgroup) : (s.setWg k w).domains = s.domains := rfl
@[simp] theorem State.setWg_sluices (s : State) (k : Nat) (w : Workgroup) : (s.setWg k w).sluices = s.sluices := rfl
@[simp] theorem State.setWg_windows (s : State) (k : Nat) (w : Workgroup) : (s.setWg k w).windows = s.windows := rfl
@[simp] theorem State.setWg_imports (s : State) (k : Nat) (w : Workgroup) : (s.setWg k w).imports = s.imports := rfl
@[simp] theorem State.setWg_windowLog (s : State) (k : Nat) (w : Workgroup) : (s.setWg k w).windowLog = s.windowLog := rfl
@[simp] theorem State.setWg_windowErrors (s : State) (k : Nat) (w : Workgroup) : (s.setWg k w).windowErrors = s.windowErrors := rfl
@[simp] theorem State.setWg_triggers (s : State) (k : Nat) (w : Workgroup) : (s.setWg k w).triggers = s.triggers := rfl
@[simp] theorem State.setWg_arrivals (s : State) (k : Nat) (w : Workgroup) : (s.setWg k w).arrivals = s.arrivals := rfl
@[simp] theorem State.setWg_session (s : State) (k : Nat) (w : Workgroup) : (s.setWg k w).session = s.session := rfl
@[simp] theorem State.setWg_peerSessions (s : State) (k : Nat) (w : Workgroup) : (s.setWg k w).peerSessions = s.peerSessions := rfl
@[simp] theorem State.setWg_drops (s : State) (k : Nat) (w : Workgroup) : (s.setWg k w).drops = s.drops := rfl
@[simp] theorem State.setWg_strangers (s : State) (k : Nat) (w : Workgroup) : (s.setWg k w).strangers = s.strangers := rfl
@[simp] theorem State.setWg_hostPort (s : State) (k : Nat) (w : Workgroup) : (s.setWg k w).hostPort = s.hostPort := rfl
@[simp] theorem State.setWg_aperture (s : State) (k : Nat) (w : Workgroup) : (s.setWg k w).aperture = s.aperture := rfl
@[simp] theorem State.setWg_frames (s : State) (k : Nat) (w : Workgroup) : (s.setWg k w).frames = s.frames := rfl
@[simp] theorem State.setWg_arrivedBytes (s : State) (k : Nat) (w : Workgroup) : (s.setWg k w).arrivedBytes = s.arrivedBytes := rfl
@[simp] theorem State.setWg_asked (s : State) (k : Nat) (w : Workgroup) : (s.setWg k w).asked = s.asked := rfl
@[simp] theorem State.setWg_serving (s : State) (k : Nat) (w : Workgroup) : (s.setWg k w).serving = s.serving := rfl
@[simp] theorem State.setWg_spdm (s : State) (k : Nat) (w : Workgroup) : (s.setWg k w).spdm = s.spdm := rfl
@[simp] theorem State.setWg_rpcRing (s : State) (k : Nat) (w : Workgroup) : (s.setWg k w).rpcRing = s.rpcRing := rfl
@[simp] theorem State.setWg_forwarded (s : State) (k : Nat) (w : Workgroup) : (s.setWg k w).forwarded = s.forwarded := rfl
@[simp] theorem State.setWg_out (s : State) (k : Nat) (w : Workgroup) : (s.setWg k w).out = s.out := rfl
@[simp] theorem State.setWg_mailbox (s : State) (k : Nat) (w : Workgroup) : (s.setWg k w).mailbox = s.mailbox := rfl
@[simp] theorem State.setWg_curHart (s : State) (k : Nat) (w : Workgroup) : (s.setWg k w).curHart = s.curHart := rfl
@[simp] theorem State.setWg_invalidated (s : State) (k : Nat) (w : Workgroup) : (s.setWg k w).invalidated = s.invalidated := rfl
@[simp] theorem State.setWg_portLoads (s : State) (k : Nat) (w : Workgroup) : (s.setWg k w).portLoads = s.portLoads := rfl
@[simp] theorem State.setWg_residentLoads (s : State) (k : Nat) (w : Workgroup) : (s.setWg k w).residentLoads = s.residentLoads := rfl
@[simp] theorem State.setWg_cdi2Handed (s : State) (k : Nat) (w : Workgroup) : (s.setWg k w).cdi2Handed = s.cdi2Handed := rfl
@[simp] theorem State.setWg_commandCores (s : State) (k : Nat) (w : Workgroup) : (s.setWg k w).commandCores = s.commandCores := rfl
@[simp] theorem State.setWg_rank (s : State) (k : Nat) (w : Workgroup) : (s.setWg k w).rank = s.rank := rfl
@[simp] theorem State.setWg_cur (s : State) (k : Nat) (w : Workgroup) : (s.setWg k w).cur = s.cur := rfl
@[simp] theorem State.setWg_curCmd (s : State) (k : Nat) (w : Workgroup) : (s.setWg k w).curCmd = s.curCmd := rfl
@[simp] theorem State.setWg_residueFails (s : State) (k : Nat) (w : Workgroup) : (s.setWg k w).residueFails = s.residueFails := rfl
@[simp] theorem State.setWg_upsets (s : State) (k : Nat) (w : Workgroup) : (s.setWg k w).upsets = s.upsets := rfl
@[simp] theorem State.setWg_schedule (s : State) (k : Nat) (w : Workgroup) : (s.setWg k w).schedule = s.schedule := rfl
@[simp] theorem State.setWg_fresh (s : State) (k : Nat) (w : Workgroup) : (s.setWg k w).fresh = s.fresh := rfl
@[simp] theorem State.setWg_serial (s : State) (k : Nat) (w : Workgroup) : (s.setWg k w).serial = s.serial := rfl

/-! ### setCore -/

@[simp] theorem State.setCore_power (s : State) (c : Nat) (v : Core) : (s.setCore c v).power = s.power := rfl
@[simp] theorem State.setCore_boot (s : State) (c : Nat) (v : Core) : (s.setCore c v).boot = s.boot := rfl
@[simp] theorem State.setCore_boots (s : State) (c : Nat) (v : Core) : (s.setCore c v).boots = s.boots := rfl
@[simp] theorem State.setCore_issueClock (s : State) (c : Nat) (v : Core) : (s.setCore c v).issueClock = s.issueClock := rfl
@[simp] theorem State.setCore_powerCap (s : State) (c : Nat) (v : Core) : (s.setCore c v).powerCap = s.powerCap := rfl
@[simp] theorem State.setCore_throttled (s : State) (c : Nat) (v : Core) : (s.setCore c v).throttled = s.throttled := rfl
@[simp] theorem State.setCore_cyc (s : State) (c : Nat) (v : Core) : (s.setCore c v).cyc = s.cyc := rfl
@[simp] theorem State.setCore_time (s : State) (c : Nat) (v : Core) : (s.setCore c v).time = s.time := rfl
@[simp] theorem State.setCore_floor (s : State) (c : Nat) (v : Core) : (s.setCore c v).floor = s.floor := rfl
@[simp] theorem State.setCore_hubLt (s : State) (c : Nat) (v : Core) : (s.setCore c v).hubLt = s.hubLt := rfl
@[simp] theorem State.setCore_hubTicked (s : State) (c : Nat) (v : Core) : (s.setCore c v).hubTicked = s.hubTicked := rfl
@[simp] theorem State.setCore_idleLt (s : State) (c : Nat) (v : Core) : (s.setCore c v).idleLt = s.idleLt := rfl
@[simp] theorem State.setCore_idleTicked (s : State) (c : Nat) (v : Core) : (s.setCore c v).idleTicked = s.idleTicked := rfl
@[simp] theorem State.setCore_resCopies (s : State) (c : Nat) (v : Core) : (s.setCore c v).resCopies = s.resCopies := rfl
@[simp] theorem State.setCore_measurements (s : State) (c : Nat) (v : Core) : (s.setCore c v).measurements = s.measurements := rfl
@[simp] theorem State.setCore_cdi1 (s : State) (c : Nat) (v : Core) : (s.setCore c v).cdi1 = s.cdi1 := rfl
@[simp] theorem State.setCore_cdi2 (s : State) (c : Nat) (v : Core) : (s.setCore c v).cdi2 = s.cdi2 := rfl
@[simp] theorem State.setCore_imageAsked (s : State) (c : Nat) (v : Core) : (s.setCore c v).imageAsked = s.imageAsked := rfl
@[simp] theorem State.setCore_udsReachable (s : State) (c : Nat) (v : Core) : (s.setCore c v).udsReachable = s.udsReachable := rfl
@[simp] theorem State.setCore_flash (s : State) (c : Nat) (v : Core) : (s.setCore c v).flash = s.flash := rfl
@[simp] theorem State.setCore_torn (s : State) (c : Nat) (v : Core) : (s.setCore c v).torn = s.torn := rfl
@[simp] theorem State.setCore_flashing (s : State) (c : Nat) (v : Core) : (s.setCore c v).flashing = s.flashing := rfl
@[simp] theorem State.setCore_recovery (s : State) (c : Nat) (v : Core) : (s.setCore c v).recovery = s.recovery := rfl
@[simp] theorem State.setCore_keySlots (s : State) (c : Nat) (v : Core) : (s.setCore c v).keySlots = s.keySlots := rfl
@[simp] theorem State.setCore_rasLog (s : State) (c : Nat) (v : Core) : (s.setCore c v).rasLog = s.rasLog := rfl
@[simp] theorem State.setCore_linkRetries (s : State) (c : Nat) (v : Core) : (s.setCore c v).linkRetries = s.linkRetries := rfl
@[simp] theorem State.setCore_floatOnset (s : State) (c : Nat) (v : Core) : (s.setCore c v).floatOnset = s.floatOnset := rfl
@[simp] theorem State.setCore_mem (s : State) (c : Nat) (v : Core) : (s.setCore c v).mem = s.mem := rfl
@[simp] theorem State.setCore_sectorKeys (s : State) (c : Nat) (v : Core) : (s.setCore c v).sectorKeys = s.sectorKeys := rfl
@[simp] theorem State.setCore_poisoned (s : State) (c : Nat) (v : Core) : (s.setCore c v).poisoned = s.poisoned := rfl
@[simp] theorem State.setCore_keyMap (s : State) (c : Nat) (v : Core) : (s.setCore c v).keyMap = s.keyMap := rfl
@[simp] theorem State.setCore_lineTs (s : State) (c : Nat) (v : Core) : (s.setCore c v).lineTs = s.lineTs := rfl
@[simp] theorem State.setCore_dieTab (s : State) (c : Nat) (v : Core) : (s.setCore c v).dieTab = s.dieTab := rfl
@[simp] theorem State.setCore_leases (s : State) (c : Nat) (v : Core) : (s.setCore c v).leases = s.leases := rfl
@[simp] theorem State.setCore_contexts (s : State) (c : Nat) (v : Core) : (s.setCore c v).contexts = s.contexts := rfl
@[simp] theorem State.setCore_saveTable (s : State) (c : Nat) (v : Core) : (s.setCore c v).saveTable = s.saveTable := rfl
@[simp] theorem State.setCore_regions (s : State) (c : Nat) (v : Core) : (s.setCore c v).regions = s.regions := rfl
@[simp] theorem State.setCore_coreTab (s : State) (c : Nat) (v : Core) : (s.setCore c v).coreTab = tput s.coreTab c v := rfl
@[simp] theorem State.setCore_wgs (s : State) (c : Nat) (v : Core) : (s.setCore c v).wgs = s.wgs := rfl
@[simp] theorem State.setCore_groups (s : State) (c : Nat) (v : Core) : (s.setCore c v).groups = s.groups := rfl
@[simp] theorem State.setCore_deadlocks (s : State) (c : Nat) (v : Core) : (s.setCore c v).deadlocks = s.deadlocks := rfl
@[simp] theorem State.setCore_acks (s : State) (c : Nat) (v : Core) : (s.setCore c v).acks = s.acks := rfl
@[simp] theorem State.setCore_commands (s : State) (c : Nat) (v : Core) : (s.setCore c v).commands = s.commands := rfl
@[simp] theorem State.setCore_remotes (s : State) (c : Nat) (v : Core) : (s.setCore c v).remotes = s.remotes := rfl
@[simp] theorem State.setCore_threads (s : State) (c : Nat) (v : Core) : (s.setCore c v).threads = s.threads := rfl
@[simp] theorem State.setCore_rtWrites (s : State) (c : Nat) (v : Core) : (s.setCore c v).rtWrites = s.rtWrites := rfl
@[simp] theorem State.setCore_rtTiles (s : State) (c : Nat) (v : Core) : (s.setCore c v).rtTiles = s.rtTiles := rfl
@[simp] theorem State.setCore_queues (s : State) (c : Nat) (v : Core) : (s.setCore c v).queues = s.queues := rfl
@[simp] theorem State.setCore_notifies (s : State) (c : Nat) (v : Core) : (s.setCore c v).notifies = s.notifies := rfl
@[simp] theorem State.setCore_nodes (s : State) (c : Nat) (v : Core) : (s.setCore c v).nodes = s.nodes := rfl
@[simp] theorem State.setCore_bound (s : State) (c : Nat) (v : Core) : (s.setCore c v).bound = s.bound := rfl
@[simp] theorem State.setCore_saved (s : State) (c : Nat) (v : Core) : (s.setCore c v).saved = s.saved := rfl
@[simp] theorem State.setCore_orphans (s : State) (c : Nat) (v : Core) : (s.setCore c v).orphans = s.orphans := rfl
@[simp] theorem State.setCore_requests (s : State) (c : Nat) (v : Core) : (s.setCore c v).requests = s.requests := rfl
@[simp] theorem State.setCore_releases (s : State) (c : Nat) (v : Core) : (s.setCore c v).releases = s.releases := rfl
@[simp] theorem State.setCore_domains (s : State) (c : Nat) (v : Core) : (s.setCore c v).domains = s.domains := rfl
@[simp] theorem State.setCore_sluices (s : State) (c : Nat) (v : Core) : (s.setCore c v).sluices = s.sluices := rfl
@[simp] theorem State.setCore_windows (s : State) (c : Nat) (v : Core) : (s.setCore c v).windows = s.windows := rfl
@[simp] theorem State.setCore_imports (s : State) (c : Nat) (v : Core) : (s.setCore c v).imports = s.imports := rfl
@[simp] theorem State.setCore_windowLog (s : State) (c : Nat) (v : Core) : (s.setCore c v).windowLog = s.windowLog := rfl
@[simp] theorem State.setCore_windowErrors (s : State) (c : Nat) (v : Core) : (s.setCore c v).windowErrors = s.windowErrors := rfl
@[simp] theorem State.setCore_triggers (s : State) (c : Nat) (v : Core) : (s.setCore c v).triggers = s.triggers := rfl
@[simp] theorem State.setCore_arrivals (s : State) (c : Nat) (v : Core) : (s.setCore c v).arrivals = s.arrivals := rfl
@[simp] theorem State.setCore_session (s : State) (c : Nat) (v : Core) : (s.setCore c v).session = s.session := rfl
@[simp] theorem State.setCore_peerSessions (s : State) (c : Nat) (v : Core) : (s.setCore c v).peerSessions = s.peerSessions := rfl
@[simp] theorem State.setCore_drops (s : State) (c : Nat) (v : Core) : (s.setCore c v).drops = s.drops := rfl
@[simp] theorem State.setCore_strangers (s : State) (c : Nat) (v : Core) : (s.setCore c v).strangers = s.strangers := rfl
@[simp] theorem State.setCore_hostPort (s : State) (c : Nat) (v : Core) : (s.setCore c v).hostPort = s.hostPort := rfl
@[simp] theorem State.setCore_aperture (s : State) (c : Nat) (v : Core) : (s.setCore c v).aperture = s.aperture := rfl
@[simp] theorem State.setCore_frames (s : State) (c : Nat) (v : Core) : (s.setCore c v).frames = s.frames := rfl
@[simp] theorem State.setCore_arrivedBytes (s : State) (c : Nat) (v : Core) : (s.setCore c v).arrivedBytes = s.arrivedBytes := rfl
@[simp] theorem State.setCore_asked (s : State) (c : Nat) (v : Core) : (s.setCore c v).asked = s.asked := rfl
@[simp] theorem State.setCore_serving (s : State) (c : Nat) (v : Core) : (s.setCore c v).serving = s.serving := rfl
@[simp] theorem State.setCore_spdm (s : State) (c : Nat) (v : Core) : (s.setCore c v).spdm = s.spdm := rfl
@[simp] theorem State.setCore_rpcRing (s : State) (c : Nat) (v : Core) : (s.setCore c v).rpcRing = s.rpcRing := rfl
@[simp] theorem State.setCore_forwarded (s : State) (c : Nat) (v : Core) : (s.setCore c v).forwarded = s.forwarded := rfl
@[simp] theorem State.setCore_out (s : State) (c : Nat) (v : Core) : (s.setCore c v).out = s.out := rfl
@[simp] theorem State.setCore_mailbox (s : State) (c : Nat) (v : Core) : (s.setCore c v).mailbox = s.mailbox := rfl
@[simp] theorem State.setCore_curHart (s : State) (c : Nat) (v : Core) : (s.setCore c v).curHart = s.curHart := rfl
@[simp] theorem State.setCore_invalidated (s : State) (c : Nat) (v : Core) : (s.setCore c v).invalidated = s.invalidated := rfl
@[simp] theorem State.setCore_portLoads (s : State) (c : Nat) (v : Core) : (s.setCore c v).portLoads = s.portLoads := rfl
@[simp] theorem State.setCore_residentLoads (s : State) (c : Nat) (v : Core) : (s.setCore c v).residentLoads = s.residentLoads := rfl
@[simp] theorem State.setCore_cdi2Handed (s : State) (c : Nat) (v : Core) : (s.setCore c v).cdi2Handed = s.cdi2Handed := rfl
@[simp] theorem State.setCore_commandCores (s : State) (c : Nat) (v : Core) : (s.setCore c v).commandCores = s.commandCores := rfl
@[simp] theorem State.setCore_rank (s : State) (c : Nat) (v : Core) : (s.setCore c v).rank = s.rank := rfl
@[simp] theorem State.setCore_cur (s : State) (c : Nat) (v : Core) : (s.setCore c v).cur = s.cur := rfl
@[simp] theorem State.setCore_curCmd (s : State) (c : Nat) (v : Core) : (s.setCore c v).curCmd = s.curCmd := rfl
@[simp] theorem State.setCore_residueFails (s : State) (c : Nat) (v : Core) : (s.setCore c v).residueFails = s.residueFails := rfl
@[simp] theorem State.setCore_upsets (s : State) (c : Nat) (v : Core) : (s.setCore c v).upsets = s.upsets := rfl
@[simp] theorem State.setCore_schedule (s : State) (c : Nat) (v : Core) : (s.setCore c v).schedule = s.schedule := rfl
@[simp] theorem State.setCore_fresh (s : State) (c : Nat) (v : Core) : (s.setCore c v).fresh = s.fresh := rfl
@[simp] theorem State.setCore_serial (s : State) (c : Nat) (v : Core) : (s.setCore c v).serial = s.serial := rfl

/-! ### setNode -/

@[simp] theorem State.setNode_power (s : State) (k : Nat) (n : Node) : (s.setNode k n).power = s.power := rfl
@[simp] theorem State.setNode_boot (s : State) (k : Nat) (n : Node) : (s.setNode k n).boot = s.boot := rfl
@[simp] theorem State.setNode_boots (s : State) (k : Nat) (n : Node) : (s.setNode k n).boots = s.boots := rfl
@[simp] theorem State.setNode_issueClock (s : State) (k : Nat) (n : Node) : (s.setNode k n).issueClock = s.issueClock := rfl
@[simp] theorem State.setNode_powerCap (s : State) (k : Nat) (n : Node) : (s.setNode k n).powerCap = s.powerCap := rfl
@[simp] theorem State.setNode_throttled (s : State) (k : Nat) (n : Node) : (s.setNode k n).throttled = s.throttled := rfl
@[simp] theorem State.setNode_cyc (s : State) (k : Nat) (n : Node) : (s.setNode k n).cyc = s.cyc := rfl
@[simp] theorem State.setNode_time (s : State) (k : Nat) (n : Node) : (s.setNode k n).time = s.time := rfl
@[simp] theorem State.setNode_floor (s : State) (k : Nat) (n : Node) : (s.setNode k n).floor = s.floor := rfl
@[simp] theorem State.setNode_hubLt (s : State) (k : Nat) (n : Node) : (s.setNode k n).hubLt = s.hubLt := rfl
@[simp] theorem State.setNode_hubTicked (s : State) (k : Nat) (n : Node) : (s.setNode k n).hubTicked = s.hubTicked := rfl
@[simp] theorem State.setNode_idleLt (s : State) (k : Nat) (n : Node) : (s.setNode k n).idleLt = s.idleLt := rfl
@[simp] theorem State.setNode_idleTicked (s : State) (k : Nat) (n : Node) : (s.setNode k n).idleTicked = s.idleTicked := rfl
@[simp] theorem State.setNode_resCopies (s : State) (k : Nat) (n : Node) : (s.setNode k n).resCopies = s.resCopies := rfl
@[simp] theorem State.setNode_measurements (s : State) (k : Nat) (n : Node) : (s.setNode k n).measurements = s.measurements := rfl
@[simp] theorem State.setNode_cdi1 (s : State) (k : Nat) (n : Node) : (s.setNode k n).cdi1 = s.cdi1 := rfl
@[simp] theorem State.setNode_cdi2 (s : State) (k : Nat) (n : Node) : (s.setNode k n).cdi2 = s.cdi2 := rfl
@[simp] theorem State.setNode_imageAsked (s : State) (k : Nat) (n : Node) : (s.setNode k n).imageAsked = s.imageAsked := rfl
@[simp] theorem State.setNode_udsReachable (s : State) (k : Nat) (n : Node) : (s.setNode k n).udsReachable = s.udsReachable := rfl
@[simp] theorem State.setNode_flash (s : State) (k : Nat) (n : Node) : (s.setNode k n).flash = s.flash := rfl
@[simp] theorem State.setNode_torn (s : State) (k : Nat) (n : Node) : (s.setNode k n).torn = s.torn := rfl
@[simp] theorem State.setNode_flashing (s : State) (k : Nat) (n : Node) : (s.setNode k n).flashing = s.flashing := rfl
@[simp] theorem State.setNode_recovery (s : State) (k : Nat) (n : Node) : (s.setNode k n).recovery = s.recovery := rfl
@[simp] theorem State.setNode_keySlots (s : State) (k : Nat) (n : Node) : (s.setNode k n).keySlots = s.keySlots := rfl
@[simp] theorem State.setNode_rasLog (s : State) (k : Nat) (n : Node) : (s.setNode k n).rasLog = s.rasLog := rfl
@[simp] theorem State.setNode_linkRetries (s : State) (k : Nat) (n : Node) : (s.setNode k n).linkRetries = s.linkRetries := rfl
@[simp] theorem State.setNode_floatOnset (s : State) (k : Nat) (n : Node) : (s.setNode k n).floatOnset = s.floatOnset := rfl
@[simp] theorem State.setNode_mem (s : State) (k : Nat) (n : Node) : (s.setNode k n).mem = s.mem := rfl
@[simp] theorem State.setNode_sectorKeys (s : State) (k : Nat) (n : Node) : (s.setNode k n).sectorKeys = s.sectorKeys := rfl
@[simp] theorem State.setNode_poisoned (s : State) (k : Nat) (n : Node) : (s.setNode k n).poisoned = s.poisoned := rfl
@[simp] theorem State.setNode_keyMap (s : State) (k : Nat) (n : Node) : (s.setNode k n).keyMap = s.keyMap := rfl
@[simp] theorem State.setNode_lineTs (s : State) (k : Nat) (n : Node) : (s.setNode k n).lineTs = s.lineTs := rfl
@[simp] theorem State.setNode_dieTab (s : State) (k : Nat) (n : Node) : (s.setNode k n).dieTab = s.dieTab := rfl
@[simp] theorem State.setNode_leases (s : State) (k : Nat) (n : Node) : (s.setNode k n).leases = s.leases := rfl
@[simp] theorem State.setNode_contexts (s : State) (k : Nat) (n : Node) : (s.setNode k n).contexts = s.contexts := rfl
@[simp] theorem State.setNode_saveTable (s : State) (k : Nat) (n : Node) : (s.setNode k n).saveTable = s.saveTable := rfl
@[simp] theorem State.setNode_regions (s : State) (k : Nat) (n : Node) : (s.setNode k n).regions = s.regions := rfl
@[simp] theorem State.setNode_coreTab (s : State) (k : Nat) (n : Node) : (s.setNode k n).coreTab = s.coreTab := rfl
@[simp] theorem State.setNode_wgs (s : State) (k : Nat) (n : Node) : (s.setNode k n).wgs = s.wgs := rfl
@[simp] theorem State.setNode_groups (s : State) (k : Nat) (n : Node) : (s.setNode k n).groups = s.groups := rfl
@[simp] theorem State.setNode_deadlocks (s : State) (k : Nat) (n : Node) : (s.setNode k n).deadlocks = s.deadlocks := rfl
@[simp] theorem State.setNode_acks (s : State) (k : Nat) (n : Node) : (s.setNode k n).acks = s.acks := rfl
@[simp] theorem State.setNode_commands (s : State) (k : Nat) (n : Node) : (s.setNode k n).commands = s.commands := rfl
@[simp] theorem State.setNode_remotes (s : State) (k : Nat) (n : Node) : (s.setNode k n).remotes = s.remotes := rfl
@[simp] theorem State.setNode_threads (s : State) (k : Nat) (n : Node) : (s.setNode k n).threads = s.threads := rfl
@[simp] theorem State.setNode_rtWrites (s : State) (k : Nat) (n : Node) : (s.setNode k n).rtWrites = s.rtWrites := rfl
@[simp] theorem State.setNode_rtTiles (s : State) (k : Nat) (n : Node) : (s.setNode k n).rtTiles = s.rtTiles := rfl
@[simp] theorem State.setNode_queues (s : State) (k : Nat) (n : Node) : (s.setNode k n).queues = s.queues := rfl
@[simp] theorem State.setNode_notifies (s : State) (k : Nat) (n : Node) : (s.setNode k n).notifies = s.notifies := rfl
@[simp] theorem State.setNode_nodes (s : State) (k : Nat) (n : Node) : (s.setNode k n).nodes = tput s.nodes k n := rfl
@[simp] theorem State.setNode_bound (s : State) (k : Nat) (n : Node) : (s.setNode k n).bound = s.bound := rfl
@[simp] theorem State.setNode_saved (s : State) (k : Nat) (n : Node) : (s.setNode k n).saved = s.saved := rfl
@[simp] theorem State.setNode_orphans (s : State) (k : Nat) (n : Node) : (s.setNode k n).orphans = s.orphans := rfl
@[simp] theorem State.setNode_requests (s : State) (k : Nat) (n : Node) : (s.setNode k n).requests = s.requests := rfl
@[simp] theorem State.setNode_releases (s : State) (k : Nat) (n : Node) : (s.setNode k n).releases = s.releases := rfl
@[simp] theorem State.setNode_domains (s : State) (k : Nat) (n : Node) : (s.setNode k n).domains = s.domains := rfl
@[simp] theorem State.setNode_sluices (s : State) (k : Nat) (n : Node) : (s.setNode k n).sluices = s.sluices := rfl
@[simp] theorem State.setNode_windows (s : State) (k : Nat) (n : Node) : (s.setNode k n).windows = s.windows := rfl
@[simp] theorem State.setNode_imports (s : State) (k : Nat) (n : Node) : (s.setNode k n).imports = s.imports := rfl
@[simp] theorem State.setNode_windowLog (s : State) (k : Nat) (n : Node) : (s.setNode k n).windowLog = s.windowLog := rfl
@[simp] theorem State.setNode_windowErrors (s : State) (k : Nat) (n : Node) : (s.setNode k n).windowErrors = s.windowErrors := rfl
@[simp] theorem State.setNode_triggers (s : State) (k : Nat) (n : Node) : (s.setNode k n).triggers = s.triggers := rfl
@[simp] theorem State.setNode_arrivals (s : State) (k : Nat) (n : Node) : (s.setNode k n).arrivals = s.arrivals := rfl
@[simp] theorem State.setNode_session (s : State) (k : Nat) (n : Node) : (s.setNode k n).session = s.session := rfl
@[simp] theorem State.setNode_peerSessions (s : State) (k : Nat) (n : Node) : (s.setNode k n).peerSessions = s.peerSessions := rfl
@[simp] theorem State.setNode_drops (s : State) (k : Nat) (n : Node) : (s.setNode k n).drops = s.drops := rfl
@[simp] theorem State.setNode_strangers (s : State) (k : Nat) (n : Node) : (s.setNode k n).strangers = s.strangers := rfl
@[simp] theorem State.setNode_hostPort (s : State) (k : Nat) (n : Node) : (s.setNode k n).hostPort = s.hostPort := rfl
@[simp] theorem State.setNode_aperture (s : State) (k : Nat) (n : Node) : (s.setNode k n).aperture = s.aperture := rfl
@[simp] theorem State.setNode_frames (s : State) (k : Nat) (n : Node) : (s.setNode k n).frames = s.frames := rfl
@[simp] theorem State.setNode_arrivedBytes (s : State) (k : Nat) (n : Node) : (s.setNode k n).arrivedBytes = s.arrivedBytes := rfl
@[simp] theorem State.setNode_asked (s : State) (k : Nat) (n : Node) : (s.setNode k n).asked = s.asked := rfl
@[simp] theorem State.setNode_serving (s : State) (k : Nat) (n : Node) : (s.setNode k n).serving = s.serving := rfl
@[simp] theorem State.setNode_spdm (s : State) (k : Nat) (n : Node) : (s.setNode k n).spdm = s.spdm := rfl
@[simp] theorem State.setNode_rpcRing (s : State) (k : Nat) (n : Node) : (s.setNode k n).rpcRing = s.rpcRing := rfl
@[simp] theorem State.setNode_forwarded (s : State) (k : Nat) (n : Node) : (s.setNode k n).forwarded = s.forwarded := rfl
@[simp] theorem State.setNode_out (s : State) (k : Nat) (n : Node) : (s.setNode k n).out = s.out := rfl
@[simp] theorem State.setNode_mailbox (s : State) (k : Nat) (n : Node) : (s.setNode k n).mailbox = s.mailbox := rfl
@[simp] theorem State.setNode_curHart (s : State) (k : Nat) (n : Node) : (s.setNode k n).curHart = s.curHart := rfl
@[simp] theorem State.setNode_invalidated (s : State) (k : Nat) (n : Node) : (s.setNode k n).invalidated = s.invalidated := rfl
@[simp] theorem State.setNode_portLoads (s : State) (k : Nat) (n : Node) : (s.setNode k n).portLoads = s.portLoads := rfl
@[simp] theorem State.setNode_residentLoads (s : State) (k : Nat) (n : Node) : (s.setNode k n).residentLoads = s.residentLoads := rfl
@[simp] theorem State.setNode_cdi2Handed (s : State) (k : Nat) (n : Node) : (s.setNode k n).cdi2Handed = s.cdi2Handed := rfl
@[simp] theorem State.setNode_commandCores (s : State) (k : Nat) (n : Node) : (s.setNode k n).commandCores = s.commandCores := rfl
@[simp] theorem State.setNode_rank (s : State) (k : Nat) (n : Node) : (s.setNode k n).rank = s.rank := rfl
@[simp] theorem State.setNode_cur (s : State) (k : Nat) (n : Node) : (s.setNode k n).cur = s.cur := rfl
@[simp] theorem State.setNode_curCmd (s : State) (k : Nat) (n : Node) : (s.setNode k n).curCmd = s.curCmd := rfl
@[simp] theorem State.setNode_residueFails (s : State) (k : Nat) (n : Node) : (s.setNode k n).residueFails = s.residueFails := rfl
@[simp] theorem State.setNode_upsets (s : State) (k : Nat) (n : Node) : (s.setNode k n).upsets = s.upsets := rfl
@[simp] theorem State.setNode_schedule (s : State) (k : Nat) (n : Node) : (s.setNode k n).schedule = s.schedule := rfl
@[simp] theorem State.setNode_fresh (s : State) (k : Nat) (n : Node) : (s.setNode k n).fresh = s.fresh := rfl
@[simp] theorem State.setNode_serial (s : State) (k : Nat) (n : Node) : (s.setNode k n).serial = s.serial := rfl

/-! ### setDie -/

@[simp] theorem State.setDie_power (s : State) (d : Nat) (v : Die) : (s.setDie d v).power = s.power := rfl
@[simp] theorem State.setDie_boot (s : State) (d : Nat) (v : Die) : (s.setDie d v).boot = s.boot := rfl
@[simp] theorem State.setDie_boots (s : State) (d : Nat) (v : Die) : (s.setDie d v).boots = s.boots := rfl
@[simp] theorem State.setDie_issueClock (s : State) (d : Nat) (v : Die) : (s.setDie d v).issueClock = s.issueClock := rfl
@[simp] theorem State.setDie_powerCap (s : State) (d : Nat) (v : Die) : (s.setDie d v).powerCap = s.powerCap := rfl
@[simp] theorem State.setDie_throttled (s : State) (d : Nat) (v : Die) : (s.setDie d v).throttled = s.throttled := rfl
@[simp] theorem State.setDie_cyc (s : State) (d : Nat) (v : Die) : (s.setDie d v).cyc = s.cyc := rfl
@[simp] theorem State.setDie_time (s : State) (d : Nat) (v : Die) : (s.setDie d v).time = s.time := rfl
@[simp] theorem State.setDie_floor (s : State) (d : Nat) (v : Die) : (s.setDie d v).floor = s.floor := rfl
@[simp] theorem State.setDie_hubLt (s : State) (d : Nat) (v : Die) : (s.setDie d v).hubLt = s.hubLt := rfl
@[simp] theorem State.setDie_hubTicked (s : State) (d : Nat) (v : Die) : (s.setDie d v).hubTicked = s.hubTicked := rfl
@[simp] theorem State.setDie_idleLt (s : State) (d : Nat) (v : Die) : (s.setDie d v).idleLt = s.idleLt := rfl
@[simp] theorem State.setDie_idleTicked (s : State) (d : Nat) (v : Die) : (s.setDie d v).idleTicked = s.idleTicked := rfl
@[simp] theorem State.setDie_resCopies (s : State) (d : Nat) (v : Die) : (s.setDie d v).resCopies = s.resCopies := rfl
@[simp] theorem State.setDie_measurements (s : State) (d : Nat) (v : Die) : (s.setDie d v).measurements = s.measurements := rfl
@[simp] theorem State.setDie_cdi1 (s : State) (d : Nat) (v : Die) : (s.setDie d v).cdi1 = s.cdi1 := rfl
@[simp] theorem State.setDie_cdi2 (s : State) (d : Nat) (v : Die) : (s.setDie d v).cdi2 = s.cdi2 := rfl
@[simp] theorem State.setDie_imageAsked (s : State) (d : Nat) (v : Die) : (s.setDie d v).imageAsked = s.imageAsked := rfl
@[simp] theorem State.setDie_udsReachable (s : State) (d : Nat) (v : Die) : (s.setDie d v).udsReachable = s.udsReachable := rfl
@[simp] theorem State.setDie_flash (s : State) (d : Nat) (v : Die) : (s.setDie d v).flash = s.flash := rfl
@[simp] theorem State.setDie_torn (s : State) (d : Nat) (v : Die) : (s.setDie d v).torn = s.torn := rfl
@[simp] theorem State.setDie_flashing (s : State) (d : Nat) (v : Die) : (s.setDie d v).flashing = s.flashing := rfl
@[simp] theorem State.setDie_recovery (s : State) (d : Nat) (v : Die) : (s.setDie d v).recovery = s.recovery := rfl
@[simp] theorem State.setDie_keySlots (s : State) (d : Nat) (v : Die) : (s.setDie d v).keySlots = s.keySlots := rfl
@[simp] theorem State.setDie_rasLog (s : State) (d : Nat) (v : Die) : (s.setDie d v).rasLog = s.rasLog := rfl
@[simp] theorem State.setDie_linkRetries (s : State) (d : Nat) (v : Die) : (s.setDie d v).linkRetries = s.linkRetries := rfl
@[simp] theorem State.setDie_floatOnset (s : State) (d : Nat) (v : Die) : (s.setDie d v).floatOnset = s.floatOnset := rfl
@[simp] theorem State.setDie_mem (s : State) (d : Nat) (v : Die) : (s.setDie d v).mem = s.mem := rfl
@[simp] theorem State.setDie_sectorKeys (s : State) (d : Nat) (v : Die) : (s.setDie d v).sectorKeys = s.sectorKeys := rfl
@[simp] theorem State.setDie_poisoned (s : State) (d : Nat) (v : Die) : (s.setDie d v).poisoned = s.poisoned := rfl
@[simp] theorem State.setDie_keyMap (s : State) (d : Nat) (v : Die) : (s.setDie d v).keyMap = s.keyMap := rfl
@[simp] theorem State.setDie_lineTs (s : State) (d : Nat) (v : Die) : (s.setDie d v).lineTs = s.lineTs := rfl
@[simp] theorem State.setDie_dieTab (s : State) (d : Nat) (v : Die) : (s.setDie d v).dieTab = tput s.dieTab d v := rfl
@[simp] theorem State.setDie_leases (s : State) (d : Nat) (v : Die) : (s.setDie d v).leases = s.leases := rfl
@[simp] theorem State.setDie_contexts (s : State) (d : Nat) (v : Die) : (s.setDie d v).contexts = s.contexts := rfl
@[simp] theorem State.setDie_saveTable (s : State) (d : Nat) (v : Die) : (s.setDie d v).saveTable = s.saveTable := rfl
@[simp] theorem State.setDie_regions (s : State) (d : Nat) (v : Die) : (s.setDie d v).regions = s.regions := rfl
@[simp] theorem State.setDie_coreTab (s : State) (d : Nat) (v : Die) : (s.setDie d v).coreTab = s.coreTab := rfl
@[simp] theorem State.setDie_wgs (s : State) (d : Nat) (v : Die) : (s.setDie d v).wgs = s.wgs := rfl
@[simp] theorem State.setDie_groups (s : State) (d : Nat) (v : Die) : (s.setDie d v).groups = s.groups := rfl
@[simp] theorem State.setDie_deadlocks (s : State) (d : Nat) (v : Die) : (s.setDie d v).deadlocks = s.deadlocks := rfl
@[simp] theorem State.setDie_acks (s : State) (d : Nat) (v : Die) : (s.setDie d v).acks = s.acks := rfl
@[simp] theorem State.setDie_commands (s : State) (d : Nat) (v : Die) : (s.setDie d v).commands = s.commands := rfl
@[simp] theorem State.setDie_remotes (s : State) (d : Nat) (v : Die) : (s.setDie d v).remotes = s.remotes := rfl
@[simp] theorem State.setDie_threads (s : State) (d : Nat) (v : Die) : (s.setDie d v).threads = s.threads := rfl
@[simp] theorem State.setDie_rtWrites (s : State) (d : Nat) (v : Die) : (s.setDie d v).rtWrites = s.rtWrites := rfl
@[simp] theorem State.setDie_rtTiles (s : State) (d : Nat) (v : Die) : (s.setDie d v).rtTiles = s.rtTiles := rfl
@[simp] theorem State.setDie_queues (s : State) (d : Nat) (v : Die) : (s.setDie d v).queues = s.queues := rfl
@[simp] theorem State.setDie_notifies (s : State) (d : Nat) (v : Die) : (s.setDie d v).notifies = s.notifies := rfl
@[simp] theorem State.setDie_nodes (s : State) (d : Nat) (v : Die) : (s.setDie d v).nodes = s.nodes := rfl
@[simp] theorem State.setDie_bound (s : State) (d : Nat) (v : Die) : (s.setDie d v).bound = s.bound := rfl
@[simp] theorem State.setDie_saved (s : State) (d : Nat) (v : Die) : (s.setDie d v).saved = s.saved := rfl
@[simp] theorem State.setDie_orphans (s : State) (d : Nat) (v : Die) : (s.setDie d v).orphans = s.orphans := rfl
@[simp] theorem State.setDie_requests (s : State) (d : Nat) (v : Die) : (s.setDie d v).requests = s.requests := rfl
@[simp] theorem State.setDie_releases (s : State) (d : Nat) (v : Die) : (s.setDie d v).releases = s.releases := rfl
@[simp] theorem State.setDie_domains (s : State) (d : Nat) (v : Die) : (s.setDie d v).domains = s.domains := rfl
@[simp] theorem State.setDie_sluices (s : State) (d : Nat) (v : Die) : (s.setDie d v).sluices = s.sluices := rfl
@[simp] theorem State.setDie_windows (s : State) (d : Nat) (v : Die) : (s.setDie d v).windows = s.windows := rfl
@[simp] theorem State.setDie_imports (s : State) (d : Nat) (v : Die) : (s.setDie d v).imports = s.imports := rfl
@[simp] theorem State.setDie_windowLog (s : State) (d : Nat) (v : Die) : (s.setDie d v).windowLog = s.windowLog := rfl
@[simp] theorem State.setDie_windowErrors (s : State) (d : Nat) (v : Die) : (s.setDie d v).windowErrors = s.windowErrors := rfl
@[simp] theorem State.setDie_triggers (s : State) (d : Nat) (v : Die) : (s.setDie d v).triggers = s.triggers := rfl
@[simp] theorem State.setDie_arrivals (s : State) (d : Nat) (v : Die) : (s.setDie d v).arrivals = s.arrivals := rfl
@[simp] theorem State.setDie_session (s : State) (d : Nat) (v : Die) : (s.setDie d v).session = s.session := rfl
@[simp] theorem State.setDie_peerSessions (s : State) (d : Nat) (v : Die) : (s.setDie d v).peerSessions = s.peerSessions := rfl
@[simp] theorem State.setDie_drops (s : State) (d : Nat) (v : Die) : (s.setDie d v).drops = s.drops := rfl
@[simp] theorem State.setDie_strangers (s : State) (d : Nat) (v : Die) : (s.setDie d v).strangers = s.strangers := rfl
@[simp] theorem State.setDie_hostPort (s : State) (d : Nat) (v : Die) : (s.setDie d v).hostPort = s.hostPort := rfl
@[simp] theorem State.setDie_aperture (s : State) (d : Nat) (v : Die) : (s.setDie d v).aperture = s.aperture := rfl
@[simp] theorem State.setDie_frames (s : State) (d : Nat) (v : Die) : (s.setDie d v).frames = s.frames := rfl
@[simp] theorem State.setDie_arrivedBytes (s : State) (d : Nat) (v : Die) : (s.setDie d v).arrivedBytes = s.arrivedBytes := rfl
@[simp] theorem State.setDie_asked (s : State) (d : Nat) (v : Die) : (s.setDie d v).asked = s.asked := rfl
@[simp] theorem State.setDie_serving (s : State) (d : Nat) (v : Die) : (s.setDie d v).serving = s.serving := rfl
@[simp] theorem State.setDie_spdm (s : State) (d : Nat) (v : Die) : (s.setDie d v).spdm = s.spdm := rfl
@[simp] theorem State.setDie_rpcRing (s : State) (d : Nat) (v : Die) : (s.setDie d v).rpcRing = s.rpcRing := rfl
@[simp] theorem State.setDie_forwarded (s : State) (d : Nat) (v : Die) : (s.setDie d v).forwarded = s.forwarded := rfl
@[simp] theorem State.setDie_out (s : State) (d : Nat) (v : Die) : (s.setDie d v).out = s.out := rfl
@[simp] theorem State.setDie_mailbox (s : State) (d : Nat) (v : Die) : (s.setDie d v).mailbox = s.mailbox := rfl
@[simp] theorem State.setDie_curHart (s : State) (d : Nat) (v : Die) : (s.setDie d v).curHart = s.curHart := rfl
@[simp] theorem State.setDie_invalidated (s : State) (d : Nat) (v : Die) : (s.setDie d v).invalidated = s.invalidated := rfl
@[simp] theorem State.setDie_portLoads (s : State) (d : Nat) (v : Die) : (s.setDie d v).portLoads = s.portLoads := rfl
@[simp] theorem State.setDie_residentLoads (s : State) (d : Nat) (v : Die) : (s.setDie d v).residentLoads = s.residentLoads := rfl
@[simp] theorem State.setDie_cdi2Handed (s : State) (d : Nat) (v : Die) : (s.setDie d v).cdi2Handed = s.cdi2Handed := rfl
@[simp] theorem State.setDie_commandCores (s : State) (d : Nat) (v : Die) : (s.setDie d v).commandCores = s.commandCores := rfl
@[simp] theorem State.setDie_rank (s : State) (d : Nat) (v : Die) : (s.setDie d v).rank = s.rank := rfl
@[simp] theorem State.setDie_cur (s : State) (d : Nat) (v : Die) : (s.setDie d v).cur = s.cur := rfl
@[simp] theorem State.setDie_curCmd (s : State) (d : Nat) (v : Die) : (s.setDie d v).curCmd = s.curCmd := rfl
@[simp] theorem State.setDie_residueFails (s : State) (d : Nat) (v : Die) : (s.setDie d v).residueFails = s.residueFails := rfl
@[simp] theorem State.setDie_upsets (s : State) (d : Nat) (v : Die) : (s.setDie d v).upsets = s.upsets := rfl
@[simp] theorem State.setDie_schedule (s : State) (d : Nat) (v : Die) : (s.setDie d v).schedule = s.schedule := rfl
@[simp] theorem State.setDie_fresh (s : State) (d : Nat) (v : Die) : (s.setDie d v).fresh = s.fresh := rfl
@[simp] theorem State.setDie_serial (s : State) (d : Nat) (v : Die) : (s.setDie d v).serial = s.serial := rfl

/-! ### setSluice -/

@[simp] theorem State.setSluice_power (s : State) (d : Nat) (v : Sluice) : (s.setSluice d v).power = s.power := rfl
@[simp] theorem State.setSluice_boot (s : State) (d : Nat) (v : Sluice) : (s.setSluice d v).boot = s.boot := rfl
@[simp] theorem State.setSluice_boots (s : State) (d : Nat) (v : Sluice) : (s.setSluice d v).boots = s.boots := rfl
@[simp] theorem State.setSluice_issueClock (s : State) (d : Nat) (v : Sluice) : (s.setSluice d v).issueClock = s.issueClock := rfl
@[simp] theorem State.setSluice_powerCap (s : State) (d : Nat) (v : Sluice) : (s.setSluice d v).powerCap = s.powerCap := rfl
@[simp] theorem State.setSluice_throttled (s : State) (d : Nat) (v : Sluice) : (s.setSluice d v).throttled = s.throttled := rfl
@[simp] theorem State.setSluice_cyc (s : State) (d : Nat) (v : Sluice) : (s.setSluice d v).cyc = s.cyc := rfl
@[simp] theorem State.setSluice_time (s : State) (d : Nat) (v : Sluice) : (s.setSluice d v).time = s.time := rfl
@[simp] theorem State.setSluice_floor (s : State) (d : Nat) (v : Sluice) : (s.setSluice d v).floor = s.floor := rfl
@[simp] theorem State.setSluice_hubLt (s : State) (d : Nat) (v : Sluice) : (s.setSluice d v).hubLt = s.hubLt := rfl
@[simp] theorem State.setSluice_hubTicked (s : State) (d : Nat) (v : Sluice) : (s.setSluice d v).hubTicked = s.hubTicked := rfl
@[simp] theorem State.setSluice_idleLt (s : State) (d : Nat) (v : Sluice) : (s.setSluice d v).idleLt = s.idleLt := rfl
@[simp] theorem State.setSluice_idleTicked (s : State) (d : Nat) (v : Sluice) : (s.setSluice d v).idleTicked = s.idleTicked := rfl
@[simp] theorem State.setSluice_resCopies (s : State) (d : Nat) (v : Sluice) : (s.setSluice d v).resCopies = s.resCopies := rfl
@[simp] theorem State.setSluice_measurements (s : State) (d : Nat) (v : Sluice) : (s.setSluice d v).measurements = s.measurements := rfl
@[simp] theorem State.setSluice_cdi1 (s : State) (d : Nat) (v : Sluice) : (s.setSluice d v).cdi1 = s.cdi1 := rfl
@[simp] theorem State.setSluice_cdi2 (s : State) (d : Nat) (v : Sluice) : (s.setSluice d v).cdi2 = s.cdi2 := rfl
@[simp] theorem State.setSluice_imageAsked (s : State) (d : Nat) (v : Sluice) : (s.setSluice d v).imageAsked = s.imageAsked := rfl
@[simp] theorem State.setSluice_udsReachable (s : State) (d : Nat) (v : Sluice) : (s.setSluice d v).udsReachable = s.udsReachable := rfl
@[simp] theorem State.setSluice_flash (s : State) (d : Nat) (v : Sluice) : (s.setSluice d v).flash = s.flash := rfl
@[simp] theorem State.setSluice_torn (s : State) (d : Nat) (v : Sluice) : (s.setSluice d v).torn = s.torn := rfl
@[simp] theorem State.setSluice_flashing (s : State) (d : Nat) (v : Sluice) : (s.setSluice d v).flashing = s.flashing := rfl
@[simp] theorem State.setSluice_recovery (s : State) (d : Nat) (v : Sluice) : (s.setSluice d v).recovery = s.recovery := rfl
@[simp] theorem State.setSluice_keySlots (s : State) (d : Nat) (v : Sluice) : (s.setSluice d v).keySlots = s.keySlots := rfl
@[simp] theorem State.setSluice_rasLog (s : State) (d : Nat) (v : Sluice) : (s.setSluice d v).rasLog = s.rasLog := rfl
@[simp] theorem State.setSluice_linkRetries (s : State) (d : Nat) (v : Sluice) : (s.setSluice d v).linkRetries = s.linkRetries := rfl
@[simp] theorem State.setSluice_floatOnset (s : State) (d : Nat) (v : Sluice) : (s.setSluice d v).floatOnset = s.floatOnset := rfl
@[simp] theorem State.setSluice_mem (s : State) (d : Nat) (v : Sluice) : (s.setSluice d v).mem = s.mem := rfl
@[simp] theorem State.setSluice_sectorKeys (s : State) (d : Nat) (v : Sluice) : (s.setSluice d v).sectorKeys = s.sectorKeys := rfl
@[simp] theorem State.setSluice_poisoned (s : State) (d : Nat) (v : Sluice) : (s.setSluice d v).poisoned = s.poisoned := rfl
@[simp] theorem State.setSluice_keyMap (s : State) (d : Nat) (v : Sluice) : (s.setSluice d v).keyMap = s.keyMap := rfl
@[simp] theorem State.setSluice_lineTs (s : State) (d : Nat) (v : Sluice) : (s.setSluice d v).lineTs = s.lineTs := rfl
@[simp] theorem State.setSluice_dieTab (s : State) (d : Nat) (v : Sluice) : (s.setSluice d v).dieTab = s.dieTab := rfl
@[simp] theorem State.setSluice_leases (s : State) (d : Nat) (v : Sluice) : (s.setSluice d v).leases = s.leases := rfl
@[simp] theorem State.setSluice_contexts (s : State) (d : Nat) (v : Sluice) : (s.setSluice d v).contexts = s.contexts := rfl
@[simp] theorem State.setSluice_saveTable (s : State) (d : Nat) (v : Sluice) : (s.setSluice d v).saveTable = s.saveTable := rfl
@[simp] theorem State.setSluice_regions (s : State) (d : Nat) (v : Sluice) : (s.setSluice d v).regions = s.regions := rfl
@[simp] theorem State.setSluice_coreTab (s : State) (d : Nat) (v : Sluice) : (s.setSluice d v).coreTab = s.coreTab := rfl
@[simp] theorem State.setSluice_wgs (s : State) (d : Nat) (v : Sluice) : (s.setSluice d v).wgs = s.wgs := rfl
@[simp] theorem State.setSluice_groups (s : State) (d : Nat) (v : Sluice) : (s.setSluice d v).groups = s.groups := rfl
@[simp] theorem State.setSluice_deadlocks (s : State) (d : Nat) (v : Sluice) : (s.setSluice d v).deadlocks = s.deadlocks := rfl
@[simp] theorem State.setSluice_acks (s : State) (d : Nat) (v : Sluice) : (s.setSluice d v).acks = s.acks := rfl
@[simp] theorem State.setSluice_commands (s : State) (d : Nat) (v : Sluice) : (s.setSluice d v).commands = s.commands := rfl
@[simp] theorem State.setSluice_remotes (s : State) (d : Nat) (v : Sluice) : (s.setSluice d v).remotes = s.remotes := rfl
@[simp] theorem State.setSluice_threads (s : State) (d : Nat) (v : Sluice) : (s.setSluice d v).threads = s.threads := rfl
@[simp] theorem State.setSluice_rtWrites (s : State) (d : Nat) (v : Sluice) : (s.setSluice d v).rtWrites = s.rtWrites := rfl
@[simp] theorem State.setSluice_rtTiles (s : State) (d : Nat) (v : Sluice) : (s.setSluice d v).rtTiles = s.rtTiles := rfl
@[simp] theorem State.setSluice_queues (s : State) (d : Nat) (v : Sluice) : (s.setSluice d v).queues = s.queues := rfl
@[simp] theorem State.setSluice_notifies (s : State) (d : Nat) (v : Sluice) : (s.setSluice d v).notifies = s.notifies := rfl
@[simp] theorem State.setSluice_nodes (s : State) (d : Nat) (v : Sluice) : (s.setSluice d v).nodes = s.nodes := rfl
@[simp] theorem State.setSluice_bound (s : State) (d : Nat) (v : Sluice) : (s.setSluice d v).bound = s.bound := rfl
@[simp] theorem State.setSluice_saved (s : State) (d : Nat) (v : Sluice) : (s.setSluice d v).saved = s.saved := rfl
@[simp] theorem State.setSluice_orphans (s : State) (d : Nat) (v : Sluice) : (s.setSluice d v).orphans = s.orphans := rfl
@[simp] theorem State.setSluice_requests (s : State) (d : Nat) (v : Sluice) : (s.setSluice d v).requests = s.requests := rfl
@[simp] theorem State.setSluice_releases (s : State) (d : Nat) (v : Sluice) : (s.setSluice d v).releases = s.releases := rfl
@[simp] theorem State.setSluice_domains (s : State) (d : Nat) (v : Sluice) : (s.setSluice d v).domains = s.domains := rfl
@[simp] theorem State.setSluice_sluices (s : State) (d : Nat) (v : Sluice) : (s.setSluice d v).sluices = tput s.sluices d v := rfl
@[simp] theorem State.setSluice_windows (s : State) (d : Nat) (v : Sluice) : (s.setSluice d v).windows = s.windows := rfl
@[simp] theorem State.setSluice_imports (s : State) (d : Nat) (v : Sluice) : (s.setSluice d v).imports = s.imports := rfl
@[simp] theorem State.setSluice_windowLog (s : State) (d : Nat) (v : Sluice) : (s.setSluice d v).windowLog = s.windowLog := rfl
@[simp] theorem State.setSluice_windowErrors (s : State) (d : Nat) (v : Sluice) : (s.setSluice d v).windowErrors = s.windowErrors := rfl
@[simp] theorem State.setSluice_triggers (s : State) (d : Nat) (v : Sluice) : (s.setSluice d v).triggers = s.triggers := rfl
@[simp] theorem State.setSluice_arrivals (s : State) (d : Nat) (v : Sluice) : (s.setSluice d v).arrivals = s.arrivals := rfl
@[simp] theorem State.setSluice_session (s : State) (d : Nat) (v : Sluice) : (s.setSluice d v).session = s.session := rfl
@[simp] theorem State.setSluice_peerSessions (s : State) (d : Nat) (v : Sluice) : (s.setSluice d v).peerSessions = s.peerSessions := rfl
@[simp] theorem State.setSluice_drops (s : State) (d : Nat) (v : Sluice) : (s.setSluice d v).drops = s.drops := rfl
@[simp] theorem State.setSluice_strangers (s : State) (d : Nat) (v : Sluice) : (s.setSluice d v).strangers = s.strangers := rfl
@[simp] theorem State.setSluice_hostPort (s : State) (d : Nat) (v : Sluice) : (s.setSluice d v).hostPort = s.hostPort := rfl
@[simp] theorem State.setSluice_aperture (s : State) (d : Nat) (v : Sluice) : (s.setSluice d v).aperture = s.aperture := rfl
@[simp] theorem State.setSluice_frames (s : State) (d : Nat) (v : Sluice) : (s.setSluice d v).frames = s.frames := rfl
@[simp] theorem State.setSluice_arrivedBytes (s : State) (d : Nat) (v : Sluice) : (s.setSluice d v).arrivedBytes = s.arrivedBytes := rfl
@[simp] theorem State.setSluice_asked (s : State) (d : Nat) (v : Sluice) : (s.setSluice d v).asked = s.asked := rfl
@[simp] theorem State.setSluice_serving (s : State) (d : Nat) (v : Sluice) : (s.setSluice d v).serving = s.serving := rfl
@[simp] theorem State.setSluice_spdm (s : State) (d : Nat) (v : Sluice) : (s.setSluice d v).spdm = s.spdm := rfl
@[simp] theorem State.setSluice_rpcRing (s : State) (d : Nat) (v : Sluice) : (s.setSluice d v).rpcRing = s.rpcRing := rfl
@[simp] theorem State.setSluice_forwarded (s : State) (d : Nat) (v : Sluice) : (s.setSluice d v).forwarded = s.forwarded := rfl
@[simp] theorem State.setSluice_out (s : State) (d : Nat) (v : Sluice) : (s.setSluice d v).out = s.out := rfl
@[simp] theorem State.setSluice_mailbox (s : State) (d : Nat) (v : Sluice) : (s.setSluice d v).mailbox = s.mailbox := rfl
@[simp] theorem State.setSluice_curHart (s : State) (d : Nat) (v : Sluice) : (s.setSluice d v).curHart = s.curHart := rfl
@[simp] theorem State.setSluice_invalidated (s : State) (d : Nat) (v : Sluice) : (s.setSluice d v).invalidated = s.invalidated := rfl
@[simp] theorem State.setSluice_portLoads (s : State) (d : Nat) (v : Sluice) : (s.setSluice d v).portLoads = s.portLoads := rfl
@[simp] theorem State.setSluice_residentLoads (s : State) (d : Nat) (v : Sluice) : (s.setSluice d v).residentLoads = s.residentLoads := rfl
@[simp] theorem State.setSluice_cdi2Handed (s : State) (d : Nat) (v : Sluice) : (s.setSluice d v).cdi2Handed = s.cdi2Handed := rfl
@[simp] theorem State.setSluice_commandCores (s : State) (d : Nat) (v : Sluice) : (s.setSluice d v).commandCores = s.commandCores := rfl
@[simp] theorem State.setSluice_rank (s : State) (d : Nat) (v : Sluice) : (s.setSluice d v).rank = s.rank := rfl
@[simp] theorem State.setSluice_cur (s : State) (d : Nat) (v : Sluice) : (s.setSluice d v).cur = s.cur := rfl
@[simp] theorem State.setSluice_curCmd (s : State) (d : Nat) (v : Sluice) : (s.setSluice d v).curCmd = s.curCmd := rfl
@[simp] theorem State.setSluice_residueFails (s : State) (d : Nat) (v : Sluice) : (s.setSluice d v).residueFails = s.residueFails := rfl
@[simp] theorem State.setSluice_upsets (s : State) (d : Nat) (v : Sluice) : (s.setSluice d v).upsets = s.upsets := rfl
@[simp] theorem State.setSluice_schedule (s : State) (d : Nat) (v : Sluice) : (s.setSluice d v).schedule = s.schedule := rfl
@[simp] theorem State.setSluice_fresh (s : State) (d : Nat) (v : Sluice) : (s.setSluice d v).fresh = s.fresh := rfl
@[simp] theorem State.setSluice_serial (s : State) (d : Nat) (v : Sluice) : (s.setSluice d v).serial = s.serial := rfl

/-! ### setContext -/

@[simp] theorem State.setContext_power (s : State) (c : Nat) (v : Context) : (s.setContext c v).power = s.power := rfl
@[simp] theorem State.setContext_boot (s : State) (c : Nat) (v : Context) : (s.setContext c v).boot = s.boot := rfl
@[simp] theorem State.setContext_boots (s : State) (c : Nat) (v : Context) : (s.setContext c v).boots = s.boots := rfl
@[simp] theorem State.setContext_issueClock (s : State) (c : Nat) (v : Context) : (s.setContext c v).issueClock = s.issueClock := rfl
@[simp] theorem State.setContext_powerCap (s : State) (c : Nat) (v : Context) : (s.setContext c v).powerCap = s.powerCap := rfl
@[simp] theorem State.setContext_throttled (s : State) (c : Nat) (v : Context) : (s.setContext c v).throttled = s.throttled := rfl
@[simp] theorem State.setContext_cyc (s : State) (c : Nat) (v : Context) : (s.setContext c v).cyc = s.cyc := rfl
@[simp] theorem State.setContext_time (s : State) (c : Nat) (v : Context) : (s.setContext c v).time = s.time := rfl
@[simp] theorem State.setContext_floor (s : State) (c : Nat) (v : Context) : (s.setContext c v).floor = s.floor := rfl
@[simp] theorem State.setContext_hubLt (s : State) (c : Nat) (v : Context) : (s.setContext c v).hubLt = s.hubLt := rfl
@[simp] theorem State.setContext_hubTicked (s : State) (c : Nat) (v : Context) : (s.setContext c v).hubTicked = s.hubTicked := rfl
@[simp] theorem State.setContext_idleLt (s : State) (c : Nat) (v : Context) : (s.setContext c v).idleLt = s.idleLt := rfl
@[simp] theorem State.setContext_idleTicked (s : State) (c : Nat) (v : Context) : (s.setContext c v).idleTicked = s.idleTicked := rfl
@[simp] theorem State.setContext_resCopies (s : State) (c : Nat) (v : Context) : (s.setContext c v).resCopies = s.resCopies := rfl
@[simp] theorem State.setContext_measurements (s : State) (c : Nat) (v : Context) : (s.setContext c v).measurements = s.measurements := rfl
@[simp] theorem State.setContext_cdi1 (s : State) (c : Nat) (v : Context) : (s.setContext c v).cdi1 = s.cdi1 := rfl
@[simp] theorem State.setContext_cdi2 (s : State) (c : Nat) (v : Context) : (s.setContext c v).cdi2 = s.cdi2 := rfl
@[simp] theorem State.setContext_imageAsked (s : State) (c : Nat) (v : Context) : (s.setContext c v).imageAsked = s.imageAsked := rfl
@[simp] theorem State.setContext_udsReachable (s : State) (c : Nat) (v : Context) : (s.setContext c v).udsReachable = s.udsReachable := rfl
@[simp] theorem State.setContext_flash (s : State) (c : Nat) (v : Context) : (s.setContext c v).flash = s.flash := rfl
@[simp] theorem State.setContext_torn (s : State) (c : Nat) (v : Context) : (s.setContext c v).torn = s.torn := rfl
@[simp] theorem State.setContext_flashing (s : State) (c : Nat) (v : Context) : (s.setContext c v).flashing = s.flashing := rfl
@[simp] theorem State.setContext_recovery (s : State) (c : Nat) (v : Context) : (s.setContext c v).recovery = s.recovery := rfl
@[simp] theorem State.setContext_keySlots (s : State) (c : Nat) (v : Context) : (s.setContext c v).keySlots = s.keySlots := rfl
@[simp] theorem State.setContext_rasLog (s : State) (c : Nat) (v : Context) : (s.setContext c v).rasLog = s.rasLog := rfl
@[simp] theorem State.setContext_linkRetries (s : State) (c : Nat) (v : Context) : (s.setContext c v).linkRetries = s.linkRetries := rfl
@[simp] theorem State.setContext_floatOnset (s : State) (c : Nat) (v : Context) : (s.setContext c v).floatOnset = s.floatOnset := rfl
@[simp] theorem State.setContext_mem (s : State) (c : Nat) (v : Context) : (s.setContext c v).mem = s.mem := rfl
@[simp] theorem State.setContext_sectorKeys (s : State) (c : Nat) (v : Context) : (s.setContext c v).sectorKeys = s.sectorKeys := rfl
@[simp] theorem State.setContext_poisoned (s : State) (c : Nat) (v : Context) : (s.setContext c v).poisoned = s.poisoned := rfl
@[simp] theorem State.setContext_keyMap (s : State) (c : Nat) (v : Context) : (s.setContext c v).keyMap = s.keyMap := rfl
@[simp] theorem State.setContext_lineTs (s : State) (c : Nat) (v : Context) : (s.setContext c v).lineTs = s.lineTs := rfl
@[simp] theorem State.setContext_dieTab (s : State) (c : Nat) (v : Context) : (s.setContext c v).dieTab = s.dieTab := rfl
@[simp] theorem State.setContext_leases (s : State) (c : Nat) (v : Context) : (s.setContext c v).leases = s.leases := rfl
@[simp] theorem State.setContext_contexts (s : State) (c : Nat) (v : Context) : (s.setContext c v).contexts = tput s.contexts c v := rfl
@[simp] theorem State.setContext_saveTable (s : State) (c : Nat) (v : Context) : (s.setContext c v).saveTable = s.saveTable := rfl
@[simp] theorem State.setContext_regions (s : State) (c : Nat) (v : Context) : (s.setContext c v).regions = s.regions := rfl
@[simp] theorem State.setContext_coreTab (s : State) (c : Nat) (v : Context) : (s.setContext c v).coreTab = s.coreTab := rfl
@[simp] theorem State.setContext_wgs (s : State) (c : Nat) (v : Context) : (s.setContext c v).wgs = s.wgs := rfl
@[simp] theorem State.setContext_groups (s : State) (c : Nat) (v : Context) : (s.setContext c v).groups = s.groups := rfl
@[simp] theorem State.setContext_deadlocks (s : State) (c : Nat) (v : Context) : (s.setContext c v).deadlocks = s.deadlocks := rfl
@[simp] theorem State.setContext_acks (s : State) (c : Nat) (v : Context) : (s.setContext c v).acks = s.acks := rfl
@[simp] theorem State.setContext_commands (s : State) (c : Nat) (v : Context) : (s.setContext c v).commands = s.commands := rfl
@[simp] theorem State.setContext_remotes (s : State) (c : Nat) (v : Context) : (s.setContext c v).remotes = s.remotes := rfl
@[simp] theorem State.setContext_threads (s : State) (c : Nat) (v : Context) : (s.setContext c v).threads = s.threads := rfl
@[simp] theorem State.setContext_rtWrites (s : State) (c : Nat) (v : Context) : (s.setContext c v).rtWrites = s.rtWrites := rfl
@[simp] theorem State.setContext_rtTiles (s : State) (c : Nat) (v : Context) : (s.setContext c v).rtTiles = s.rtTiles := rfl
@[simp] theorem State.setContext_queues (s : State) (c : Nat) (v : Context) : (s.setContext c v).queues = s.queues := rfl
@[simp] theorem State.setContext_notifies (s : State) (c : Nat) (v : Context) : (s.setContext c v).notifies = s.notifies := rfl
@[simp] theorem State.setContext_nodes (s : State) (c : Nat) (v : Context) : (s.setContext c v).nodes = s.nodes := rfl
@[simp] theorem State.setContext_bound (s : State) (c : Nat) (v : Context) : (s.setContext c v).bound = s.bound := rfl
@[simp] theorem State.setContext_saved (s : State) (c : Nat) (v : Context) : (s.setContext c v).saved = s.saved := rfl
@[simp] theorem State.setContext_orphans (s : State) (c : Nat) (v : Context) : (s.setContext c v).orphans = s.orphans := rfl
@[simp] theorem State.setContext_requests (s : State) (c : Nat) (v : Context) : (s.setContext c v).requests = s.requests := rfl
@[simp] theorem State.setContext_releases (s : State) (c : Nat) (v : Context) : (s.setContext c v).releases = s.releases := rfl
@[simp] theorem State.setContext_domains (s : State) (c : Nat) (v : Context) : (s.setContext c v).domains = s.domains := rfl
@[simp] theorem State.setContext_sluices (s : State) (c : Nat) (v : Context) : (s.setContext c v).sluices = s.sluices := rfl
@[simp] theorem State.setContext_windows (s : State) (c : Nat) (v : Context) : (s.setContext c v).windows = s.windows := rfl
@[simp] theorem State.setContext_imports (s : State) (c : Nat) (v : Context) : (s.setContext c v).imports = s.imports := rfl
@[simp] theorem State.setContext_windowLog (s : State) (c : Nat) (v : Context) : (s.setContext c v).windowLog = s.windowLog := rfl
@[simp] theorem State.setContext_windowErrors (s : State) (c : Nat) (v : Context) : (s.setContext c v).windowErrors = s.windowErrors := rfl
@[simp] theorem State.setContext_triggers (s : State) (c : Nat) (v : Context) : (s.setContext c v).triggers = s.triggers := rfl
@[simp] theorem State.setContext_arrivals (s : State) (c : Nat) (v : Context) : (s.setContext c v).arrivals = s.arrivals := rfl
@[simp] theorem State.setContext_session (s : State) (c : Nat) (v : Context) : (s.setContext c v).session = s.session := rfl
@[simp] theorem State.setContext_peerSessions (s : State) (c : Nat) (v : Context) : (s.setContext c v).peerSessions = s.peerSessions := rfl
@[simp] theorem State.setContext_drops (s : State) (c : Nat) (v : Context) : (s.setContext c v).drops = s.drops := rfl
@[simp] theorem State.setContext_strangers (s : State) (c : Nat) (v : Context) : (s.setContext c v).strangers = s.strangers := rfl
@[simp] theorem State.setContext_hostPort (s : State) (c : Nat) (v : Context) : (s.setContext c v).hostPort = s.hostPort := rfl
@[simp] theorem State.setContext_aperture (s : State) (c : Nat) (v : Context) : (s.setContext c v).aperture = s.aperture := rfl
@[simp] theorem State.setContext_frames (s : State) (c : Nat) (v : Context) : (s.setContext c v).frames = s.frames := rfl
@[simp] theorem State.setContext_arrivedBytes (s : State) (c : Nat) (v : Context) : (s.setContext c v).arrivedBytes = s.arrivedBytes := rfl
@[simp] theorem State.setContext_asked (s : State) (c : Nat) (v : Context) : (s.setContext c v).asked = s.asked := rfl
@[simp] theorem State.setContext_serving (s : State) (c : Nat) (v : Context) : (s.setContext c v).serving = s.serving := rfl
@[simp] theorem State.setContext_spdm (s : State) (c : Nat) (v : Context) : (s.setContext c v).spdm = s.spdm := rfl
@[simp] theorem State.setContext_rpcRing (s : State) (c : Nat) (v : Context) : (s.setContext c v).rpcRing = s.rpcRing := rfl
@[simp] theorem State.setContext_forwarded (s : State) (c : Nat) (v : Context) : (s.setContext c v).forwarded = s.forwarded := rfl
@[simp] theorem State.setContext_out (s : State) (c : Nat) (v : Context) : (s.setContext c v).out = s.out := rfl
@[simp] theorem State.setContext_mailbox (s : State) (c : Nat) (v : Context) : (s.setContext c v).mailbox = s.mailbox := rfl
@[simp] theorem State.setContext_curHart (s : State) (c : Nat) (v : Context) : (s.setContext c v).curHart = s.curHart := rfl
@[simp] theorem State.setContext_invalidated (s : State) (c : Nat) (v : Context) : (s.setContext c v).invalidated = s.invalidated := rfl
@[simp] theorem State.setContext_portLoads (s : State) (c : Nat) (v : Context) : (s.setContext c v).portLoads = s.portLoads := rfl
@[simp] theorem State.setContext_residentLoads (s : State) (c : Nat) (v : Context) : (s.setContext c v).residentLoads = s.residentLoads := rfl
@[simp] theorem State.setContext_cdi2Handed (s : State) (c : Nat) (v : Context) : (s.setContext c v).cdi2Handed = s.cdi2Handed := rfl
@[simp] theorem State.setContext_commandCores (s : State) (c : Nat) (v : Context) : (s.setContext c v).commandCores = s.commandCores := rfl
@[simp] theorem State.setContext_rank (s : State) (c : Nat) (v : Context) : (s.setContext c v).rank = s.rank := rfl
@[simp] theorem State.setContext_cur (s : State) (c : Nat) (v : Context) : (s.setContext c v).cur = s.cur := rfl
@[simp] theorem State.setContext_curCmd (s : State) (c : Nat) (v : Context) : (s.setContext c v).curCmd = s.curCmd := rfl
@[simp] theorem State.setContext_residueFails (s : State) (c : Nat) (v : Context) : (s.setContext c v).residueFails = s.residueFails := rfl
@[simp] theorem State.setContext_upsets (s : State) (c : Nat) (v : Context) : (s.setContext c v).upsets = s.upsets := rfl
@[simp] theorem State.setContext_schedule (s : State) (c : Nat) (v : Context) : (s.setContext c v).schedule = s.schedule := rfl
@[simp] theorem State.setContext_fresh (s : State) (c : Nat) (v : Context) : (s.setContext c v).fresh = s.fresh := rfl
@[simp] theorem State.setContext_serial (s : State) (c : Nat) (v : Context) : (s.setContext c v).serial = s.serial := rfl

/-! ### setQueue -/

@[simp] theorem State.setQueue_power (s : State) (q : Nat) (v : Queue) : (s.setQueue q v).power = s.power := rfl
@[simp] theorem State.setQueue_boot (s : State) (q : Nat) (v : Queue) : (s.setQueue q v).boot = s.boot := rfl
@[simp] theorem State.setQueue_boots (s : State) (q : Nat) (v : Queue) : (s.setQueue q v).boots = s.boots := rfl
@[simp] theorem State.setQueue_issueClock (s : State) (q : Nat) (v : Queue) : (s.setQueue q v).issueClock = s.issueClock := rfl
@[simp] theorem State.setQueue_powerCap (s : State) (q : Nat) (v : Queue) : (s.setQueue q v).powerCap = s.powerCap := rfl
@[simp] theorem State.setQueue_throttled (s : State) (q : Nat) (v : Queue) : (s.setQueue q v).throttled = s.throttled := rfl
@[simp] theorem State.setQueue_cyc (s : State) (q : Nat) (v : Queue) : (s.setQueue q v).cyc = s.cyc := rfl
@[simp] theorem State.setQueue_time (s : State) (q : Nat) (v : Queue) : (s.setQueue q v).time = s.time := rfl
@[simp] theorem State.setQueue_floor (s : State) (q : Nat) (v : Queue) : (s.setQueue q v).floor = s.floor := rfl
@[simp] theorem State.setQueue_hubLt (s : State) (q : Nat) (v : Queue) : (s.setQueue q v).hubLt = s.hubLt := rfl
@[simp] theorem State.setQueue_hubTicked (s : State) (q : Nat) (v : Queue) : (s.setQueue q v).hubTicked = s.hubTicked := rfl
@[simp] theorem State.setQueue_idleLt (s : State) (q : Nat) (v : Queue) : (s.setQueue q v).idleLt = s.idleLt := rfl
@[simp] theorem State.setQueue_idleTicked (s : State) (q : Nat) (v : Queue) : (s.setQueue q v).idleTicked = s.idleTicked := rfl
@[simp] theorem State.setQueue_resCopies (s : State) (q : Nat) (v : Queue) : (s.setQueue q v).resCopies = s.resCopies := rfl
@[simp] theorem State.setQueue_measurements (s : State) (q : Nat) (v : Queue) : (s.setQueue q v).measurements = s.measurements := rfl
@[simp] theorem State.setQueue_cdi1 (s : State) (q : Nat) (v : Queue) : (s.setQueue q v).cdi1 = s.cdi1 := rfl
@[simp] theorem State.setQueue_cdi2 (s : State) (q : Nat) (v : Queue) : (s.setQueue q v).cdi2 = s.cdi2 := rfl
@[simp] theorem State.setQueue_imageAsked (s : State) (q : Nat) (v : Queue) : (s.setQueue q v).imageAsked = s.imageAsked := rfl
@[simp] theorem State.setQueue_udsReachable (s : State) (q : Nat) (v : Queue) : (s.setQueue q v).udsReachable = s.udsReachable := rfl
@[simp] theorem State.setQueue_flash (s : State) (q : Nat) (v : Queue) : (s.setQueue q v).flash = s.flash := rfl
@[simp] theorem State.setQueue_torn (s : State) (q : Nat) (v : Queue) : (s.setQueue q v).torn = s.torn := rfl
@[simp] theorem State.setQueue_flashing (s : State) (q : Nat) (v : Queue) : (s.setQueue q v).flashing = s.flashing := rfl
@[simp] theorem State.setQueue_recovery (s : State) (q : Nat) (v : Queue) : (s.setQueue q v).recovery = s.recovery := rfl
@[simp] theorem State.setQueue_keySlots (s : State) (q : Nat) (v : Queue) : (s.setQueue q v).keySlots = s.keySlots := rfl
@[simp] theorem State.setQueue_rasLog (s : State) (q : Nat) (v : Queue) : (s.setQueue q v).rasLog = s.rasLog := rfl
@[simp] theorem State.setQueue_linkRetries (s : State) (q : Nat) (v : Queue) : (s.setQueue q v).linkRetries = s.linkRetries := rfl
@[simp] theorem State.setQueue_floatOnset (s : State) (q : Nat) (v : Queue) : (s.setQueue q v).floatOnset = s.floatOnset := rfl
@[simp] theorem State.setQueue_mem (s : State) (q : Nat) (v : Queue) : (s.setQueue q v).mem = s.mem := rfl
@[simp] theorem State.setQueue_sectorKeys (s : State) (q : Nat) (v : Queue) : (s.setQueue q v).sectorKeys = s.sectorKeys := rfl
@[simp] theorem State.setQueue_poisoned (s : State) (q : Nat) (v : Queue) : (s.setQueue q v).poisoned = s.poisoned := rfl
@[simp] theorem State.setQueue_keyMap (s : State) (q : Nat) (v : Queue) : (s.setQueue q v).keyMap = s.keyMap := rfl
@[simp] theorem State.setQueue_lineTs (s : State) (q : Nat) (v : Queue) : (s.setQueue q v).lineTs = s.lineTs := rfl
@[simp] theorem State.setQueue_dieTab (s : State) (q : Nat) (v : Queue) : (s.setQueue q v).dieTab = s.dieTab := rfl
@[simp] theorem State.setQueue_leases (s : State) (q : Nat) (v : Queue) : (s.setQueue q v).leases = s.leases := rfl
@[simp] theorem State.setQueue_contexts (s : State) (q : Nat) (v : Queue) : (s.setQueue q v).contexts = s.contexts := rfl
@[simp] theorem State.setQueue_saveTable (s : State) (q : Nat) (v : Queue) : (s.setQueue q v).saveTable = s.saveTable := rfl
@[simp] theorem State.setQueue_regions (s : State) (q : Nat) (v : Queue) : (s.setQueue q v).regions = s.regions := rfl
@[simp] theorem State.setQueue_coreTab (s : State) (q : Nat) (v : Queue) : (s.setQueue q v).coreTab = s.coreTab := rfl
@[simp] theorem State.setQueue_wgs (s : State) (q : Nat) (v : Queue) : (s.setQueue q v).wgs = s.wgs := rfl
@[simp] theorem State.setQueue_groups (s : State) (q : Nat) (v : Queue) : (s.setQueue q v).groups = s.groups := rfl
@[simp] theorem State.setQueue_deadlocks (s : State) (q : Nat) (v : Queue) : (s.setQueue q v).deadlocks = s.deadlocks := rfl
@[simp] theorem State.setQueue_acks (s : State) (q : Nat) (v : Queue) : (s.setQueue q v).acks = s.acks := rfl
@[simp] theorem State.setQueue_commands (s : State) (q : Nat) (v : Queue) : (s.setQueue q v).commands = s.commands := rfl
@[simp] theorem State.setQueue_remotes (s : State) (q : Nat) (v : Queue) : (s.setQueue q v).remotes = s.remotes := rfl
@[simp] theorem State.setQueue_threads (s : State) (q : Nat) (v : Queue) : (s.setQueue q v).threads = s.threads := rfl
@[simp] theorem State.setQueue_rtWrites (s : State) (q : Nat) (v : Queue) : (s.setQueue q v).rtWrites = s.rtWrites := rfl
@[simp] theorem State.setQueue_rtTiles (s : State) (q : Nat) (v : Queue) : (s.setQueue q v).rtTiles = s.rtTiles := rfl
@[simp] theorem State.setQueue_queues (s : State) (q : Nat) (v : Queue) : (s.setQueue q v).queues = tput s.queues q v := rfl
@[simp] theorem State.setQueue_notifies (s : State) (q : Nat) (v : Queue) : (s.setQueue q v).notifies = s.notifies := rfl
@[simp] theorem State.setQueue_nodes (s : State) (q : Nat) (v : Queue) : (s.setQueue q v).nodes = s.nodes := rfl
@[simp] theorem State.setQueue_bound (s : State) (q : Nat) (v : Queue) : (s.setQueue q v).bound = s.bound := rfl
@[simp] theorem State.setQueue_saved (s : State) (q : Nat) (v : Queue) : (s.setQueue q v).saved = s.saved := rfl
@[simp] theorem State.setQueue_orphans (s : State) (q : Nat) (v : Queue) : (s.setQueue q v).orphans = s.orphans := rfl
@[simp] theorem State.setQueue_requests (s : State) (q : Nat) (v : Queue) : (s.setQueue q v).requests = s.requests := rfl
@[simp] theorem State.setQueue_releases (s : State) (q : Nat) (v : Queue) : (s.setQueue q v).releases = s.releases := rfl
@[simp] theorem State.setQueue_domains (s : State) (q : Nat) (v : Queue) : (s.setQueue q v).domains = s.domains := rfl
@[simp] theorem State.setQueue_sluices (s : State) (q : Nat) (v : Queue) : (s.setQueue q v).sluices = s.sluices := rfl
@[simp] theorem State.setQueue_windows (s : State) (q : Nat) (v : Queue) : (s.setQueue q v).windows = s.windows := rfl
@[simp] theorem State.setQueue_imports (s : State) (q : Nat) (v : Queue) : (s.setQueue q v).imports = s.imports := rfl
@[simp] theorem State.setQueue_windowLog (s : State) (q : Nat) (v : Queue) : (s.setQueue q v).windowLog = s.windowLog := rfl
@[simp] theorem State.setQueue_windowErrors (s : State) (q : Nat) (v : Queue) : (s.setQueue q v).windowErrors = s.windowErrors := rfl
@[simp] theorem State.setQueue_triggers (s : State) (q : Nat) (v : Queue) : (s.setQueue q v).triggers = s.triggers := rfl
@[simp] theorem State.setQueue_arrivals (s : State) (q : Nat) (v : Queue) : (s.setQueue q v).arrivals = s.arrivals := rfl
@[simp] theorem State.setQueue_session (s : State) (q : Nat) (v : Queue) : (s.setQueue q v).session = s.session := rfl
@[simp] theorem State.setQueue_peerSessions (s : State) (q : Nat) (v : Queue) : (s.setQueue q v).peerSessions = s.peerSessions := rfl
@[simp] theorem State.setQueue_drops (s : State) (q : Nat) (v : Queue) : (s.setQueue q v).drops = s.drops := rfl
@[simp] theorem State.setQueue_strangers (s : State) (q : Nat) (v : Queue) : (s.setQueue q v).strangers = s.strangers := rfl
@[simp] theorem State.setQueue_hostPort (s : State) (q : Nat) (v : Queue) : (s.setQueue q v).hostPort = s.hostPort := rfl
@[simp] theorem State.setQueue_aperture (s : State) (q : Nat) (v : Queue) : (s.setQueue q v).aperture = s.aperture := rfl
@[simp] theorem State.setQueue_frames (s : State) (q : Nat) (v : Queue) : (s.setQueue q v).frames = s.frames := rfl
@[simp] theorem State.setQueue_arrivedBytes (s : State) (q : Nat) (v : Queue) : (s.setQueue q v).arrivedBytes = s.arrivedBytes := rfl
@[simp] theorem State.setQueue_asked (s : State) (q : Nat) (v : Queue) : (s.setQueue q v).asked = s.asked := rfl
@[simp] theorem State.setQueue_serving (s : State) (q : Nat) (v : Queue) : (s.setQueue q v).serving = s.serving := rfl
@[simp] theorem State.setQueue_spdm (s : State) (q : Nat) (v : Queue) : (s.setQueue q v).spdm = s.spdm := rfl
@[simp] theorem State.setQueue_rpcRing (s : State) (q : Nat) (v : Queue) : (s.setQueue q v).rpcRing = s.rpcRing := rfl
@[simp] theorem State.setQueue_forwarded (s : State) (q : Nat) (v : Queue) : (s.setQueue q v).forwarded = s.forwarded := rfl
@[simp] theorem State.setQueue_out (s : State) (q : Nat) (v : Queue) : (s.setQueue q v).out = s.out := rfl
@[simp] theorem State.setQueue_mailbox (s : State) (q : Nat) (v : Queue) : (s.setQueue q v).mailbox = s.mailbox := rfl
@[simp] theorem State.setQueue_curHart (s : State) (q : Nat) (v : Queue) : (s.setQueue q v).curHart = s.curHart := rfl
@[simp] theorem State.setQueue_invalidated (s : State) (q : Nat) (v : Queue) : (s.setQueue q v).invalidated = s.invalidated := rfl
@[simp] theorem State.setQueue_portLoads (s : State) (q : Nat) (v : Queue) : (s.setQueue q v).portLoads = s.portLoads := rfl
@[simp] theorem State.setQueue_residentLoads (s : State) (q : Nat) (v : Queue) : (s.setQueue q v).residentLoads = s.residentLoads := rfl
@[simp] theorem State.setQueue_cdi2Handed (s : State) (q : Nat) (v : Queue) : (s.setQueue q v).cdi2Handed = s.cdi2Handed := rfl
@[simp] theorem State.setQueue_commandCores (s : State) (q : Nat) (v : Queue) : (s.setQueue q v).commandCores = s.commandCores := rfl
@[simp] theorem State.setQueue_rank (s : State) (q : Nat) (v : Queue) : (s.setQueue q v).rank = s.rank := rfl
@[simp] theorem State.setQueue_cur (s : State) (q : Nat) (v : Queue) : (s.setQueue q v).cur = s.cur := rfl
@[simp] theorem State.setQueue_curCmd (s : State) (q : Nat) (v : Queue) : (s.setQueue q v).curCmd = s.curCmd := rfl
@[simp] theorem State.setQueue_residueFails (s : State) (q : Nat) (v : Queue) : (s.setQueue q v).residueFails = s.residueFails := rfl
@[simp] theorem State.setQueue_upsets (s : State) (q : Nat) (v : Queue) : (s.setQueue q v).upsets = s.upsets := rfl
@[simp] theorem State.setQueue_schedule (s : State) (q : Nat) (v : Queue) : (s.setQueue q v).schedule = s.schedule := rfl
@[simp] theorem State.setQueue_fresh (s : State) (q : Nat) (v : Queue) : (s.setQueue q v).fresh = s.fresh := rfl
@[simp] theorem State.setQueue_serial (s : State) (q : Nat) (v : Queue) : (s.setQueue q v).serial = s.serial := rfl

/-! ### modGroup -/

@[simp] theorem State.modGroup_power (s : State) (k : Nat) (f : Group → Group) : (s.modGroup k f).power = s.power := rfl
@[simp] theorem State.modGroup_boot (s : State) (k : Nat) (f : Group → Group) : (s.modGroup k f).boot = s.boot := rfl
@[simp] theorem State.modGroup_boots (s : State) (k : Nat) (f : Group → Group) : (s.modGroup k f).boots = s.boots := rfl
@[simp] theorem State.modGroup_issueClock (s : State) (k : Nat) (f : Group → Group) : (s.modGroup k f).issueClock = s.issueClock := rfl
@[simp] theorem State.modGroup_powerCap (s : State) (k : Nat) (f : Group → Group) : (s.modGroup k f).powerCap = s.powerCap := rfl
@[simp] theorem State.modGroup_throttled (s : State) (k : Nat) (f : Group → Group) : (s.modGroup k f).throttled = s.throttled := rfl
@[simp] theorem State.modGroup_cyc (s : State) (k : Nat) (f : Group → Group) : (s.modGroup k f).cyc = s.cyc := rfl
@[simp] theorem State.modGroup_time (s : State) (k : Nat) (f : Group → Group) : (s.modGroup k f).time = s.time := rfl
@[simp] theorem State.modGroup_floor (s : State) (k : Nat) (f : Group → Group) : (s.modGroup k f).floor = s.floor := rfl
@[simp] theorem State.modGroup_hubLt (s : State) (k : Nat) (f : Group → Group) : (s.modGroup k f).hubLt = s.hubLt := rfl
@[simp] theorem State.modGroup_hubTicked (s : State) (k : Nat) (f : Group → Group) : (s.modGroup k f).hubTicked = s.hubTicked := rfl
@[simp] theorem State.modGroup_idleLt (s : State) (k : Nat) (f : Group → Group) : (s.modGroup k f).idleLt = s.idleLt := rfl
@[simp] theorem State.modGroup_idleTicked (s : State) (k : Nat) (f : Group → Group) : (s.modGroup k f).idleTicked = s.idleTicked := rfl
@[simp] theorem State.modGroup_resCopies (s : State) (k : Nat) (f : Group → Group) : (s.modGroup k f).resCopies = s.resCopies := rfl
@[simp] theorem State.modGroup_measurements (s : State) (k : Nat) (f : Group → Group) : (s.modGroup k f).measurements = s.measurements := rfl
@[simp] theorem State.modGroup_cdi1 (s : State) (k : Nat) (f : Group → Group) : (s.modGroup k f).cdi1 = s.cdi1 := rfl
@[simp] theorem State.modGroup_cdi2 (s : State) (k : Nat) (f : Group → Group) : (s.modGroup k f).cdi2 = s.cdi2 := rfl
@[simp] theorem State.modGroup_imageAsked (s : State) (k : Nat) (f : Group → Group) : (s.modGroup k f).imageAsked = s.imageAsked := rfl
@[simp] theorem State.modGroup_udsReachable (s : State) (k : Nat) (f : Group → Group) : (s.modGroup k f).udsReachable = s.udsReachable := rfl
@[simp] theorem State.modGroup_flash (s : State) (k : Nat) (f : Group → Group) : (s.modGroup k f).flash = s.flash := rfl
@[simp] theorem State.modGroup_torn (s : State) (k : Nat) (f : Group → Group) : (s.modGroup k f).torn = s.torn := rfl
@[simp] theorem State.modGroup_flashing (s : State) (k : Nat) (f : Group → Group) : (s.modGroup k f).flashing = s.flashing := rfl
@[simp] theorem State.modGroup_recovery (s : State) (k : Nat) (f : Group → Group) : (s.modGroup k f).recovery = s.recovery := rfl
@[simp] theorem State.modGroup_keySlots (s : State) (k : Nat) (f : Group → Group) : (s.modGroup k f).keySlots = s.keySlots := rfl
@[simp] theorem State.modGroup_rasLog (s : State) (k : Nat) (f : Group → Group) : (s.modGroup k f).rasLog = s.rasLog := rfl
@[simp] theorem State.modGroup_linkRetries (s : State) (k : Nat) (f : Group → Group) : (s.modGroup k f).linkRetries = s.linkRetries := rfl
@[simp] theorem State.modGroup_floatOnset (s : State) (k : Nat) (f : Group → Group) : (s.modGroup k f).floatOnset = s.floatOnset := rfl
@[simp] theorem State.modGroup_mem (s : State) (k : Nat) (f : Group → Group) : (s.modGroup k f).mem = s.mem := rfl
@[simp] theorem State.modGroup_sectorKeys (s : State) (k : Nat) (f : Group → Group) : (s.modGroup k f).sectorKeys = s.sectorKeys := rfl
@[simp] theorem State.modGroup_poisoned (s : State) (k : Nat) (f : Group → Group) : (s.modGroup k f).poisoned = s.poisoned := rfl
@[simp] theorem State.modGroup_keyMap (s : State) (k : Nat) (f : Group → Group) : (s.modGroup k f).keyMap = s.keyMap := rfl
@[simp] theorem State.modGroup_lineTs (s : State) (k : Nat) (f : Group → Group) : (s.modGroup k f).lineTs = s.lineTs := rfl
@[simp] theorem State.modGroup_dieTab (s : State) (k : Nat) (f : Group → Group) : (s.modGroup k f).dieTab = s.dieTab := rfl
@[simp] theorem State.modGroup_leases (s : State) (k : Nat) (f : Group → Group) : (s.modGroup k f).leases = s.leases := rfl
@[simp] theorem State.modGroup_contexts (s : State) (k : Nat) (f : Group → Group) : (s.modGroup k f).contexts = s.contexts := rfl
@[simp] theorem State.modGroup_saveTable (s : State) (k : Nat) (f : Group → Group) : (s.modGroup k f).saveTable = s.saveTable := rfl
@[simp] theorem State.modGroup_regions (s : State) (k : Nat) (f : Group → Group) : (s.modGroup k f).regions = s.regions := rfl
@[simp] theorem State.modGroup_coreTab (s : State) (k : Nat) (f : Group → Group) : (s.modGroup k f).coreTab = s.coreTab := rfl
@[simp] theorem State.modGroup_wgs (s : State) (k : Nat) (f : Group → Group) : (s.modGroup k f).wgs = s.wgs := rfl
@[simp] theorem State.modGroup_groups (s : State) (k : Nat) (f : Group → Group) : (s.modGroup k f).groups = tmod s.groups k f := rfl
@[simp] theorem State.modGroup_deadlocks (s : State) (k : Nat) (f : Group → Group) : (s.modGroup k f).deadlocks = s.deadlocks := rfl
@[simp] theorem State.modGroup_acks (s : State) (k : Nat) (f : Group → Group) : (s.modGroup k f).acks = s.acks := rfl
@[simp] theorem State.modGroup_commands (s : State) (k : Nat) (f : Group → Group) : (s.modGroup k f).commands = s.commands := rfl
@[simp] theorem State.modGroup_remotes (s : State) (k : Nat) (f : Group → Group) : (s.modGroup k f).remotes = s.remotes := rfl
@[simp] theorem State.modGroup_threads (s : State) (k : Nat) (f : Group → Group) : (s.modGroup k f).threads = s.threads := rfl
@[simp] theorem State.modGroup_rtWrites (s : State) (k : Nat) (f : Group → Group) : (s.modGroup k f).rtWrites = s.rtWrites := rfl
@[simp] theorem State.modGroup_rtTiles (s : State) (k : Nat) (f : Group → Group) : (s.modGroup k f).rtTiles = s.rtTiles := rfl
@[simp] theorem State.modGroup_queues (s : State) (k : Nat) (f : Group → Group) : (s.modGroup k f).queues = s.queues := rfl
@[simp] theorem State.modGroup_notifies (s : State) (k : Nat) (f : Group → Group) : (s.modGroup k f).notifies = s.notifies := rfl
@[simp] theorem State.modGroup_nodes (s : State) (k : Nat) (f : Group → Group) : (s.modGroup k f).nodes = s.nodes := rfl
@[simp] theorem State.modGroup_bound (s : State) (k : Nat) (f : Group → Group) : (s.modGroup k f).bound = s.bound := rfl
@[simp] theorem State.modGroup_saved (s : State) (k : Nat) (f : Group → Group) : (s.modGroup k f).saved = s.saved := rfl
@[simp] theorem State.modGroup_orphans (s : State) (k : Nat) (f : Group → Group) : (s.modGroup k f).orphans = s.orphans := rfl
@[simp] theorem State.modGroup_requests (s : State) (k : Nat) (f : Group → Group) : (s.modGroup k f).requests = s.requests := rfl
@[simp] theorem State.modGroup_releases (s : State) (k : Nat) (f : Group → Group) : (s.modGroup k f).releases = s.releases := rfl
@[simp] theorem State.modGroup_domains (s : State) (k : Nat) (f : Group → Group) : (s.modGroup k f).domains = s.domains := rfl
@[simp] theorem State.modGroup_sluices (s : State) (k : Nat) (f : Group → Group) : (s.modGroup k f).sluices = s.sluices := rfl
@[simp] theorem State.modGroup_windows (s : State) (k : Nat) (f : Group → Group) : (s.modGroup k f).windows = s.windows := rfl
@[simp] theorem State.modGroup_imports (s : State) (k : Nat) (f : Group → Group) : (s.modGroup k f).imports = s.imports := rfl
@[simp] theorem State.modGroup_windowLog (s : State) (k : Nat) (f : Group → Group) : (s.modGroup k f).windowLog = s.windowLog := rfl
@[simp] theorem State.modGroup_windowErrors (s : State) (k : Nat) (f : Group → Group) : (s.modGroup k f).windowErrors = s.windowErrors := rfl
@[simp] theorem State.modGroup_triggers (s : State) (k : Nat) (f : Group → Group) : (s.modGroup k f).triggers = s.triggers := rfl
@[simp] theorem State.modGroup_arrivals (s : State) (k : Nat) (f : Group → Group) : (s.modGroup k f).arrivals = s.arrivals := rfl
@[simp] theorem State.modGroup_session (s : State) (k : Nat) (f : Group → Group) : (s.modGroup k f).session = s.session := rfl
@[simp] theorem State.modGroup_peerSessions (s : State) (k : Nat) (f : Group → Group) : (s.modGroup k f).peerSessions = s.peerSessions := rfl
@[simp] theorem State.modGroup_drops (s : State) (k : Nat) (f : Group → Group) : (s.modGroup k f).drops = s.drops := rfl
@[simp] theorem State.modGroup_strangers (s : State) (k : Nat) (f : Group → Group) : (s.modGroup k f).strangers = s.strangers := rfl
@[simp] theorem State.modGroup_hostPort (s : State) (k : Nat) (f : Group → Group) : (s.modGroup k f).hostPort = s.hostPort := rfl
@[simp] theorem State.modGroup_aperture (s : State) (k : Nat) (f : Group → Group) : (s.modGroup k f).aperture = s.aperture := rfl
@[simp] theorem State.modGroup_frames (s : State) (k : Nat) (f : Group → Group) : (s.modGroup k f).frames = s.frames := rfl
@[simp] theorem State.modGroup_arrivedBytes (s : State) (k : Nat) (f : Group → Group) : (s.modGroup k f).arrivedBytes = s.arrivedBytes := rfl
@[simp] theorem State.modGroup_asked (s : State) (k : Nat) (f : Group → Group) : (s.modGroup k f).asked = s.asked := rfl
@[simp] theorem State.modGroup_serving (s : State) (k : Nat) (f : Group → Group) : (s.modGroup k f).serving = s.serving := rfl
@[simp] theorem State.modGroup_spdm (s : State) (k : Nat) (f : Group → Group) : (s.modGroup k f).spdm = s.spdm := rfl
@[simp] theorem State.modGroup_rpcRing (s : State) (k : Nat) (f : Group → Group) : (s.modGroup k f).rpcRing = s.rpcRing := rfl
@[simp] theorem State.modGroup_forwarded (s : State) (k : Nat) (f : Group → Group) : (s.modGroup k f).forwarded = s.forwarded := rfl
@[simp] theorem State.modGroup_out (s : State) (k : Nat) (f : Group → Group) : (s.modGroup k f).out = s.out := rfl
@[simp] theorem State.modGroup_mailbox (s : State) (k : Nat) (f : Group → Group) : (s.modGroup k f).mailbox = s.mailbox := rfl
@[simp] theorem State.modGroup_curHart (s : State) (k : Nat) (f : Group → Group) : (s.modGroup k f).curHart = s.curHart := rfl
@[simp] theorem State.modGroup_invalidated (s : State) (k : Nat) (f : Group → Group) : (s.modGroup k f).invalidated = s.invalidated := rfl
@[simp] theorem State.modGroup_portLoads (s : State) (k : Nat) (f : Group → Group) : (s.modGroup k f).portLoads = s.portLoads := rfl
@[simp] theorem State.modGroup_residentLoads (s : State) (k : Nat) (f : Group → Group) : (s.modGroup k f).residentLoads = s.residentLoads := rfl
@[simp] theorem State.modGroup_cdi2Handed (s : State) (k : Nat) (f : Group → Group) : (s.modGroup k f).cdi2Handed = s.cdi2Handed := rfl
@[simp] theorem State.modGroup_commandCores (s : State) (k : Nat) (f : Group → Group) : (s.modGroup k f).commandCores = s.commandCores := rfl
@[simp] theorem State.modGroup_rank (s : State) (k : Nat) (f : Group → Group) : (s.modGroup k f).rank = s.rank := rfl
@[simp] theorem State.modGroup_cur (s : State) (k : Nat) (f : Group → Group) : (s.modGroup k f).cur = s.cur := rfl
@[simp] theorem State.modGroup_curCmd (s : State) (k : Nat) (f : Group → Group) : (s.modGroup k f).curCmd = s.curCmd := rfl
@[simp] theorem State.modGroup_residueFails (s : State) (k : Nat) (f : Group → Group) : (s.modGroup k f).residueFails = s.residueFails := rfl
@[simp] theorem State.modGroup_upsets (s : State) (k : Nat) (f : Group → Group) : (s.modGroup k f).upsets = s.upsets := rfl
@[simp] theorem State.modGroup_schedule (s : State) (k : Nat) (f : Group → Group) : (s.modGroup k f).schedule = s.schedule := rfl
@[simp] theorem State.modGroup_fresh (s : State) (k : Nat) (f : Group → Group) : (s.modGroup k f).fresh = s.fresh := rfl
@[simp] theorem State.modGroup_serial (s : State) (k : Nat) (f : Group → Group) : (s.modGroup k f).serial = s.serial := rfl

/-! ### modNode -/

@[simp] theorem State.modNode_power (s : State) (k : Nat) (f : Node → Node) : (s.modNode k f).power = s.power := rfl
@[simp] theorem State.modNode_boot (s : State) (k : Nat) (f : Node → Node) : (s.modNode k f).boot = s.boot := rfl
@[simp] theorem State.modNode_boots (s : State) (k : Nat) (f : Node → Node) : (s.modNode k f).boots = s.boots := rfl
@[simp] theorem State.modNode_issueClock (s : State) (k : Nat) (f : Node → Node) : (s.modNode k f).issueClock = s.issueClock := rfl
@[simp] theorem State.modNode_powerCap (s : State) (k : Nat) (f : Node → Node) : (s.modNode k f).powerCap = s.powerCap := rfl
@[simp] theorem State.modNode_throttled (s : State) (k : Nat) (f : Node → Node) : (s.modNode k f).throttled = s.throttled := rfl
@[simp] theorem State.modNode_cyc (s : State) (k : Nat) (f : Node → Node) : (s.modNode k f).cyc = s.cyc := rfl
@[simp] theorem State.modNode_time (s : State) (k : Nat) (f : Node → Node) : (s.modNode k f).time = s.time := rfl
@[simp] theorem State.modNode_floor (s : State) (k : Nat) (f : Node → Node) : (s.modNode k f).floor = s.floor := rfl
@[simp] theorem State.modNode_hubLt (s : State) (k : Nat) (f : Node → Node) : (s.modNode k f).hubLt = s.hubLt := rfl
@[simp] theorem State.modNode_hubTicked (s : State) (k : Nat) (f : Node → Node) : (s.modNode k f).hubTicked = s.hubTicked := rfl
@[simp] theorem State.modNode_idleLt (s : State) (k : Nat) (f : Node → Node) : (s.modNode k f).idleLt = s.idleLt := rfl
@[simp] theorem State.modNode_idleTicked (s : State) (k : Nat) (f : Node → Node) : (s.modNode k f).idleTicked = s.idleTicked := rfl
@[simp] theorem State.modNode_resCopies (s : State) (k : Nat) (f : Node → Node) : (s.modNode k f).resCopies = s.resCopies := rfl
@[simp] theorem State.modNode_measurements (s : State) (k : Nat) (f : Node → Node) : (s.modNode k f).measurements = s.measurements := rfl
@[simp] theorem State.modNode_cdi1 (s : State) (k : Nat) (f : Node → Node) : (s.modNode k f).cdi1 = s.cdi1 := rfl
@[simp] theorem State.modNode_cdi2 (s : State) (k : Nat) (f : Node → Node) : (s.modNode k f).cdi2 = s.cdi2 := rfl
@[simp] theorem State.modNode_imageAsked (s : State) (k : Nat) (f : Node → Node) : (s.modNode k f).imageAsked = s.imageAsked := rfl
@[simp] theorem State.modNode_udsReachable (s : State) (k : Nat) (f : Node → Node) : (s.modNode k f).udsReachable = s.udsReachable := rfl
@[simp] theorem State.modNode_flash (s : State) (k : Nat) (f : Node → Node) : (s.modNode k f).flash = s.flash := rfl
@[simp] theorem State.modNode_torn (s : State) (k : Nat) (f : Node → Node) : (s.modNode k f).torn = s.torn := rfl
@[simp] theorem State.modNode_flashing (s : State) (k : Nat) (f : Node → Node) : (s.modNode k f).flashing = s.flashing := rfl
@[simp] theorem State.modNode_recovery (s : State) (k : Nat) (f : Node → Node) : (s.modNode k f).recovery = s.recovery := rfl
@[simp] theorem State.modNode_keySlots (s : State) (k : Nat) (f : Node → Node) : (s.modNode k f).keySlots = s.keySlots := rfl
@[simp] theorem State.modNode_rasLog (s : State) (k : Nat) (f : Node → Node) : (s.modNode k f).rasLog = s.rasLog := rfl
@[simp] theorem State.modNode_linkRetries (s : State) (k : Nat) (f : Node → Node) : (s.modNode k f).linkRetries = s.linkRetries := rfl
@[simp] theorem State.modNode_floatOnset (s : State) (k : Nat) (f : Node → Node) : (s.modNode k f).floatOnset = s.floatOnset := rfl
@[simp] theorem State.modNode_mem (s : State) (k : Nat) (f : Node → Node) : (s.modNode k f).mem = s.mem := rfl
@[simp] theorem State.modNode_sectorKeys (s : State) (k : Nat) (f : Node → Node) : (s.modNode k f).sectorKeys = s.sectorKeys := rfl
@[simp] theorem State.modNode_poisoned (s : State) (k : Nat) (f : Node → Node) : (s.modNode k f).poisoned = s.poisoned := rfl
@[simp] theorem State.modNode_keyMap (s : State) (k : Nat) (f : Node → Node) : (s.modNode k f).keyMap = s.keyMap := rfl
@[simp] theorem State.modNode_lineTs (s : State) (k : Nat) (f : Node → Node) : (s.modNode k f).lineTs = s.lineTs := rfl
@[simp] theorem State.modNode_dieTab (s : State) (k : Nat) (f : Node → Node) : (s.modNode k f).dieTab = s.dieTab := rfl
@[simp] theorem State.modNode_leases (s : State) (k : Nat) (f : Node → Node) : (s.modNode k f).leases = s.leases := rfl
@[simp] theorem State.modNode_contexts (s : State) (k : Nat) (f : Node → Node) : (s.modNode k f).contexts = s.contexts := rfl
@[simp] theorem State.modNode_saveTable (s : State) (k : Nat) (f : Node → Node) : (s.modNode k f).saveTable = s.saveTable := rfl
@[simp] theorem State.modNode_regions (s : State) (k : Nat) (f : Node → Node) : (s.modNode k f).regions = s.regions := rfl
@[simp] theorem State.modNode_coreTab (s : State) (k : Nat) (f : Node → Node) : (s.modNode k f).coreTab = s.coreTab := rfl
@[simp] theorem State.modNode_wgs (s : State) (k : Nat) (f : Node → Node) : (s.modNode k f).wgs = s.wgs := rfl
@[simp] theorem State.modNode_groups (s : State) (k : Nat) (f : Node → Node) : (s.modNode k f).groups = s.groups := rfl
@[simp] theorem State.modNode_deadlocks (s : State) (k : Nat) (f : Node → Node) : (s.modNode k f).deadlocks = s.deadlocks := rfl
@[simp] theorem State.modNode_acks (s : State) (k : Nat) (f : Node → Node) : (s.modNode k f).acks = s.acks := rfl
@[simp] theorem State.modNode_commands (s : State) (k : Nat) (f : Node → Node) : (s.modNode k f).commands = s.commands := rfl
@[simp] theorem State.modNode_remotes (s : State) (k : Nat) (f : Node → Node) : (s.modNode k f).remotes = s.remotes := rfl
@[simp] theorem State.modNode_threads (s : State) (k : Nat) (f : Node → Node) : (s.modNode k f).threads = s.threads := rfl
@[simp] theorem State.modNode_rtWrites (s : State) (k : Nat) (f : Node → Node) : (s.modNode k f).rtWrites = s.rtWrites := rfl
@[simp] theorem State.modNode_rtTiles (s : State) (k : Nat) (f : Node → Node) : (s.modNode k f).rtTiles = s.rtTiles := rfl
@[simp] theorem State.modNode_queues (s : State) (k : Nat) (f : Node → Node) : (s.modNode k f).queues = s.queues := rfl
@[simp] theorem State.modNode_notifies (s : State) (k : Nat) (f : Node → Node) : (s.modNode k f).notifies = s.notifies := rfl
@[simp] theorem State.modNode_nodes (s : State) (k : Nat) (f : Node → Node) : (s.modNode k f).nodes = tmod s.nodes k f := rfl
@[simp] theorem State.modNode_bound (s : State) (k : Nat) (f : Node → Node) : (s.modNode k f).bound = s.bound := rfl
@[simp] theorem State.modNode_saved (s : State) (k : Nat) (f : Node → Node) : (s.modNode k f).saved = s.saved := rfl
@[simp] theorem State.modNode_orphans (s : State) (k : Nat) (f : Node → Node) : (s.modNode k f).orphans = s.orphans := rfl
@[simp] theorem State.modNode_requests (s : State) (k : Nat) (f : Node → Node) : (s.modNode k f).requests = s.requests := rfl
@[simp] theorem State.modNode_releases (s : State) (k : Nat) (f : Node → Node) : (s.modNode k f).releases = s.releases := rfl
@[simp] theorem State.modNode_domains (s : State) (k : Nat) (f : Node → Node) : (s.modNode k f).domains = s.domains := rfl
@[simp] theorem State.modNode_sluices (s : State) (k : Nat) (f : Node → Node) : (s.modNode k f).sluices = s.sluices := rfl
@[simp] theorem State.modNode_windows (s : State) (k : Nat) (f : Node → Node) : (s.modNode k f).windows = s.windows := rfl
@[simp] theorem State.modNode_imports (s : State) (k : Nat) (f : Node → Node) : (s.modNode k f).imports = s.imports := rfl
@[simp] theorem State.modNode_windowLog (s : State) (k : Nat) (f : Node → Node) : (s.modNode k f).windowLog = s.windowLog := rfl
@[simp] theorem State.modNode_windowErrors (s : State) (k : Nat) (f : Node → Node) : (s.modNode k f).windowErrors = s.windowErrors := rfl
@[simp] theorem State.modNode_triggers (s : State) (k : Nat) (f : Node → Node) : (s.modNode k f).triggers = s.triggers := rfl
@[simp] theorem State.modNode_arrivals (s : State) (k : Nat) (f : Node → Node) : (s.modNode k f).arrivals = s.arrivals := rfl
@[simp] theorem State.modNode_session (s : State) (k : Nat) (f : Node → Node) : (s.modNode k f).session = s.session := rfl
@[simp] theorem State.modNode_peerSessions (s : State) (k : Nat) (f : Node → Node) : (s.modNode k f).peerSessions = s.peerSessions := rfl
@[simp] theorem State.modNode_drops (s : State) (k : Nat) (f : Node → Node) : (s.modNode k f).drops = s.drops := rfl
@[simp] theorem State.modNode_strangers (s : State) (k : Nat) (f : Node → Node) : (s.modNode k f).strangers = s.strangers := rfl
@[simp] theorem State.modNode_hostPort (s : State) (k : Nat) (f : Node → Node) : (s.modNode k f).hostPort = s.hostPort := rfl
@[simp] theorem State.modNode_aperture (s : State) (k : Nat) (f : Node → Node) : (s.modNode k f).aperture = s.aperture := rfl
@[simp] theorem State.modNode_frames (s : State) (k : Nat) (f : Node → Node) : (s.modNode k f).frames = s.frames := rfl
@[simp] theorem State.modNode_arrivedBytes (s : State) (k : Nat) (f : Node → Node) : (s.modNode k f).arrivedBytes = s.arrivedBytes := rfl
@[simp] theorem State.modNode_asked (s : State) (k : Nat) (f : Node → Node) : (s.modNode k f).asked = s.asked := rfl
@[simp] theorem State.modNode_serving (s : State) (k : Nat) (f : Node → Node) : (s.modNode k f).serving = s.serving := rfl
@[simp] theorem State.modNode_spdm (s : State) (k : Nat) (f : Node → Node) : (s.modNode k f).spdm = s.spdm := rfl
@[simp] theorem State.modNode_rpcRing (s : State) (k : Nat) (f : Node → Node) : (s.modNode k f).rpcRing = s.rpcRing := rfl
@[simp] theorem State.modNode_forwarded (s : State) (k : Nat) (f : Node → Node) : (s.modNode k f).forwarded = s.forwarded := rfl
@[simp] theorem State.modNode_out (s : State) (k : Nat) (f : Node → Node) : (s.modNode k f).out = s.out := rfl
@[simp] theorem State.modNode_mailbox (s : State) (k : Nat) (f : Node → Node) : (s.modNode k f).mailbox = s.mailbox := rfl
@[simp] theorem State.modNode_curHart (s : State) (k : Nat) (f : Node → Node) : (s.modNode k f).curHart = s.curHart := rfl
@[simp] theorem State.modNode_invalidated (s : State) (k : Nat) (f : Node → Node) : (s.modNode k f).invalidated = s.invalidated := rfl
@[simp] theorem State.modNode_portLoads (s : State) (k : Nat) (f : Node → Node) : (s.modNode k f).portLoads = s.portLoads := rfl
@[simp] theorem State.modNode_residentLoads (s : State) (k : Nat) (f : Node → Node) : (s.modNode k f).residentLoads = s.residentLoads := rfl
@[simp] theorem State.modNode_cdi2Handed (s : State) (k : Nat) (f : Node → Node) : (s.modNode k f).cdi2Handed = s.cdi2Handed := rfl
@[simp] theorem State.modNode_commandCores (s : State) (k : Nat) (f : Node → Node) : (s.modNode k f).commandCores = s.commandCores := rfl
@[simp] theorem State.modNode_rank (s : State) (k : Nat) (f : Node → Node) : (s.modNode k f).rank = s.rank := rfl
@[simp] theorem State.modNode_cur (s : State) (k : Nat) (f : Node → Node) : (s.modNode k f).cur = s.cur := rfl
@[simp] theorem State.modNode_curCmd (s : State) (k : Nat) (f : Node → Node) : (s.modNode k f).curCmd = s.curCmd := rfl
@[simp] theorem State.modNode_residueFails (s : State) (k : Nat) (f : Node → Node) : (s.modNode k f).residueFails = s.residueFails := rfl
@[simp] theorem State.modNode_upsets (s : State) (k : Nat) (f : Node → Node) : (s.modNode k f).upsets = s.upsets := rfl
@[simp] theorem State.modNode_schedule (s : State) (k : Nat) (f : Node → Node) : (s.modNode k f).schedule = s.schedule := rfl
@[simp] theorem State.modNode_fresh (s : State) (k : Nat) (f : Node → Node) : (s.modNode k f).fresh = s.fresh := rfl
@[simp] theorem State.modNode_serial (s : State) (k : Nat) (f : Node → Node) : (s.modNode k f).serial = s.serial := rfl

/-! ### modCore -/

@[simp] theorem State.modCore_power (s : State) (c : Nat) (f : Core → Core) : (s.modCore c f).power = s.power := rfl
@[simp] theorem State.modCore_boot (s : State) (c : Nat) (f : Core → Core) : (s.modCore c f).boot = s.boot := rfl
@[simp] theorem State.modCore_boots (s : State) (c : Nat) (f : Core → Core) : (s.modCore c f).boots = s.boots := rfl
@[simp] theorem State.modCore_issueClock (s : State) (c : Nat) (f : Core → Core) : (s.modCore c f).issueClock = s.issueClock := rfl
@[simp] theorem State.modCore_powerCap (s : State) (c : Nat) (f : Core → Core) : (s.modCore c f).powerCap = s.powerCap := rfl
@[simp] theorem State.modCore_throttled (s : State) (c : Nat) (f : Core → Core) : (s.modCore c f).throttled = s.throttled := rfl
@[simp] theorem State.modCore_cyc (s : State) (c : Nat) (f : Core → Core) : (s.modCore c f).cyc = s.cyc := rfl
@[simp] theorem State.modCore_time (s : State) (c : Nat) (f : Core → Core) : (s.modCore c f).time = s.time := rfl
@[simp] theorem State.modCore_floor (s : State) (c : Nat) (f : Core → Core) : (s.modCore c f).floor = s.floor := rfl
@[simp] theorem State.modCore_hubLt (s : State) (c : Nat) (f : Core → Core) : (s.modCore c f).hubLt = s.hubLt := rfl
@[simp] theorem State.modCore_hubTicked (s : State) (c : Nat) (f : Core → Core) : (s.modCore c f).hubTicked = s.hubTicked := rfl
@[simp] theorem State.modCore_idleLt (s : State) (c : Nat) (f : Core → Core) : (s.modCore c f).idleLt = s.idleLt := rfl
@[simp] theorem State.modCore_idleTicked (s : State) (c : Nat) (f : Core → Core) : (s.modCore c f).idleTicked = s.idleTicked := rfl
@[simp] theorem State.modCore_resCopies (s : State) (c : Nat) (f : Core → Core) : (s.modCore c f).resCopies = s.resCopies := rfl
@[simp] theorem State.modCore_measurements (s : State) (c : Nat) (f : Core → Core) : (s.modCore c f).measurements = s.measurements := rfl
@[simp] theorem State.modCore_cdi1 (s : State) (c : Nat) (f : Core → Core) : (s.modCore c f).cdi1 = s.cdi1 := rfl
@[simp] theorem State.modCore_cdi2 (s : State) (c : Nat) (f : Core → Core) : (s.modCore c f).cdi2 = s.cdi2 := rfl
@[simp] theorem State.modCore_imageAsked (s : State) (c : Nat) (f : Core → Core) : (s.modCore c f).imageAsked = s.imageAsked := rfl
@[simp] theorem State.modCore_udsReachable (s : State) (c : Nat) (f : Core → Core) : (s.modCore c f).udsReachable = s.udsReachable := rfl
@[simp] theorem State.modCore_flash (s : State) (c : Nat) (f : Core → Core) : (s.modCore c f).flash = s.flash := rfl
@[simp] theorem State.modCore_torn (s : State) (c : Nat) (f : Core → Core) : (s.modCore c f).torn = s.torn := rfl
@[simp] theorem State.modCore_flashing (s : State) (c : Nat) (f : Core → Core) : (s.modCore c f).flashing = s.flashing := rfl
@[simp] theorem State.modCore_recovery (s : State) (c : Nat) (f : Core → Core) : (s.modCore c f).recovery = s.recovery := rfl
@[simp] theorem State.modCore_keySlots (s : State) (c : Nat) (f : Core → Core) : (s.modCore c f).keySlots = s.keySlots := rfl
@[simp] theorem State.modCore_rasLog (s : State) (c : Nat) (f : Core → Core) : (s.modCore c f).rasLog = s.rasLog := rfl
@[simp] theorem State.modCore_linkRetries (s : State) (c : Nat) (f : Core → Core) : (s.modCore c f).linkRetries = s.linkRetries := rfl
@[simp] theorem State.modCore_floatOnset (s : State) (c : Nat) (f : Core → Core) : (s.modCore c f).floatOnset = s.floatOnset := rfl
@[simp] theorem State.modCore_mem (s : State) (c : Nat) (f : Core → Core) : (s.modCore c f).mem = s.mem := rfl
@[simp] theorem State.modCore_sectorKeys (s : State) (c : Nat) (f : Core → Core) : (s.modCore c f).sectorKeys = s.sectorKeys := rfl
@[simp] theorem State.modCore_poisoned (s : State) (c : Nat) (f : Core → Core) : (s.modCore c f).poisoned = s.poisoned := rfl
@[simp] theorem State.modCore_keyMap (s : State) (c : Nat) (f : Core → Core) : (s.modCore c f).keyMap = s.keyMap := rfl
@[simp] theorem State.modCore_lineTs (s : State) (c : Nat) (f : Core → Core) : (s.modCore c f).lineTs = s.lineTs := rfl
@[simp] theorem State.modCore_dieTab (s : State) (c : Nat) (f : Core → Core) : (s.modCore c f).dieTab = s.dieTab := rfl
@[simp] theorem State.modCore_leases (s : State) (c : Nat) (f : Core → Core) : (s.modCore c f).leases = s.leases := rfl
@[simp] theorem State.modCore_contexts (s : State) (c : Nat) (f : Core → Core) : (s.modCore c f).contexts = s.contexts := rfl
@[simp] theorem State.modCore_saveTable (s : State) (c : Nat) (f : Core → Core) : (s.modCore c f).saveTable = s.saveTable := rfl
@[simp] theorem State.modCore_regions (s : State) (c : Nat) (f : Core → Core) : (s.modCore c f).regions = s.regions := rfl
@[simp] theorem State.modCore_coreTab (s : State) (c : Nat) (f : Core → Core) : (s.modCore c f).coreTab = tput s.coreTab c (f (s.core c)) := rfl
@[simp] theorem State.modCore_wgs (s : State) (c : Nat) (f : Core → Core) : (s.modCore c f).wgs = s.wgs := rfl
@[simp] theorem State.modCore_groups (s : State) (c : Nat) (f : Core → Core) : (s.modCore c f).groups = s.groups := rfl
@[simp] theorem State.modCore_deadlocks (s : State) (c : Nat) (f : Core → Core) : (s.modCore c f).deadlocks = s.deadlocks := rfl
@[simp] theorem State.modCore_acks (s : State) (c : Nat) (f : Core → Core) : (s.modCore c f).acks = s.acks := rfl
@[simp] theorem State.modCore_commands (s : State) (c : Nat) (f : Core → Core) : (s.modCore c f).commands = s.commands := rfl
@[simp] theorem State.modCore_remotes (s : State) (c : Nat) (f : Core → Core) : (s.modCore c f).remotes = s.remotes := rfl
@[simp] theorem State.modCore_threads (s : State) (c : Nat) (f : Core → Core) : (s.modCore c f).threads = s.threads := rfl
@[simp] theorem State.modCore_rtWrites (s : State) (c : Nat) (f : Core → Core) : (s.modCore c f).rtWrites = s.rtWrites := rfl
@[simp] theorem State.modCore_rtTiles (s : State) (c : Nat) (f : Core → Core) : (s.modCore c f).rtTiles = s.rtTiles := rfl
@[simp] theorem State.modCore_queues (s : State) (c : Nat) (f : Core → Core) : (s.modCore c f).queues = s.queues := rfl
@[simp] theorem State.modCore_notifies (s : State) (c : Nat) (f : Core → Core) : (s.modCore c f).notifies = s.notifies := rfl
@[simp] theorem State.modCore_nodes (s : State) (c : Nat) (f : Core → Core) : (s.modCore c f).nodes = s.nodes := rfl
@[simp] theorem State.modCore_bound (s : State) (c : Nat) (f : Core → Core) : (s.modCore c f).bound = s.bound := rfl
@[simp] theorem State.modCore_saved (s : State) (c : Nat) (f : Core → Core) : (s.modCore c f).saved = s.saved := rfl
@[simp] theorem State.modCore_orphans (s : State) (c : Nat) (f : Core → Core) : (s.modCore c f).orphans = s.orphans := rfl
@[simp] theorem State.modCore_requests (s : State) (c : Nat) (f : Core → Core) : (s.modCore c f).requests = s.requests := rfl
@[simp] theorem State.modCore_releases (s : State) (c : Nat) (f : Core → Core) : (s.modCore c f).releases = s.releases := rfl
@[simp] theorem State.modCore_domains (s : State) (c : Nat) (f : Core → Core) : (s.modCore c f).domains = s.domains := rfl
@[simp] theorem State.modCore_sluices (s : State) (c : Nat) (f : Core → Core) : (s.modCore c f).sluices = s.sluices := rfl
@[simp] theorem State.modCore_windows (s : State) (c : Nat) (f : Core → Core) : (s.modCore c f).windows = s.windows := rfl
@[simp] theorem State.modCore_imports (s : State) (c : Nat) (f : Core → Core) : (s.modCore c f).imports = s.imports := rfl
@[simp] theorem State.modCore_windowLog (s : State) (c : Nat) (f : Core → Core) : (s.modCore c f).windowLog = s.windowLog := rfl
@[simp] theorem State.modCore_windowErrors (s : State) (c : Nat) (f : Core → Core) : (s.modCore c f).windowErrors = s.windowErrors := rfl
@[simp] theorem State.modCore_triggers (s : State) (c : Nat) (f : Core → Core) : (s.modCore c f).triggers = s.triggers := rfl
@[simp] theorem State.modCore_arrivals (s : State) (c : Nat) (f : Core → Core) : (s.modCore c f).arrivals = s.arrivals := rfl
@[simp] theorem State.modCore_session (s : State) (c : Nat) (f : Core → Core) : (s.modCore c f).session = s.session := rfl
@[simp] theorem State.modCore_peerSessions (s : State) (c : Nat) (f : Core → Core) : (s.modCore c f).peerSessions = s.peerSessions := rfl
@[simp] theorem State.modCore_drops (s : State) (c : Nat) (f : Core → Core) : (s.modCore c f).drops = s.drops := rfl
@[simp] theorem State.modCore_strangers (s : State) (c : Nat) (f : Core → Core) : (s.modCore c f).strangers = s.strangers := rfl
@[simp] theorem State.modCore_hostPort (s : State) (c : Nat) (f : Core → Core) : (s.modCore c f).hostPort = s.hostPort := rfl
@[simp] theorem State.modCore_aperture (s : State) (c : Nat) (f : Core → Core) : (s.modCore c f).aperture = s.aperture := rfl
@[simp] theorem State.modCore_frames (s : State) (c : Nat) (f : Core → Core) : (s.modCore c f).frames = s.frames := rfl
@[simp] theorem State.modCore_arrivedBytes (s : State) (c : Nat) (f : Core → Core) : (s.modCore c f).arrivedBytes = s.arrivedBytes := rfl
@[simp] theorem State.modCore_asked (s : State) (c : Nat) (f : Core → Core) : (s.modCore c f).asked = s.asked := rfl
@[simp] theorem State.modCore_serving (s : State) (c : Nat) (f : Core → Core) : (s.modCore c f).serving = s.serving := rfl
@[simp] theorem State.modCore_spdm (s : State) (c : Nat) (f : Core → Core) : (s.modCore c f).spdm = s.spdm := rfl
@[simp] theorem State.modCore_rpcRing (s : State) (c : Nat) (f : Core → Core) : (s.modCore c f).rpcRing = s.rpcRing := rfl
@[simp] theorem State.modCore_forwarded (s : State) (c : Nat) (f : Core → Core) : (s.modCore c f).forwarded = s.forwarded := rfl
@[simp] theorem State.modCore_out (s : State) (c : Nat) (f : Core → Core) : (s.modCore c f).out = s.out := rfl
@[simp] theorem State.modCore_mailbox (s : State) (c : Nat) (f : Core → Core) : (s.modCore c f).mailbox = s.mailbox := rfl
@[simp] theorem State.modCore_curHart (s : State) (c : Nat) (f : Core → Core) : (s.modCore c f).curHart = s.curHart := rfl
@[simp] theorem State.modCore_invalidated (s : State) (c : Nat) (f : Core → Core) : (s.modCore c f).invalidated = s.invalidated := rfl
@[simp] theorem State.modCore_portLoads (s : State) (c : Nat) (f : Core → Core) : (s.modCore c f).portLoads = s.portLoads := rfl
@[simp] theorem State.modCore_residentLoads (s : State) (c : Nat) (f : Core → Core) : (s.modCore c f).residentLoads = s.residentLoads := rfl
@[simp] theorem State.modCore_cdi2Handed (s : State) (c : Nat) (f : Core → Core) : (s.modCore c f).cdi2Handed = s.cdi2Handed := rfl
@[simp] theorem State.modCore_commandCores (s : State) (c : Nat) (f : Core → Core) : (s.modCore c f).commandCores = s.commandCores := rfl
@[simp] theorem State.modCore_rank (s : State) (c : Nat) (f : Core → Core) : (s.modCore c f).rank = s.rank := rfl
@[simp] theorem State.modCore_cur (s : State) (c : Nat) (f : Core → Core) : (s.modCore c f).cur = s.cur := rfl
@[simp] theorem State.modCore_curCmd (s : State) (c : Nat) (f : Core → Core) : (s.modCore c f).curCmd = s.curCmd := rfl
@[simp] theorem State.modCore_residueFails (s : State) (c : Nat) (f : Core → Core) : (s.modCore c f).residueFails = s.residueFails := rfl
@[simp] theorem State.modCore_upsets (s : State) (c : Nat) (f : Core → Core) : (s.modCore c f).upsets = s.upsets := rfl
@[simp] theorem State.modCore_schedule (s : State) (c : Nat) (f : Core → Core) : (s.modCore c f).schedule = s.schedule := rfl
@[simp] theorem State.modCore_fresh (s : State) (c : Nat) (f : Core → Core) : (s.modCore c f).fresh = s.fresh := rfl
@[simp] theorem State.modCore_serial (s : State) (c : Nat) (f : Core → Core) : (s.modCore c f).serial = s.serial := rfl

/-! ### bump -/

@[simp] theorem bump_power (s : State) : (bump s).power = s.power := rfl
@[simp] theorem bump_boot (s : State) : (bump s).boot = s.boot := rfl
@[simp] theorem bump_boots (s : State) : (bump s).boots = s.boots := rfl
@[simp] theorem bump_issueClock (s : State) : (bump s).issueClock = s.issueClock := rfl
@[simp] theorem bump_powerCap (s : State) : (bump s).powerCap = s.powerCap := rfl
@[simp] theorem bump_throttled (s : State) : (bump s).throttled = s.throttled := rfl
@[simp] theorem bump_cyc (s : State) : (bump s).cyc = s.cyc := rfl
@[simp] theorem bump_time (s : State) : (bump s).time = s.time := rfl
@[simp] theorem bump_floor (s : State) : (bump s).floor = s.floor := rfl
@[simp] theorem bump_hubLt (s : State) : (bump s).hubLt = s.hubLt := rfl
@[simp] theorem bump_hubTicked (s : State) : (bump s).hubTicked = s.hubTicked := rfl
@[simp] theorem bump_idleLt (s : State) : (bump s).idleLt = s.idleLt := rfl
@[simp] theorem bump_idleTicked (s : State) : (bump s).idleTicked = s.idleTicked := rfl
@[simp] theorem bump_resCopies (s : State) : (bump s).resCopies = s.resCopies := rfl
@[simp] theorem bump_measurements (s : State) : (bump s).measurements = s.measurements := rfl
@[simp] theorem bump_cdi1 (s : State) : (bump s).cdi1 = s.cdi1 := rfl
@[simp] theorem bump_cdi2 (s : State) : (bump s).cdi2 = s.cdi2 := rfl
@[simp] theorem bump_imageAsked (s : State) : (bump s).imageAsked = s.imageAsked := rfl
@[simp] theorem bump_udsReachable (s : State) : (bump s).udsReachable = s.udsReachable := rfl
@[simp] theorem bump_flash (s : State) : (bump s).flash = s.flash := rfl
@[simp] theorem bump_torn (s : State) : (bump s).torn = s.torn := rfl
@[simp] theorem bump_flashing (s : State) : (bump s).flashing = s.flashing := rfl
@[simp] theorem bump_recovery (s : State) : (bump s).recovery = s.recovery := rfl
@[simp] theorem bump_keySlots (s : State) : (bump s).keySlots = s.keySlots := rfl
@[simp] theorem bump_rasLog (s : State) : (bump s).rasLog = s.rasLog := rfl
@[simp] theorem bump_linkRetries (s : State) : (bump s).linkRetries = s.linkRetries := rfl
@[simp] theorem bump_floatOnset (s : State) : (bump s).floatOnset = s.floatOnset := rfl
@[simp] theorem bump_mem (s : State) : (bump s).mem = s.mem := rfl
@[simp] theorem bump_sectorKeys (s : State) : (bump s).sectorKeys = s.sectorKeys := rfl
@[simp] theorem bump_poisoned (s : State) : (bump s).poisoned = s.poisoned := rfl
@[simp] theorem bump_keyMap (s : State) : (bump s).keyMap = s.keyMap := rfl
@[simp] theorem bump_lineTs (s : State) : (bump s).lineTs = s.lineTs := rfl
@[simp] theorem bump_dieTab (s : State) : (bump s).dieTab = s.dieTab := rfl
@[simp] theorem bump_leases (s : State) : (bump s).leases = s.leases := rfl
@[simp] theorem bump_contexts (s : State) : (bump s).contexts = s.contexts := rfl
@[simp] theorem bump_saveTable (s : State) : (bump s).saveTable = s.saveTable := rfl
@[simp] theorem bump_regions (s : State) : (bump s).regions = s.regions := rfl
@[simp] theorem bump_coreTab (s : State) : (bump s).coreTab = s.coreTab := rfl
@[simp] theorem bump_wgs (s : State) : (bump s).wgs = s.wgs := rfl
@[simp] theorem bump_groups (s : State) : (bump s).groups = s.groups := rfl
@[simp] theorem bump_deadlocks (s : State) : (bump s).deadlocks = s.deadlocks := rfl
@[simp] theorem bump_acks (s : State) : (bump s).acks = s.acks := rfl
@[simp] theorem bump_commands (s : State) : (bump s).commands = s.commands := rfl
@[simp] theorem bump_remotes (s : State) : (bump s).remotes = s.remotes := rfl
@[simp] theorem bump_threads (s : State) : (bump s).threads = s.threads := rfl
@[simp] theorem bump_rtWrites (s : State) : (bump s).rtWrites = s.rtWrites := rfl
@[simp] theorem bump_rtTiles (s : State) : (bump s).rtTiles = s.rtTiles := rfl
@[simp] theorem bump_queues (s : State) : (bump s).queues = s.queues := rfl
@[simp] theorem bump_notifies (s : State) : (bump s).notifies = s.notifies := rfl
@[simp] theorem bump_nodes (s : State) : (bump s).nodes = s.nodes := rfl
@[simp] theorem bump_bound (s : State) : (bump s).bound = s.bound := rfl
@[simp] theorem bump_saved (s : State) : (bump s).saved = s.saved := rfl
@[simp] theorem bump_orphans (s : State) : (bump s).orphans = s.orphans := rfl
@[simp] theorem bump_requests (s : State) : (bump s).requests = s.requests := rfl
@[simp] theorem bump_releases (s : State) : (bump s).releases = s.releases := rfl
@[simp] theorem bump_domains (s : State) : (bump s).domains = s.domains := rfl
@[simp] theorem bump_sluices (s : State) : (bump s).sluices = s.sluices := rfl
@[simp] theorem bump_windows (s : State) : (bump s).windows = s.windows := rfl
@[simp] theorem bump_imports (s : State) : (bump s).imports = s.imports := rfl
@[simp] theorem bump_windowLog (s : State) : (bump s).windowLog = s.windowLog := rfl
@[simp] theorem bump_windowErrors (s : State) : (bump s).windowErrors = s.windowErrors := rfl
@[simp] theorem bump_triggers (s : State) : (bump s).triggers = s.triggers := rfl
@[simp] theorem bump_arrivals (s : State) : (bump s).arrivals = s.arrivals := rfl
@[simp] theorem bump_session (s : State) : (bump s).session = s.session := rfl
@[simp] theorem bump_peerSessions (s : State) : (bump s).peerSessions = s.peerSessions := rfl
@[simp] theorem bump_drops (s : State) : (bump s).drops = s.drops := rfl
@[simp] theorem bump_strangers (s : State) : (bump s).strangers = s.strangers := rfl
@[simp] theorem bump_hostPort (s : State) : (bump s).hostPort = s.hostPort := rfl
@[simp] theorem bump_aperture (s : State) : (bump s).aperture = s.aperture := rfl
@[simp] theorem bump_frames (s : State) : (bump s).frames = s.frames := rfl
@[simp] theorem bump_arrivedBytes (s : State) : (bump s).arrivedBytes = s.arrivedBytes := rfl
@[simp] theorem bump_asked (s : State) : (bump s).asked = s.asked := rfl
@[simp] theorem bump_serving (s : State) : (bump s).serving = s.serving := rfl
@[simp] theorem bump_spdm (s : State) : (bump s).spdm = s.spdm := rfl
@[simp] theorem bump_rpcRing (s : State) : (bump s).rpcRing = s.rpcRing := rfl
@[simp] theorem bump_forwarded (s : State) : (bump s).forwarded = s.forwarded := rfl
@[simp] theorem bump_out (s : State) : (bump s).out = s.out := rfl
@[simp] theorem bump_mailbox (s : State) : (bump s).mailbox = s.mailbox := rfl
@[simp] theorem bump_curHart (s : State) : (bump s).curHart = s.curHart := rfl
@[simp] theorem bump_invalidated (s : State) : (bump s).invalidated = s.invalidated := rfl
@[simp] theorem bump_portLoads (s : State) : (bump s).portLoads = s.portLoads := rfl
@[simp] theorem bump_residentLoads (s : State) : (bump s).residentLoads = s.residentLoads := rfl
@[simp] theorem bump_cdi2Handed (s : State) : (bump s).cdi2Handed = s.cdi2Handed := rfl
@[simp] theorem bump_commandCores (s : State) : (bump s).commandCores = s.commandCores := rfl
@[simp] theorem bump_rank (s : State) : (bump s).rank = s.rank := rfl
@[simp] theorem bump_cur (s : State) : (bump s).cur = s.cur := rfl
@[simp] theorem bump_curCmd (s : State) : (bump s).curCmd = s.curCmd := rfl
@[simp] theorem bump_residueFails (s : State) : (bump s).residueFails = s.residueFails := rfl
@[simp] theorem bump_upsets (s : State) : (bump s).upsets = s.upsets := rfl
@[simp] theorem bump_schedule (s : State) : (bump s).schedule = s.schedule := rfl
@[simp] theorem bump_fresh (s : State) : (bump s).fresh = s.fresh + 1 := rfl
@[simp] theorem bump_serial (s : State) : (bump s).serial = s.serial := rfl

/-! ### setSplit and modSplit -/

@[simp] theorem State.setSplit_power (s : State) (r : SplitRef) (x : Split) : (s.setSplit r x).power = s.power := by
  unfold State.setSplit; split <;> rfl
@[simp] theorem State.setSplit_boot (s : State) (r : SplitRef) (x : Split) : (s.setSplit r x).boot = s.boot := by
  unfold State.setSplit; split <;> rfl
@[simp] theorem State.setSplit_boots (s : State) (r : SplitRef) (x : Split) : (s.setSplit r x).boots = s.boots := by
  unfold State.setSplit; split <;> rfl
@[simp] theorem State.setSplit_issueClock (s : State) (r : SplitRef) (x : Split) : (s.setSplit r x).issueClock = s.issueClock := by
  unfold State.setSplit; split <;> rfl
@[simp] theorem State.setSplit_powerCap (s : State) (r : SplitRef) (x : Split) : (s.setSplit r x).powerCap = s.powerCap := by
  unfold State.setSplit; split <;> rfl
@[simp] theorem State.setSplit_throttled (s : State) (r : SplitRef) (x : Split) : (s.setSplit r x).throttled = s.throttled := by
  unfold State.setSplit; split <;> rfl
@[simp] theorem State.setSplit_cyc (s : State) (r : SplitRef) (x : Split) : (s.setSplit r x).cyc = s.cyc := by
  unfold State.setSplit; split <;> rfl
@[simp] theorem State.setSplit_time (s : State) (r : SplitRef) (x : Split) : (s.setSplit r x).time = s.time := by
  unfold State.setSplit; split <;> rfl
@[simp] theorem State.setSplit_floor (s : State) (r : SplitRef) (x : Split) : (s.setSplit r x).floor = s.floor := by
  unfold State.setSplit; split <;> rfl
@[simp] theorem State.setSplit_hubLt (s : State) (r : SplitRef) (x : Split) : (s.setSplit r x).hubLt = s.hubLt := by
  unfold State.setSplit; split <;> rfl
@[simp] theorem State.setSplit_hubTicked (s : State) (r : SplitRef) (x : Split) : (s.setSplit r x).hubTicked = s.hubTicked := by
  unfold State.setSplit; split <;> rfl
@[simp] theorem State.setSplit_idleLt (s : State) (r : SplitRef) (x : Split) : (s.setSplit r x).idleLt = s.idleLt := by
  unfold State.setSplit; split <;> rfl
@[simp] theorem State.setSplit_idleTicked (s : State) (r : SplitRef) (x : Split) : (s.setSplit r x).idleTicked = s.idleTicked := by
  unfold State.setSplit; split <;> rfl
@[simp] theorem State.setSplit_resCopies (s : State) (r : SplitRef) (x : Split) : (s.setSplit r x).resCopies = s.resCopies := by
  unfold State.setSplit; split <;> rfl
@[simp] theorem State.setSplit_measurements (s : State) (r : SplitRef) (x : Split) : (s.setSplit r x).measurements = s.measurements := by
  unfold State.setSplit; split <;> rfl
@[simp] theorem State.setSplit_cdi1 (s : State) (r : SplitRef) (x : Split) : (s.setSplit r x).cdi1 = s.cdi1 := by
  unfold State.setSplit; split <;> rfl
@[simp] theorem State.setSplit_cdi2 (s : State) (r : SplitRef) (x : Split) : (s.setSplit r x).cdi2 = s.cdi2 := by
  unfold State.setSplit; split <;> rfl
@[simp] theorem State.setSplit_imageAsked (s : State) (r : SplitRef) (x : Split) : (s.setSplit r x).imageAsked = s.imageAsked := by
  unfold State.setSplit; split <;> rfl
@[simp] theorem State.setSplit_udsReachable (s : State) (r : SplitRef) (x : Split) : (s.setSplit r x).udsReachable = s.udsReachable := by
  unfold State.setSplit; split <;> rfl
@[simp] theorem State.setSplit_flash (s : State) (r : SplitRef) (x : Split) : (s.setSplit r x).flash = s.flash := by
  unfold State.setSplit; split <;> rfl
@[simp] theorem State.setSplit_torn (s : State) (r : SplitRef) (x : Split) : (s.setSplit r x).torn = s.torn := by
  unfold State.setSplit; split <;> rfl
@[simp] theorem State.setSplit_flashing (s : State) (r : SplitRef) (x : Split) : (s.setSplit r x).flashing = s.flashing := by
  unfold State.setSplit; split <;> rfl
@[simp] theorem State.setSplit_recovery (s : State) (r : SplitRef) (x : Split) : (s.setSplit r x).recovery = s.recovery := by
  unfold State.setSplit; split <;> rfl
@[simp] theorem State.setSplit_keySlots (s : State) (r : SplitRef) (x : Split) : (s.setSplit r x).keySlots = s.keySlots := by
  unfold State.setSplit; split <;> rfl
@[simp] theorem State.setSplit_rasLog (s : State) (r : SplitRef) (x : Split) : (s.setSplit r x).rasLog = s.rasLog := by
  unfold State.setSplit; split <;> rfl
@[simp] theorem State.setSplit_linkRetries (s : State) (r : SplitRef) (x : Split) : (s.setSplit r x).linkRetries = s.linkRetries := by
  unfold State.setSplit; split <;> rfl
@[simp] theorem State.setSplit_floatOnset (s : State) (r : SplitRef) (x : Split) : (s.setSplit r x).floatOnset = s.floatOnset := by
  unfold State.setSplit; split <;> rfl
@[simp] theorem State.setSplit_mem (s : State) (r : SplitRef) (x : Split) : (s.setSplit r x).mem = s.mem := by
  unfold State.setSplit; split <;> rfl
@[simp] theorem State.setSplit_sectorKeys (s : State) (r : SplitRef) (x : Split) : (s.setSplit r x).sectorKeys = s.sectorKeys := by
  unfold State.setSplit; split <;> rfl
@[simp] theorem State.setSplit_poisoned (s : State) (r : SplitRef) (x : Split) : (s.setSplit r x).poisoned = s.poisoned := by
  unfold State.setSplit; split <;> rfl
@[simp] theorem State.setSplit_keyMap (s : State) (r : SplitRef) (x : Split) : (s.setSplit r x).keyMap = s.keyMap := by
  unfold State.setSplit; split <;> rfl
@[simp] theorem State.setSplit_lineTs (s : State) (r : SplitRef) (x : Split) : (s.setSplit r x).lineTs = s.lineTs := by
  unfold State.setSplit; split <;> rfl
@[simp] theorem State.setSplit_dieTab (s : State) (r : SplitRef) (x : Split) : (s.setSplit r x).dieTab = s.dieTab := by
  unfold State.setSplit; split <;> rfl
@[simp] theorem State.setSplit_leases (s : State) (r : SplitRef) (x : Split) : (s.setSplit r x).leases = s.leases := by
  unfold State.setSplit; split <;> rfl
@[simp] theorem State.setSplit_contexts (s : State) (r : SplitRef) (x : Split) : (s.setSplit r x).contexts = s.contexts := by
  unfold State.setSplit; split <;> rfl
@[simp] theorem State.setSplit_saveTable (s : State) (r : SplitRef) (x : Split) : (s.setSplit r x).saveTable = s.saveTable := by
  unfold State.setSplit; split <;> rfl
@[simp] theorem State.setSplit_regions (s : State) (r : SplitRef) (x : Split) : (s.setSplit r x).regions = s.regions := by
  unfold State.setSplit; split <;> rfl
@[simp] theorem State.setSplit_coreTab (s : State) (r : SplitRef) (x : Split) : (s.setSplit r x).coreTab = s.coreTab := by
  unfold State.setSplit; split <;> rfl
@[simp] theorem State.setSplit_wgs (s : State) (r : SplitRef) (x : Split) : (s.setSplit r x).wgs = s.wgs := by
  unfold State.setSplit; split <;> rfl
@[simp] theorem State.setSplit_deadlocks (s : State) (r : SplitRef) (x : Split) : (s.setSplit r x).deadlocks = s.deadlocks := by
  unfold State.setSplit; split <;> rfl
@[simp] theorem State.setSplit_acks (s : State) (r : SplitRef) (x : Split) : (s.setSplit r x).acks = s.acks := by
  unfold State.setSplit; split <;> rfl
@[simp] theorem State.setSplit_commands (s : State) (r : SplitRef) (x : Split) : (s.setSplit r x).commands = s.commands := by
  unfold State.setSplit; split <;> rfl
@[simp] theorem State.setSplit_remotes (s : State) (r : SplitRef) (x : Split) : (s.setSplit r x).remotes = s.remotes := by
  unfold State.setSplit; split <;> rfl
@[simp] theorem State.setSplit_threads (s : State) (r : SplitRef) (x : Split) : (s.setSplit r x).threads = s.threads := by
  unfold State.setSplit; split <;> rfl
@[simp] theorem State.setSplit_rtWrites (s : State) (r : SplitRef) (x : Split) : (s.setSplit r x).rtWrites = s.rtWrites := by
  unfold State.setSplit; split <;> rfl
@[simp] theorem State.setSplit_rtTiles (s : State) (r : SplitRef) (x : Split) : (s.setSplit r x).rtTiles = s.rtTiles := by
  unfold State.setSplit; split <;> rfl
@[simp] theorem State.setSplit_queues (s : State) (r : SplitRef) (x : Split) : (s.setSplit r x).queues = s.queues := by
  unfold State.setSplit; split <;> rfl
@[simp] theorem State.setSplit_notifies (s : State) (r : SplitRef) (x : Split) : (s.setSplit r x).notifies = s.notifies := by
  unfold State.setSplit; split <;> rfl
@[simp] theorem State.setSplit_nodes (s : State) (r : SplitRef) (x : Split) : (s.setSplit r x).nodes = s.nodes := by
  unfold State.setSplit; split <;> rfl
@[simp] theorem State.setSplit_bound (s : State) (r : SplitRef) (x : Split) : (s.setSplit r x).bound = s.bound := by
  unfold State.setSplit; split <;> rfl
@[simp] theorem State.setSplit_saved (s : State) (r : SplitRef) (x : Split) : (s.setSplit r x).saved = s.saved := by
  unfold State.setSplit; split <;> rfl
@[simp] theorem State.setSplit_orphans (s : State) (r : SplitRef) (x : Split) : (s.setSplit r x).orphans = s.orphans := by
  unfold State.setSplit; split <;> rfl
@[simp] theorem State.setSplit_requests (s : State) (r : SplitRef) (x : Split) : (s.setSplit r x).requests = s.requests := by
  unfold State.setSplit; split <;> rfl
@[simp] theorem State.setSplit_releases (s : State) (r : SplitRef) (x : Split) : (s.setSplit r x).releases = s.releases := by
  unfold State.setSplit; split <;> rfl
@[simp] theorem State.setSplit_domains (s : State) (r : SplitRef) (x : Split) : (s.setSplit r x).domains = s.domains := by
  unfold State.setSplit; split <;> rfl
@[simp] theorem State.setSplit_sluices (s : State) (r : SplitRef) (x : Split) : (s.setSplit r x).sluices = s.sluices := by
  unfold State.setSplit; split <;> rfl
@[simp] theorem State.setSplit_windows (s : State) (r : SplitRef) (x : Split) : (s.setSplit r x).windows = s.windows := by
  unfold State.setSplit; split <;> rfl
@[simp] theorem State.setSplit_imports (s : State) (r : SplitRef) (x : Split) : (s.setSplit r x).imports = s.imports := by
  unfold State.setSplit; split <;> rfl
@[simp] theorem State.setSplit_windowLog (s : State) (r : SplitRef) (x : Split) : (s.setSplit r x).windowLog = s.windowLog := by
  unfold State.setSplit; split <;> rfl
@[simp] theorem State.setSplit_windowErrors (s : State) (r : SplitRef) (x : Split) : (s.setSplit r x).windowErrors = s.windowErrors := by
  unfold State.setSplit; split <;> rfl
@[simp] theorem State.setSplit_triggers (s : State) (r : SplitRef) (x : Split) : (s.setSplit r x).triggers = s.triggers := by
  unfold State.setSplit; split <;> rfl
@[simp] theorem State.setSplit_arrivals (s : State) (r : SplitRef) (x : Split) : (s.setSplit r x).arrivals = s.arrivals := by
  unfold State.setSplit; split <;> rfl
@[simp] theorem State.setSplit_session (s : State) (r : SplitRef) (x : Split) : (s.setSplit r x).session = s.session := by
  unfold State.setSplit; split <;> rfl
@[simp] theorem State.setSplit_peerSessions (s : State) (r : SplitRef) (x : Split) : (s.setSplit r x).peerSessions = s.peerSessions := by
  unfold State.setSplit; split <;> rfl
@[simp] theorem State.setSplit_drops (s : State) (r : SplitRef) (x : Split) : (s.setSplit r x).drops = s.drops := by
  unfold State.setSplit; split <;> rfl
@[simp] theorem State.setSplit_strangers (s : State) (r : SplitRef) (x : Split) : (s.setSplit r x).strangers = s.strangers := by
  unfold State.setSplit; split <;> rfl
@[simp] theorem State.setSplit_hostPort (s : State) (r : SplitRef) (x : Split) : (s.setSplit r x).hostPort = s.hostPort := by
  unfold State.setSplit; split <;> rfl
@[simp] theorem State.setSplit_aperture (s : State) (r : SplitRef) (x : Split) : (s.setSplit r x).aperture = s.aperture := by
  unfold State.setSplit; split <;> rfl
@[simp] theorem State.setSplit_frames (s : State) (r : SplitRef) (x : Split) : (s.setSplit r x).frames = s.frames := by
  unfold State.setSplit; split <;> rfl
@[simp] theorem State.setSplit_arrivedBytes (s : State) (r : SplitRef) (x : Split) : (s.setSplit r x).arrivedBytes = s.arrivedBytes := by
  unfold State.setSplit; split <;> rfl
@[simp] theorem State.setSplit_asked (s : State) (r : SplitRef) (x : Split) : (s.setSplit r x).asked = s.asked := by
  unfold State.setSplit; split <;> rfl
@[simp] theorem State.setSplit_serving (s : State) (r : SplitRef) (x : Split) : (s.setSplit r x).serving = s.serving := by
  unfold State.setSplit; split <;> rfl
@[simp] theorem State.setSplit_spdm (s : State) (r : SplitRef) (x : Split) : (s.setSplit r x).spdm = s.spdm := by
  unfold State.setSplit; split <;> rfl
@[simp] theorem State.setSplit_rpcRing (s : State) (r : SplitRef) (x : Split) : (s.setSplit r x).rpcRing = s.rpcRing := by
  unfold State.setSplit; split <;> rfl
@[simp] theorem State.setSplit_forwarded (s : State) (r : SplitRef) (x : Split) : (s.setSplit r x).forwarded = s.forwarded := by
  unfold State.setSplit; split <;> rfl
@[simp] theorem State.setSplit_out (s : State) (r : SplitRef) (x : Split) : (s.setSplit r x).out = s.out := by
  unfold State.setSplit; split <;> rfl
@[simp] theorem State.setSplit_mailbox (s : State) (r : SplitRef) (x : Split) : (s.setSplit r x).mailbox = s.mailbox := by
  unfold State.setSplit; split <;> rfl
@[simp] theorem State.setSplit_curHart (s : State) (r : SplitRef) (x : Split) : (s.setSplit r x).curHart = s.curHart := by
  unfold State.setSplit; split <;> rfl
@[simp] theorem State.setSplit_invalidated (s : State) (r : SplitRef) (x : Split) : (s.setSplit r x).invalidated = s.invalidated := by
  unfold State.setSplit; split <;> rfl
@[simp] theorem State.setSplit_portLoads (s : State) (r : SplitRef) (x : Split) : (s.setSplit r x).portLoads = s.portLoads := by
  unfold State.setSplit; split <;> rfl
@[simp] theorem State.setSplit_residentLoads (s : State) (r : SplitRef) (x : Split) : (s.setSplit r x).residentLoads = s.residentLoads := by
  unfold State.setSplit; split <;> rfl
@[simp] theorem State.setSplit_cdi2Handed (s : State) (r : SplitRef) (x : Split) : (s.setSplit r x).cdi2Handed = s.cdi2Handed := by
  unfold State.setSplit; split <;> rfl
@[simp] theorem State.setSplit_commandCores (s : State) (r : SplitRef) (x : Split) : (s.setSplit r x).commandCores = s.commandCores := by
  unfold State.setSplit; split <;> rfl
@[simp] theorem State.setSplit_rank (s : State) (r : SplitRef) (x : Split) : (s.setSplit r x).rank = s.rank := by
  unfold State.setSplit; split <;> rfl
@[simp] theorem State.setSplit_cur (s : State) (r : SplitRef) (x : Split) : (s.setSplit r x).cur = s.cur := by
  unfold State.setSplit; split <;> rfl
@[simp] theorem State.setSplit_curCmd (s : State) (r : SplitRef) (x : Split) : (s.setSplit r x).curCmd = s.curCmd := by
  unfold State.setSplit; split <;> rfl
@[simp] theorem State.setSplit_residueFails (s : State) (r : SplitRef) (x : Split) : (s.setSplit r x).residueFails = s.residueFails := by
  unfold State.setSplit; split <;> rfl
@[simp] theorem State.setSplit_upsets (s : State) (r : SplitRef) (x : Split) : (s.setSplit r x).upsets = s.upsets := by
  unfold State.setSplit; split <;> rfl
@[simp] theorem State.setSplit_schedule (s : State) (r : SplitRef) (x : Split) : (s.setSplit r x).schedule = s.schedule := by
  unfold State.setSplit; split <;> rfl
@[simp] theorem State.setSplit_fresh (s : State) (r : SplitRef) (x : Split) : (s.setSplit r x).fresh = s.fresh := by
  unfold State.setSplit; split <;> rfl
@[simp] theorem State.setSplit_serial (s : State) (r : SplitRef) (x : Split) : (s.setSplit r x).serial = s.serial := by
  unfold State.setSplit; split <;> rfl
@[simp] theorem State.modSplit_power (s : State) (r : SplitRef) (f : Split → Split) : (s.modSplit r f).power = s.power := by
  unfold State.modSplit; split <;> simp
@[simp] theorem State.modSplit_boot (s : State) (r : SplitRef) (f : Split → Split) : (s.modSplit r f).boot = s.boot := by
  unfold State.modSplit; split <;> simp
@[simp] theorem State.modSplit_boots (s : State) (r : SplitRef) (f : Split → Split) : (s.modSplit r f).boots = s.boots := by
  unfold State.modSplit; split <;> simp
@[simp] theorem State.modSplit_issueClock (s : State) (r : SplitRef) (f : Split → Split) : (s.modSplit r f).issueClock = s.issueClock := by
  unfold State.modSplit; split <;> simp
@[simp] theorem State.modSplit_powerCap (s : State) (r : SplitRef) (f : Split → Split) : (s.modSplit r f).powerCap = s.powerCap := by
  unfold State.modSplit; split <;> simp
@[simp] theorem State.modSplit_throttled (s : State) (r : SplitRef) (f : Split → Split) : (s.modSplit r f).throttled = s.throttled := by
  unfold State.modSplit; split <;> simp
@[simp] theorem State.modSplit_cyc (s : State) (r : SplitRef) (f : Split → Split) : (s.modSplit r f).cyc = s.cyc := by
  unfold State.modSplit; split <;> simp
@[simp] theorem State.modSplit_time (s : State) (r : SplitRef) (f : Split → Split) : (s.modSplit r f).time = s.time := by
  unfold State.modSplit; split <;> simp
@[simp] theorem State.modSplit_floor (s : State) (r : SplitRef) (f : Split → Split) : (s.modSplit r f).floor = s.floor := by
  unfold State.modSplit; split <;> simp
@[simp] theorem State.modSplit_hubLt (s : State) (r : SplitRef) (f : Split → Split) : (s.modSplit r f).hubLt = s.hubLt := by
  unfold State.modSplit; split <;> simp
@[simp] theorem State.modSplit_hubTicked (s : State) (r : SplitRef) (f : Split → Split) : (s.modSplit r f).hubTicked = s.hubTicked := by
  unfold State.modSplit; split <;> simp
@[simp] theorem State.modSplit_idleLt (s : State) (r : SplitRef) (f : Split → Split) : (s.modSplit r f).idleLt = s.idleLt := by
  unfold State.modSplit; split <;> simp
@[simp] theorem State.modSplit_idleTicked (s : State) (r : SplitRef) (f : Split → Split) : (s.modSplit r f).idleTicked = s.idleTicked := by
  unfold State.modSplit; split <;> simp
@[simp] theorem State.modSplit_resCopies (s : State) (r : SplitRef) (f : Split → Split) : (s.modSplit r f).resCopies = s.resCopies := by
  unfold State.modSplit; split <;> simp
@[simp] theorem State.modSplit_measurements (s : State) (r : SplitRef) (f : Split → Split) : (s.modSplit r f).measurements = s.measurements := by
  unfold State.modSplit; split <;> simp
@[simp] theorem State.modSplit_cdi1 (s : State) (r : SplitRef) (f : Split → Split) : (s.modSplit r f).cdi1 = s.cdi1 := by
  unfold State.modSplit; split <;> simp
@[simp] theorem State.modSplit_cdi2 (s : State) (r : SplitRef) (f : Split → Split) : (s.modSplit r f).cdi2 = s.cdi2 := by
  unfold State.modSplit; split <;> simp
@[simp] theorem State.modSplit_imageAsked (s : State) (r : SplitRef) (f : Split → Split) : (s.modSplit r f).imageAsked = s.imageAsked := by
  unfold State.modSplit; split <;> simp
@[simp] theorem State.modSplit_udsReachable (s : State) (r : SplitRef) (f : Split → Split) : (s.modSplit r f).udsReachable = s.udsReachable := by
  unfold State.modSplit; split <;> simp
@[simp] theorem State.modSplit_flash (s : State) (r : SplitRef) (f : Split → Split) : (s.modSplit r f).flash = s.flash := by
  unfold State.modSplit; split <;> simp
@[simp] theorem State.modSplit_torn (s : State) (r : SplitRef) (f : Split → Split) : (s.modSplit r f).torn = s.torn := by
  unfold State.modSplit; split <;> simp
@[simp] theorem State.modSplit_flashing (s : State) (r : SplitRef) (f : Split → Split) : (s.modSplit r f).flashing = s.flashing := by
  unfold State.modSplit; split <;> simp
@[simp] theorem State.modSplit_recovery (s : State) (r : SplitRef) (f : Split → Split) : (s.modSplit r f).recovery = s.recovery := by
  unfold State.modSplit; split <;> simp
@[simp] theorem State.modSplit_keySlots (s : State) (r : SplitRef) (f : Split → Split) : (s.modSplit r f).keySlots = s.keySlots := by
  unfold State.modSplit; split <;> simp
@[simp] theorem State.modSplit_rasLog (s : State) (r : SplitRef) (f : Split → Split) : (s.modSplit r f).rasLog = s.rasLog := by
  unfold State.modSplit; split <;> simp
@[simp] theorem State.modSplit_linkRetries (s : State) (r : SplitRef) (f : Split → Split) : (s.modSplit r f).linkRetries = s.linkRetries := by
  unfold State.modSplit; split <;> simp
@[simp] theorem State.modSplit_floatOnset (s : State) (r : SplitRef) (f : Split → Split) : (s.modSplit r f).floatOnset = s.floatOnset := by
  unfold State.modSplit; split <;> simp
@[simp] theorem State.modSplit_mem (s : State) (r : SplitRef) (f : Split → Split) : (s.modSplit r f).mem = s.mem := by
  unfold State.modSplit; split <;> simp
@[simp] theorem State.modSplit_sectorKeys (s : State) (r : SplitRef) (f : Split → Split) : (s.modSplit r f).sectorKeys = s.sectorKeys := by
  unfold State.modSplit; split <;> simp
@[simp] theorem State.modSplit_poisoned (s : State) (r : SplitRef) (f : Split → Split) : (s.modSplit r f).poisoned = s.poisoned := by
  unfold State.modSplit; split <;> simp
@[simp] theorem State.modSplit_keyMap (s : State) (r : SplitRef) (f : Split → Split) : (s.modSplit r f).keyMap = s.keyMap := by
  unfold State.modSplit; split <;> simp
@[simp] theorem State.modSplit_lineTs (s : State) (r : SplitRef) (f : Split → Split) : (s.modSplit r f).lineTs = s.lineTs := by
  unfold State.modSplit; split <;> simp
@[simp] theorem State.modSplit_dieTab (s : State) (r : SplitRef) (f : Split → Split) : (s.modSplit r f).dieTab = s.dieTab := by
  unfold State.modSplit; split <;> simp
@[simp] theorem State.modSplit_leases (s : State) (r : SplitRef) (f : Split → Split) : (s.modSplit r f).leases = s.leases := by
  unfold State.modSplit; split <;> simp
@[simp] theorem State.modSplit_contexts (s : State) (r : SplitRef) (f : Split → Split) : (s.modSplit r f).contexts = s.contexts := by
  unfold State.modSplit; split <;> simp
@[simp] theorem State.modSplit_saveTable (s : State) (r : SplitRef) (f : Split → Split) : (s.modSplit r f).saveTable = s.saveTable := by
  unfold State.modSplit; split <;> simp
@[simp] theorem State.modSplit_regions (s : State) (r : SplitRef) (f : Split → Split) : (s.modSplit r f).regions = s.regions := by
  unfold State.modSplit; split <;> simp
@[simp] theorem State.modSplit_coreTab (s : State) (r : SplitRef) (f : Split → Split) : (s.modSplit r f).coreTab = s.coreTab := by
  unfold State.modSplit; split <;> simp
@[simp] theorem State.modSplit_wgs (s : State) (r : SplitRef) (f : Split → Split) : (s.modSplit r f).wgs = s.wgs := by
  unfold State.modSplit; split <;> simp
@[simp] theorem State.modSplit_deadlocks (s : State) (r : SplitRef) (f : Split → Split) : (s.modSplit r f).deadlocks = s.deadlocks := by
  unfold State.modSplit; split <;> simp
@[simp] theorem State.modSplit_acks (s : State) (r : SplitRef) (f : Split → Split) : (s.modSplit r f).acks = s.acks := by
  unfold State.modSplit; split <;> simp
@[simp] theorem State.modSplit_commands (s : State) (r : SplitRef) (f : Split → Split) : (s.modSplit r f).commands = s.commands := by
  unfold State.modSplit; split <;> simp
@[simp] theorem State.modSplit_remotes (s : State) (r : SplitRef) (f : Split → Split) : (s.modSplit r f).remotes = s.remotes := by
  unfold State.modSplit; split <;> simp
@[simp] theorem State.modSplit_threads (s : State) (r : SplitRef) (f : Split → Split) : (s.modSplit r f).threads = s.threads := by
  unfold State.modSplit; split <;> simp
@[simp] theorem State.modSplit_rtWrites (s : State) (r : SplitRef) (f : Split → Split) : (s.modSplit r f).rtWrites = s.rtWrites := by
  unfold State.modSplit; split <;> simp
@[simp] theorem State.modSplit_rtTiles (s : State) (r : SplitRef) (f : Split → Split) : (s.modSplit r f).rtTiles = s.rtTiles := by
  unfold State.modSplit; split <;> simp
@[simp] theorem State.modSplit_queues (s : State) (r : SplitRef) (f : Split → Split) : (s.modSplit r f).queues = s.queues := by
  unfold State.modSplit; split <;> simp
@[simp] theorem State.modSplit_notifies (s : State) (r : SplitRef) (f : Split → Split) : (s.modSplit r f).notifies = s.notifies := by
  unfold State.modSplit; split <;> simp
@[simp] theorem State.modSplit_nodes (s : State) (r : SplitRef) (f : Split → Split) : (s.modSplit r f).nodes = s.nodes := by
  unfold State.modSplit; split <;> simp
@[simp] theorem State.modSplit_bound (s : State) (r : SplitRef) (f : Split → Split) : (s.modSplit r f).bound = s.bound := by
  unfold State.modSplit; split <;> simp
@[simp] theorem State.modSplit_saved (s : State) (r : SplitRef) (f : Split → Split) : (s.modSplit r f).saved = s.saved := by
  unfold State.modSplit; split <;> simp
@[simp] theorem State.modSplit_orphans (s : State) (r : SplitRef) (f : Split → Split) : (s.modSplit r f).orphans = s.orphans := by
  unfold State.modSplit; split <;> simp
@[simp] theorem State.modSplit_requests (s : State) (r : SplitRef) (f : Split → Split) : (s.modSplit r f).requests = s.requests := by
  unfold State.modSplit; split <;> simp
@[simp] theorem State.modSplit_releases (s : State) (r : SplitRef) (f : Split → Split) : (s.modSplit r f).releases = s.releases := by
  unfold State.modSplit; split <;> simp
@[simp] theorem State.modSplit_domains (s : State) (r : SplitRef) (f : Split → Split) : (s.modSplit r f).domains = s.domains := by
  unfold State.modSplit; split <;> simp
@[simp] theorem State.modSplit_sluices (s : State) (r : SplitRef) (f : Split → Split) : (s.modSplit r f).sluices = s.sluices := by
  unfold State.modSplit; split <;> simp
@[simp] theorem State.modSplit_windows (s : State) (r : SplitRef) (f : Split → Split) : (s.modSplit r f).windows = s.windows := by
  unfold State.modSplit; split <;> simp
@[simp] theorem State.modSplit_imports (s : State) (r : SplitRef) (f : Split → Split) : (s.modSplit r f).imports = s.imports := by
  unfold State.modSplit; split <;> simp
@[simp] theorem State.modSplit_windowLog (s : State) (r : SplitRef) (f : Split → Split) : (s.modSplit r f).windowLog = s.windowLog := by
  unfold State.modSplit; split <;> simp
@[simp] theorem State.modSplit_windowErrors (s : State) (r : SplitRef) (f : Split → Split) : (s.modSplit r f).windowErrors = s.windowErrors := by
  unfold State.modSplit; split <;> simp
@[simp] theorem State.modSplit_triggers (s : State) (r : SplitRef) (f : Split → Split) : (s.modSplit r f).triggers = s.triggers := by
  unfold State.modSplit; split <;> simp
@[simp] theorem State.modSplit_arrivals (s : State) (r : SplitRef) (f : Split → Split) : (s.modSplit r f).arrivals = s.arrivals := by
  unfold State.modSplit; split <;> simp
@[simp] theorem State.modSplit_session (s : State) (r : SplitRef) (f : Split → Split) : (s.modSplit r f).session = s.session := by
  unfold State.modSplit; split <;> simp
@[simp] theorem State.modSplit_peerSessions (s : State) (r : SplitRef) (f : Split → Split) : (s.modSplit r f).peerSessions = s.peerSessions := by
  unfold State.modSplit; split <;> simp
@[simp] theorem State.modSplit_drops (s : State) (r : SplitRef) (f : Split → Split) : (s.modSplit r f).drops = s.drops := by
  unfold State.modSplit; split <;> simp
@[simp] theorem State.modSplit_strangers (s : State) (r : SplitRef) (f : Split → Split) : (s.modSplit r f).strangers = s.strangers := by
  unfold State.modSplit; split <;> simp
@[simp] theorem State.modSplit_hostPort (s : State) (r : SplitRef) (f : Split → Split) : (s.modSplit r f).hostPort = s.hostPort := by
  unfold State.modSplit; split <;> simp
@[simp] theorem State.modSplit_aperture (s : State) (r : SplitRef) (f : Split → Split) : (s.modSplit r f).aperture = s.aperture := by
  unfold State.modSplit; split <;> simp
@[simp] theorem State.modSplit_frames (s : State) (r : SplitRef) (f : Split → Split) : (s.modSplit r f).frames = s.frames := by
  unfold State.modSplit; split <;> simp
@[simp] theorem State.modSplit_arrivedBytes (s : State) (r : SplitRef) (f : Split → Split) : (s.modSplit r f).arrivedBytes = s.arrivedBytes := by
  unfold State.modSplit; split <;> simp
@[simp] theorem State.modSplit_asked (s : State) (r : SplitRef) (f : Split → Split) : (s.modSplit r f).asked = s.asked := by
  unfold State.modSplit; split <;> simp
@[simp] theorem State.modSplit_serving (s : State) (r : SplitRef) (f : Split → Split) : (s.modSplit r f).serving = s.serving := by
  unfold State.modSplit; split <;> simp
@[simp] theorem State.modSplit_spdm (s : State) (r : SplitRef) (f : Split → Split) : (s.modSplit r f).spdm = s.spdm := by
  unfold State.modSplit; split <;> simp
@[simp] theorem State.modSplit_rpcRing (s : State) (r : SplitRef) (f : Split → Split) : (s.modSplit r f).rpcRing = s.rpcRing := by
  unfold State.modSplit; split <;> simp
@[simp] theorem State.modSplit_forwarded (s : State) (r : SplitRef) (f : Split → Split) : (s.modSplit r f).forwarded = s.forwarded := by
  unfold State.modSplit; split <;> simp
@[simp] theorem State.modSplit_out (s : State) (r : SplitRef) (f : Split → Split) : (s.modSplit r f).out = s.out := by
  unfold State.modSplit; split <;> simp
@[simp] theorem State.modSplit_mailbox (s : State) (r : SplitRef) (f : Split → Split) : (s.modSplit r f).mailbox = s.mailbox := by
  unfold State.modSplit; split <;> simp
@[simp] theorem State.modSplit_curHart (s : State) (r : SplitRef) (f : Split → Split) : (s.modSplit r f).curHart = s.curHart := by
  unfold State.modSplit; split <;> simp
@[simp] theorem State.modSplit_invalidated (s : State) (r : SplitRef) (f : Split → Split) : (s.modSplit r f).invalidated = s.invalidated := by
  unfold State.modSplit; split <;> simp
@[simp] theorem State.modSplit_portLoads (s : State) (r : SplitRef) (f : Split → Split) : (s.modSplit r f).portLoads = s.portLoads := by
  unfold State.modSplit; split <;> simp
@[simp] theorem State.modSplit_residentLoads (s : State) (r : SplitRef) (f : Split → Split) : (s.modSplit r f).residentLoads = s.residentLoads := by
  unfold State.modSplit; split <;> simp
@[simp] theorem State.modSplit_cdi2Handed (s : State) (r : SplitRef) (f : Split → Split) : (s.modSplit r f).cdi2Handed = s.cdi2Handed := by
  unfold State.modSplit; split <;> simp
@[simp] theorem State.modSplit_commandCores (s : State) (r : SplitRef) (f : Split → Split) : (s.modSplit r f).commandCores = s.commandCores := by
  unfold State.modSplit; split <;> simp
@[simp] theorem State.modSplit_rank (s : State) (r : SplitRef) (f : Split → Split) : (s.modSplit r f).rank = s.rank := by
  unfold State.modSplit; split <;> simp
@[simp] theorem State.modSplit_cur (s : State) (r : SplitRef) (f : Split → Split) : (s.modSplit r f).cur = s.cur := by
  unfold State.modSplit; split <;> simp
@[simp] theorem State.modSplit_curCmd (s : State) (r : SplitRef) (f : Split → Split) : (s.modSplit r f).curCmd = s.curCmd := by
  unfold State.modSplit; split <;> simp
@[simp] theorem State.modSplit_residueFails (s : State) (r : SplitRef) (f : Split → Split) : (s.modSplit r f).residueFails = s.residueFails := by
  unfold State.modSplit; split <;> simp
@[simp] theorem State.modSplit_upsets (s : State) (r : SplitRef) (f : Split → Split) : (s.modSplit r f).upsets = s.upsets := by
  unfold State.modSplit; split <;> simp
@[simp] theorem State.modSplit_schedule (s : State) (r : SplitRef) (f : Split → Split) : (s.modSplit r f).schedule = s.schedule := by
  unfold State.modSplit; split <;> simp
@[simp] theorem State.modSplit_fresh (s : State) (r : SplitRef) (f : Split → Split) : (s.modSplit r f).fresh = s.fresh := by
  unfold State.modSplit; split <;> simp
@[simp] theorem State.modSplit_serial (s : State) (r : SplitRef) (f : Split → Split) : (s.modSplit r f).serial = s.serial := by
  unfold State.modSplit; split <;> simp

end Sys2Proof.Machine
end

