-- ==== Sys2Proof/Laws/Scalar.lean ====
section
/-! SUPPORT. What running a scalar word does, said once: the next state of a word of a running split, and what a write of a
register or a pair leaves. -/

namespace Sys2Proof.Machine

/-- A word of a running split answers a next state. -/
theorem onSplit_runs {s : State} {r : SplitRef} {g : Group} {sp : Split} (h : Runs s r g sp)
    (f : SplitRef → Group → Split → State) : onSplit s f = .next (bump (f r g sp)) := by
  obtain ⟨h1, h2⟩ := h
  simp [onSplit, h1, h2]

/-- A step of a powered part answers a next state. -/
theorem onPart_on {s : State} (h : s.power = true) (f : State → State) : onPart s f = .next (bump (f s)) := by
  simp [onPart, h]

/-! ### One register -/

theorem beatOf_zero (m : LaneMask) : beatOf m 0 = m.extractLsb' 0 32 := rfl

theorem putScalar_s (sp : Split) (n : SReg) (v : Word) (m : SReg) :
    (putScalar sp n.val v).s[m] = if m = n ∧ n ≠ 0 then maskedWord sp.lanes n.val v else sp.s[m] := by
  by_cases h0 : n = 0
  · subst h0; simp [putScalar]
  · have h1 : 0 < n.val := by
      rcases Nat.eq_zero_or_pos n.val with h | h
      · exact absurd (Fin.ext h) h0
      · exact h
    have h2 : (0 < n.val ∧ n.val < 64) := ⟨h1, n.isLt⟩
    simp only [putScalar, dif_pos h2, h0, ne_eq, not_false_eq_true, and_true]
    by_cases h : m = n
    · subst h; simp
    · have h3 : n.val ≠ m.val := fun e => h (Fin.ext e.symm)
      simp [h, h3]

theorem writeS_s (sp : Split) (n : SReg) (v : Word) (m : SReg) :
    (writeS sp n v).s[m] = if m = n ∧ n ≠ 0 then maskedWord sp.lanes n.val v else sp.s[m] := by
  by_cases h0 : n = 0
  · subst h0; simp [writeS]
  · have h1 : ¬ n.val = 0 := fun e => h0 (Fin.ext e)
    rw [← putScalar_s sp n v m]
    simp [writeS, h1, markWritten]

/-- A write of a scalar register changes the register file, the record of writes and what is contested, and nothing else. -/
theorem writeS_frame (sp : Split) (n : SReg) (v : Word) :
    writeS sp n v = { sp with s := (writeS sp n v).s, written := (writeS sp n v).written, inflight := (writeS sp n v).inflight } := by
  unfold writeS
  split
  · rfl
  · simp only [markWritten, putScalar]
    split <;> rfl

@[simp] theorem writeS_lanes (sp : Split) (n : SReg) (v : Word) : (writeS sp n v).lanes = sp.lanes := by
  rw [writeS_frame]
@[simp] theorem writeS_spc (sp : Split) (n : SReg) (v : Word) : (writeS sp n v).spc = sp.spc := by
  rw [writeS_frame]
@[simp] theorem writeS_lpc (sp : Split) (n : SReg) (v : Word) : (writeS sp n v).lpc = sp.lpc := by
  rw [writeS_frame]
@[simp] theorem writeS_scalarCount (sp : Split) (n : SReg) (v : Word) : (writeS sp n v).scalarCount = sp.scalarCount := by
  rw [writeS_frame]

theorem writeS_written (sp : Split) (n : SReg) (v : Word) : Named sp (writeS sp n v) n := by
  by_cases h0 : n = 0
  · subst h0; simp [Named, writeS]
  · have h1 : ¬ n.val = 0 := fun e => h0 (Fin.ext e)
    simp only [Named, h0, if_false, writeS, h1, markWritten, putScalar]
    split <;> rfl

theorem contestScalar_ids (hit : Nat → Bool) (n : Nat) (l : List InFlight) :
    (contestScalar hit n l).map InFlight.id = l.map InFlight.id := by
  simp only [contestScalar, List.map_map]
  refine List.map_congr_left fun f _ => ?_
  show InFlight.id (if _ then _ else _) = _
  split <;> rfl

theorem writeS_inflight (sp : Split) (n : SReg) (v : Word) : SameInFlight sp (writeS sp n v) := by
  unfold SameInFlight writeS
  split
  · rfl
  · simp only [contestScalar_ids, markWritten, putScalar]
    split <;> rfl

theorem maskedWord_eq (sp : Split) (n : SReg) (h : n ≠ 0) (v : Word) :
    maskedWord sp.lanes n.val v = if n = 0 then sp.s[n]
      else if n = 60 then v &&& beatOf sp.lanes 0
      else if n = 61 then v &&& beatOf sp.lanes 1
      else if n = 62 then v &&& beatOf sp.lanes 2
      else v := by
  have e : ∀ k : SReg, n = k ↔ n.val = k.val := fun k => Fin.ext_iff
  simp only [h, if_false, maskedWord, e 60, e 61, e 62]
  rfl

theorem writeS_wrote (sp : Split) (n : SReg) (v : Word) : WroteW sp (writeS sp n v) n v := by
  refine ⟨?_, ?_, writeS_written sp n v, writeS_inflight sp n v, ?_⟩
  · unfold Holds
    rw [writeS_s]
    by_cases h : n = 0
    · simp [h]
    · simp only [h, ne_eq, not_false_eq_true, and_self, if_true]
      simpa [h] using maskedWord_eq sp n h v
  · intro m h
    rw [writeS_s]
    simp [h]
  · intro h
    subst h
    simp [NoWrite, writeS]

/-! ### Pairs -/

theorem writeD_eq (sp : Split) (p : Pair) (v : DWord) : writeD sp p v = writeS (writeS sp (evenOf p) v.lo) (oddOf p) v.hi := rfl

theorem even_ne_odd (p : Pair) : (evenOf p) ≠ (oddOf p) := by
  intro h
  have := congrArg Fin.val h
  have hp := p.isLt
  simp only [evenOf, oddOf, Fin.ofNat] at this
  omega

theorem odd_ne_zero (p : Pair) : (oddOf p) ≠ 0 := by
  intro h
  have := congrArg Fin.val h
  have hp := p.isLt
  simp only [oddOf, Fin.ofNat] at this
  simp at this
  omega

theorem writeD_wrote (sp : Split) (p : Pair) (v : DWord) : WroteD sp (writeD sp p v) p v := by
  rw [writeD_eq]
  obtain ⟨a1, a2, _, a4, _⟩ := writeS_wrote sp (evenOf p) v.lo
  obtain ⟨b1, b2, _, b4, _⟩ := writeS_wrote (writeS sp (evenOf p) v.lo) (oddOf p) v.hi
  refine ⟨?_, ?_, ?_, ?_⟩
  · unfold Holds at a1 ⊢
    rw [b2 (evenOf p) (even_ne_odd p), a1]
  · unfold Holds at b1 ⊢
    rw [b1]
    simp [odd_ne_zero]
  · intro m h1 h2
    rw [b2 m h2, a2 m h1]
  · unfold SameInFlight at *
    rw [b4, a4]

theorem writeD_frame (sp : Split) (p : Pair) (v : DWord) :
    writeD sp p v = { sp with s := (writeD sp p v).s, written := (writeD sp p v).written, inflight := (writeD sp p v).inflight } := by
  rw [writeD_eq, writeS_frame (writeS sp (evenOf p) v.lo), writeS_frame sp]

/-! ### Words that have issued -/

/-- What retiring a word does to a split whose registers have been written. -/
theorem retire_issued (s : State) (sp x : Split) (len : Nat)
    (hx : x = { sp with s := x.s, written := x.written, inflight := x.inflight }) :
    Issued s sp (retire s x len) (sp.spc + BitVec.ofNat 32 len) sp.lpc := by
  rw [hx]; rfl

theorem retireTo_issued (s : State) (sp x : Split) (a b : Word)
    (hx : x = { sp with s := x.s, written := x.written, inflight := x.inflight }) : Issued s sp (retireTo s x a b) a b := by
  rw [hx]; rfl

theorem retire_wrote {sp x : Split} {n : SReg} {v : Word} (s : State) (len : Nat) (h : WroteW sp x n v) :
    WroteW sp (retire s x len) n v := h

theorem retire_wroteD {sp x : Split} {p : Pair} {v : DWord} (s : State) (len : Nat) (h : WroteD sp x p v) :
    WroteD sp (retire s x len) p v := h

/-- A form that writes one register (R132). -/
theorem scalarW_runs {s : State} {r : SplitRef} {g : Group} {sp : Split} (h : Runs s r g sp) (sd : SReg)
    (v : State → Split → Word) :
    ∃ sp', scalarW s sd v = .next (bump (s.setSplit r sp')) ∧ Issued s sp sp' (sp.spc + 1) sp.lpc ∧ WroteW sp sp' sd (v s sp) :=
  ⟨_, onSplit_runs h _, retire_issued s sp _ 1 (writeS_frame sp sd _), retire_wrote s 1 (writeS_wrote sp sd _)⟩

/-- A form that writes one pair (R132). -/
theorem scalarD_runs {s : State} {r : SplitRef} {g : Group} {sp : Split} (h : Runs s r g sp) (pd : Pair)
    (v : State → Split → DWord) :
    ∃ sp', scalarD s pd v = .next (bump (s.setSplit r sp')) ∧ Issued s sp sp' (sp.spc + 1) sp.lpc ∧ WroteD sp sp' pd (v s sp) :=
  ⟨_, onSplit_runs h _, retire_issued s sp _ 1 (writeD_frame sp pd _), retire_wroteD s 1 (writeD_wrote sp pd _)⟩

/-- A two-source 32-bit form. -/
theorem aluW_runs {s : State} {r : SplitRef} {g : Group} {sp : Split} (h : Runs s r g sp) (f : Word → Word → Word)
    (sd sa sb : SReg) :
    ∃ sp', aluW f sd sa sb s = .next (bump (s.setSplit r sp')) ∧ Issued s sp sp' (sp.spc + 1) sp.lpc ∧
      WroteW sp sp' sd (f (readS s sp sa) (readS s sp sb)) :=
  scalarW_runs h sd (fun s sp => f (readS s sp sa) (readS s sp sb))

/-- A two-source 64-bit form. -/
theorem aluD_runs {s : State} {r : SplitRef} {g : Group} {sp : Split} (h : Runs s r g sp) (f : DWord → DWord → DWord)
    (pd pa pb : Pair) :
    ∃ sp', aluD f pd pa pb s = .next (bump (s.setSplit r sp')) ∧ Issued s sp sp' (sp.spc + 1) sp.lpc ∧
      WroteD sp sp' pd (f (readD s sp pa) (readD s sp pb)) :=
  scalarD_runs h pd (fun s sp => f (readD s sp pa) (readD s sp pb))

/-- A one-source 32-bit form. -/
theorem unaryW_runs {s : State} {r : SplitRef} {g : Group} {sp : Split} (h : Runs s r g sp) (f : Word → Word) (sd sa : SReg) :
    ∃ sp', unaryW f sd sa s = .next (bump (s.setSplit r sp')) ∧ Issued s sp sp' (sp.spc + 1) sp.lpc ∧
      WroteW sp sp' sd (f (readS s sp sa)) :=
  scalarW_runs h sd (fun s sp => f (readS s sp sa))

/-- A one-source 64-bit form. -/
theorem unaryD_runs {s : State} {r : SplitRef} {g : Group} {sp : Split} (h : Runs s r g sp) (f : DWord → DWord) (pd pa : Pair) :
    ∃ sp', unaryD f pd pa s = .next (bump (s.setSplit r sp')) ∧ Issued s sp sp' (sp.spc + 1) sp.lpc ∧
      WroteD sp sp' pd (f (readD s sp pa)) :=
  scalarD_runs h pd (fun s sp => f (readD s sp pa))

end Sys2Proof.Machine
end

