-- ==== Sys2Proof/Laws/Tables.lean ====
section
/-! SUPPORT. Laws of the sparse tables and of memory: a read after a write, and the canonical form that every write keeps. -/

namespace Sys2Proof.Machine

/-! ### Tables -/

@[simp] theorem tget_tput_same {α : Type} (t : Table α) (k : Nat) (v : α) : tget (tput t k v) k = some v := by
  induction t with
  | nil => simp [tput, tget]
  | cons e t ih =>
    obtain ⟨n, u⟩ := e
    simp only [tput]
    split
    · simp [tget]
    · split
      · simp [tget]
      · rename_i h1 h2
        simp [tget, h2, ih]

theorem tget_tput_ne {α : Type} (t : Table α) {k x : Nat} (v : α) (h : x ≠ k) : tget (tput t k v) x = tget t x := by
  induction t with
  | nil => simp [tput, tget, h]
  | cons e t ih =>
    obtain ⟨n, u⟩ := e
    simp only [tput]
    split
    · simp [tget, h]
    · split
      · rename_i h1 h2
        subst h2
        simp [tget, h]
      · simp [tget, ih]

theorem tget_tput {α : Type} (t : Table α) (k x : Nat) (v : α) :
    tget (tput t k v) x = if x = k then some v else tget t x := by
  split
  · rename_i h; subst h; exact tget_tput_same t x v
  · exact tget_tput_ne t v ‹_›

theorem tget_tdel {α : Type} (t : Table α) (k x : Nat) : tget (tdel t k) x = if x = k then none else tget t x := by
  induction t with
  | nil => simp [tdel, tget]
  | cons e t ih =>
    obtain ⟨n, u⟩ := e
    simp only [tdel, List.filter_cons] at ih ⊢
    by_cases hn : n = k
    · subst hn
      simp only [bne_self_eq_false, Bool.false_eq_true, if_false, ih, tget]
      split <;> rename_i h <;> simp [h]
    · simp only [bne_iff_ne, ne_eq, hn, not_false_eq_true, if_true, tget, ih]
      by_cases hx : x = n
      · simp [hx, hn]
      · simp [hx]

theorem tget_tmod {α : Type} (t : Table α) (k x : Nat) (f : α → α) :
    tget (tmod t k f) x = if x = k then (tget t x).map f else tget t x := by
  induction t with
  | nil => simp [tmod, tget]
  | cons e t ih =>
    obtain ⟨n, u⟩ := e
    simp only [tmod, List.map_cons] at ih ⊢
    by_cases hn : n = k
    · subst hn
      by_cases hx : x = n
      · simp [tget, hx]
      · simp only [if_true, tget, hx, if_false, ih]
    · by_cases hx : x = n
      · simp [tget, hx, hn]
      · simp only [hn, if_false, tget, hx, ih]

/-! ### Memory: reads after writes -/

theorem Memory.read_drop_same (m : Memory) (a : Nat) : Memory.read (m.drop a) a = 0 := by
  induction m with
  | nil => simp [Memory.drop, Memory.read, tget]
  | cons e t ih =>
    obtain ⟨n, u⟩ := e
    simp only [Memory.drop]
    split
    · exact ih
    · rename_i hk
      simpa only [Memory.read, tget, hk, if_false] using ih

theorem Memory.read_drop_ne (m : Memory) {a x : Nat} (h : x ≠ a) : Memory.read (m.drop a) x = m.read x := by
  induction m with
  | nil => simp [Memory.drop]
  | cons e t ih =>
    obtain ⟨n, u⟩ := e
    simp only [Memory.drop]
    split
    · rename_i hk
      subst hk
      rw [ih]
      simp [Memory.read, tget, h]
    · simp only [Memory.read, tget]
      split
      · rfl
      · exact ih

/-- The byte written is read back. -/
theorem Memory.read_write_same (m : Memory) (a : Nat) (b : Byte) : (m.write a b).read a = b := by
  unfold Memory.write
  split
  · rename_i hb; subst hb; exact Memory.read_drop_same m a
  · simp [Memory.read]

/-- A write leaves every other byte alone. -/
theorem Memory.read_write_ne (m : Memory) {a x : Nat} (b : Byte) (h : x ≠ a) : (m.write a b).read x = m.read x := by
  unfold Memory.write
  split
  · exact Memory.read_drop_ne m h
  · simp [Memory.read, tget_tput_ne m b h]

/-! ### The canonical form -/

/-- The canonical form of a memory with a first entry, as a proposition. -/
theorem Memory.wfAbove_cons {lo : Option Nat} {k : Nat} {v : Byte} {t : Memory} :
    Memory.wfAbove lo ((k, v) :: t) = true ↔ (∀ n, lo = some n → n < k) ∧ v ≠ 0 ∧ Memory.wfAbove (some k) t = true := by
  cases lo <;> simp [Memory.wfAbove, and_assoc]

theorem Memory.wfAbove_mono (m : Memory) {lo lo' : Option Nat}
    (h : Memory.wfAbove lo m = true) (hl : ∀ n', lo' = some n' → ∃ n, lo = some n ∧ n' ≤ n) : Memory.wfAbove lo' m = true := by
  cases m with
  | nil => simp [Memory.wfAbove]
  | cons e t =>
    obtain ⟨k, v⟩ := e
    rw [Memory.wfAbove_cons] at h ⊢
    refine ⟨fun n' hn' => ?_, h.2⟩
    obtain ⟨n, hn, hle⟩ := hl n' hn'
    have := h.1 n hn
    omega

theorem Memory.wfAbove_drop (m : Memory) (lo : Option Nat) (a : Nat) (h : Memory.wfAbove lo m = true) :
    Memory.wfAbove lo (m.drop a) = true := by
  induction m generalizing lo with
  | nil => simpa [Memory.drop] using h
  | cons e t ih =>
    obtain ⟨n, u⟩ := e
    rw [Memory.wfAbove_cons] at h
    simp only [Memory.drop]
    split
    · exact ih lo (Memory.wfAbove_mono t h.2.2 (fun n' hn' => ⟨n, rfl, Nat.le_of_lt (h.1 n' hn')⟩))
    · rw [Memory.wfAbove_cons]
      exact ⟨h.1, h.2.1, ih _ h.2.2⟩

theorem Memory.wfAbove_tput (m : Memory) (lo : Option Nat) (a : Nat) (b : Byte) (hb : b ≠ 0)
    (hlo : ∀ n, lo = some n → n < a) (h : Memory.wfAbove lo m = true) : Memory.wfAbove lo (tput m a b) = true := by
  induction m generalizing lo with
  | nil => exact Memory.wfAbove_cons.2 ⟨hlo, hb, rfl⟩
  | cons e t ih =>
    obtain ⟨n, u⟩ := e
    rw [Memory.wfAbove_cons] at h
    simp only [tput]
    split
    · rw [Memory.wfAbove_cons, Memory.wfAbove_cons]
      exact ⟨hlo, hb, fun k hk => by injection hk with hk; omega, h.2⟩
    · split
      · rename_i heq
        subst heq
        exact Memory.wfAbove_cons.2 ⟨hlo, hb, h.2.2⟩
      · exact Memory.wfAbove_cons.2 ⟨h.1, h.2.1, ih (some n) (fun k hk => by injection hk with hk; omega) h.2.2⟩

/-- A write keeps the canonical form. -/
theorem Memory.wf_write (m : Memory) (a : Nat) (b : Byte) (h : m.wf = true) : (m.write a b).wf = true := by
  unfold Memory.write
  split
  · exact Memory.wfAbove_drop m none a h
  · exact Memory.wfAbove_tput m none a b ‹_› (by simp) h

theorem Memory.wf_writeBytes (l : List Byte) (m : Memory) (a : Nat) (h : m.wf = true) : (m.writeBytes a l).wf = true := by
  induction l generalizing m a with
  | nil => exact h
  | cons b l ih => exact ih (m.write a b) (a + 1) (Memory.wf_write m a b h)

/-- A write of bytes leaves every byte outside them alone. -/
theorem Memory.read_writeBytes_outside (l : List Byte) (m : Memory) {a x : Nat} (h : x < a ∨ a + l.length ≤ x) :
    (m.writeBytes a l).read x = m.read x := by
  induction l generalizing m a with
  | nil => rfl
  | cons b l ih =>
    simp only [List.length_cons] at h
    rw [Memory.writeBytes, ih _ (by omega), Memory.read_write_ne m b (by omega)]

/-- The bytes written are read back. -/
theorem Memory.read_writeBytes_inside (l : List Byte) (m : Memory) (a i : Nat) (h : i < l.length) :
    (m.writeBytes a l).read (a + i) = l[i] := by
  induction l generalizing m a i with
  | nil => simp at h
  | cons b l ih =>
    rw [Memory.writeBytes]
    cases i with
    | zero =>
      rw [Memory.read_writeBytes_outside l _ (by omega)]
      simpa using Memory.read_write_same m a b
    | succ i =>
      have := ih (m.write a b) (a + 1) i (by simpa using h)
      simpa [Nat.add_assoc, Nat.add_comm 1 i] using this

end Sys2Proof.Machine
end

