-- ==== Sys2Proof/Laws/Splits.lean ====
section
/-! SUPPORT. Where splits stand in the state: what reading and writing a split or a group leaves, and what messages, faults and park
points do, said once. -/

namespace Sys2Proof.Machine

/-! ### Splits and groups -/

theorem Runs.at {s : State} {r : SplitRef} {g : Group} {sp : Split} (h : Runs s r g sp) : At s r g sp := by
  obtain ⟨_, h⟩ := h
  unfold State.running at h
  split at h
  · exact absurd h (by simp)
  · split at h
    · exact absurd h (by simp)
    · split at h
      · exact absurd h (by simp)
      · simp only [Option.some.injEq, Prod.mk.injEq] at h
        obtain ⟨rfl, rfl, rfl⟩ := h
        exact ⟨‹_›, ‹_›⟩

theorem Runs.cur {s : State} {r : SplitRef} {g : Group} {sp : Split} (h : Runs s r g sp) : s.cur = some r := by
  obtain ⟨_, h⟩ := h
  unfold State.running at h
  split at h
  · exact absurd h (by simp)
  · split at h
    · exact absurd h (by simp)
    · split at h
      · exact absurd h (by simp)
      · simp only [Option.some.injEq, Prod.mk.injEq] at h
        obtain ⟨rfl, rfl, rfl⟩ := h
        assumption

theorem At.split {s : State} {r : SplitRef} {g : Group} {sp : Split} (h : At s r g sp) : s.split r = some sp := by
  simp [State.split, h.1, h.2]

/-- A group with the record of one of its splits. -/
def Group.put (g : Group) (slot : Nat) (x : Split) : Group := { g with splits := tput g.splits slot x }

@[simp] theorem Group.put_get (g : Group) (slot : Nat) (x : Split) : tget (g.put slot x).splits slot = some x := by simp [Group.put]
theorem Group.put_ne (g : Group) {slot k : Nat} (x : Split) (h : k ≠ slot) : tget (g.put slot x).splits k = tget g.splits k :=
  tget_tput_ne _ _ h
@[simp] theorem Group.put_regs (g : Group) (slot : Nat) (x : Split) : (g.put slot x).regs = g.regs := rfl
@[simp] theorem Group.put_vc (g : Group) (slot : Nat) (x : Split) : (g.put slot x).vc = g.vc := rfl
@[simp] theorem Group.put_xa (g : Group) (slot : Nat) (x : Split) : (g.put slot x).xa = g.xa := rfl
@[simp] theorem Group.put_latch (g : Group) (slot : Nat) (x : Split) : (g.put slot x).latch = g.latch := rfl
@[simp] theorem Group.put_node (g : Group) (slot : Nat) (x : Split) : (g.put slot x).node = g.node := rfl
@[simp] theorem Group.put_wg (g : Group) (slot : Nat) (x : Split) : (g.put slot x).wg = g.wg := rfl
@[simp] theorem Group.put_region (g : Group) (slot : Nat) (x : Split) : (g.put slot x).region = g.region := rfl

/-- A split is written into its group. -/
theorem At.setSplit {s : State} {r : SplitRef} {g : Group} {sp : Split} (h : At s r g sp) (x : Split) :
    s.setSplit r x = s.setGroup r.gkey (g.put r.slot x) := by
  simp [State.setSplit, h.1, Group.put]

/-- A split after its group is written. -/
theorem split_setGroup (s : State) (k : Nat) (g : Group) (x : SplitRef) :
    (s.setGroup k g).split x = if x.gkey = k then tget g.splits x.slot else s.split x := by
  simp only [State.split, State.setGroup_groups, tget_tput]
  by_cases h : x.gkey = k <;> simp [h]

theorem At.setGroup {s : State} {r : SplitRef} {g : Group} {sp : Split} (h : tget g.splits r.slot = some sp) :
    At (s.setGroup r.gkey g) r g sp := ⟨by simp, h⟩

theorem At.put {s : State} {r : SplitRef} {g : Group} {sp : Split} (h : At s r g sp) (x : Split) :
    At (s.setSplit r x) r (g.put r.slot x) x := by
  rw [h.setSplit]
  exact At.setGroup (by simp)

/-- Writing a split twice. -/
theorem tput_tput {α : Type} (t : Table α) (k : Nat) (a b : α) : tput (tput t k a) k b = tput t k b := by
  induction t with
  | nil => simp [tput]
  | cons e t ih =>
    obtain ⟨n, v⟩ := e
    simp only [tput]
    split
    · simp [tput]
    · split
      · simp [tput]
      · simp only [tput]
        simp_all

@[simp] theorem Group.put_put (g : Group) (slot : Nat) (x y : Split) : (g.put slot x).put slot y = g.put slot y := by
  simp [Group.put, tput_tput]

theorem setGroup_setGroup (s : State) (k : Nat) (a b : Group) : (s.setGroup k a).setGroup k b = s.setGroup k b := by
  simp [State.setGroup, tput_tput]

theorem At.setSplit_setSplit {s : State} {r : SplitRef} {g : Group} {sp : Split} (h : At s r g sp) (x y : Split) :
    (s.setSplit r x).setSplit r y = s.setSplit r y := by
  rw [(h.put x).setSplit, h.setSplit x, h.setSplit y, setGroup_setGroup, Group.put_put]

theorem At.modSplit {s : State} {r : SplitRef} {g : Group} {sp : Split} (h : At s r g sp) (f : Split → Split) :
    s.modSplit r f = s.setSplit r (f sp) := by
  simp [State.modSplit, h.split]

/-- A write of one split leaves every other. -/
theorem At.others {s : State} {r : SplitRef} {g g' : Group} {sp : Split} (h : At s r g sp)
    (e : ∀ k, k ≠ r.slot → tget g'.splits k = tget g.splits k) : OthersSame s (s.setGroup r.gkey g') r := by
  intro x hx
  rw [split_setGroup]
  split
  · next hk =>
    have : x.slot ≠ r.slot := by
      rcases hx with hx | hx
      · exact absurd hk hx
      · exact hx
    rw [e _ this, State.split, hk, h.1]
  · rfl

theorem At.others_put {s : State} {r : SplitRef} {g : Group} {sp : Split} (h : At s r g sp) (x : Split) :
    OthersSame s (s.setSplit r x) r := by
  rw [h.setSplit]
  exact h.others (fun k hk => tget_tput_ne _ _ hk)

theorem OthersSame.trans {s t u : State} {r : SplitRef} (h : OthersSame s t r) (k : OthersSame t u r) : OthersSame s u r :=
  fun x hx => (k x hx).trans (h x hx)

/-- The same groups hold the same splits. -/
theorem split_of_groups {s t : State} (h : t.groups = s.groups) (x : SplitRef) : t.split x = s.split x := by
  simp [State.split, h]

theorem othersSame_of_groups {s t : State} {r : SplitRef} (h : t.groups = s.groups) : OthersSame s t r :=
  fun x _ => split_of_groups h x

theorem At.of_groups {s t : State} {r : SplitRef} {g : Group} {sp : Split} (a : At s r g sp) (h : t.groups = s.groups) : At t r g sp := by
  unfold At; rw [h]; exact a

/-! ### Messages -/

theorem sluice_setSluice (s : State) (d : Nat) (q : Sluice) : (s.setSluice d q).sluice d = q := by
  simp [State.sluice]

/-- Posting a message changes a sluice and nothing else. -/
theorem post_eq (s : State) (die : Nat) (m : List DWord) : ∃ q, s.post die m = { s with sluices := q } := by
  unfold State.post
  dsimp only
  split <;> exact ⟨_, rfl⟩

@[simp] theorem post_groups (s : State) (die : Nat) (m : List DWord) : (s.post die m).groups = s.groups := by
  obtain ⟨q, h⟩ := post_eq s die m
  rw [h]
@[simp] theorem post_mem (s : State) (die : Nat) (m : List DWord) : (s.post die m).mem = s.mem := by
  obtain ⟨q, h⟩ := post_eq s die m
  rw [h]
@[simp] theorem post_wgs (s : State) (die : Nat) (m : List DWord) : (s.post die m).wgs = s.wgs := by
  obtain ⟨q, h⟩ := post_eq s die m
  rw [h]
@[simp] theorem post_nodes (s : State) (die : Nat) (m : List DWord) : (s.post die m).nodes = s.nodes := by
  obtain ⟨q, h⟩ := post_eq s die m
  rw [h]
@[simp] theorem post_coreTab (s : State) (die : Nat) (m : List DWord) : (s.post die m).coreTab = s.coreTab := by
  obtain ⟨q, h⟩ := post_eq s die m
  rw [h]
@[simp] theorem post_fresh (s : State) (die : Nat) (m : List DWord) : (s.post die m).fresh = s.fresh := by
  obtain ⟨q, h⟩ := post_eq s die m
  rw [h]
@[simp] theorem post_cyc (s : State) (die : Nat) (m : List DWord) : (s.post die m).cyc = s.cyc := by
  obtain ⟨q, h⟩ := post_eq s die m
  rw [h]

/-- A message for which the sluice has a slot, with none before it, stands in the slot at TAIL, which advances (R343). -/
theorem post_slot (s : State) (die : Nat) (m : List DWord) (hw : (s.sluice die).waiting = []) (hf : 0 < (s.sluice die).free) :
    (s.post die m).sluice die = (s.sluice die).post m (messageTime s m) := by
  have : ((s.sluice die).waiting.isEmpty && decide (0 < (s.sluice die).free)) = true := by simp [hw, hf]
  simp only [State.post, this, if_true, sluice_setSluice]

theorem Sluice.post_tail (q : Sluice) (m : List DWord) (t : BitVec 16) : (q.post m t).tail = q.tail + 1 := rfl
theorem Sluice.post_slots (q : Sluice) (m : List DWord) (t : BitVec 16) : tget (q.post m t).slots (q.tail.toNat % 1024) = some m := by
  simp [Sluice.post]

/-! ### Faults -/

theorem logEcc_eq (s : State) (core : Nat) (code : FaultCode) : ∃ l, logEcc s core code = { s with rasLog := l } := by
  unfold logEcc
  split
  · exact ⟨_, rfl⟩
  · exact ⟨s.rasLog, rfl⟩

@[simp] theorem logEcc_groups (s : State) (core : Nat) (code : FaultCode) : (logEcc s core code).groups = s.groups := by
  obtain ⟨q, h⟩ := logEcc_eq s core code
  rw [h]
@[simp] theorem logEcc_mem (s : State) (core : Nat) (code : FaultCode) : (logEcc s core code).mem = s.mem := by
  obtain ⟨q, h⟩ := logEcc_eq s core code
  rw [h]
@[simp] theorem logEcc_wgs (s : State) (core : Nat) (code : FaultCode) : (logEcc s core code).wgs = s.wgs := by
  obtain ⟨q, h⟩ := logEcc_eq s core code
  rw [h]
@[simp] theorem logEcc_nodes (s : State) (core : Nat) (code : FaultCode) : (logEcc s core code).nodes = s.nodes := by
  obtain ⟨q, h⟩ := logEcc_eq s core code
  rw [h]
@[simp] theorem logEcc_sluices (s : State) (core : Nat) (code : FaultCode) : (logEcc s core code).sluices = s.sluices := by
  obtain ⟨q, h⟩ := logEcc_eq s core code
  rw [h]
@[simp] theorem logEcc_fresh (s : State) (core : Nat) (code : FaultCode) : (logEcc s core code).fresh = s.fresh := by
  obtain ⟨q, h⟩ := logEcc_eq s core code
  rw [h]
@[simp] theorem logEcc_cyc (s : State) (core : Nat) (code : FaultCode) : (logEcc s core code).cyc = s.cyc := by
  obtain ⟨q, h⟩ := logEcc_eq s core code
  rw [h]

/-- The part with a split stopped. -/
def stoppedAt (s : State) (r : SplitRef) (sp : Split) (st : Stop) : State :=
  { s.setSplit r { sp with stopped := some st } with fresh := s.fresh + 1 }

/-- The message of a fault does not depend on what a stop changes. -/
theorem faultMessage_stopped (s : State) (r : SplitRef) (sp : Split) (st : Stop) (g : Group) (f : FaultInfo) :
    faultMessage (stoppedAt s r sp st) r g f = faultMessage s r g f := by
  simp [faultMessage, State.nodeCtx, stoppedAt]

/-- Whether accesses are out does not, either. -/
theorem accessesOut_stopped (s : State) (r : SplitRef) (sp : Split) (st : Stop) : accessesOut (stoppedAt s r sp st) r = accessesOut s r := by
  simp [accessesOut, galleyHas, stoppedAt, State.core]

/-- Posting the message of a fault changes the sluices alone. -/
theorem postFault_eq (s : State) (r : SplitRef) (g : Group) (f : FaultInfo) : ∃ q, postFault s r g f = { s with sluices := q } := by
  unfold postFault
  split
  · exact ⟨_, rfl⟩
  · exact post_eq s _ _

/-- A fault is taken: the split stops, and its message is posted. -/
theorem takeFault_eq {s : State} {r : SplitRef} {g : Group} {sp : Split} (h : At s r g sp) (kind : StopKind) (f : FaultInfo) :
    takeFault s r kind f = postFault (stoppedAt s r sp { code := f.code, kind := kind }) r g f := by
  simp only [takeFault, h.1, h.modSplit, stoppedAt, State.setSplit_fresh]

/-- What taking a fault leaves: the stopped split, every other split, memory, workgroups and nodes (R333). -/
theorem takeFault_frame {s : State} {r : SplitRef} {g : Group} {sp : Split} (h : At s r g sp) (kind : StopKind) (f : FaultInfo) :
    At (takeFault s r kind f) r
        (g.put r.slot { sp with stopped := some { code := f.code, kind := kind } })
        { sp with stopped := some { code := f.code, kind := kind } } ∧
      OthersSame s (takeFault s r kind f) r ∧ (takeFault s r kind f).mem = s.mem ∧ (takeFault s r kind f).wgs = s.wgs ∧
      (takeFault s r kind f).nodes = s.nodes ∧ (takeFault s r kind f).coreTab = s.coreTab := by
  obtain ⟨q, hq⟩ := postFault_eq (stoppedAt s r sp { code := f.code, kind := kind }) r g f
  rw [takeFault_eq h, hq]
  let x : Split := { sp with stopped := some { code := f.code, kind := kind } }
  refine ⟨(h.put x).of_groups ?_, (h.others_put x).trans (othersSame_of_groups ?_), ?_, ?_, ?_, ?_⟩ <;> simp [x, stoppedAt]

/-- Where the message of a fault stands, when the accesses of its split are performed and the sluice has a slot for it (R343). -/
theorem takeFault_posts {s : State} {r : SplitRef} {g : Group} {sp : Split} (h : At s r g sp) (kind : StopKind) (f : FaultInfo)
    (ha : accessesOut s r = false) (hw : (s.sluice (dieOf r.core)).waiting = []) (hf : 0 < (s.sluice (dieOf r.core)).free) :
    ∃ t, (takeFault s r kind f).sluice (dieOf r.core) = (s.sluice (dieOf r.core)).post (faultMessage s r g f) t := by
  refine ⟨messageTime (stoppedAt s r sp { code := f.code, kind := kind }) (faultMessage s r g f), ?_⟩
  rw [takeFault_eq h, postFault, accessesOut_stopped, ha, faultMessage_stopped]
  have e : (stoppedAt s r sp { code := f.code, kind := kind }).sluice (dieOf r.core) = s.sluice (dieOf r.core) := by
    simp [State.sluice, stoppedAt]
  simp only [Bool.false_eq_true, if_false]
  rw [post_slot _ _ _ (by rw [e]; exact hw) (by rw [e]; exact hf), e]

/-- While accesses of its split are out the message of a fault is held (R232, R343). -/
theorem takeFault_holds {s : State} {r : SplitRef} {g : Group} {sp : Split} (h : At s r g sp) (kind : StopKind) (f : FaultInfo)
    (ha : accessesOut s r = true) :
    ((takeFault s r kind f).sluice (dieOf r.core)).held = (s.sluice (dieOf r.core)).held ++ [(r, faultMessage s r g f)] := by
  rw [takeFault_eq h, postFault, accessesOut_stopped, ha, faultMessage_stopped]
  have e : (stoppedAt s r sp { code := f.code, kind := kind }).sluice (dieOf r.core) = s.sluice (dieOf r.core) := by
    simp [State.sluice, stoppedAt]
  simp only [if_true, e, sluice_setSluice]

/-- A precise fault of a scalar word leaves its split as it was, ready and stopped (R75, R332). -/
theorem faultScalar_frame {s : State} {r : SplitRef} {g : Group} {sp : Split} (h : At s r g sp) (x : Split) (skip : Nat) (code : FaultCode)
    (aux addr : DWord) :
    At (faultScalar s r x skip code aux addr) r
        (g.put r.slot { x with wait := .ready, stopped := some { code := code, kind := .scalar skip } })
        { x with wait := .ready, stopped := some { code := code, kind := .scalar skip } } ∧
      OthersSame s (faultScalar s r x skip code aux addr) r ∧ (faultScalar s r x skip code aux addr).mem = s.mem ∧
      (faultScalar s r x skip code aux addr).wgs = s.wgs := by
  have h1 : At (logEcc (s.setSplit r { x with wait := .ready }) r.core code) r _ { x with wait := .ready } :=
    (h.put { x with wait := .ready }).of_groups (by simp)
  obtain ⟨a, b, c, d, _⟩ := takeFault_frame h1 (.scalar skip)
    { code := code, aux := aux, addr := addr, lanes := execMask s x, pcs := x.pcs }
  refine ⟨?_, ?_, ?_, ?_⟩
  · rw [Group.put_put] at a
    exact a
  · exact ((h.others_put { x with wait := .ready }).trans (othersSame_of_groups (by simp))).trans b
  · exact c.trans (by simp)
  · exact d.trans (by simp)

/-- The same of a lane word (R89). -/
theorem faultLane_frame {s : State} {r : SplitRef} {g : Group} {sp : Split} (h : At s r g sp) (x : Split) (code : FaultCode)
    (addr : DWord) (m : LaneMask) :
    At (faultLane s r x code addr m) r
        (g.put r.slot { x with wait := .ready, stopped := some { code := code, kind := .lane } })
        { x with wait := .ready, stopped := some { code := code, kind := .lane } } ∧
      OthersSame s (faultLane s r x code addr m) r ∧ (faultLane s r x code addr m).mem = s.mem ∧
      (faultLane s r x code addr m).wgs = s.wgs := by
  have h1 : At (logEcc (s.setSplit r { x with wait := .ready }) r.core code) r _ { x with wait := .ready } :=
    (h.put { x with wait := .ready }).of_groups (by simp)
  obtain ⟨a, b, c, d, _⟩ := takeFault_frame h1 .lane { code := code, addr := addr, lanes := m, pcs := x.pcs }
  refine ⟨?_, ?_, ?_, ?_⟩
  · rw [Group.put_put] at a
    exact a
  · exact ((h.others_put { x with wait := .ready }).trans (othersSame_of_groups (by simp))).trans b
  · exact c.trans (by simp)
  · exact d.trans (by simp)

/-! ### Park points -/

/-- The group at a park point: the split waits, its counts begin again, the latch is empty (R44, R46). -/
def parkedGroup (g : Group) (r : SplitRef) (sp : Split) (w : Wait) : Group :=
  emptyLatch { g with splits := tput g.splits r.slot { sp with laneCount := 0, scalarCount := 0, wait := w } }

/-- A park point either ends at once, its results being in, or waits for them (R44). -/
theorem parkThen_eq (s : State) (r : SplitRef) (g : Group) (sp : Split) (k : After) :
    parkThen s r g sp k =
      if resultsIn s r g sp then finishPark (s.setGroup r.gkey (parkedGroup g r sp (.park k))) r k
      else s.setGroup r.gkey (parkedGroup g r sp (.park k)) := rfl

/-- A park whose results are not in waits for them (R44). -/
theorem parkThen_waits {s : State} {r : SplitRef} {g : Group} {sp : Split} (h : resultsIn s r g sp = false) (k : After) :
    parkThen s r g sp k = s.setGroup r.gkey (parkedGroup g r sp (.park k)) := by
  simp [parkThen_eq, h]

/-- A park whose results are in ends at once. -/
theorem parkThen_ends {s : State} {r : SplitRef} {g : Group} {sp : Split} (h : resultsIn s r g sp = true) (k : After) :
    parkThen s r g sp k = finishPark (s.setGroup r.gkey (parkedGroup g r sp (.park k))) r k := by
  simp [parkThen_eq, h]

/-- The group and the split that waits. -/
theorem At.parked {s : State} {r : SplitRef} {g : Group} {sp : Split} (h : At s r g sp) (k : After) :
    At (s.setGroup r.gkey (parkedGroup g r sp (.park k))) r (parkedGroup g r sp (.park k))
        { sp with laneCount := 0, scalarCount := 0, wait := .park k } ∧
      OthersSame s (s.setGroup r.gkey (parkedGroup g r sp (.park k))) r :=
  ⟨At.setGroup (sp := { sp with laneCount := 0, scalarCount := 0, wait := .park k }) (by simp [parkedGroup, emptyLatch]),
    h.others (fun _ hk => by simp [parkedGroup, emptyLatch, tget_tput_ne _ _ hk])⟩

end Sys2Proof.Machine
end

