-- ==== Sys2Proof/Tests/Slice0.lean ====
section
/-! SUPPORT. Tests: ill-formed terms for each check of WellFormed, words written out from the spec's encodings, steps on
small states, and for each statement with hypotheses a state and operands that meet them. -/

open Sys2Proof Sys2Proof.Machine

namespace Sys2Proof.Tests

-- one proof after another, as in Laws/PerInstr.lean
set_option Elab.async false

/-! ### Ill-formed terms -/

/-- Memory fields of a plain access at group scope (R86). -/
def plain : MemFields := { code := 31, scope := .group, order := .relaxed, inv := false, cls := 0, off := 0 }

/-- A lane word on registers with every other field zero (R76). -/
def word (vd va vb vc : Opnd) : LaneWord :=
  { vd := vd, va := va, vb := vb, vc := vc, pred := none, hold := 0, p := false, sub := 0, mods := 0, ovr := 0, rnd := 0, sat := false,
    w2 := 0 }

theorem test_wf_cyc_odd : (Instr.sgetsr 5 .cyc).wf = false ∧ (Instr.sgetsr 6 .cyc).wf = true := by decide

theorem test_wf_fence_relaxed : (Instr.sfence .relaxed .device).wf = false := by decide

theorem test_wf_load_order :
    (Instr.sldW 1 1 0 { plain with order := .release }).wf = false ∧ (Instr.sldW 1 1 0 plain).wf = true ∧
    (Instr.sldD 1 1 0 { plain with order := .acquire, inv := true }).wf = false := by decide

theorem test_wf_store_order :
    (Instr.sstW 1 1 0 { plain with order := .acquire }).wf = false ∧ (Instr.sstD 1 1 0 { plain with inv := true }).wf = false := by decide

theorem test_wf_atomic_invariant :
    (Instr.satomAddW 1 1 0 { plain with inv := true }).wf = false ∧ (Instr.satomCasD 1 1 0 { plain with inv := true }).wf = false := by decide

/-- Copy fields (R278). -/
def copyPlain : CopyFields := { code := 31, scope := .group, cls := 0 }

theorem test_wf_copy_odd_pair :
    (Instr.xcopy .sg 5 6 1 0 copyPlain).wf = false ∧ (Instr.xcopy .gs 4 7 1 0 copyPlain).wf = false ∧
    (Instr.xcopy .ss 5 7 1 0 copyPlain).wf = true := by decide

theorem test_wf_remote_scope :
    (Instr.xput 1 2 3 false copyPlain 0).wf = false ∧ (Instr.xget 2 1 3 false copyPlain 0).wf = false ∧
    (Instr.xsig 1 2 false copyPlain 0).wf = false ∧ (Instr.xput 1 2 3 false { copyPlain with scope := .peer } 0).wf = true ∧
    (Instr.xput 1 3 3 false { copyPlain with scope := .peer } 0).wf = false := by decide

theorem test_wf_lane_unused_field :
    (Instr.vneg (word (.v 1) (.v 2) (.v 3) (.v 0))).wf = false ∧ (Instr.vneg (word (.v 1) (.v 2) (.v 0) (.v 0))).wf = true := by decide

theorem test_wf_lane_hold : (Instr.vneg { word (.v 1) (.v 2) (.v 0) (.v 0) with hold := 2 }).wf = false := by decide

theorem test_wf_lane_sub : (Instr.vcmp { word (.v 0) (.v 2) (.v 3) (.v 0) with sub := 8 }).wf = false := by decide

theorem test_wf_lane_mods : (Instr.vcmp { word (.v 0) (.v 2) (.v 3) (.v 0) with mods := 8 }).wf = false := by decide

theorem test_wf_lane_override :
    (Instr.vadd { word (.v 1) (.v 2) (.v 3) (.v 0) with ovr := 13 }).wf = false ∧
    (Instr.vlane { word (.v 1) (.v 0) (.v 0) (.v 0) with ovr := 1 }).wf = false := by decide

theorem test_wf_lane_rounding : (Instr.vmin { word (.v 1) (.v 2) (.v 3) (.v 0) with rnd := 1 }).wf = false := by decide

theorem test_wf_lane_saturate : (Instr.vand { word (.v 1) (.v 2) (.v 3) (.v 0) with sat := true }).wf = false := by decide

theorem test_wf_lane_literal :
    (Instr.vadd { word (.v 1) (.v 2) (.v 3) (.v 0) with w2 := 1 }).wf = false ∧
    (Instr.vadd { word (.v 1) (.v 2) .lit (.v 0) with w2 := 1 }).wf = true := by decide

theorem test_wf_lane_scalar_pair : (Instr.vtrace (word (.v 1) (.v 2) (.v 3) (.v 0))).wf = false := by decide

theorem test_wf_lane_special :
    (Instr.vli (word (.v 1) (.v 2) (.v 0) (.v 0))).wf = false ∧ (Instr.vordb { word (.v 0) (.v 0) (.v 0) (.v 0) with pred := some (false, 0) }).wf = false := by
  decide

/-! ### Words written out from the encodings -/

-- major 0x00, sd 1, sa 2, sb 3, function 0 (R65, R66)
theorem test_word_sadd : decodeIn .scalar [0x00108300] = some (.sadd 1 2 3) := by decide

-- major 0x01, pairs s2, s4, s6, function 1 (R66)
theorem test_word_ssub_d : decodeIn .scalar [0x04210601] = some (.ssubD 1 2 3) := by decide

-- major 0x02, sd 1, sa 2, sb 3, condition 4 (R67)
theorem test_word_scc : decodeIn .scalar [0x08108304] = some (.scc .ltu 1 2 3) := by decide

-- the worked words of R164
theorem test_words_of_r164 :
    decodeIn .scalar [0x70427FFB] = some (.sbltu 4 9 0x3FFB) ∧ decodeIn .scalar [0x0C028003] = some (.sret 5) ∧
    decodeIn .scalar [0x4801C003] = some (.stick 7 3) ∧ decodeIn .scalar [0xF8009000, 0x12345678] = some (.sli 9 0x12345678) := by decide

-- slrep 4, 2 is 0x3C00_0102 (R150)
theorem test_word_slrep : decodeIn .scalar [0x3C000102] = some (.slrep 4 2) := by decide

-- odd registers, a reserved condition and an unassigned function (R67, R75)
theorem test_words_refused :
    decodeScalar 0x04310601 0 = .error .regRange ∧ decodeScalar 0x08108306 0 = .error .reservedField ∧
    decodeScalar 0x00108320 0 = .error .illegalOpcode := ⟨rfl, rfl, rfl⟩

-- opcode 0x01, vd 8, va 0, vb 4 (R76)
theorem test_word_vadd : decodeIn .lane [0x01080004, 0, 0] = some (.vadd (word (.v 8) (.v 0) (.v 4) (.v 0))) := by decide

-- opcode 0x45 with beat 3 (R193), opcode 0x7F (R88)
theorem test_lane_words_refused :
    decodeLane 0x45010000 0x0000C000 0 = .error .reservedField ∧ decodeLane 0x7F000000 0 0 = .error .illegalOpcode := ⟨rfl, rfl⟩

-- opcode custom-0, funct3 1, rd 10, rs1 11, rs2 12 (R407)
theorem test_word_cx : decodeXcmd 0x00C5950B = some (.cxBfext 10 11 12) ∧ decodeXcmd 0x02C5950B = none := by decide

/-! ### Small states -/

/-- What an outcome without its error says. -/
theorem okOf {ε α : Type} {x : Except ε α} {a : α} (h : x.toOption = some a) : x = .ok a := by
  cases x with
  | error e => cases h
  | ok b => cases h; rfl

/-- A split of 96 lanes at PCs 0, every register zero but the exec mask. -/
def sp0 : Split :=
  { launchSplit 0 (groupSeed fetchNode 0) with
    s := (((Vector.replicate 64 (0 : Word)).set 60 0xFFFFFFFF).set 61 0xFFFFFFFF).set 62 0xFFFFFFFF, lanes := BitVec.allOnes 96 }

/-- A group with the split `x` in slot 0 and four registers. -/
def grp (x : Split) : Group :=
  { launchGroup fetchNode 0 0 1 0 0 0 (groupSeed fetchNode 0) with splits := [(0, x)], regs := List.replicate 4 VReg.zero }

/-- Its reference: core 0, pipe 0, group 0, slot 0. -/
def ref0 : SplitRef := ⟨0, 0, 0, 0⟩

/-- The part runs a word of that split; its node is `n` and its workgroup `w`. -/
def partOf (g : Group) (n : Node) (w : Workgroup) : State :=
  { State.reset with nodes := [(0, n)], wgs := [(0, w)], groups := [(0, g)], regions := [(0, 0), (0, 1)], cur := some ref0 }

/-- With the node and workgroup of a plain launch. -/
def part (g : Group) : State := partOf g fetchNode fetchWg

theorem runs_part (x : Split) (n : Node) (w : Workgroup) : Runs (partOf (grp x) n w) ref0 (grp x) x := ⟨rfl, rfl⟩

theorem at_part (x : Split) (n : Node) (w : Workgroup) : At (partOf (grp x) n w) ref0 (grp x) x := ⟨rfl, rfl⟩

/-- The split within a run of five words. -/
def spRun : Split := { sp0 with run := some { left := 5, pk := false, rep := none } }

/-- A park there is complete at once. -/
theorem through : ParksThrough (part (grp sp0)) ref0 (grp sp0) sp0 :=
  ⟨by decide, rfl, by decide, fetchNode, rfl, by decide⟩

theorem in_run : InRun (part (grp spRun)) ref0 (grp spRun) spRun (word (.v 1) (.v 2) (.v 3) (.v 0)) 3 false := ⟨runs_part _ _ _, rfl, rfl, rfl⟩

/-! ### Witnesses: scalar words -/

/-- A split with two registers set. -/
def spWith (a b : Word) : Split := { sp0 with s := (sp0.s.set 1 a).set 2 b }

theorem wit_ScalarArithmetic : Runs (part (grp (spWith 7 5))) ref0 (grp (spWith 7 5)) (spWith 7 5) := runs_part _ _ _

theorem wit_DivisionAndCounts_corner :
    Runs (part (grp (spWith 0x80000000 0xFFFFFFFF))) ref0 (grp (spWith 0x80000000 0xFFFFFFFF)) (spWith 0x80000000 0xFFFFFFFF) ∧
    (readS (part (grp (spWith 0x80000000 0xFFFFFFFF))) (spWith 0x80000000 0xFFFFFFFF) 1).toInt = -2 ^ 31 ∧
    (readS (part (grp (spWith 0x80000000 0xFFFFFFFF))) (spWith 0x80000000 0xFFFFFFFF) 2).toInt = -1 :=
  ⟨runs_part _ _ _, by decide, by decide⟩

theorem wit_DivisionAndCounts_zero : Runs (part (grp (spWith 7 0))) ref0 (grp (spWith 7 0)) (spWith 7 0) ∧
    readS (part (grp (spWith 7 0))) (spWith 7 0) 2 = 0 ∧ readS (part (grp (spWith 7 0))) (spWith 7 0) 1 ≠ 0 :=
  ⟨runs_part _ _ _, by decide, by decide⟩

theorem wit_Compares : Runs (part (grp (spWith 7 5))) ref0 (grp (spWith 7 5)) (spWith 7 5) ∧
    Holds? .ne (readS (part (grp (spWith 7 5))) (spWith 7 5) 1) (readS (part (grp (spWith 7 5))) (spWith 7 5) 2) :=
  ⟨runs_part _ _ _, by show _ ≠ _; decide⟩

theorem wit_Immediates : Runs (part (grp (spWith 7 5))) ref0 (grp (spWith 7 5)) (spWith 7 5) := runs_part _ _ _

theorem wit_RegisterValues : Settled sp0 5 ∧ (5 : SReg) ≠ 0 ∧
    ({ sp0 with inflight := [{ id := 3, writes := [.scalar 5 9 false] }] } : Split).inflight = [{ id := 3, writes := [.scalar (5 : SReg).val 9 false] }] :=
  ⟨(by intro f hf; cases hf), by decide, rfl⟩

theorem wit_Branches : Runs (part (grp (spWith 7 7))) ref0 (grp (spWith 7 7)) (spWith 7 7) ∧
    Compared .eq 1 2 (part (grp (spWith 7 7))) (spWith 7 7) ∧ ¬Compared .lt 1 2 (part (grp (spWith 7 7))) (spWith 7 7) ∧
    execMask (part (grp (spWith 7 7))) (spWith 7 7) ≠ 0 :=
  ⟨runs_part _ _ _, by show _ = _; decide, by show ¬(_ < _); decide, by decide⟩

theorem wit_Calls : Runs (part (grp sp0)) ref0 (grp sp0) sp0 := runs_part _ _ _

theorem wit_SpecialReads : Runs (part (grp sp0)) ref0 (grp sp0) sp0 ∧ tget (part (grp sp0)).wgs (grp sp0).wg = some fetchWg :=
  ⟨runs_part _ _ _, rfl⟩

/-- The node of a free-thread launch. -/
def freeNode : Node := { fetchNode with desc := { fetchDesc with free := true } }

theorem wit_WorkIdentifier : Runs (part (grp sp0)) ref0 (grp sp0) sp0 ∧ tget (part (grp sp0)).nodes (grp sp0).node = some fetchNode ∧
    fetchNode.desc.free = false ∧ Runs (partOf (grp sp0) freeNode fetchWg) ref0 (grp sp0) sp0 ∧
    tget (partOf (grp sp0) freeNode fetchWg).nodes (grp sp0).node = some freeNode ∧ freeNode.desc.free = true :=
  ⟨runs_part _ _ _, rfl, rfl, runs_part _ _ _, rfl, rfl⟩

/-- The part with its context privileged. -/
def privileged0 : State := (part (grp sp0)).setContext 0 { (part (grp sp0)).context 0 with priv := true }

theorem wit_SpecialWrites : Runs privileged0 ref0 (grp sp0) sp0 ∧ privileged privileged0 (grp sp0) = true ∧
    Runs (part (grp sp0)) ref0 (grp sp0) sp0 ∧ privileged (part (grp sp0)) (grp sp0) = false ∧
    tget (part (grp sp0)).wgs (grp sp0).wg = some fetchWg :=
  ⟨⟨rfl, rfl⟩, by decide, runs_part _ _ _, by decide, rfl⟩

theorem wit_MasksAndConditions : Runs (part (grp sp0)) ref0 (grp sp0) sp0 := runs_part _ _ _

/-- A group whose accumulator xa0 holds a NaN, and xa1 an infinity. -/
def grpNan : Group :=
  { grp sp0 with xa := ((grp sp0).xa.set 0 { Exact.zero with nan := true }).set 1 { Exact.zero with pinf := true } }

theorem wit_LaneAndReplyReads : Runs (part grpNan) ref0 grpNan sp0 ∧ grpNan.xa[0].nan = true ∧ grpNan.xa[1].nan = false ∧
    grpNan.xa[1].pinf = true ∧ grpNan.xa[1].ninf = false ∧ (3 : Fin 128).val < grpNan.regs.length ∧ grpNan.regs.length ≤ (4 : Fin 128).val ∧
    (readS (part grpNan) sp0 1).toNat < 96 ∧ 96 ≤ (readS (part grpNan) sp0 60).toNat :=
  ⟨⟨rfl, rfl⟩, rfl, rfl, rfl, rfl, by decide, by decide, by decide, by decide⟩

/-- A split with a result for s5 in flight. -/
def spFlight : Split := { sp0 with inflight := [{ id := 3, writes := [.scalar 5 9 false] }] }

theorem wit_ResultReturns : (part (grp spFlight)).power = true ∧ tget (part (grp spFlight)).groups ref0.gkey = some (grp spFlight) ∧
    tget (grp spFlight).splits ref0.slot = some spFlight ∧ resultHeld (part (grp spFlight)) ref0 3 = false ∧
    spFlight.inflight.find? (fun f => f.id == 3) = some { id := 3, writes := [.scalar (5 : SReg).val 9 false] } :=
  ⟨rfl, rfl, rfl, by decide, by decide⟩

/-! ### Witnesses: faults, parks, divergence -/

/-- The sluice of the die has room and nothing waits. -/
theorem sluice_room (g : Group) : ((part g).sluice (dieOf ref0.core)).waiting = [] ∧ 0 < ((part g).sluice (dieOf ref0.core)).free ∧
    64 < ((part g).sluice (dieOf ref0.core)).free := ⟨rfl, (by decide : 0 < Sluice.reset.free), (by decide : 64 < Sluice.reset.free)⟩

theorem wit_FaultEntry : At (part (grp sp0)) ref0 (grp sp0) sp0 ∧ ((part (grp sp0)).sluice (dieOf ref0.core)).waiting = [] ∧
    0 < ((part (grp sp0)).sluice (dieOf ref0.core)).free := ⟨at_part _ _ _, (sluice_room _).1, (sluice_room _).2.1⟩

/-- A group with a join record at PCs 0 for its lanes. -/
def grpJoin : Group := { grp sp0 with joins := [{ id := 9, pcs := { spc := 0, lpc := 0 }, lanes := sp0.lanes }] }

theorem wit_ParkWords : Runs (part (grp sp0)) ref0 (grp sp0) sp0 ∧ ParksThrough (part (grp sp0)) ref0 (grp sp0) sp0 ∧
    resultsIn (part (grp spFlight)) ref0 (grp spFlight) spFlight = false ∧ Runs (part grpJoin) ref0 grpJoin sp0 ∧
    ParksThrough (part grpJoin) ref0 grpJoin sp0 ∧ grpJoin.deferrals = [] ∧
    grpJoin.joins.head? = some { id := 9, pcs := sp0.pcs, lanes := sp0.lanes } ∧ sp0.lanes &&& ~~~sp0.lanes = 0 :=
  ⟨runs_part _ _ _, through, by decide, ⟨rfl, rfl⟩, ⟨by decide, rfl, by decide, fetchNode, rfl, by decide⟩, rfl, rfl, by decide⟩


/-- A deferral entry of slot 0, its saved side at PCs 4 and 2. -/
def deferral0 : Deferral :=
  { id := 7, slot := 0, pcs := { spc := 4, lpc := 2 }, join := { spc := 9, lpc := 3 }, lanes := 3, mask := 3, s := sp0.s, fpstat := 0,
    ustat := 0, rptidx := 0, arrival := none, written := [], swapped := false }

/-- A group with that entry, and one with a second split. -/
def grpDeferral : Group := { grp sp0 with deferrals := [deferral0] }
def grpTwo : Group := { grp sp0 with splits := [(0, sp0), (1, { sp0 with lanes := 0 })] }

theorem wit_ExitAndTrap : Runs (part grpDeferral) ref0 grpDeferral sp0 ∧ ParksThrough (part grpDeferral) ref0 grpDeferral sp0 ∧
    grpDeferral.ownDeferral ref0.slot = some deferral0 ∧ Runs (part grpTwo) ref0 grpTwo sp0 ∧ ParksThrough (part grpTwo) ref0 grpTwo sp0 ∧
    grpTwo.ownDeferral ref0.slot = none ∧ (∃ k x, k ≠ ref0.slot ∧ tget grpTwo.splits k = some x) ∧
    ((part grpTwo).sluice (dieOf ref0.core)).waiting = [] ∧ 0 < ((part grpTwo).sluice (dieOf ref0.core)).free :=
  ⟨⟨rfl, rfl⟩, ⟨by decide, rfl, by decide, fetchNode, rfl, by decide⟩, rfl, ⟨rfl, rfl⟩,
   ⟨by decide, rfl, by decide, fetchNode, rfl, by decide⟩, rfl, ⟨1, _, by decide, rfl⟩, rfl, (sluice_room _).2.1⟩

/-- A group whose condition registers name no lane, every lane, and lane 0. -/
def grpCond : Group := { grp sp0 with vc := #v[0, BitVec.allOnes 96, 1, 0] }

/-- The same with room for one split only, and with room for nothing. -/
def grpOneSplit : Group := { grpCond with limit := 1 }
def grpFull : Group := { grpOneSplit with deferrals := List.replicate 16 { deferral0 with slot := 3 } }

theorem wit_DivergentBranches_uniform : Runs (part grpCond) ref0 grpCond sp0 ∧
    execMask (part grpCond) sp0 &&& readVc (part grpCond) grpCond 0 = 0 ∧
    execMask (part grpCond) sp0 &&& readVc (part grpCond) grpCond 1 ≠ 0 ∧
    execMask (part grpCond) sp0 &&& ~~~readVc (part grpCond) grpCond 1 = 0 := ⟨⟨rfl, rfl⟩, by decide, by decide, by decide⟩

theorem wit_DivergentBranches_mixed : execMask (part grpCond) sp0 &&& readVc (part grpCond) grpCond 2 ≠ 0 ∧
    execMask (part grpCond) sp0 &&& ~~~readVc (part grpCond) grpCond 2 ≠ 0 ∧ ParksThrough (part grpCond) ref0 grpCond sp0 ∧
    grpCond.freeSlot = some 1 ∧ grpCond.joinsUsed < 3 ∧ grpOneSplit.freeSlot = none ∧ grpOneSplit.deferralsUsed < 16 ∧
    grpFull.freeSlot = none ∧ 16 ≤ grpFull.deferralsUsed :=
  ⟨by decide, by decide, ⟨by decide, rfl, by decide, fetchNode, rfl, by decide⟩, by decide, by decide, by decide, by decide, by decide, by decide⟩

/-- A split with a repeat of count 0 armed. -/
def spArmed : Split := { sp0 with armed := some (0, 5) }

theorem wit_LaneRuns : Runs (part (grp sp0)) ref0 (grp sp0) sp0 ∧ (∀ stride, sp0.armed ≠ some (0, stride)) ∧
    Runs (part (grp spArmed)) ref0 (grp spArmed) spArmed ∧ spArmed.armed = some (0, 5) ∧ 0 < (3 : Fin 256).val :=
  ⟨runs_part _ _ _, (by intro _ h; cases h), runs_part _ _ _, rfl, by decide⟩

/-- A free-thread node with a call table of two entries. -/
def callNode : Node := { fetchNode with desc := { fetchDesc with free := true, calllen := 2 } }

/-- A group with lane 0 active. -/
def spLane0 : Split := { sp0 with s := ((sp0.s.set 60 1).set 61 0).set 62 0, lanes := 1 }

theorem wit_ThreadCalls_denied : Runs (part (grp sp0)) ref0 (grp sp0) sp0 ∧ nodeFlag (part (grp sp0)) (grp sp0) (fun d => d.free) = false :=
  ⟨runs_part _ _ _, rfl⟩

theorem wit_ThreadCalls : Runs (partOf (grp spLane0) callNode fetchWg) ref0 (grp spLane0) spLane0 ∧
    ParksThrough (partOf (grp spLane0) callNode fetchWg) ref0 (grp spLane0) spLane0 ∧
    nodeFlag (partOf (grp spLane0) callNode fetchWg) (grp spLane0) (fun d => d.free) = true ∧ (4 : Fin 33).val ≤ (grp spLane0).regs.length ∧
    (1 : Fin 128).val < (grp spLane0).regs.length ∧ (grp spLane0).pix = [] ∧
    tget (partOf (grp spLane0) callNode fetchWg).nodes (grp spLane0).node = some callNode ∧ spLane0.inflight = [] ∧ (grp spLane0).stackOf 0 = [] ∧
    execMask (partOf (grp spLane0) callNode fetchWg) spLane0 = 1 ∧
    (((grp spLane0).regs.getD (1 : Fin 128).val VReg.zero).data[0]?) = some 0 ∧ (0 : Word).toNat % 65536 < callNode.desc.calllen :=
  ⟨runs_part _ _ _, ⟨by decide, rfl, by decide, callNode, rfl, by decide⟩, rfl, by decide, by decide, rfl, rfl, rfl, by decide, by decide,
   by decide, by decide⟩

/-- A group that has an upcall outstanding. -/
def grpCall : Group := { grp sp0 with upcall := some { ticket := 1, present := false } }

/-- The part whose context may call services below 16. -/
def calls (g : Group) : State := { part g with saveTable := [(0, { (part g).saveEntry 0 with svclim := 16 })] }

theorem wit_Upcalls : Runs (part (grp sp0)) ref0 (grp sp0) sp0 ∧
    ((part (grp sp0)).saveEntry ((part (grp sp0)).nodeCtx (grp sp0).node)).svclim ≤ (3 : BitVec 16).toNat ∧
    Runs (calls (grp sp0)) ref0 (grp sp0) sp0 ∧
    (3 : BitVec 16).toNat < ((calls (grp sp0)).saveEntry ((calls (grp sp0)).nodeCtx (grp sp0).node)).svclim ∧ (grp sp0).upcall = none ∧
    64 < ((calls (grp sp0)).sluice (dieOf ref0.core)).free ∧ ((calls (grp sp0)).sluice (dieOf ref0.core)).waiting = [] ∧
    releaseWaits (calls (grp sp0)) ref0 .system = false ∧ ParksThrough (calls (grp sp0)) ref0 (grp sp0) sp0 ∧
    Runs (calls grpCall) ref0 grpCall sp0 ∧ (∃ u, grpCall.upcall = some u ∧ u.present = false) :=
  ⟨runs_part _ _ _, by decide, ⟨rfl, rfl⟩, by decide, rfl, by decide, rfl, by decide, ⟨by decide, rfl, by decide, fetchNode, rfl, by decide⟩,
   ⟨rfl, rfl⟩, ⟨_, rfl, rfl⟩⟩

/-- A split that waits for ticket 7, outstanding in its group. -/
def grpTicket : Group := { grp (spWith 0 7) with upcall := some { ticket := 7, present := false } }

theorem wit_Upcalls_wait : Runs (part grpTicket) ref0 grpTicket (spWith 0 7) ∧ ParksThrough (part grpTicket) ref0 grpTicket (spWith 0 7) ∧
    readS (part grpTicket) (spWith 0 7) (evenOf 1) ≠ 0 ∧
    grpTicket.upcall = some { ticket := readS (part grpTicket) (spWith 0 7) (evenOf 1), present := false } :=
  ⟨⟨rfl, rfl⟩, ⟨by decide, rfl, by decide, fetchNode, rfl, by decide⟩, by decide, by decide⟩

/-! ### Witnesses: barriers, objects, memory -/

/-- A workgroup with an active object at offset 8, COUNT 2, ARRIVED 1. -/
def objWg : Workgroup :=
  { fetchWg with objects := [8], scratch := Memory.writeBytes [] 8 (toBytes 8 (objectOf 2 1 0 true)) }

theorem wit_BarriersAndFences : Runs (part (grp sp0)) ref0 (grp sp0) sp0 ∧ releaseWaits (part (grp sp0)) ref0 .workgroup = false ∧
    ParksThrough (part (grp sp0)) ref0 (grp sp0) sp0 ∧ fenceStall (part (grp sp0)) ref0 .release .device = none ∧
    targetsDone (part (grp sp0)) (grp sp0).wave = true ∧ releaseWaits (part (grp sp0)) ref0 .device = false :=
  ⟨runs_part _ _ _, by decide, through, by decide, by decide, by decide⟩

theorem wit_ObjectOperations : Runs (partOf (grp (spWith 8 2)) fetchNode objWg) ref0 (grp (spWith 8 2)) (spWith 8 2) ∧
    tget (partOf (grp (spWith 8 2)) fetchNode objWg).wgs (grp (spWith 8 2)).wg = some objWg ∧
    (readS (partOf (grp (spWith 8 2)) fetchNode objWg) (spWith 8 2) 1).toNat = 8 ∧ 8 % 8 = 0 ∧ 8 + 8 ≤ objWg.size ∧
    scoreboardBlocks (partOf (grp (spWith 8 2)) fetchNode objWg) ref0.core (grp (spWith 8 2)).wg 8 16 = false ∧ 8 ∈ objWg.objects ∧
    releaseWaits (partOf (grp (spWith 8 2)) fetchNode objWg) ref0 .workgroup = false ∧ ObjectWord objWg 8 2 1 0 true ∧ 1 + 1 = 2 ∧
    waitsOn (partOf (grp (spWith 8 2)) fetchNode objWg) objWg 8 = false ∧ 8 ∉ fetchWg.objects ∧ fetchWg.objects.length < 16 :=
  ⟨runs_part _ _ _, rfl, by decide, by decide, by decide, by decide, by decide, by decide, ⟨by decide, by decide, by decide, by decide⟩, rfl,
   by decide, by decide, by decide⟩

theorem wit_BarrierObjects : Runs (part (grp (spWith 4 8))) ref0 (grp (spWith 4 8)) (spWith 4 8) ∧
    (readS (part (grp (spWith 4 8))) (spWith 4 8) 1).toNat % 8 ≠ 0 ∧ (readS (part (grp (spWith 4 8))) (spWith 4 8) 2).toNat % 8 = 0 ∧
    (readS (part (grp (spWith 4 8))) (spWith 4 8) 2).toNat + 8 ≤ fetchWg.size ∧ 8 ∉ fetchWg.objects ∧
    ParksThrough (partOf (grp (spWith 8 2)) fetchNode objWg) ref0 (grp (spWith 8 2)) (spWith 8 2) ∧ (∀ p, (spWith 8 2).arrival ≠ some (8, p)) :=
  ⟨runs_part _ _ _, by decide, by decide, by decide, by decide, ⟨by decide, rfl, by decide, fetchNode, rfl, by decide⟩,
   by intro _ h; cases h⟩

/-- A part whose virtual page 0 is the physical page 0x6000, readable and writable, and whose group's scalar registers are zero
but for s4, `x`. -/
def mappedOf (g : Group) (cells : Memory) : State :=
  { part g with
    contexts := [(0, { (part g).context 0 with valid := true, root := 1, usedRoot := 1 })],
    keySlots := [(0, { load := 0, value := 0 })],
    mem := [(0x1000, 0x01), (0x1001, 0x20), (0x2000, 0x01), (0x2001, 0x30), (0x3000, 0x01), (0x3001, 0x40), (0x4000, 0x01), (0x4001, 0x50),
            (0x5000, 0x0F), (0x5001, 0x60)] ++ cells }

def spAddr (x : Word) : Split := { sp0 with s := sp0.s.set 4 x }

def leaf0 (off : Nat) : Leaf := { pa := 0x6000 + off, cls := 0, key := 0 }

/-- The state, its group and its split for an access of s[4:5] = 8. -/
def spA : Split := spAddr 8
def gA : Group := grp spA
def mA : State := mappedOf gA [(0x6008, 5)]

theorem wit_ScalarLoads : Reaches mA ref0 gA spA plain (addressOf mA spA 2 0 plain.off) 4 .load (leaf0 8) ∧
    Uncached mA ref0 plain (leaf0 8) ∧ valueAt mA (leaf0 8) 4 = 5 :=
  ⟨⟨⟨rfl, rfl⟩, by decide, by decide, by decide, by decide, rfl, by decide, by decide⟩, .inr (.inr (by decide)), by decide⟩

theorem wit_ScalarStores : mA.mem.wf = true ∧ Reaches mA ref0 gA spA plain (addressOf mA spA 2 0 plain.off) 8 .store (leaf0 8) :=
  ⟨by decide, ⟨rfl, rfl⟩, by decide, by decide, by decide, by decide, rfl, by decide, by decide⟩

theorem wit_ScalarAtomics : mA.mem.wf = true ∧ Reaches mA ref0 gA spA plain (addressOf mA spA 2 0 plain.off) 4 (.atomic 0) (leaf0 8) ∧
    Reaches mA ref0 gA spA plain (addressOf mA spA 2 0 plain.off) 8 (.atomic 0) (leaf0 8) :=
  ⟨by decide, ⟨⟨rfl, rfl⟩, by decide, by decide, by decide, by decide, rfl, by decide, by decide⟩,
   ⟨⟨rfl, rfl⟩, by decide, by decide, by decide, by decide, rfl, by decide, by decide⟩⟩

theorem wit_AddressFaults : Runs (part (grp (spAddr 2))) ref0 (grp (spAddr 2)) (spAddr 2) ∧
    canonical (addressOf (part (grp (spAddr 2))) (spAddr 2) 2 0 plain.off) = true ∧
    (addressOf (part (grp (spAddr 2))) (spAddr 2) 2 0 plain.off).toNat % 4 ≠ 0 ∧
    canonical (addressOf (part (grp { sp0 with s := sp0.s.set 5 0x08000000 })) { sp0 with s := sp0.s.set 5 0x08000000 } 2 0 plain.off) = false :=
  ⟨runs_part _ _ _, by decide, by decide, by decide⟩

theorem wit_MemoryWrites : State.reset.mem.wf = true := rfl

/-! ### Witnesses: lane words -/

theorem wit_LaneFaults : At (part (grp spRun)) ref0 (grp spRun) spRun ∧
    rangeOk specVadd (laneCtx (part (grp spRun)) ref0 (grp spRun) spRun (word (.v 1) (.v 2) (.v 4) (.v 0))) = false ∧
    rangeOk specVadd (laneCtx (part (grp spRun)) ref0 (grp spRun) spRun (word (.v 1) (.v 2) (.v 3) (.v 0))) = true ∧
    specVadd.mismatch (laneCtx (part (grp spRun)) ref0 (grp spRun) spRun (word (.v 1) (.v 2) (.v 3) (.v 0))) = true :=
  ⟨at_part _ _ _, by decide, by decide, by decide⟩

/-- A group whose v2 and v3 are i32, within a run. -/
def gI32 : Group := { grp spRun with regs := [VReg.zero, VReg.zero, { VReg.zero with tag := .i32 }, { VReg.zero with tag := .i32 }] }

theorem wit_LaneWords : InRun (part gI32) ref0 gI32 spRun (word (.v 1) (.v 2) (.v 3) (.v 0)) 3 false ∧
    laneFault specVadd (laneCtx (part gI32) ref0 gI32 spRun (word (.v 1) (.v 2) (.v 3) (.v 0))) = none ∧
    specVadd.stall (laneCtx (part gI32) ref0 gI32 spRun (word (.v 1) (.v 2) (.v 3) (.v 0))) = none :=
  ⟨⟨⟨rfl, rfl⟩, rfl, rfl, rfl⟩, by decide, by decide⟩

theorem writing_i32 : Writing (part gI32) ref0 gI32 spRun (word (.v 1) (.v 2) (.v 3) (.v 0)) 3 false 1 .i32 :=
  ⟨⟨⟨rfl, rfl⟩, rfl, rfl, rfl⟩, rfl, by decide, by decide⟩

theorem wit_LaneIntegers : Writing (part gI32) ref0 gI32 spRun (word (.v 1) (.v 2) (.v 3) (.v 0)) 3 false 1 .i32 ∧
    (laneCtx (part gI32) ref0 gI32 spRun (word (.v 1) (.v 2) (.v 3) (.v 0))).poly [.v 2, .v 3] = some .i32 ∧ tagIsInt .i32 = true ∧
    (∀ o ∈ [Opnd.v 2, .v 3], srcInRange gI32.regs.length o (tagWide .i32) = true) ∧ signedTag .i32 = true :=
  ⟨writing_i32, by decide, by decide, by decide, by decide⟩

theorem wit_LaneBits : Writing (part gI32) ref0 gI32 spRun (word (.v 1) (.v 2) (.v 3) (.v 0)) 3 false 1 .i32 ∧
    (laneCtx (part gI32) ref0 gI32 spRun (word (.v 1) (.v 2) (.v 3) (.v 0))).bitTag [.v 2, .v 3] = some .i32 ∧
    (laneCtx (part gI32) ref0 gI32 spRun (word (.v 1) (.v 2) (.v 3) (.v 0))).fmtA = .i32 ∧
    Writing (part gI32) ref0 gI32 spRun (word (.v 1) (.v 2) (.v 3) (.v 0)) 3 false 1 .n32 ∧
    FieldOk (laneCtx (part gI32) ref0 gI32 spRun (word (.v 1) (.v 2) (.v 3) (.v 0))) [.v 2, .v 3] :=
  ⟨writing_i32, by decide, by decide, ⟨⟨⟨rfl, rfl⟩, rfl, rfl, rfl⟩, rfl, by decide, by decide⟩, by decide, .inl ⟨by decide, by decide⟩⟩

theorem wit_LaneConditions : InRun (part gI32) ref0 gI32 spRun { word (.v 0) (.v 2) (.v 3) (.v 0) with sub := 1, mods := 2 } 3 false ∧
    ({ word (.v 0) (.v 2) (.v 3) (.v 0) with sub := 1, mods := 2 } : LaneWord).sub.val = (1 : Fin 4).val + 0 ∧
    (laneCtx (part gI32) ref0 gI32 spRun { word (.v 0) (.v 2) (.v 3) (.v 0) with sub := 1, mods := 2 }).poly [.v 2, .v 3] = some .i32 ∧
    ({ word (.v 0) (.v 0) (.v 0) (.v 0) with sub := 1, mods := 14 } : LaneWord).mods.val = (2 : Fin 4).val + 4 * (3 : Fin 4).val :=
  ⟨⟨⟨rfl, rfl⟩, rfl, rfl, rfl⟩, by decide, by decide, by decide⟩

theorem wit_LaneMoves : Writing (part gI32) ref0 gI32 spRun (word (.v 1) (.v 2) (.v 3) (.v 0)) 3 false 1 .i32 ∧
    (readV (part gI32) gI32 2).tag = .i32 ∧ srcInRange gI32.regs.length (.v 2) (tagWide .i32) = true ∧
    (laneCtx (part gI32) ref0 gI32 spRun (word (.v 1) (.v 2) (.v 3) (.v 0))).tagOf (.v 3) = some .i32 ∧
    (laneCtx (part gI32) ref0 gI32 spRun (word (.v 1) (.v 2) (.v 3) (.v 0))).act.getLsbD 0 = true ∧
    Writing (part gI32) ref0 gI32 spRun (word (.v 1) (.v 2) (.v 3) (.v 0)) 3 false 1 .raw ∧
    Tag.ofNumber (word (.v 1) (.v 2) (.v 3) (.v 0)).sub.val = some .raw ∧ (readV (part gI32) gI32 2).tag ≠ .handle :=
  ⟨writing_i32, by decide, by decide, by decide, by decide, ⟨⟨⟨rfl, rfl⟩, rfl, rfl, rfl⟩, rfl, by decide, by decide⟩, by decide, by decide⟩

theorem wit_TagReads : Writing (part gI32) ref0 gI32 spRun (word (.v 1) (.v 2) (.v 0) (.v 0)) 3 false 1 .n32 ∧
    srcInRange gI32.regs.length (.v 2) false = true :=
  ⟨⟨⟨⟨rfl, rfl⟩, rfl, rfl, rfl⟩, rfl, by decide, by decide⟩, by decide⟩

theorem wit_Ballot : Writing (part gI32) ref0 gI32 spRun { word (.v 1) (.v 0) (.v 0) (.v 0) with sub := 9 } 3 false 1 .n32 ∧
    ({ word (.v 1) (.v 0) (.v 0) (.v 0) with sub := 9 } : LaneWord).sub.val = (1 : Fin 4).val + 4 * (2 : Fin 3).val ∧
    bitsAt 0x45010000 24 8 = 0x45 ∧ bitsAt 0x0000C000 14 2 = 3 :=
  ⟨⟨⟨⟨rfl, rfl⟩, rfl, rfl, rfl⟩, rfl, by decide, by decide⟩, by decide, by decide, by decide⟩

/-! ### Witnesses: graphics, matrix, copy and command words -/

/-- A group of 16 registers of a tag within a run, its descriptor pair s[4:5] at zero. -/
def grpTag (t : Tag) : Group := { grp spRun with regs := List.replicate 16 { VReg.zero with tag := t } }

/-- A part whose page 0 holds the descriptor of a one-texel image, all zeros; and one with a grid of one level. -/
def imagePart (t : Tag) : State := mappedOf (grpTag t) []
def gridPart : State := mappedOf (grpTag .f32) [(0x600C, 1), (0x6012, 0x80), (0x6013, 0x3F)]

/-- The word vd = v0 on the pair s[4:5] with registers 8 and 12. -/
def gfxWord : LaneWord := word (.v 0) (.s 4) (.v 8) (.v 12)

theorem image_at : ImageAt (laneCtx (imagePart .f32) ref0 (grpTag .f32) spRun gfxWord) (parseImage (List.replicate 8 0)) :=
  ⟨rfl, by unfold readImage cachedFields; generalize Config.freeBit _ _ = b; cases b <;> decide +kernel⟩

theorem grid_read : (readDescriptor (laneCtx gridPart ref0 (grpTag .f32) spRun gfxWord).s (laneCtx gridPart ref0 (grpTag .f32) spRun gfxWord).who
    (cachedFields (laneCtx gridPart ref0 (grpTag .f32) spRun gfxWord).s unitFields)
    (laneCtx gridPart ref0 (grpTag .f32) spRun gfxWord).pairVa 32).2 =
      .got ((List.range 32).map (fun i => if i = 12 then 1 else if i = 18 then 0x80 else if i = 19 then 0x3F else 0)) := by
  unfold cachedFields; generalize Config.freeBit _ _ = b; cases b <;> decide +kernel

theorem wit_GraphicsWords : Runs (imagePart .f32) ref0 (grpTag .f32) spRun ∧
    specVrtw.illegal (laneCtx (imagePart .f32) ref0 (grpTag .f32) spRun gfxWord) = true ∧
    InRun (imagePart .f32) ref0 (grpTag .f32) spRun gfxWord 3 false ∧
    rangesOk (laneCtx (imagePart .f32) ref0 (grpTag .f32) spRun gfxWord)
      (specVtex.regs (laneCtx (imagePart .f32) ref0 (grpTag .f32) spRun gfxWord)) = true ∧
    specVtex.mismatch (laneCtx (imagePart .f32) ref0 (grpTag .f32) spRun gfxWord) = false ∧
    specVtex.mismatch (laneCtx (imagePart .i32) ref0 (grpTag .i32) spRun gfxWord) = true ∧
    rangesOk (laneCtx (imagePart .f32) ref0 (grpTag .f32) spRun gfxWord) (manyRegs gfxWord.vd (channelCount (parseImage (List.replicate 8 0)))) = true ∧
    (∃ d, GridAt (laneCtx gridPart ref0 (grpTag .f32) spRun gfxWord) d) :=
  ⟨⟨rfl, rfl⟩, by decide, ⟨⟨rfl, rfl⟩, rfl, rfl, rfl⟩, by decide, by decide, by decide, by decide, ⟨_, rfl, by decide, _, grid_read, by decide, rfl⟩⟩

/-- The node of a pixel launch. -/
def pixelNode : Node := { fetchNode with desc := { fetchDesc with gfx := true, gstage := 2 } }

theorem wit_GraphicsResults : InRun (imagePart .f32) ref0 (grpTag .f32) spRun gfxWord 3 false ∧ gfxWord.vd = .v 0 ∧
    execMask (imagePart .f32) spRun ≠ 0 ∧ ImageAt (laneCtx (imagePart .f32) ref0 (grpTag .f32) spRun gfxWord) (parseImage (List.replicate 8 0)) ∧
    specVtexld.mismatch (laneCtx (imagePart .i32) ref0 (grpTag .i32) spRun gfxWord) = false ∧
    specVtrace.mismatch (laneCtx (imagePart .f32) ref0 (grpTag .f32) spRun gfxWord) = false ∧ (grpTag .f32).slots ≤ 160 ∧
    (∀ k, (grpTag .f32).laneSlots k < 8) ∧ pixelWave (partOf (grpTag .f32) pixelNode fetchWg) (grpTag .f32) = true :=
  ⟨⟨⟨rfl, rfl⟩, rfl, rfl, rfl⟩, rfl, by decide, image_at, by decide, by decide, by decide, fun _ => Nat.succ_pos 7, by decide⟩

/-- A workgroup of two tiles, its scratchpad with descriptors at 0, 32 and 64: an i8 line of A, one of B, and an i32 block. -/
def matWg : Workgroup :=
  { fetchWg with tileCount := 2,
                 scratch := [(1, 4), (7, 4), (8, 2), (33, 5), (39, 4), (40, 2), (65, 6), (71, 7), (72, 1)] }

/-- s1 to s3 name the descriptors. -/
def spMat : Split := { sp0 with s := (sp0.s.set 2 32).set 3 64 }
def matPart : State := partOf (grp spMat) fetchNode matWg

theorem wit_MatrixIssue : Runs matPart ref0 (grp spMat) spMat ∧ tget matPart.wgs (grp spMat).wg = some matWg ∧ MatrixRoom matPart ref0.core 2 ∧
    (∃ a, readMat matPart ref0.core (grp spMat).wg matWg .a (readS matPart spMat 1).toNat (linesOfA false (grp spMat).gatherIssued) = .got a) ∧
    (∃ b, readMat matPart ref0.core (grp spMat).wg matWg .b (readS matPart spMat 2).toNat MatDesc.allLines = .got b) ∧
    (∃ d, readMat matPart ref0.core (grp spMat).wg matWg .load (readS matPart spMat 3).toNat MatDesc.allLines = .got d ∧ d.k ≤ 64 ∧
      drainForbids d.fmt 0 false = false) ∧ (0 : Nat) < matWg.tileCount ∧ 0 + (1 + 1) ≤ matWg.tileCount ∧ matWg.tileCount < 0 + (2 + 1) :=
  ⟨⟨rfl, rfl⟩, rfl, ⟨by decide, by decide⟩, ⟨_, rfl⟩, ⟨_, rfl⟩, ⟨_, rfl, by decide, by decide⟩, by decide, by decide, by decide⟩

/-- A command of the group, and a part whose array has it first in the queue of core 0. -/
def cmdOf (k : CmdKind) : Command :=
  { ref := ref0, node := 0, wg := 0, seq := 5, pcs := { spc := 0, lpc := 0 }, kind := k, page := none, progress := 0, aux := 0,
    sent := false, remote := [], table := [], cycle := 0 }

def arrayPart (k : CmdKind) : State :=
  { matPart with cyc := 1, commands := [(5, cmdOf k)], coreTab := [(0, { matPart.core 0 with matrix := [(5, false)] })] }

theorem wit_MatrixPerform : (arrayPart (.mzero 0 1)).power = true ∧ ((arrayPart (.mzero 0 1)).core 0).matrix = [(5, false)] ∧
    tget (arrayPart (.mzero 0 1)).commands 5 = some (cmdOf (.mzero 0 1)) ∧
    tget (arrayPart (.mzero 0 1)).wgs (cmdOf (.mzero 0 1)).wg = some matWg ∧ matWg.groups ≠ [] ∧
    matrixReady (arrayPart (.mzero 0 1)) 5 (cmdOf (.mzero 0 1)) = true ∧ matWg.scratch.wf = true :=
  ⟨rfl, rfl, rfl, rfl, by decide, by decide, by decide⟩

/-- A row of 8 bytes within the scratchpad, from offset 0 to offset 256. -/
def copyKind : CmdKind := .copy .ss 256 0 8 1 8 8 copyPlain

theorem wit_CopyCommands : Runs (part (grp sp0)) ref0 (grp sp0) sp0 ∧ tget (part (grp sp0)).wgs (grp sp0).wg = some fetchWg ∧
    oddPair false 5 = true ∧ oddPair true 5 = false ∧ (∃ x, planOf copyKind = some x ∧ x.check fetchWg = none ∧ x.ranges.length ≤ 32) ∧
    (grp sp0).batches.length < 15 ∧ (0 : Fin 16).val ≥ (grp sp0).batches.length ∧
    tget (arrayPart copyKind).commands 5 = some (cmdOf copyKind) ∧ matWg.scratch.wf = true ∧ (256 : DWord).toNat < 2 ^ 32 :=
  ⟨runs_part _ _ _, rfl, rfl, rfl, ⟨_, rfl, by decide, by decide⟩, by decide, by decide, rfl, by decide, by decide⟩

/-- Command core 0 in M mode, and in U mode. -/
def coreM : CmdCore := { CmdCore.reset with machine := true }
def coreU : CmdCore := { CmdCore.reset with machine := false }
def cmdPart (c : CmdCore) : State := { State.reset with commandCores := [(0, c)] }

theorem wit_CommandWords : RunsCommand (cmdPart coreM) coreM ∧ coreM.machine = true ∧ RunsCommand (cmdPart coreU) coreU ∧
    coreU.machine = false ∧ (coreM.get 1).toNat % 4096 = 0 ∧ (coreM.get 2).toNat < 2 ^ 13 ∧ (cmdPart coreM).frames = [] ∧
    cmdReadable (cmdPart coreM) 0 8 = true ∧ ((cmdPart coreM).context 0).valid = false :=
  ⟨⟨rfl, rfl⟩, rfl, ⟨rfl, rfl⟩, rfl, by decide, by decide, rfl, by decide, rfl⟩

/-! ### Witnesses: steps that no word encodes -/

/-- A split at a park point, and one that waits for join record 9. -/
def spPark : Split := { sp0 with wait := .park .proceed }
def spJoin : Split := { sp0 with wait := .join 9 }
def grpWaiting : Group := { grpJoin with splits := [(0, spJoin)] }
def spOld : Split := { sp0 with scalarCount := 1024 }

theorem wit_ParkEvents : (part (grp spPark)).power = true ∧ At (part (grp spPark)) ref0 (grp spPark) spPark ∧ spPark.stopped = none ∧
    spPark.wait = .park .proceed ∧ ParksThrough (part (grp spPark)) ref0 (grp spPark) spPark ∧
    At (part (grp spOld)) ref0 (grp spOld) spOld ∧ spOld.run = none ∧ 1024 ≤ spOld.scalarCount ∧
    tget (part grpWaiting).groups 0 = some grpWaiting ∧ grpWaiting.joins.find? (fun j => j.id == 9) = some { id := 9, pcs := sp0.pcs, lanes := sp0.lanes } ∧
    grpWaiting.splits.filter (fun e => e.2.wait == .join 9 && e.2.stopped.isNone) = [(0, spJoin)] ∧
    sp0.lanes &&& ~~~(0 ||| spJoin.lanes) = 0 ∧ groupHeld (part grpWaiting) grpWaiting = false ∧ fetchWg.groups.Nodup :=
  ⟨rfl, at_part _ _ _, rfl, rfl, ⟨by decide, rfl, by decide, fetchNode, rfl, by decide⟩, at_part _ _ _, rfl, by decide, rfl, rfl, rfl, by decide,
   by decide, by decide⟩

theorem wit_ParkEvents_words : Runs (part (grp spFlight)) ref0 (grp spFlight) spFlight ∧ spFlight.inflight ≠ [] ∧
    Runs (part (grp sp0)) ref0 (grp sp0) sp0 ∧ sp0.inflight = [] := ⟨runs_part _ _ _, by decide, runs_part _ _ _, rfl⟩

/-- An audit record whose deadline is unit 2, four units and one unit after reset. -/
def audit0 : AuditRec := { slice := 0, line := 0, ctx := 1, deadline := 2 }
def auditPart (c : Nat) : State := { State.reset with cyc := c, dieTab := [(0, { State.reset.die 0 with auditRecs := [audit0] })] }

theorem wit_ClockEvents_points : mayChoose State.reset .high = true ∧ mayChoose { State.reset with throttled := true } .high = false ∧
    mayChoose { State.reset with throttled := true } .low = true ∧
    (((auditPart 1024).die 0).auditRecs.filter (fun a => a.slice == 0))[0]? = some audit0 ∧ audit0.deadline ≤ (auditPart 1024).cyc / 256 ∧
    (((auditPart 256).die 0).auditRecs.filter (fun a => a.slice == 0))[0]? = some audit0 ∧ (auditPart 256).cyc / 256 < audit0.deadline :=
  ⟨rfl, rfl, rfl, rfl, by decide, rfl, by decide⟩

theorem wit_ClockEvents : State.reset.power = true ∧ (({ State.reset with cyc := 1024 } : State).core 0).ticked < 1024 / 1024 ∧
    nearTop 0 (0x3FFF : BitVec 16) = true ∧ tget ({ State.reset with leases := [(4, { core := 0, ends := 9 })] } : State).leases 4 = some { core := 0, ends := 9 } :=
  ⟨rfl, by decide, by decide, rfl⟩

/-- A tile of context 1 that the render-target unit holds, a hart of the cluster having asked for an invalidation of that context. -/
def tileOf1 : RtTile :=
  { node := 0, image := parseImage (List.replicate 8 0), tile := 0, ctx := 1, ref := ref0, wg := 0, maps := [], pixels := List.replicate 64 0,
    touched := false, state := 0, waves := [] }
def invalidPart : State := { State.reset with rtTiles := [(2, tileOf1)], invalidated := [(State.reset.curHart, 1)] }

theorem wit_RegisterEvents : State.reset.power = true ∧ State.reset.rtTiles = [] ∧ State.reset.rtWrites = [] ∧ State.reset.remotes = [] ∧
    0x4 % 8 ≠ 0 ∧ (∃ c, placeOf 0 = .context c 0) ∧ (invalidPart.curHart, 1) ∈ invalidPart.invalidated ∧ translated invalidPart 1 = true :=
  ⟨rfl, rfl, rfl, rfl, by decide, ⟨_, rfl⟩, by decide, by decide⟩

/-- A part with an entry of zeros at the head of queue 0, and a notify for it. -/
def queuePart : State :=
  { mappedOf (grp sp0) [] with queues := [(0, { Queue.reset with en := true, tail := 1 })], notifies := [{ queue := 0, value := 2, ctx := none }] }

theorem wit_QueueEvents : (mappedOf (grp sp0) []).power = true ∧ ((mappedOf (grp sp0) []).queue 0).en = false ∧ portReads queuePart 0 = true ∧
    (queuePart.queue 0).waiting = none ∧ (queuePart.queue 0).later = [] ∧
    (hubDwords queuePart (queuePart.queue 0).ctx (entryVa (queuePart.queue 0) (queuePart.queue 0).head) 8).2 = .ok (List.replicate 8 0) ∧
    queuePart.notifies = [{ queue := 0, value := 2, ctx := none }] ∧ (queuePart.queue 0).enabled = true ∧
    ((2 : Word) - (queuePart.queue 0).tail).toNat = 1 ∧ 1 ≤ (queuePart.queue 0).size :=
  ⟨rfl, rfl, by decide, rfl, rfl, rfl, rfl, rfl, by decide, by decide⟩

theorem wit_PoolEvents : (part (grp sp0)).power = true ∧ tget (part (grp sp0)).nodes 0 = some fetchNode ∧ fetchNode.state ≠ .failed ∧
    tget (part { grp sp0 with batches := [(1, [])] }).groups 0 = some { grp sp0 with batches := [(1, [])] } ∧ (∀ c ∈ ([] : List Nat), tget (part (grp sp0)).commands c = none) ∧
    (part (grp sp0)).cyc - fetchNode.waitFrom < 2 ^ 20 ∧ waitingThreads (part (grp sp0)) 0 3 = [] :=
  ⟨rfl, rfl, by decide, rfl, (by intro c h; cases h), by decide, by decide⟩

/-- The choice among one. -/
theorem pick_one (nonce salt a : Nat) : pick nonce salt [a] = some a := by simp [pick, Nat.mod_one]

/-- A ready node, none of whose one workgroup of 64 KiB is placed, the first core having a scratch granule, and the save area of its context
units 0, 1 and 3 free. -/
def placeNode0 : Node := { fetchNode with next := 0, begun := none, desc := { fetchDesc with scratch := 65536 } }
def placePart : State :=
  { State.reset with
    nodes := [(0, placeNode0)], coreTab := [(0, { State.reset.core 0 with scratchGranules := 1 })],
    saveTable := [(0, { State.reset.saveEntry 0 with base := 0x100000, units := 4 })], regions := [(0, 2)] }

theorem place_fits : regionsFit placePart placeNode0 1 = true := by
  have a : (freeRuns (freeUnits placePart 0) 2).filter (fun u => decide (u < 65536) &&
      roomFor 2 1 0 1 ((freeUnits placePart 0).filter (fun x => !(decide (u ≤ x) && decide (x < u + 2))))) = [0] := by decide +kernel
  have b : ([3] : List Nat).filter (fun u => decide (u < 65536) && roomFor 2 1 0 0 (([3] : List Nat).filter (fun x => x != u))) = [3] := by
    decide +kernel
  have c : (freeUnits placePart 0).filter (fun x => !(decide (0 ≤ x) && decide (x < 0 + 2))) = [3] := by decide +kernel
  show (allotRegions placePart 0 2 1 0).isSome = true
  unfold allotRegions
  simp only [a, pick_one, c, pickGroups, b, Option.map_some, Option.isSome_some]

theorem wit_PoolEvents_placement : placePart.power = true ∧ placePart.nodes = [(0, placeNode0)] ∧ placeNode0.state = .ready ∧
    placeNode0.multi = none ∧ placeNode0.desc.gstage ≠ 2 ∧ placePart.saved = [] ∧ placeNode0.next < totalWorkgroups placeNode0 ∧
    (wantOf 0 placeNode0).groups = 1 ∧ regionsFit placePart placeNode0 (wantOf 0 placeNode0).groups = true ∧
    coreFor placePart 0 placeNode0 .fresh (widFrom placeNode0 (firstField placeNode0.desc) placeNode0.next) (wantOf 0 placeNode0) = some 0 ∧
    firstFree ((coreWgs placePart 0).map (fun e => e.1 % 64)) 0 64 = some 0 ∧ readyOrder State.reset = [] :=
  ⟨rfl, rfl, rfl, rfl, by decide, rfl, by decide, by decide, place_fits, by decide +kernel, by decide, rfl⟩

/-- A node that waits for room since cycle 0, on a part whose cores have no scratch granule, at cycle 2^20. -/
def wantNode (a : Nat) : Node := { placeNode0 with desc := { placeNode0.desc with aff := a, q := 1 }, dies := [(0, 3)] }
def wantPart (a : Nat) : State := { State.reset with nodes := [(0, wantNode a)], cyc := 2 ^ 20 }

theorem wit_PoolEvents_reserves : (wantPart 6).power = true ∧ tget (wantPart 6).nodes 0 = some (wantNode 6) ∧
    nextWork (wantPart 6) 0 (wantNode 6) = some (.fresh, 0) ∧ mayPlace (wantNode 6) = true ∧ 2 ^ 20 ≤ (wantPart 6).cyc - (wantNode 6).waitFrom ∧
    placeWork (wantPart 6) 0 (wantNode 6) = none ∧ setDie (wantNode 6) 0 = none ∧ placeWork (wantPart 5) 0 (wantNode 5) = none ∧
    setDie (wantNode 5) 0 = some 3 :=
  ⟨rfl, rfl, by decide +kernel, rfl, by decide, by decide +kernel, rfl, by decide +kernel, by decide⟩

/-- A node all of whose workgroups have ended, with a successor at queue 0, place 1, and one with a signal at virtual address 8. -/
def doneNode : Node := { fetchNode with queue := 0, desc := { fetchDesc with succ := [1] } }
def nextNode : Node := { fetchNode with queue := 0, pos := 1, count := 1, state := .waiting, next := 0, begun := none }
def donePart : State := { State.reset with nodes := [(0, doneNode), (1, nextNode)] }
def signalNode : Node := { fetchNode with desc := { fetchDesc with signal := 8 } }
def signalPart : State := { mappedOf (grp sp0) [] with wgs := [], groups := [], nodes := [(0, signalNode)] }

theorem wit_PoolEvents_ends : shareDone donePart 0 doneNode = true ∧ donesIn donePart doneNode = true ∧ doneNode.desc.signal = 0 ∧
    doneNode.desc.succ = [1] ∧ doneNode.queue < 4096 ∧ nextNode.state = .waiting ∧ nextNode.count = 1 ∧
    (tdel donePart.nodes 0).find? (fun e => e.2.queue == doneNode.queue && e.2.pos == doneNode.pos + BitVec.ofNat 32 1 && e.2.state != .failed) =
      some (1, nextNode) ∧
    shareDone signalPart 0 signalNode = true ∧ signalNode.desc.signal ≠ 0 ∧ canonical (address57 signalNode.desc.signal) = true ∧
    (translate { signalPart with hubLt := tsMax signalPart.hubLt signalNode.time } none 0 (address57 signalNode.desc.signal) .store).2 =
      .ok (leaf0 8) ∧ isMemory (leaf0 8).pa = true ∧ (leaf0 8).pa % 8 = 0 ∧
    (translate { signalPart with hubLt := tsMax signalPart.hubLt signalNode.time } none 0 (address57 signalNode.desc.signal) .store).1.mem.wf = true :=
  ⟨by decide, by decide, rfl, rfl, by decide, rfl, rfl, rfl, by decide, by decide, by decide, okOf (by decide +kernel), by decide, by decide,
   by decide +kernel⟩

/-- A free-thread node all of whose workgroups have ended, one thread of which waits at index 3, with room for its group. -/
def thread0 : Thread :=
  { node := 0, index := 3, key := 7, cycle := 0, order := 0, lane := 5, regs := [], stack := [], mailbox := [], ticket := 0, pix := none }
def composeNode : Node := { placeNode0 with next := 1, begun := some 0, desc := { placeNode0.desc with free := true, calllen := 4 } }
def composePart : State :=
  { placePart with
    nodes := [(0, composeNode)], threads := [thread0],
    contexts := [(0, { State.reset.context 0 with valid := true, root := 1, usedRoot := 1 })], keySlots := [(0, { load := 0, value := 0 })],
    mem := (mappedOf (grp sp0) []).mem }

theorem wit_PoolEvents_composes : composePart.power = true ∧ tget composePart.nodes 0 = some composeNode ∧
    [thread0] = fillGroup 96 0 (waitingThreads composePart 0 3) ∧ composeNode.state ≠ .failed ∧
    groupDue composePart 0 composeNode (waitingThreads composePart 0 3) [thread0] = true ∧
    coreFor composePart 0 composeNode (.composed 3) 0 (wantOf 0 composeNode) = some 0 ∧ regionsFit composePart composeNode 1 = true ∧
    (callEntry composePart composeNode 3).2 = some { spc := 0, lpc := 0 } :=
  ⟨rfl, rfl, by decide, by decide, by decide, by decide +kernel, place_fits, by decide +kernel⟩

/-- A multi-chip node at its origin, of a domain of two parts. -/
def multi0 : Multi :=
  { gen := 3, origin := true, root := 0, rank := 0, accepts := [0, 1], dones := [], launched := some 0, accepted := true, started := false, aborted := false }
def multiNode : Node := { fetchNode with desc := { fetchDesc with multi := true, domain := 5 }, multi := some multi0 }
def multiPart : State := { partOf (grp sp0) multiNode fetchWg with domains := [(5, { size := 2, rank := 0, nextGen := 4 })] }

theorem wit_MultiChipEvents : multiPart.power = true ∧ tget multiPart.nodes 0 = some multiNode ∧ multiNode.multi = some multi0 ∧
    multi0.origin = true ∧ multi0.launched ≠ none ∧ multi0.started = false ∧ multi0.aborted = false ∧ multiNode.state = .ready ∧
    nodeOfGen multiPart true multiNode.desc.domain multi0.gen 1 = some (0, multiNode) ∧ acceptsIn multiPart multiNode = true ∧ multiPart.time < 0 + 10000 * 20400 ∧
    tget multiPart.domains multiNode.desc.domain = some { size := 2, rank := 0, nextGen := 4 } ∧ multiPart.nodes = [(0, multiNode)] :=
  ⟨rfl, rfl, rfl, rfl, by decide, rfl, rfl, rfl, rfl, by decide, by decide, rfl, rfl⟩

/-- The same on a part that took the launch from rank 1, before its START. -/
def shareOf (m : Multi) : Node := { multiNode with state := .waiting, multi := some m }
def share0 : Multi := { multi0 with origin := false, root := 1 }
def sharePart : State := { multiPart with nodes := [(0, shareOf share0)] }

theorem wit_MultiChipEvents_share : sharePart.power = true ∧ tget sharePart.nodes 0 = some (shareOf share0) ∧ share0.origin = false ∧
    nodeOfGen sharePart false (shareOf share0).desc.domain share0.gen 1 = some (0, shareOf share0) ∧ (shareOf share0).state = .waiting ∧
    share0.aborted = false ∧ accepted { multiPart with time := 10000 * 20400 } { multiNode with multi := some { multi0 with accepts := [] } } = false ∧
    multiNode.desc.coop = false ∧ (1 : Nat) < 2 ∧ multi0.rank ≠ 1 ∧
    (parseDesc 0 ((List.replicate 32 (0 : DWord)).map (fun x => x.toNat))).multi = false ∧ poolCount multiPart < 16384 :=
  ⟨rfl, rfl, rfl, rfl, rfl, rfl, by decide, rfl, by decide, by decide, by decide, by decide⟩

/-- A split stopped at a scalar word, and an action on it. -/
def spStopped : Split := { sp0 with stopped := some { code := .permission, kind := .scalar 1 } }
def action0 : ActionArgs := { region := 1, ctx := 0, slot := 0 }

/-- A sluice with a waiting message. -/
def waitingPart : State := { part (grp sp0) with sluices := [(0, { Sluice.reset with waiting := [List.replicate 8 0] })] }

theorem wit_KernelEvents : (part (grp spStopped)).power = true ∧ groupOfRegion (part (grp spStopped)) 0 1 = some (0, grp spStopped) ∧
    At (part (grp spStopped)) (refOf 0 0) (grp spStopped) spStopped ∧ spStopped.stopped = some { code := .permission, kind := .scalar 1 } ∧
    (waitingPart.sluice 0).waiting = [List.replicate 8 0] ∧ 0 < (waitingPart.sluice 0).free ∧
    groupOfRegion (part grpCall) 0 1 = some (0, grpCall) ∧ grpCall.upcall = some { ticket := 1, present := false } :=
  ⟨rfl, rfl, ⟨rfl, rfl⟩, rfl, rfl, by decide, rfl, rfl⟩

theorem wit_PreemptionEvents : (part (grp sp0)).power = true ∧ tget (part (grp sp0)).wgs 0 = some fetchWg ∧
    (part (grp sp0)).nodeCtx fetchWg.node = 0 ∧ fetchWg.twin = none ∧ saveReady (part (grp sp0)) 0 fetchWg = false ∧
    groupOfRegion (part (grp sp0)) 0 1 = some (0, grp sp0) := ⟨rfl, rfl, rfl, rfl, by decide, rfl⟩

/-- A workgroup asked to park, its one split held at its park point. -/
def askedWg : Workgroup := { fetchWg with preempt := some { hold := false, requests := [4] } }
def spHeld : Split := { sp0 with wait := .held .proceed }
def savePart : State := partOf (grp spHeld) fetchNode askedWg

/-- A saved workgroup of the one ready node, and a core with room. -/
def saved0 : SavedWg :=
  { wg := { fetchWg with groups := [] }, groups := [grp spHeld], hold := false, time := 0, actions := [], released := none, ctx := 0,
    barrier := barrierState [grp spHeld] }
def restorePart : State :=
  { State.reset with
    nodes := [(0, fetchNode)], saved := [(9, saved0)], regions := [(0, 0), (0, 1)],
    coreTab := [(0, { State.reset.core 0 with scratchGranules := 1 })], saveTable := [(0, { State.reset.saveEntry 0 with base := 0x100000, units := 2 })] }

theorem wit_PreemptionEvents_saves : saveReady savePart 0 askedWg = true ∧ tget savePart.wgs 0 = some askedWg ∧ askedWg.twin = none ∧
    askedWg.groups ≠ [] ∧ restorePart.nodes = [(0, fetchNode)] ∧ restorePart.saved = [(9, saved0)] ∧ saved0.wg.node = 0 ∧ saved0.hold = false ∧
    saved0.wg.twin = none ∧ mayPlace fetchNode = true ∧ fetchNode.desc.gstage ≠ 2 ∧ totalWorkgroups fetchNode ≤ fetchNode.next ∧
    bestCore restorePart ((savedCores restorePart fetchNode 9 saved0).filter (fun c => fits restorePart c (savedWant fetchNode saved0))) = some 0 ∧
    (restoreOn restorePart 9 saved0 fetchNode 0 none).isSome = true :=
  ⟨by decide, rfl, rfl, by decide, rfl, rfl, rfl, rfl, rfl, rfl, by decide, by decide, by decide +kernel, by decide +kernel⟩

/-- A pixel's write that may be applied, its tile held. -/
def image0 : ImageDesc := parseImage (List.replicate 8 0)
def write0 : RtWrite :=
  { node := 0, wave := 0, wg := 0, ref := ref0, order := 0, seq := 0, slot := 0, lane := 0, px := 0, py := 0, image := image0, data := 7, keep := 0,
    maps := [], held := false, pcs := { spc := 0, lpc := 0 } }
def tile0 : RtTile :=
  { node := 0, image := image0, tile := 0, ctx := 0, ref := ref0, wg := 0, maps := [], pixels := List.replicate 64 0, touched := false, state := 0, waves := [] }
def rasterPart : State := { part (grp sp0) with rtWrites := [(1, write0)], rtTiles := [(2, tile0)] }

/-- A ray whose first parameter is a NaN. -/
def ray0 : Ray :=
  { id := 6, slot := 0, lane := 0, ticket := 1, root := 0, ray := 0x7FC00000 :: List.replicate 7 0, pcs := { spc := 0, lpc := 0 }, seq := 0,
    record := some { ticket := 1, t := plusInf, prim := 0xFFFFFFFF, b1 := 0, b2 := 0 } }
def grpRay : Group := { grp sp0 with rays := [ray0] }

/-- A pixel node with no entries to rasterise, its raster and emit descriptors of zeros. -/
def rasterNode : Node := { pixelNode with next := 0, rasterised := false }
def rasterStart : State := { mappedOf (grp sp0) [] with wgs := [], groups := [], nodes := [(0, rasterNode)] }

theorem wit_GraphicsEvents_raster : tget rasterStart.nodes 0 = some rasterNode ∧ rasterNode.desc.gstage = 2 ∧ rasterNode.desc.gfx = true ∧
    rasterNode.state = .ready ∧ 8 ≤ rasterNode.desc.allot ∧
    (readRaster { rasterStart with hubLt := tsMax rasterStart.hubLt rasterNode.carried } rasterNode).2 = .ok ([0, 0, 0, 0], []) ∧
    rasterReserved [0, 0, 0, 0] = false ∧
    tget (readRaster { rasterStart with hubLt := tsMax rasterStart.hubLt rasterNode.carried } rasterNode).1.nodes 0 = some rasterNode :=
  ⟨rfl, rfl, rfl, rfl, by decide, okOf (by decide +kernel), by decide, by decide +kernel⟩

theorem wit_GraphicsEvents : rasterPart.power = true ∧ tget rasterPart.rtWrites 1 = some write0 ∧ mayApply rasterPart write0 = true ∧
    heldTile rasterPart write0.node write0.image (write0.image.tileOf 0 write0.px write0.py) = some (2, tile0) ∧
    tget rasterPart.rtTiles 2 = some tile0 ∧ tget (part grpRay).groups 0 = some grpRay ∧ grpRay.rays.find? (fun z => z.id == 6) = some ray0 ∧
    ((part grpRay).core (0 / 256)).galley.length < 256 ∧ (numOf 0x7FC00000).isNan = true :=
  ⟨rfl, rfl, by decide, rfl, rfl, rfl, rfl, by decide, by decide⟩

/-- A request of a dword of window 7, open for reads and writes; and an armed trigger. -/
def peer0 (op : PeerOp) : PeerRequest := { part := 0, window := 7, gen := 2, rank := 1, offset := 8, size := 8, op := op, tag := 4 }
def trigger0 : Trigger :=
  { ctx := 0, window := 7, tag := 4, threshold := 1, rearm := false, va := 0, n := 1, count := 0, armed := true, run := some 1, progress := 0,
    pending := 0, awaiting := [] }
def windowPart : State :=
  { State.reset with
    windows := [(7, { valid := true, base := 0x8000, len := 128, rd := true, wr := true, at' := false, trg := false, key := 0, part := 0, gen := 2 })],
    triggers := [(3, trigger0)], arrivals := [(7, 4)] }

theorem wit_WindowEvents : windowPart.power = true ∧ windowError windowPart (peer0 .read) = none ∧ 0 < (peer0 .read).size ∧
    ((windowPart.window 7).base + (peer0 .read).offset) % 128 + 8 ≤ 128 ∧ windowPart.poisonedAt 0x8008 8 = false ∧
    ((windowPart.window (peer0 (.set 1)).window).base + 8) % 8 = 0 ∧ windowPart.mem.wf = true ∧
    (windowPart.window 9).valid = false ∧ (7, 4) ∈ windowPart.arrivals ∧ tget windowPart.triggers 3 = some trigger0 ∧ trigger0.run = some 1 ∧
    trigger0.n ≤ 1 :=
  ⟨rfl, rfl, by decide, by decide, by decide, by decide, rfl, rfl, by decide, rfl, rfl, by decide⟩

/-- Slot 0 of the mailbox asks for a service, in a partition, with a payload of a length. -/
def mailAsks (svc part len : Byte) : State :=
  { State.reset with boot := .running, mailbox := Memory.writeBytes [] 0 [svc, 0, part, 0, 0, 0, 0, 0, len, 0, 0, 0], asked := [.resident 0] }

theorem asked_of (svc : Byte) (h : mailRequest (mailAsks svc 0 8) 0 svc.toNat = true) (hp : Sys2Proof.Machine.mailPart (mailAsks svc 0 8) 0 = 0)
    (hl : mailLength (mailAsks svc 0 8) 0 ≤ 108) : Asked (mailAsks svc 0 8) 0 svc.toNat := ⟨⟨rfl, rfl, h⟩, hp, hl⟩

theorem wit_ResidentServices_denied : inTurn State.reset (.resident 0) = false ∧ Requested (mailAsks 5 3 8) 0 5 ∧
    Sys2Proof.Machine.mailPart (mailAsks 5 3 8) 0 ≠ 0 ∧ Requested (mailAsks 5 0 109) 0 5 ∧ Sys2Proof.Machine.mailPart (mailAsks 5 0 109) 0 = 0 ∧
    108 < mailLength (mailAsks 5 0 109) 0 ∧ Asked (mailAsks 1 0 8) 0 1 ∧ Asked (mailAsks 13 0 8) 0 13 :=
  ⟨rfl, ⟨rfl, rfl, by decide⟩, by decide, ⟨rfl, rfl, by decide⟩, by decide, by decide, asked_of 1 (by decide) (by decide) (by decide),
   asked_of 13 (by decide) (by decide) (by decide)⟩

/-- Arguments for a window of a kilobyte of memory under key slot 0, for a domain of two parts, and for a list of one entry on window 7. -/
def windowArgs0 : WindowArgs := { base := 0x8000, len := 1024, rd := true, wr := true, at' := false, trg := false, key := 0, part := 0 }

theorem wit_ResidentServices : Asked (mailAsks 2 0 8) 0 2 ∧ contextNodes (mailAsks 2 0 8) 5 = [] ∧ Asked (mailAsks 3 0 8) 0 3 ∧
    windowArgsOk windowArgs0 = true ∧ windowArgsOk { windowArgs0 with len := 64 } = false ∧ ((mailAsks 3 0 8).window 0).valid = false ∧
    Asked (mailAsks 4 0 8) 0 4 ∧ ((mailAsks 4 0 8).window 7).valid = false ∧ Asked (mailAsks 5 0 8) 0 5 ∧ Asked (mailAsks 6 0 8) 0 6 ∧
    Asked (mailAsks 8 0 8) 0 8 ∧ tget (mailAsks 8 0 8).keySlots 5 = none ∧ Asked (mailAsks 9 0 8) 0 9 ∧ Asked (mailAsks 10 0 8) 0 10 ∧
    Asked (mailAsks 11 0 8) 0 11 ∧ Asked (mailAsks 12 0 8) 0 12 ∧ Asked (mailAsks 14 0 8) 0 14 ∧ inMemory 0x100000 (4096 * 4) = true ∧
    inMemory 0x100000 (2 ^ 60) = false :=
  ⟨asked_of 2 (by decide) (by decide) (by decide), rfl, asked_of 3 (by decide) (by decide) (by decide), by decide, by decide, rfl,
   asked_of 4 (by decide) (by decide) (by decide), rfl, asked_of 5 (by decide) (by decide) (by decide),
   asked_of 6 (by decide) (by decide) (by decide), asked_of 8 (by decide) (by decide) (by decide), rfl,
   asked_of 9 (by decide) (by decide) (by decide), asked_of 10 (by decide) (by decide) (by decide),
   asked_of 11 (by decide) (by decide) (by decide), asked_of 12 (by decide) (by decide) (by decide),
   asked_of 14 (by decide) (by decide) (by decide), by decide +kernel, by decide +kernel⟩

/-- A frame without payload for a service, and a session that it continues. -/
def frameFor (svc : BitVec 16) : Frame :=
  let f : Frame := { service := svc, part := 0, seq := 6, length := 0, payload := [], reservedZero := true, crc := 0 }
  { f with crc := crc32c (frameBody f 0 0 []) }
def session0 : Session := { last := 5, window := 0, reply := none }
def hostPart (f : Frame) : State := { State.reset with boot := .running, session := some session0, asked := [.host f] }

theorem wit_HostServices : frameOk (frameFor 5) = true ∧ NextFrame (hostPart (frameFor 5)) (frameFor 5) session0 5 ∧ frameOk (frameFor 0x100) = true ∧
    0x100 ≤ (frameFor 0x100).service.toNat ∧ (hostPart (frameFor 5)).rpcRing = none ∧ (hostPart (frameFor 7)).imageAsked = false ∧
    NextFrame (hostPart (frameFor 7)) (frameFor 7) session0 7 ∧ NextFrame (hostPart (frameFor 13)) (frameFor 13) session0 13 :=
  ⟨by decide +kernel, ⟨rfl, by decide, by decide +kernel, rfl, rfl, rfl, by decide⟩, by decide +kernel, by decide, rfl, rfl,
   ⟨rfl, by decide, by decide +kernel, rfl, rfl, rfl, by decide⟩, ⟨rfl, by decide, by decide +kernel, rfl, rfl, rfl, by decide⟩⟩

theorem wit_PlatformEvents : State.reset.power = true ∧ State.reset.boot = .rom ∧ State.reset.throttled = false ∧
    ({ State.reset with boot := .recovery, session := some session0 } : State).boot = .recovery ∧ (frameFor 15).service = 15 ∧
    (frameFor 15).seq = session0.last + 1 := ⟨rfl, rfl, rfl, rfl, rfl, rfl⟩

/-! ### Witnesses: words, steps, reset -/

theorem wit_DecodeEncode : (Instr.vadd (word (.v 1) (.v 2) (.v 3) (.v 0))).wf = true := by decide

/-- A part whose next move is pipe 0 of core 0, with the word of `sadd s1, s2, s3` at virtual address 0; and one whose next move is
command core 0, with the word of `cx.bfext`. -/
def stepPart : State := { mappedOf (grp sp0) [(0x6001, 0x83), (0x6002, 0x10)] with boot := .running, schedule := [(0, .pipe 0 0)], cur := none }
def commandPart : State :=
  { State.reset with boot := .running, commandCores := [(0, { coreM with mem := Memory.writeBytes [] coreM.pc.toNat (toBytes 4 0x00C5950B) })], schedule := [(0, .command 0)] }

theorem wit_StepRunsDecoded : stepPart.power = true ∧ stepPart.schedule = [(0, .pipe 0 0)] ∧
    pickSplit (passCycles { stepPart with schedule := [] } 0) 0 0 = some ref0 ∧ At (passCycles { stepPart with schedule := [] } 0) ref0 (grp sp0) sp0 ∧
    (mustPark sp0 && sp0.wait == .ready) = false ∧
    (∃ u, fetchInstr (passCycles { stepPart with schedule := [] } 0) ref0 (grp sp0) sp0 = (u, .instr (.sadd 1 2 3)) ∧ u.residueFails = []) ∧
    oluvosUp (passCycles { commandPart with schedule := [] } 0) = true ∧
    ((passCycles { commandPart with schedule := [] } 0).cmdCore 0).asked = false ∧
    interruptDue ((passCycles { commandPart with schedule := [] } 0).cmdCore 0) = false ∧
    fetchCmd ((passCycles { commandPart with schedule := [] } 0).cmdCore 0) = some 0x00C5950B ∧ 0x00C5950B % 4 = 3 ∧
    decodeXcmd 0x00C5950B = some (.cxBfext 10 11 12) ∧ xcmdOf 0x00000013 = none ∧ isEvent .boot = true :=
  ⟨rfl, rfl, by decide +kernel, ⟨rfl, rfl⟩, by decide, ⟨_, rfl, rfl⟩, by decide +kernel, by decide +kernel, by decide +kernel,
   by decide +kernel, by decide, by decide, by decide, by decide⟩

theorem wit_FetchFinds : canonical 0 = true ∧ pageHeld stepPart 0 0 (pageOf 0) = false ∧
    (∃ u l, translate stepPart (some 0) 0 0 .fetch = (u, .ok l) ∧ isMemory l.pa = true ∧ u.poisonedAt l.pa 4 = false) ∧
    tget stepPart.nodes (grp sp0).node = some fetchNode ∧ sp0.run = none ∧ nodeForbids fetchNode 0x00108300 = false ∧ spRun.run.isSome = true :=
  ⟨by decide, by decide,
   ⟨(translate stepPart (some 0) 0 0 .fetch).1, leaf0 0, Prod.ext rfl (okOf (by decide +kernel)), by decide, by decide +kernel⟩, rfl, rfl,
   by decide, rfl⟩

theorem wit_ResetAndPower : ({ State.reset with power := false, schedule := [(0, .event .hostLinkReset)] } : State).power = false ∧
    Move.pipe 0 0 ≠ .event .hostLinkReset := ⟨rfl, by decide⟩

theorem wit_StepKeepsMemoryForm : State.reset.memWf = true ∧ ∃ t, step State.reset = .next t := ⟨rfl, ⟨_, rfl⟩⟩

/-! ### Witnesses of further clauses: scalar words -/

/-- A store of the split that a peer has still to answer, an acquire or not, and an acknowledgement of one that is still to come. -/
def remote0 (acq : Bool) : Remote :=
  { ref := ref0, gkey := 0, node := 0, rank := 1,
    request := { part := 0, window := 7, gen := 2, rank := 0, offset := 8, size := 8, op := .write (List.replicate 8 0), tag := 0 },
    purpose := .store, pcs := { spc := 0, lpc := 0 }, seq := 0, lane := 0, acq := acq }
def ack0 : Ack := { ref := ref0, gkey := 0, node := 0, pa := 0x8000, size := 4, remote := false }

theorem wit_LaneAndReplyReads_wait : acquireHeld (part (grp sp0)) ref0 = false ∧
    acquireHeld { part (grp sp0) with remotes := [(3, remote0 true)] } ref0 = true := ⟨rfl, by decide⟩

/-- A split with a result in flight for a pair, for lanes of a register, and for a condition register. -/
def flightOf (ws : List RegWrite) : Split := { sp0 with inflight := [{ id := 3, writes := ws }] }

theorem wit_ResultReturns_forms (ws : List RegWrite) : At (part (grp (flightOf ws))) ref0 (grp (flightOf ws)) (flightOf ws) ∧
    resultHeld (part (grp (flightOf ws))) ref0 3 = false ∧ (flightOf ws).inflight.find? (fun f => f.id == 3) = some { id := 3, writes := ws } :=
  ⟨at_part _ _ _, rfl, rfl⟩

theorem wit_FaultEntry_held : At { part (grp sp0) with acks := [(2, ack0)] } ref0 (grp sp0) sp0 ∧
    accessesOut { part (grp sp0) with acks := [(2, ack0)] } ref0 = true ∧ accessesOut (part (grp sp0)) ref0 = false :=
  ⟨⟨rfl, rfl⟩, by decide, rfl⟩

/-- The part whose group has one deferral entry, in its region of memory all zeros but for the bit that says whether its F side has run: of slot
0, for the sjoin at PCs 0. -/
def deferredPart (swapped : Bool) : State :=
  { part grpDeferral with keySlots := [(0, { load := 0, value := 0 })], mem := if swapped then [(0x10A2C, 1)] else [] }

theorem through_deferred (b : Bool) : ParksThrough (deferredPart b) ref0 grpDeferral sp0 :=
  ⟨by cases b <;> decide, rfl, by cases b <;> decide, fetchNode, rfl, by cases b <;> decide⟩

theorem wit_ParkWords_deferred (b : Bool) : Runs (deferredPart b) ref0 grpDeferral sp0 ∧ ParksThrough (deferredPart b) ref0 grpDeferral sp0 ∧
    ((regionEntries (deferredPart b) grpDeferral).find? (fun d => d.slot == ref0.slot && d.join == sp0.pcs)).map Deferral.swapped = some b ∧
    (∀ j ∈ grpDeferral.joins, j.pcs = sp0.pcs → sp0.lanes &&& ~~~j.lanes = 0 → j.id ≤ 7) :=
  ⟨⟨rfl, rfl⟩, through_deferred b, by cases b <;> decide +kernel, by intro j h; cases h⟩

theorem wit_ExitAndTrap_deferred : ((regionEntries (part grpDeferral) grpDeferral).find? (fun d => d.slot == ref0.slot)).isSome = true ∧
    (regionEntries (part grpTwo) grpTwo).find? (fun d => d.slot == ref0.slot) = none ∧ accessesOut (part grpTwo) ref0 = false ∧
    accessesOut { part grpTwo with acks := [(2, ack0)] } ref0 = true ∧ releaseWaits { part grpTwo with acks := [(2, ack0)] } ref0 .device = true :=
  ⟨by decide +kernel, rfl, rfl, by decide, by decide⟩

/-- The calling group with a full stack, and with an index outside the call table. -/
def grpDeep : Group := { grp spLane0 with conts := (grp spLane0).conts.set 0 (List.replicate 4 0) }
def grpAstray : Group := { grp spLane0 with regs := List.replicate 4 { VReg.zero with data := Vector.replicate 96 2 } }

theorem wit_ThreadCalls_stops : Runs (partOf grpDeep callNode fetchWg) ref0 grpDeep spLane0 ∧
    ParksThrough (partOf grpDeep callNode fetchWg) ref0 grpDeep spLane0 ∧ nodeFlag (partOf grpDeep callNode fetchWg) grpDeep (fun d => d.free) = true ∧
    (∃ i, (execMask (partOf grpDeep callNode fetchWg) spLane0).getLsbD i = true ∧ 4 ≤ (grpDeep.stackOf i).length) ∧
    Runs (partOf grpAstray callNode fetchWg) ref0 grpAstray spLane0 ∧ ParksThrough (partOf grpAstray callNode fetchWg) ref0 grpAstray spLane0 ∧
    (∀ i, i < 96 → (grpAstray.stackOf i).length < 4) ∧
    (∃ (i : Nat) (v : Word), (execMask (partOf grpAstray callNode fetchWg) spLane0).getLsbD i = true ∧
      (readV (partOf grpAstray callNode fetchWg) grpAstray 1).data[i]? = some v ∧ callNode.desc.calllen ≤ v.toNat % 65536) ∧
    grpDeep.regs.length < (5 : Fin 33).val :=
  ⟨⟨rfl, rfl⟩, ⟨by decide, rfl, by decide, callNode, rfl, by decide⟩, rfl, ⟨0, by decide, by decide⟩, ⟨rfl, rfl⟩,
   ⟨by decide, rfl, by decide, callNode, rfl, by decide⟩,
   by decide +kernel, ⟨0, 2, by decide, by decide, by decide⟩, by decide⟩

/-- A group whose reply is there, but for a split that parks for it. -/
def grpCollects : Group :=
  { grp sp0 with splits := [(0, sp0), (1, { sp0 with lanes := 0, wait := .await (.reply 4 none) })], upcall := some { ticket := 0, present := true } }

theorem wit_Upcalls_stops : Runs (calls grpCollects) ref0 grpCollects sp0 ∧
    (∃ u, grpCollects.upcall = some u ∧ (u.present = false ∨ grpCollects.collects u = true)) ∧
    ({ Sluice.reset with tail := 960 } : Sluice).free ≤ 64 ∧ (waitingPart.sluice 0).waiting ≠ [] ∧
    releaseWaits { part (grp sp0) with acks := [(2, ack0)] } ref0 .system = true ∧ (∀ u, grpCall.upcall = some u → u.ticket ≠ 5) :=
  ⟨⟨rfl, rfl⟩, ⟨_, rfl, .inr (by decide)⟩, by decide, by decide, by decide, by intro u h; cases h; decide⟩

/-- A second split of the group waits on the object at offset 8 in its present phase. -/
def grpOnObject : Group :=
  { grp (spWith 8 2) with splits := [(0, spWith 8 2), (1, { sp0 with lanes := 0, wait := .await (.object 8 (some 0)) })] }

theorem wit_BarrierObjects_waiting : Runs (partOf grpOnObject fetchNode objWg) ref0 grpOnObject (spWith 8 2) ∧
    scoreboardBlocks (partOf grpOnObject fetchNode objWg) ref0.core grpOnObject.wg 8 16 = false ∧
    acquireHeld (partOf grpOnObject fetchNode objWg) ref0 = false ∧
    (∃ k ∈ objWg.groups, ∃ x, tget (partOf grpOnObject fetchNode objWg).groups k = some x ∧ ∃ e ∈ x.splits, ∃ p,
      p = some (objectPhase (objectWord objWg 8)) ∧ e.2.wait = .await (.object 8 p)) ∧
    (spWith 8 2).arrival ≠ some (8, 0) ∧ ({ spWith 8 2 with arrival := some (8, 0) } : Split).arrival = some (8, objectPhase (objectWord objWg 8)) :=
  ⟨⟨rfl, rfl⟩, by decide, rfl, ⟨0, by decide, grpOnObject, rfl, (1, { sp0 with lanes := 0, wait := .await (.object 8 (some 0)) }), by simp [grpOnObject], some 0, by decide, rfl⟩,
   by decide, by decide⟩

theorem wit_BarriersAndFences_waits : releaseWaits { part (grp sp0) with acks := [(2, ack0)] } ref0 .workgroup = true ∧
    fenceStall { part (grp sp0) with acks := [(2, ack0)] } ref0 .release .device ≠ none ∧
    targetsDone rasterPart write0.wave = false := ⟨by decide, by decide, by decide⟩

/-! ### Witnesses of further clauses: lane words -/

/-- A group within a run whose registers all have a tag; the context of a word of it. -/
def gTag (t : Tag) : Group := { grp spRun with regs := List.replicate 8 { VReg.zero with tag := t } }
def ctxOf (t : Tag) (w : LaneWord) : LaneCtx := laneCtx (part (gTag t)) ref0 (gTag t) spRun w

/-- A word on such a group passes every check and waits for nothing. -/
def FreeOn (p : LaneSpec) (t : Tag) (w : LaneWord) : Prop := Free p (part (gTag t)) ref0 (gTag t) spRun w 3 false

theorem free_on (p : LaneSpec) (t : Tag) (w : LaneWord) (a : w.hold = 0) (b : w.p = false) (c : laneFault p (ctxOf t w) = none)
    (d : p.stall (ctxOf t w) = none) : FreeOn p t w := ⟨⟨⟨rfl, rfl⟩, rfl, a, b⟩, c, d⟩

/-- A word that passes every check, whose destination is v0. -/
def PassesOn (p : LaneSpec) (t : Tag) (w : LaneWord) : Prop := Passes p (part (gTag t)) ref0 (gTag t) spRun w 3 false 0

theorem passes_on (p : LaneSpec) (t : Tag) (w : LaneWord) (a : w.hold = 0) (b : w.p = false) (c : laneFault p (ctxOf t w) = none)
    (d : w.vd = .v 0) : PassesOn p t w := ⟨⟨⟨rfl, rfl⟩, rfl, a, b⟩, c, d, by cases t <;> decide⟩

/-- A word at the scratchpad, registers for base, index and data; and one at the address of s[4:5], 0, in the page that the part maps. -/
def scrWord (sub mods : Fin 16) : LaneWord := { word (.v 0) (.v 2) (.v 3) (.v 4) with sub := sub, mods := mods }
def memWord (sub mods : Fin 16) : LaneWord := { word (.v 0) (.s 4) (.v 3) (.v 4) with sub := sub, mods := mods }

/-- A word on such a group in the part that maps page 0. -/
def FreeAt (p : LaneSpec) (t : Tag) (w : LaneWord) : Prop := Free p (mappedOf (gTag t) []) ref0 (gTag t) spRun w 3 false

theorem free_at (p : LaneSpec) (t : Tag) (w : LaneWord) (a : w.hold = 0) (b : w.p = false)
    (c : laneFault p (laneCtx (mappedOf (gTag t) []) ref0 (gTag t) spRun w) = none)
    (d : p.stall (laneCtx (mappedOf (gTag t) []) ref0 (gTag t) spRun w) = none) : FreeAt p t w := ⟨⟨⟨rfl, rfl⟩, rfl, a, b⟩, c, d⟩

theorem wit_LaneWords_scratch : FreeOn specVlds .raw (scrWord 4 0) ∧ (ctxOf .raw (scrWord 4 0)).act ≠ 0 ∧ FreeOn specVsts .raw (scrWord 1 0) ∧
    FreeOn specVatomn .n32 (scrWord 0 2) ∧ FreeOn specVatom .n32 (scrWord 0 2) ∧ performing (ctxOf .n32 (scrWord 0 2)) true 0 = true ∧
    tget (part (gTag .raw)).wgs (gTag .raw).wg = some fetchWg ∧ fetchWg.scratch.wf = true :=
  ⟨free_on _ _ _ rfl rfl (by decide) (by decide), by decide, free_on _ _ _ rfl rfl (by decide) (by decide),
   free_on _ _ _ rfl rfl (by decide) (by decide), free_on _ _ _ rfl rfl (by decide) (by decide), by decide, rfl, rfl⟩

theorem wit_LaneWords_global : FreeAt specVld .raw (memWord 4 0) ∧ FreeAt specVst .raw (memWord 5 0) ∧
    FreeAt specVatomn .n32 (memWord 0 0) ∧ FreeAt specVatom .n64 { memWord 0 1 with vb := .lit } ∧
    (laneCtx (mappedOf (gTag .raw) []) ref0 (gTag .raw) spRun (memWord 4 0)).act ≠ 0 :=
  ⟨free_at _ _ _ rfl rfl (by decide) (by decide), free_at _ _ _ rfl rfl (by decide) (by decide),
   free_at _ _ _ rfl rfl (by decide) (by decide), free_at _ _ _ rfl rfl (by decide) (by decide), by decide⟩

/-- Two stores of a word, of two lanes at one address. -/
def storeOf (lane : Nat) (d : DWord) : Access := { lane := lane, va := 8, size := 4, op := .store, data := d, compare := 0, ext := .zero }

theorem wit_LaneWords_accesses : (translate mA (some 0) 0 8 .load).2 = .ok (leaf0 8) ∧ isMemory (leaf0 8).pa = true ∧
    mA.poisonedAt (leaf0 8).pa 4 = false ∧ mA.mem.wf = true ∧ (leaf0 8).pa % 128 + 4 ≤ 128 ∧ (leaf0 8).pa % 32 + 4 ≤ 32 ∧
    (translate mA (some 0) 0 0x10000 .load).2.toOption = none ∧ pageHeld mA 0 0 (pageOf 8) = false ∧
    (∀ a ∈ [storeOf 0 1, storeOf 1 2], a.op = .store ∧ 0 < a.size ∧ a.va.toNat % a.size = 0 ∧ 2 ^ 64 % a.size = 0) ∧
    writesByte (storeOf 1 2) 9 :=
  ⟨okOf (by decide +kernel), by decide, by decide +kernel, by decide, by decide, by decide, by decide +kernel, by decide, by decide,
   ⟨by decide, by decide⟩⟩

theorem wit_LaneIntegers_floats : PassesOn specVadd .f32 (scrWord 0 0) ∧ (ctxOf .f32 (scrWord 0 0)).poly [.v 2, .v 3] = some .f32 ∧
    PassesOn specVmin .f16x2 (scrWord 0 0) ∧ (ctxOf .f16x2 (scrWord 0 0)).poly [.v 2, .v 3] = some .f16x2 ∧ PassesOn specVdiv .f64 { scrWord 0 0 with vb := .v 4 } ∧
    (ctxOf .f64 { scrWord 0 0 with vb := .v 4 }).floatTag fullFloat [.v 2, .v 4] = some .f64 ∧ PassesOn specVrcp .f32 (scrWord 0 0) ∧
    (ctxOf .f32 (scrWord 0 0)).floatTag shortFloat [.v 2] = some .f32 ∧ PassesOn specVclass .f16x2 (scrWord 0 0) ∧
    PassesOn specVdot2 .f16x2 { scrWord 0 0 with vc := .s 6 } ∧
    (ctxOf .f16x2 { scrWord 0 0 with vc := .s 6 }).floatTag dotTag [.v 2, .v 3] = some .f16x2 ∧
    PassesOn specVldexp .f32 { scrWord 0 0 with vb := .s 6 } ∧ PassesOn specVmulhi .i64 { scrWord 0 0 with vb := .v 4 } ∧
    (ctxOf .i64 { scrWord 0 0 with vb := .v 4 }).mulhi = some .i64 ∧ tagIsInt .f32 = false :=
  ⟨passes_on _ _ _ rfl rfl (by decide) rfl, by decide, passes_on _ _ _ rfl rfl (by decide) rfl, by decide,
   passes_on _ _ _ rfl rfl (by decide) rfl, by decide, passes_on _ _ _ rfl rfl (by decide) rfl, by decide,
   passes_on _ _ _ rfl rfl (by decide) rfl, passes_on _ _ _ rfl rfl (by decide) rfl, by decide, passes_on _ _ _ rfl rfl (by decide) rfl,
   passes_on _ _ _ rfl rfl (by decide) rfl, by decide, rfl⟩

theorem wit_Transcendentals : (Q.ofInt 2).isZero = false ∧ (Q.ofInt 2).isPow2 = true ∧ (exactly .f32 ((Q.ofInt 1).div (Q.ofInt 2))).isSome = true ∧
    (roundFloat .f32 .rne false false (Q.pow2 128)).flags &&& flagOF ≠ 0 ∧ (roundFloat .f32 .rne false false (Q.ofInt 3)).flags &&& flagOF = 0 :=
  ⟨by decide, by decide, by decide +kernel, by decide +kernel, by decide +kernel⟩

theorem wit_LaneBits_counts : PassesOn specVclz .i32 (scrWord 0 0) ∧ PassesOn specVpopc .n64 (scrWord 0 0) ∧ PassesOn specVbrev .n64 (scrWord 0 0) ∧
    (ctxOf .n64 (scrWord 0 0)).fmtA = .n64 :=
  ⟨passes_on _ _ _ rfl rfl (by decide) rfl, passes_on _ _ _ rfl rfl (by decide) rfl, passes_on _ _ _ rfl rfl (by decide) rfl, by decide⟩

theorem wit_LaneConditions_floats : InRun (part (gTag .f32)) ref0 (gTag .f32) spRun (scrWord 1 3) 3 false ∧
    laneFault specVcmp (ctxOf .f32 (scrWord 1 3)) = none ∧ (ctxOf .f32 (scrWord 1 3)).poly [.v 2, .v 3] = some .f32 ∧
    laneFault specVcmp (ctxOf .f16x2 (scrWord 5 7)) = none ∧ (scrWord 5 7).sub.val = (1 : Fin 4).val + 4 :=
  ⟨⟨⟨rfl, rfl⟩, rfl, rfl, rfl⟩, by decide, by decide, by decide, rfl⟩

theorem wit_LaneConditions_accumulators : InRun (part (gTag .f32)) ref0 (gTag .f32) spRun (scrWord 1 0) 3 false ∧
    laneFault specVxadd (ctxOf .f32 (scrWord 1 0)) = none ∧ (ctxOf .f32 (scrWord 1 0)).floatTag exactTag [.v 2] = some .f32 ∧
    PassesOn specVxget .f32 (scrWord 1 0) ∧ PassesOn specVxget .f32 (scrWord 3 0) ∧ (scrWord 3 0).sub.val = (1 : Fin 2).val + 2 :=
  ⟨⟨⟨rfl, rfl⟩, rfl, rfl, rfl⟩, by decide, by decide, passes_on _ _ _ rfl rfl (by decide) rfl, passes_on _ _ _ rfl rfl (by decide) rfl, rfl⟩

theorem wit_LaneMoves_more : PassesOn specVli .raw (scrWord 0 0) ∧ PassesOn specVli .raw { scrWord 1 0 with ovr := 8 } ∧
    (ctxOf .raw { scrWord 1 0 with ovr := 8 }).ov.getD .raw = .i64 ∧ PassesOn specVcvt .f32 { scrWord 2 0 with vb := .v 0 } ∧
    (ctxOf .f32 { scrWord 2 0 with vb := .v 0 }).cvtFrom = some .f32 ∧ Tag.ofNumber 2 = some .n32 ∧ tagComputes .n32 = true ∧
    PassesOn specVscan .i32 (scrWord 4 0) ∧ (ctxOf .i32 (scrWord 4 0)).poly [.v 2] = some .i32 ∧ PassesOn specVred .n32 (scrWord 3 0) ∧
    (ctxOf .n32 (scrWord 3 0)).redTag = some .n32 :=
  ⟨passes_on _ _ _ rfl rfl (by decide) rfl, passes_on _ _ _ rfl rfl (by decide) rfl, by decide, passes_on _ _ _ rfl rfl (by decide) rfl,
   by decide, by decide, by decide, passes_on _ _ _ rfl rfl (by decide) rfl, by decide, passes_on _ _ _ rfl rfl (by decide) rfl, by decide⟩

/-! ### Witnesses of further clauses: graphics, copy and command words -/

/-- The grid of gridPart: one level of resolution 1 over a table of one entry, so hashed; and one with a table of four entries, so dense. -/
def grid0 : GridDesc := { table := 0, grad := 0, d3 := false, levels := 1, logt := 0, f4 := false, nbase := 1, grow := 0x3F800000 }

/-- The states in which the corners of a lane's cell are read. -/
def gridState (k : Nat) : State :=
  (List.range k).foldl (fun s e => (agentRead s (whoOf gridPart ref0 (grpTag .f32) spRun) unitFields
    (grid0.table + BitVec.ofNat 64 (2 * ((0 * 2 ^ grid0.logt + (gridCorner grid0 0 [0, 0] e).1) * grid0.feats))) (2 * grid0.feats)).1) gridPart

theorem grid_reads (e : Nat) (h : e < 4) :
    (agentRead (gridState e) (whoOf gridPart ref0 (grpTag .f32) spRun) unitFields
      (grid0.table + BitVec.ofNat 64 (2 * ((0 * 2 ^ grid0.logt + (gridCorner grid0 0 [0, 0] e).1) * grid0.feats))) (2 * grid0.feats)).2.toOption =
        some (List.replicate 4 0) := by
  match e, h with
  | 0, _ => decide +kernel
  | 1, _ => decide +kernel
  | 2, _ => decide +kernel
  | 3, _ => decide +kernel

theorem wit_GraphicsResults_grids : (∃ q, numOf grid0.grow = .fin false q ∧ 0 < q.num ∧ 0 < q.den) ∧ 0 < grid0.res 0 ∧
    2 ^ grid0.logt < (grid0.res 0 + 1) ^ grid0.dims ∧ ({ grid0 with logt := 2 }.res 0 + 1) ^ 2 ≤ 2 ^ ({ grid0 with logt := 2 } : GridDesc).logt ∧
    GridAt (laneCtx gridPart ref0 (grpTag .f32) spRun gfxWord) (parseGrid (dwordsIn 4 ((List.range 32).map (fun i =>
      if i = 12 then 1 else if i = 18 then 0x80 else if i = 19 then 0x3F else 0)))) ∧
    rangesOk (laneCtx gridPart ref0 (grpTag .f32) spRun gfxWord) (specVhgrid.regs (laneCtx gridPart ref0 (grpTag .f32) spRun gfxWord)) = true ∧
    specVhgrid.mismatch (laneCtx gridPart ref0 (grpTag .f32) spRun gfxWord) = false ∧
    rangesOk (laneCtx gridPart ref0 (grpTag .f32) spRun gfxWord) (specVhgsc.regs (laneCtx gridPart ref0 (grpTag .f32) spRun gfxWord)) = true ∧
    specVhgsc.mismatch (laneCtx gridPart ref0 (grpTag .f32) spRun gfxWord) = false ∧
    groupReleaseWaits gridPart ref0 (grpTag .f32) (laneCtx gridPart ref0 (grpTag .f32) spRun gfxWord).mem.scope = false :=
  ⟨⟨_, rfl, by decide, by decide⟩, by decide, by decide, by decide, ⟨rfl, by decide, _, grid_read, by decide, rfl⟩, by decide, by decide, by decide,
   by decide, by decide⟩

/-- A pixel's group with a section open. -/
def grpSect : Group := { grpTag .f32 with sect := some 0 }

theorem wit_GraphicsResults_order : InRun (partOf grpSect pixelNode fetchWg) ref0 grpSect spRun gfxWord 3 false ∧
    pixelWave (partOf grpSect pixelNode fetchWg) grpSect = true ∧ grpSect.sect ≠ none ∧
    targetsDone (partOf grpSect pixelNode fetchWg) grpSect.wave = true ∧ groupReleaseWaits (partOf grpSect pixelNode fetchWg) ref0 grpSect .device = false ∧
    ParksThrough (partOf grpSect pixelNode fetchWg) ref0 grpSect spRun ∧ (∀ y ∈ (grpTag .f32).rays, y.id < (imagePart .f32).serial) :=
  ⟨⟨⟨rfl, rfl⟩, rfl, rfl, rfl⟩, by decide, by decide, by decide, by decide, ⟨by decide, rfl, by decide, pixelNode, rfl, by decide⟩,
   by intro y h; cases h⟩

/-- A twin pair's leader, its follower in slot 0 of core 1. -/
def pairNode : Node := { fetchNode with desc := { fetchDesc with pair := true } }
def leadWg : Workgroup := { matWg with twin := some 64 }

theorem wit_MatrixIssue_pair : nodeFlag (partOf (grp spMat) pairNode leadWg) (grp spMat) (fun d => d.pair) = true ∧ leadWg.follower = false ∧
    leadWg.twin = some 64 ∧ 64 / 64 ≠ ref0.core ∧ ((partOf (grp spMat) pairNode leadWg).core (64 / 64)).matrix.length < 32 ∧
    nodeFlag matPart (grp spMat) (fun d => d.pair) = false ∧ (readV matPart (grp spMat) 1).tag ∈ [Tag.raw, .i32, .n32] :=
  ⟨rfl, rfl, rfl, by decide, by decide, rfl, by decide⟩

/-- A row of 8 bytes within the scratchpad that overlaps its source, one to memory at virtual address 8, and one from there. -/
def copyOf (dir : CopyDir) (d a : DWord) : CmdKind := .copy dir d a 8 1 8 8 copyPlain
def copyPart (k : CmdKind) : State := { mappedOf (grp spMat) [] with commands := [(5, cmdOf k)] }

theorem wit_CopyCommands_performed (k : CmdKind) : Unperformed (copyPart k) 5 (cmdOf k) fetchWg k :=
  ⟨rfl, rfl, rfl, rfl, rfl, rfl, rfl, by decide, rfl⟩

theorem wit_CopyCommands_line (k : CmdKind) (h : k = copyOf .sg 8 0 ∨ k = copyOf .gs 0 8) (u : PageUse) (hu : u = .store ∨ u = .load) :
    InLine (copyPart k) (cmdOf k) 8 8 u (leaf0 8) ∧ (copyPart k).poisonedAt (leaf0 8).pa 8 = false ∧
    Uncached (copyPart k) (cmdOf k).ref (copyMem copyPlain) (leaf0 8) := by
  rcases h with rfl | rfl <;> rcases hu with rfl | rfl <;>
    exact ⟨⟨by decide, by decide, by decide, by decide, okOf (by decide +kernel), by decide⟩, by decide +kernel, .inr (.inr (by decide))⟩

theorem wit_CopyCommands_waits : (2 : Nat) < 15 ∧ 15 ≤ ({ grp sp0 with batches := List.replicate 15 (1, []) } : Group).batches.length ∧
    (0 : Fin 16).val < ({ grp sp0 with batches := [(1, [4])] } : Group).batches.length ∧ sp0.deferred = [] ∧
    canonical (readD (part (grp (spAddr 4))) (spAddr 4) 2) = true ∧ (readD (part (grp (spAddr 4))) (spAddr 4) 2).toNat % 8 ≠ 0 ∧
    (readD (part (grp (spAddr 8))) (spAddr 8) 2).toNat % 8 = 0 ∧ (part (grp sp0)).nodeOf (grp sp0) = some fetchNode ∧ fetchNode.desc.gfx = false :=
  ⟨by decide, by decide, by decide, rfl, by decide, by decide, by decide, rfl, rfl⟩

/-- A command that a peer turned away, deferred to its split. -/
def deferred0 : Deferred := { code := .permission, pcs := { spc := 0, lpc := 0 }, lanes := 0, addr := 0, window := 0, seq := 0, cmd := some 5 }

/-- A mesh node whose argument block, in the page that the part maps, is an emit descriptor of zeros. -/
def meshNode : Node := { fetchNode with desc := { fetchDesc with gfx := true, gstage := 1 } }
def meshPart : State := { mappedOf (grp sp0) [] with nodes := [(0, meshNode)] }

theorem wit_CopyCommands_emit : Runs meshPart ref0 (grp sp0) sp0 ∧ meshPart.nodeOf (grp sp0) = some meshNode ∧ meshNode.desc.gfx = true ∧
    meshNode.desc.gstage = 1 ∧ (readS meshPart sp0 1).toNat % 64 = 0 ∧ readS meshPart sp0 2 = 0 ∧ (meshPart.core ref0.core).galley.length < 256 ∧
    (∃ b, (readDescriptor meshPart (whoOf meshPart ref0 (grp sp0) sp0) unitFields meshNode.args 32).2 = .got b ∧ dwordsIn 4 b = [0, 0, 0, 0]) ∧
    (∃ img, (readImage meshPart (whoOf meshPart ref0 (grp sp0) sp0) (copyMem copyPlain) (readD meshPart sp0 2)).2 = .got img) ∧
    (∃ x ∈ ({ sp0 with deferred := [deferred0] } : Split).deferred, ∃ c, x.cmd = some c ∧ c ∉ (grp sp0).uncovered) :=
  ⟨⟨rfl, rfl⟩, rfl, rfl, rfl, by decide, by decide, by decide, ⟨List.replicate 32 0, by decide +kernel, by decide⟩,
   ⟨parseImage (List.replicate 8 0), by unfold readImage cachedFields; generalize Config.freeBit _ _ = b; cases b <;> decide +kernel⟩, deferred0, by simp, 5, rfl, by decide⟩

/-! ### Witnesses of further clauses: the command complex, events -/

/-- A command core in M mode with a register at a value. -/
def coreX (v w : DWord) : CmdCore := { coreM with x := (coreM.x.set 1 v).set 2 w }

/-- Part with a frame taken in slot 3. -/
def framePart : State := { cmdPart coreM with frames := [(3, frameFor 5)] }

theorem wit_CommandWords_faults : (coreX 8 0).get 1 = 8 ∧ ((coreX 8 0).get 1).toNat % 4096 ≠ 0 ∧ ((coreX 4 0).get 1).toNat % 8 ≠ 0 ∧
    cmdReadable (cmdPart coreM) (2 ^ 56) 8 = false ∧ 2 ^ 13 ≤ ((coreX 0 (2 ^ 13)).get 2).toNat ∧ ((coreX 32 0).get 1).toNat % 64 ≠ 0 ∧
    1024 ≤ ((coreX 0 1024).get 2).toNat ∧ 256 ≤ ((coreX 0 256).get 2).toNat :=
  ⟨by decide +kernel, by decide +kernel, by decide +kernel, by decide +kernel, by decide +kernel, by decide +kernel, by decide +kernel,
   by decide +kernel⟩

theorem wit_CommandWords_done : RunsCommand framePart coreM ∧ framePart.frames = [(3, frameFor 5)] ∧ tget framePart.aperture 3 = none ∧
    ((mappedOf (grp sp0) []).context ((coreM.get 1).toNat % 1024)).valid = true ∧ (coreM.get 2).toNat < 1024 ∧ (coreM.get 2).toNat < 256 ∧
    (ofBytes (homeRead (cmdPart coreM) none ((cmdPart coreM).keyMapSlot 0) 0 8).2 = 0) ∧ (0 : Nat) < ((coreX 0 1).get 2).toNat ∧
    coreM.pendingIrq = false ∧ 0 + 4096 ≤ Config.localMemorySize :=
  ⟨⟨rfl, rfl⟩, rfl, rfl, by decide +kernel, by decide +kernel, by decide +kernel, by decide +kernel, by decide +kernel, rfl,
   by unfold Config.localMemorySize; omega⟩

/-- A park whose split has a result in flight; a split that has been ready for 1,024 cycles; a run of 256 words since the last park. -/
def spParkFlight : Split := { spFlight with wait := .park .proceed }
def oldPart : State := { part (grp sp0) with cyc := 1024 }
def spLong : Split := { sp0 with run := some { left := 3, pk := false, rep := none }, laneCount := 256 }

theorem wit_ParkEvents_waits : At (part (grp spParkFlight)) ref0 (grp spParkFlight) spParkFlight ∧ spParkFlight.stopped = none ∧
    resultsIn (part (grp spParkFlight)) ref0 (grp spParkFlight) spParkFlight = false ∧ At oldPart ref0 (grp sp0) sp0 ∧ sp0.wait = .ready ∧
    1024 ≤ oldPart.cyc - sp0.lastIssue ∧ tget (oldPart.core ref0.core).precedence ref0.pipe = none ∧
    ParksThrough (part (grp spLong)) ref0 (grp spLong) spLong ∧ spLong.run ≠ none ∧ 256 ≤ spLong.laneCount :=
  ⟨at_part _ _ _, rfl, by decide, ⟨rfl, rfl⟩, rfl, by decide, rfl, ⟨by decide, rfl, by decide, fetchNode, rfl, by decide⟩, by decide, by decide⟩

/-- Two splits that wait for record 9, each half of its lanes, the second of slot 2; and the first of them alone, which is a deadlock. -/
def spHalf (m : LaneMask) : Split := { spJoin with lanes := m }
def grpHalves : Group := { grpJoin with splits := [(0, spHalf 0x0FFFFFFFFFFF), (2, spHalf 0xFFFFFFFFFFFFF00000000000)] }
def grpStuck : Group := { grpJoin with splits := [(0, spHalf 0x0FFFFFFFFFFF)] }

theorem wit_ParkEvents_merge : grpHalves.splits.filter (fun e => e.2.wait == .join 9 && e.2.stopped.isNone) = grpHalves.splits ∧
    sp0.lanes &&& ~~~(grpHalves.splits.foldl (fun m e => m ||| e.2.lanes) (0 : LaneMask)) = 0 ∧ (grpHalves.splits.map (fun e => e.1)).Nodup ∧
    sp0.lanes &&& ~~~((grpStuck.splits.filter (fun e => e.2.wait == .join 9 && e.2.stopped.isNone)).foldl (fun m e => m ||| e.2.lanes) (0 : LaneMask)) ≠ 0 ∧
    tget (part grpStuck).groups 0 = some grpStuck ∧ joinDeadlock grpStuck = true ∧ joinDeadlock grpHalves = false :=
  ⟨by decide, by decide, by decide, by decide, rfl, by decide, by decide⟩

/-- A group all of whose splits wait at the barrier. -/
def grpBarrier : Group := { grp sp0 with splits := [(0, { sp0 with wait := .await .barrier })] }

theorem wit_ParkEvents_barrier : tget (part grpBarrier).wgs 0 = some fetchWg ∧ fetchWg.groups.Nodup ∧
    (∀ k ∈ fetchWg.groups, ∀ g, tget (part grpBarrier).groups k = some g → groupArrived g = true) ∧
    (∃ k ∈ fetchWg.groups, ∃ g, tget (part (grp sp0)).groups k = some g ∧ groupArrived g = false) ∧
    tget ({ part (grp sp0) with acks := [(2, ack0)] } : State).acks 2 = some ack0 ∧ ack0.ref = ref0 :=
  ⟨rfl, by decide, (by intro k hk g hg; have : k = 0 := by simpa [fetchWg] using hk
                       subst this; cases hg; decide), ⟨0, by decide, grp sp0, rfl, by decide⟩, rfl, rfl⟩

/-- A core whose last way holds a line, with a workgroup that needs two granules of which one is there; and one that holds more than it needs. -/
def line0 (way : Nat) : L1Line :=
  { way := way, line := 4, key := 0, valid := 15, data := [], wts := 0, rts := 0, filled := 0, owner := 0, kind := 0, due := 0, stamp := 0, overdue := false }
def granulePart (need : Nat) : State :=
  { State.reset with wgs := [(0, { fetchWg with granules := need })],
                     coreTab := [(0, { Core.reset with scratchGranules := 1, l1 := [line0 ((State.reset.core 0).ways - 2)] })] }

theorem wit_ClockEvents_granules : 8 < ((granulePart 2).core 0).ways ∧ ((granulePart 2).core 0).scratchGranules < granuleNeed (granulePart 2) 0 ∧
    (∀ l ∈ ((granulePart 2).core 0).l1, l.way = ((granulePart 2).core 0).ways - 1 → leased (granulePart 2) 0 l.line = false) ∧
    (∃ l ∈ ((granulePart 2).core 0).l1, l.way = ((granulePart 2).core 0).ways - 1 ∧
      leased { granulePart 2 with leases := [(4, { core := 0, ends := 9 })] } 0 l.line = true) ∧
    granuleNeed (granulePart 1) 0 ≤ ((granulePart 1).core 0).scratchGranules ∧ granuleNeed { granulePart 0 with wgs := [] } 0 < ({ granulePart 0 with wgs := [] }.core 0).scratchGranules :=
  ⟨by decide, by decide, by decide, by decide, by decide, by decide⟩

/-- A part whose hub is near the top of logical time. -/
def topPart : State := { State.reset with hubLt := 0x3FFF, hubTicked := 0x3FFF }

theorem wit_ClockEvents_due : nearTop topPart.floor topPart.hubLt = true ∧ nearTop State.reset.floor State.reset.hubLt = false ∧
    nearTop State.reset.floor State.reset.idleLt = false ∧ (∀ e ∈ State.reset.coreTab, nearTop State.reset.floor e.2.lt = false) ∧
    State.reset.hubTicked < ({ State.reset with cyc := 1024 } : State).cyc / 1024 ∧ State.reset.cyc / 1024 ≤ State.reset.hubTicked ∧
    ({ core := 0, ends := 9 } : Lease).ends ≤ ({ State.reset with cyc := 9 } : State).cyc ∧ State.reset.cyc < ({ core := 0, ends := 9 } : Lease).ends :=
  ⟨by decide, by decide, by decide, (by intro e h; cases h), by decide, by decide, by decide, by decide⟩

/-- A notify for queue 0 at a place, of a context or of the resident cluster, the ring's context barred or not. -/
def notifyPart (value : Word) (ctx : Option Nat) (barred : Bool) : State :=
  { State.reset with
    queues := [(0, { Queue.reset with en := true, tail := 1 })], notifies := [{ queue := 0, value := value, ctx := ctx }],
    contexts := [(0, { State.reset.context 0 with valid := true, barred := barred })] }

theorem wit_QueueEvents_notify : ((notifyPart 2 none false).queue 0).enabled = true ∧ ((notifyPart 2 none false).queue 0).size = 16 ∧
    ((2 : Word) - ((notifyPart 2 none false).queue 0).tail).toNat = 1 ∧ ((18 : Word) - ((notifyPart 18 none false).queue 0).tail).toNat = 16 + 1 ∧
    2 ^ 31 ≤ ((0 : Word) - ((notifyPart 0 none false).queue 0).tail).toNat ∧ ((notifyPart 2 (some 0) false).queue 0).ctx = 0 ∧
    ((notifyPart 2 (some 0) false).context 0).barred = false ∧ ((notifyPart 2 (some 0) true).context 0).barred = true ∧
    ((notifyPart 2 (some 7) false).context 7).barred = false ∧ 7 ≠ ((notifyPart 2 (some 7) false).queue 0).ctx ∧ (State.reset.queue 0).enabled = false :=
  ⟨rfl, by decide, by decide, by decide, by decide, rfl, rfl, rfl, rfl, by decide, by decide⟩

/-! ### Witnesses of further clauses: queues and the pool -/

/-- Queue 0 has an entry at its head whose bytes stand in page 0, with a descriptor of one workgroup of one lane at 0x100. -/
def entryPart (cells : Memory) : State :=
  { mappedOf (grp sp0) (cells ++ [(0x6110, 7), (0x6132, 0x18)]) with queues := [(0, { Queue.reset with en := true, tail := 1 })], serial := 1 }

/-- What queue 0's port reads of the entry at its head. -/
def entryOf (s : State) : Option (List Nat) := (hubDwords s (s.queue 0).ctx (entryVa (s.queue 0) (s.queue 0).head) 8).2.toOption

theorem wit_QueueEvents_entries : portReads (entryPart [(0x6000, 1), (0x6009, 1)]) 0 = true ∧
    entryOf (entryPart [(0x6000, 1), (0x6009, 1)]) = some [1, 0x100, 0, 0, 0, 0, 0, 0] ∧
    (launchEntry (hubDwords (entryPart [(0x6000, 1), (0x6009, 1)]) 0 0 8).1 0 [1, 0x100, 0, 0, 0, 0, 0, 0]).2.isSome = true ∧
    (launchEntry (hubDwords (entryPart [(0x6000, 1), (0x6009, 1)]) 0 0 8).1 0 [1, 0x100, 0, 0, 0, 0, 0, 0]).1.serial = (entryPart []).serial ∧
    (launchEntry (hubDwords (entryPart [(0x6000, 1), (0x6009, 1)]) 0 0 8).1 0 [1, 0x100, 0, 0, 0, 0, 0, 0]).1.queues = (entryPart []).queues ∧
    entryOf (entryPart [(0x6000, 3)]) = some [3, 0, 0, 0, 0, 0, 0, 0] ∧ entryOf { entryPart [] with mem := [] } = none ∧
    entryOf (entryPart [(0x6000, 2), (0x6008, 0x40), (0x6010, 1)]) = some [2, 0x40, 1, 0, 0, 0, 0, 0] ∧
    entryReserved [2, 0x40, 1, 0, 0, 0, 0, 0] 3 = true ∧
    (hubRead (hubDwords (entryPart [(0x6000, 2), (0x6008, 0x40)]) 0 0 8).1 0 (address57 0x40) 8).2.toOption = some (List.replicate 8 0) :=
  ⟨by decide, by decide +kernel, by decide +kernel, by decide +kernel, by decide +kernel, by decide +kernel, by decide +kernel, by decide +kernel,
   by decide, by decide +kernel⟩

/-- The queue waits for a dword of page 0, which is 0, to reach 1. -/
def signalledPart : State := { entryPart [] with queues := [(0, { Queue.reset with en := true, tail := 1, waiting := some (0x40, 1) })] }

theorem wit_QueueEvents_signal : (signalledPart.queue 0).waiting = some (0x40, 1) ∧ portReads signalledPart 0 = true ∧
    (hubRead signalledPart 0 0x40 8).2.toOption = some (List.replicate 8 0) :=
  ⟨by decide, by decide, by decide +kernel⟩

/-- Every pipe of core 0 holds four parked groups of 64 registers, one in each window of 128: a group of 128 fits, but for an aligned block. -/
def packedPart : State :=
  { placePart with groups := (List.range 32).map (fun j => (32 * (j / 4) + j % 4, { grp spHeld with regs := List.replicate 64 VReg.zero, base := 128 * (j % 4) })) }

theorem wit_PoolEvents_compacts :
    ((wantsBlock packedPart 0 128).bind (fun x => compactPipe x.1 0 128 x.2)).map (fun x => x.1) = some 0 ∧
    wantsBlock State.reset 0 128 = none :=
  ⟨by decide +kernel, by decide +kernel⟩

theorem wit_PoolEvents_first : firstPlaced (poolJudged State.reset) = none := by decide +kernel

theorem wit_PoolEvents_reserving : waitingWid (wantPart 6) 0 (wantNode 6) = some 0 ∧ placeFirst (unreserved (wantPart 6) 0) 0 (wantNode 6) = none ∧
    placeFirst (unreserved (wantPart 5) 0) 0 (wantNode 5) = none ∧ waitingWid donePart 0 doneNode = none :=
  ⟨by decide +kernel, by decide +kernel, by decide +kernel, by decide +kernel⟩

/-- A failed node, of which nothing is left, and one with an access outstanding. -/
def failedNode : Node := { fetchNode with state := .failed }

theorem wit_PoolEvents_failed : nodeOutstanding State.reset 0 failedNode = false ∧ (∀ k w, (k, w) ∈ State.reset.wgs → w.node ≠ 0) ∧
    failedNode.multi = none ∧ failedNode.state = .failed ∧ nodeOutstanding { State.reset with acks := [(2, ack0)] } 0 failedNode = true ∧
    shareDone (part (grp sp0)) 0 fetchNode = false :=
  ⟨by decide, (by intro k w h; cases h), rfl, rfl, by decide, by decide⟩

theorem wit_PoolEvents_composed : composePart.nodes = [(0, composeNode)] ∧ composeNode.state = .ready ∧ composeNode.multi = none ∧
    (∀ x ∈ composePart.threads, x.node = 0 ∧ x.index = 3) ∧ (composePart.nodes.map (fun e => e.1)).Nodup ∧
    coreFor { composePart with coreTab := [] } 0 composeNode (.composed 3) 0 (wantOf 0 composeNode) = none ∧
    regionsFit { composePart with regions := [(0, 0), (0, 1), (0, 2), (0, 3)] } composeNode 1 = false ∧
    (callEntry { composePart with mem := [] } composeNode 3).2 = none ∧ composeNode.desc.coop = false ∧ nextWork composePart 0 composeNode = none :=
  ⟨rfl, rfl, rfl, by decide, by decide, by decide +kernel, by decide +kernel, by decide +kernel, rfl, by decide +kernel⟩

/-! ### Witnesses of further clauses: multi-chip launches, the resident kernel, pre-emption -/

/-- The origin before its LAUNCH, and after a failure that it has still to announce; a share that has still to accept. -/
def unsentNode : Node := { multiNode with multi := some { multi0 with launched := none } }
def failedMulti : Node := { multiNode with state := .failed }
def freshShare : Multi := { share0 with accepted := false }

theorem wit_MultiChipEvents_messages : unsentNode.state = .ready ∧ ({ multi0 with launched := none } : Multi).launched = none ∧
    freshShare.accepted = false ∧ freshShare.origin = false ∧ (shareOf freshShare).state ≠ .failed ∧
    shareDone { sharePart with nodes := [(0, { multiNode with multi := some { share0 with started := true } })], wgs := [], groups := [] } 0
      { multiNode with multi := some { share0 with started := true } } = true ∧
    failedMulti.state = .failed ∧ multi0.launched ≠ none ∧ multi0.aborted = false ∧
    acceptsIn multiPart { multiNode with multi := some { multi0 with accepts := [] } } = false ∧ accepted multiPart multiNode = true :=
  ⟨rfl, rfl, rfl, rfl, by decide, by decide +kernel, rfl, by decide, rfl, by decide, by decide⟩

theorem wit_MultiChipEvents_dones : nodeOfGen { multiPart with wgs := [], groups := [] } true 5 3 1 = some (0, multiNode) ∧
    shareDone { multiPart with wgs := [], groups := [] } 0 multiNode = true ∧
    donesIn { multiPart with wgs := [], groups := [] } { multiNode with multi := some { multi0 with dones := [1], started := true } } = true ∧
    donesIn { multiPart with wgs := [], groups := [] } multiNode = false ∧ multiNode.desc.signal = 0 ∧ multiNode.desc.succ = [] ∧
    nodeOfGen sharePart true 5 3 1 = none :=
  ⟨rfl, by decide +kernel, by decide +kernel, by decide +kernel, rfl, rfl, by decide⟩

/-- The dwords of a descriptor of a multi-chip node of domain 5, its top field f2 over the domain's two parts. -/
def rawMulti : List DWord :=
  (List.range 32).map (fun i => if i = 2 then 7 + 2 ^ 12 else if i = 4 then 1 else if i = 6 then 0x180000 + 2 ^ 27 else if i = 9 then 5 * 2 ^ 18 else 0)

theorem wit_MultiChipEvents_launch : poolCount multiPart < 16384 ∧ rawMulti.length = 32 ∧
    descOk multiPart (rawMulti.map (fun x => x.toNat)) (parseDesc 0 (rawMulti.map (fun x => x.toNat))) = true ∧
    (parseDesc 0 (rawMulti.map (fun x => x.toNat))).multi = true ∧ (parseDesc 0 (rawMulti.map (fun x => x.toNat))).domain = 5 :=
  ⟨by decide, by decide, by decide +kernel, by decide +kernel, by decide +kernel⟩

/-- A split that waits for the fetch of page 5, held in the galley of core 0, alone. -/
def spFetch (l : List InFlight) : Split := { sp0 with wait := .stall .fetch, inflight := l }
def fetchEntry : GalleyEntry :=
  { id := 0, ref := ref0, node := 0, wg := 0, ctx := 0, page := 5, va := 5 * 16384, kind := .fetch, write := false, go := false, lanes := 0,
    pcs := { spc := 0, lpc := 0 }, seq := 0 }
def heldPart (l : List InFlight) : State :=
  { part (grp (spFetch l)) with coreTab := [(0, { Core.reset with galley := [fetchEntry] })] }

theorem wit_KernelEvents_pages (l : List InFlight) : (heldPart l).coreTab = [(0, { Core.reset with galley := [fetchEntry] })] ∧
    fetchEntry.on 0 5 = true ∧ fetchEntry.kind = .fetch ∧ (heldPart l).split fetchEntry.ref = some (spFetch l) ∧ (spFetch l).wait = .stall .fetch ∧
    (spFetch l).run = none ∧ spFlight.inflight ≠ [] := ⟨rfl, by decide, rfl, rfl, rfl, rfl, by decide⟩

/-- A sluice with a FAULT message that is held, and one with no room. -/
def heldSluice : State := { part (grp sp0) with sluices := [(0, { Sluice.reset with held := [(ref0, List.replicate 8 0)] })] }
def fullSluice : Sluice := { Sluice.reset with tail := 1024 }
/-- A group with a section begun at cycle 0. -/
def grpSection : Group := { grp sp0 with sect := some 0 }

theorem wit_KernelEvents_messages : pageOfMessage (List.replicate 8 0) = none ∧ postedNow waitingPart (List.replicate 8 0) = some (List.replicate 8 0) ∧
    (heldSluice.sluice 0).waiting = [] ∧ (heldSluice.sluice 0).held = [(ref0, List.replicate 8 0)] ∧ accessesOut heldSluice ref0 = false ∧
    0 < (heldSluice.sluice 0).free ∧ accessesOut { heldSluice with acks := [(2, ack0)] } ref0 = true ∧ fullSluice.free = 0 ∧
    ((4 : Word) - fullSluice.head).toNat ≤ (fullSluice.tail - fullSluice.head).toNat ∧
    (Sluice.reset.tail - Sluice.reset.head).toNat < ((1 : Word) - Sluice.reset.head).toNat ∧
    tget (part grpSection).groups 0 = some grpSection ∧ grpSection.sect = some 0 ∧ grpSection.splits ≠ [] ∧ tget (part (grp sp0)).nodes (grp sp0).node = some fetchNode :=
  ⟨by decide, by decide, rfl, rfl, rfl, by decide, by decide, by decide, by decide, by decide, rfl, rfl, by decide, rfl⟩

/-- A PAGE message of the galley's page, as it waits. -/
theorem wit_KernelEvents_page : (pageMessage (heldPart []) 0 0 5).isSome = true ∧
    ((pageMessage (heldPart []) 0 0 5).bind pageOfMessage) = some (0, 0, 5) := ⟨by decide +kernel, by decide +kernel⟩

/-- A pair of twins, in slot 0 of cores 0 and 1, both asked and parked. -/
def twinWg (o k : Nat) : Workgroup := { askedWg with twin := some o, groups := [k] }
def twinPart : State :=
  { savePart with wgs := [(0, twinWg 64 0), (64, twinWg 0 256)], groups := [(0, grp spHeld), (256, { grp spHeld with wg := 64, region := 3 })] }

theorem wit_PreemptionEvents_twins : tget twinPart.wgs 0 = some (twinWg 64 0) ∧ tget twinPart.wgs 64 = some (twinWg 0 256) ∧
    saveReady twinPart 0 (twinWg 64 0) = true ∧ saveReady twinPart 64 (twinWg 0 256) = true ∧ (64 : Nat) ≠ 0 ∧
    (∀ x ∈ (twinWg 64 0).groups, x ∉ (twinWg 0 256).groups) ∧ groupOfRegion (part (grp sp0)) 0 9 = none ∧
    restoreOne { restorePart with saved := [(9, { saved0 with hold := true })] } 9 = none ∧ nextWork restorePart 0 fetchNode = some (.saved 9, 0) ∧
    firstRestored State.reset = none ∧ (∀ x ∈ restorePart.threads, x.node ≠ 0) :=
  ⟨rfl, rfl, by decide, by decide, by decide, by decide, by decide, by decide +kernel, by decide +kernel, by decide +kernel, by intro x h; cases h⟩

/-! ### Witnesses of further clauses: graphics units, windows, services, boot, the step -/

/-- An entry whose vertices lie at the three places in pixels, as words of f32, with CULL; SEQ is 3 and USER is 9. -/
def entryAt (x0 y0 x1 y1 x2 y2 cull : Nat) : List Byte :=
  [x0, y0, 0, 0x3F800000, x1, y1, 0, 0x3F800000, x2, y2, 0, 0x3F800000, 9, cull, 3, 0].flatMap (toBytes 4)

/-- A corner of 4 pixels at the origin, one way round and the other; a NaN; no area; and 2^16 pixels, which is 2^24 in 1/256 of one. -/
theorem wit_GraphicsEvents_coverage : snap 0x40800000 = some 1024 ∧ snap 0x47800000 = none ∧ snap 0x477FFFFF = some 16777215 ∧ snap 0x7FC00000 = none ∧
    setupPrim (entryAt 0 0 0x40800000 0 0 0x7FC00000 0) 2 = none ∧ setupPrim (entryAt 0 0 0x40800000 0 0x40000000 0 0) 2 = none ∧
    (setupPrim (entryAt 0 0 0x40800000 0 0 0x40800000 0) 2).map Prim.area = some 1048576 ∧
    (setupPrim (entryAt 0 0 0 0x40800000 0x40800000 0 0) 2).map Prim.area = some 1048576 ∧
    setupPrim (entryAt 0 0 0x40800000 0 0 0x40800000 1) 2 = none ∧ setupPrim (entryAt 0 0 0 0x40800000 0x40800000 0 2) 2 = none :=
  ⟨by decide +kernel, by decide +kernel, by decide +kernel, by decide +kernel, by decide +kernel, by decide +kernel, by decide +kernel,
   by decide +kernel, by decide +kernel, by decide +kernel⟩

/-- That corner as a primitive: it covers a pixel of tile 0 of a viewport of 8 by 8, and none of the tile beside it. -/
def prim0 : Prim :=
  let one : Machine.Num := .fin false ⟨1, 1⟩
  { v := [{ x := 0, y := 0, z := one, iw := one }, { x := 1024, y := 0, z := one, iw := one }, { x := 0, y := 1024, z := one, iw := one }],
    area := 1048576, user := 9, seq := 3, slot := 2 }

theorem wit_GraphicsEvents_waves : prim0.covers 0 0 = true ∧ prim0.covers 7 7 = false ∧ (prim0.wave 15 7 0 0).isSome = true ∧
    prim0.wave 15 7 1 0 = none ∧ ((wavesOf [prim0, { prim0 with slot := 4 }] 15 7).map Wave.slot) = [2, 4] ∧
    (([prim0, { prim0 with slot := 4 }] : List Prim).map Prim.slot).Pairwise (· < ·) :=
  ⟨by decide +kernel, by decide +kernel, by decide +kernel, by decide +kernel, by decide +kernel, by decide⟩

/-- An image with mode bytes; four tiles of it: of one colour, with small differences, with larger ones, and with larger ones still. -/
def coded : ImageDesc := { image0 with meta_ := 0x9000 }
def tilePx (d : DWord) : List DWord := List.replicate 63 7 ++ [7 + d]

theorem wit_GraphicsEvents_encodes : coded.fmt = 0 ∧ image0.meta_ = 0 ∧ (encodeTile coded (tilePx 0) false).1 = some 0x81 ∧
    (encodeTile coded (tilePx 1) false).1 = some 0x93 ∧ (encodeTile coded (tilePx 2) false).1 = some 0xA5 ∧
    (encodeTile coded (tilePx 8) false).1 = some 0x08 ∧ (encodeTile coded (tilePx 0) true) = (none, []) :=
  ⟨by decide, by decide, by decide +kernel, by decide +kernel, by decide +kernel, by decide +kernel, by decide +kernel⟩

/-- The window's dword with an error in it that cannot be corrected; and a store of this part's, not answered yet. -/
def poisonWindow : State := { windowPart with poisoned := [0x400] }
def storeOut : State := { part (grp sp0) with remotes := [(4, { remote0 false with ref := ref0, purpose := .store })] }

theorem wit_WindowEvents_clauses : windowError poisonWindow (peer0 .read) = none ∧ poisonWindow.poisonedAt (0x8000 + 8) 8 = true ∧
    (peer0 (.write (List.replicate 8 0))).size = (List.replicate 8 (0 : Byte)).length ∧ ({ (peer0 .read) with via := some 5 } : PeerRequest).via = some 5 ∧
    named windowPart 5 = false ∧ named { windowPart with domains := [(1, { size := 2, rank := 0, nextGen := 1, links := [(1, .hostPort 5)] })] } 5 = true ∧
    (windowPart.window 7).gen ≠ ({ (peer0 .read) with gen := 3 } : PeerRequest).gen ∧
    (windowPart.window 7).part ≠ ({ (peer0 .read) with part := 1 } : PeerRequest).part ∧
    (windowPart.window 7).len < ({ (peer0 .read) with offset := 121 } : PeerRequest).offset + 8 ∧
    (windowPart.window 7).allows (.atomic 0 0 0) = false ∧ tget storeOut.remotes 4 = some { remote0 false with ref := ref0, purpose := .store } ∧
    storeOut.split ref0 = some sp0 ∧ (7, 5) ∉ windowPart.arrivals :=
  ⟨by decide, by decide, by decide, rfl, by decide, by decide, by decide, by decide, by decide, by decide, rfl, rfl, by decide⟩

/-- Places of the ring: the first taken, and both. -/
def ringPart (l : List (Nat × Forwarded)) : State := { hostPart (frameFor 0x100) with rpcRing := some (0x100000, 2), forwarded := l }
def ringEntry (a : Nat) : Forwarded := { frame := frameFor 0x100, host := true, place := a }

theorem wit_HostServices_ring : (ringPart [(1, ringEntry 0x100000)]).rpcRing = some (0x100000, 2) ∧
    (∀ i e, (i, e) ∈ (ringPart [(1, ringEntry 0x100000)]).forwarded → e.place ≠ (0x100000 : DWord).toNat + 4096 * 1) ∧
    (∀ k, k < 2 → ∃ i e, (i, e) ∈ (ringPart [(1, ringEntry 0x100000), (2, ringEntry 0x101000)]).forwarded ∧
      e.place = (0x100000 : DWord).toNat + 4096 * k) ∧
    (frameBytes (frameFor 0x100)).length ≤ 4096 ∧ (ringPart []).mem.wf = true ∧ inTurn (ringPart []) (.host (frameFor 0x100)) = true ∧
    tget (ringPart [(1, ringEntry 0x100000)]).forwarded 1 = some { frame := frameFor 0x100, host := true, place := 0x100000 } ∧
    ringHolds (List.replicate 8 0 ++ [1, 0, 0, 0] ++ [0, 0, 0, 0] ++ [5]) 0 [5] = true ∧ ringHolds (List.replicate 17 0) 0 [5] = false := by
  refine ⟨rfl, ?_, ?_, by decide +kernel, rfl, by decide +kernel, rfl, by decide, by decide⟩
  · intro i e h
    cases h with
    | head => decide
    | tail _ h => cases h
  · intro k hk
    match k, hk with
    | 0, _ => exact ⟨1, _, .head _, by decide⟩
    | 1, _ => exact ⟨2, _, .tail _ (.head _), by decide⟩

/-- A part that a peer of rank 3 asks for a service, and a HELLO of another partition. -/
def peerPart (f : Frame) : State := { hostPart f with asked := [.peer 3 f], peerSessions := [(3, session0)] }
def helloElse : Frame := { frameFor 1 with part := 2 }

theorem wit_HostServices_clauses : inTurn (hostPart (frameFor 1)) (.host (frameFor 1)) = true ∧ (hostPart (frameFor 1)).boot ≠ .rom ∧
    inTurn (hostPart helloElse) (.host helloElse) = true ∧ helloElse.service = 1 ∧ helloElse.part ≠ 0 ∧ (0x1000 : DWord).toNat % 4096 = 0 ∧
    inTurn (hostPart (frameFor 5)) (.host (frameFor 7)) = false ∧ SpdmCode.number? (numberAt [0x13, 0, 0, 0] 1 1) = none ∧
    ({ hostPart (frameFor 7) with imageAsked := true } : State).imageAsked = true ∧
    inTurn (peerPart (frameFor 5)) (.peer 3 (frameFor 5)) = true ∧ tget (peerPart (frameFor 5)).peerSessions 3 = some session0 ∧
    inTurn (peerPart (frameFor 5)) (.peer 2 (frameFor 5)) = false ∧ inTurn (peerPart (frameFor 1)) (.peer 3 (frameFor 1)) = true ∧
    inTurn (peerPart (frameFor 7)) (.peer 3 (frameFor 7)) = true ∧ (frameFor 7).service ≠ 1 ∧ (frameFor 7).service ≠ 5 :=
  ⟨by decide +kernel, by decide, by decide +kernel, rfl, by decide, by decide, by decide +kernel, by decide, rfl, by decide +kernel, rfl,
   by decide +kernel, by decide +kernel, by decide +kernel, by decide, by decide⟩

/-- A domain of two parts, and a list of one entry on window 7, whose partition is that of context 0. -/
def domainArgs0 : DomainArgs := { id := 5, size := 2, rank := 1 }
def windowMail : State := { mailAsks 11 0 8 with windows := windowPart.windows }

theorem wit_ResidentServices_lists : domainArgs0.id < 2 ^ 14 ∧ domainArgs0.rank < domainArgs0.size ∧ (windowMail.window 7).valid = true ∧
    (windowMail.window 7).part = BitVec.ofNat 12 (windowMail.context 0).part ∧ (List.range 1024).find? (listFree windowMail) = some 0 ∧
    ({ mailAsks 4 0 8 with windows := windowPart.windows }.window 7).valid = true :=
  ⟨by decide, by decide, by decide, by decide, by decide +kernel, by decide⟩

/-- A part whose flash is being written, in recovery; and one with a service of pair 1 in progress. -/
def flashPart : State := { State.reset with boot := .recovery, flashing := some [1, 2, 3] }
def recoveryPart : State := { hostPart (frameFor 15) with boot := .recovery }
def servingPart : State := { State.reset with boot := .running, serving := [(2, 1)] }

theorem wit_PlatformEvents_clauses : flashPart.flashing = some [1, 2, 3] ∧ recoveryPart.boot = .recovery ∧ (frameFor 15).part = 0 ∧
    inTurn recoveryPart (.host (frameFor 15)) = true ∧ recoveryPart.session = some session0 ∧ servingPart.serving = [(2, 1)] ∧
    oluvosUp servingPart = true ∧ (∀ slot, (slot, 0) ∉ servingPart.serving) ∧ ({ State.reset with throttled := true } : State).throttled = true ∧
    ({ State.reset with torn := true } : State).torn = true :=
  ⟨rfl, rfl, by decide, by decide +kernel, rfl, rfl, rfl, fun _ h => by simp [servingPart] at h, rfl, rfl⟩

/-- A word that is no instruction at virtual address 0; and page 0 of a context without a translation. -/
def badPart : State := { mappedOf (grp sp0) [(0x6001, 0xFF), (0x6002, 0xFF), (0x6003, 0x3F)] with boot := .running, schedule := [(0, .pipe 0 0)], cur := none }
def farPart : State := { part (grp sp0) with boot := .running, schedule := [(0, .pipe 0 0)], cur := none }

theorem wit_StepRunsDecoded_others : pickSplit (passCycles { badPart with schedule := [] } 0) 0 0 = some ref0 ∧ sp0.stopped = none ∧
    (∃ u c lanes, fetchInstr (passCycles { badPart with schedule := [] } 0) ref0 (grp sp0) sp0 = (u, .notInstr c 1 lanes)) ∧ sp0.inflight = [] ∧
    pickSplit (passCycles { farPart with schedule := [] } 0) 0 0 = some ref0 ∧
    (∃ u, fetchInstr (passCycles { farPart with schedule := [] } 0) ref0 (grp sp0) sp0 = (u, .held 0)) :=
  ⟨by decide +kernel, rfl, ⟨_, _, _, rfl⟩, rfl, by decide +kernel, ⟨_, rfl⟩⟩

/-- Hart 2, its next move, its pc at 0x8000, where `c.li x10, 5` stands. -/
def hartPart : State :=
  { State.reset with
    boot := .running, mem := Memory.writeBytes [] 0x8000 [0x15, 0x45], schedule := [(0, .hart 2)],
    commandCores := [(6, { coreM with pc := 0x8000, pendingIrq := false, asked := false })] }

theorem wit_StepRunsDecoded_hart : let s := passCycles { hartPart with schedule := [] } 0
    s.boot = .running ∧ (s.cmdCore (4 + 2)).asked = false ∧ s.portLoads.contains 2 = false ∧
    interruptDue { s.cmdCore (4 + 2) with pendingIrq := hartInterrupt s 2 } = false ∧
    (fetchHart { s with curCmd := 6, curHart := 2 } 2 { s.cmdCore (4 + 2) with pendingIrq := hartInterrupt s 2 }).2 = some 0x4515 ∧
    rvOf 0x4515 = some (2, .aluImm .add false 10 0 5) ∧ beforeStart .boot = true ∧ beforeStart (.splitMerge 0 0) = false :=
  ⟨by decide +kernel, by decide +kernel, by decide +kernel, by decide +kernel, by decide +kernel, by decide, rfl, rfl⟩

/-! ### Steps on small states -/

/-- The split after an instruction of the split `x`. -/
def after (i : Instr) (x : Split) : Option Split :=
  match exec i (part (grp x)) with
  | .next t => t.split ref0
  | _ => none

/-- A scalar register after it. -/
def regAfter (i : Instr) (x : Split) (n : SReg) : Option Word := (after i x).map (fun y => y.s[n])

/-- Lane 0 of a vector register after a lane word over v2 = `a` and v3 = `b` of a tag, its tag, and the flags. -/
def laneAfter (i : Instr) (t : Tag) (a b : Word) (n : Nat) : Option (Word × Tag × BitVec 5) :=
  let reg := fun (v : Word) => ({ data := Vector.replicate 96 v, tag := t } : VReg)
  match exec i (part { grp spRun with regs := [VReg.zero, VReg.zero, reg a, reg b] }) with
  | .next u => (tget u.groups 0).bind (fun g => (g.regs[n]?).bind (fun v => (u.split ref0).map (fun y => (v.data[0], v.tag, y.fpstat))))
  | _ => none

-- R136: 2^32 - 1 + 1 wraps to 0; (-1) × (-1) = 1 has signed high half 0, (2^32 - 1)^2 has high half 2^32 - 2
theorem test_sadd_wraps : regAfter (.sadd 3 1 2) (spWith 0xFFFFFFFF 1) 3 = some 0 := by decide +kernel
theorem test_smulh : regAfter (.smulh 3 1 2) (spWith 0xFFFFFFFF 0xFFFFFFFF) 3 = some 0 := by decide +kernel
theorem test_smulhu : regAfter (.smulhu 3 1 2) (spWith 0xFFFFFFFF 0xFFFFFFFF) 3 = some 0xFFFFFFFE := by decide +kernel

-- R137: the two corners; R136: -7 / 2 = -3 and remainder -1
theorem test_sdiv_corner : regAfter (.sdiv 3 1 2) (spWith 0x80000000 0xFFFFFFFF) 3 = some 0x80000000 := by decide +kernel
theorem test_srem_sign : regAfter (.srem 3 1 2) (spWith 0xFFFFFFF9 2) 3 = some 0xFFFFFFFF := by decide +kernel

-- R136: a shift by 33 is a shift by 1
theorem test_ssra_mod : regAfter (.ssra 3 1 2) (spWith 0x80000000 33) 3 = some 0xC0000000 := by decide +kernel

-- R136: the 64-bit sum carries from the low to the high word
theorem test_sadd_d_carry :
    regAfter (.saddD 4 4 5) { sp0 with s := (sp0.s.set 8 0xFFFFFFFF).set 10 1 } 9 = some 1 := by decide +kernel

-- R91, R132: s0 takes nothing; a write of s60 is cut to the lane set
theorem test_write_s0 : regAfter (.sli 0 5) sp0 0 = some 0 := by decide +kernel
theorem test_write_mask : regAfter (.sli 60 0xFF) spLane0 60 = some 1 := by decide +kernel

-- R140, R67: -1 < 0 signed
theorem test_scc_signed : regAfter (.scc .lt 3 1 2) (spWith 0xFFFFFFFF 0) 3 = some 1 := by decide +kernel

-- R141: a taken branch of -5 from PC 9 goes to 4; R143: scall with d = 0 writes nothing and goes to 3, 2
theorem test_sbltu_back : (after (.sbltu 1 2 0x3FFB) { spWith 1 2 with spc := 9 }).map (fun y => y.spc) = some 4 := by decide +kernel
theorem test_scall_zero :
    (after (.scall 0 3 2) sp0).map (fun y => (y.spc, y.lpc, y.s[1])) = some (3, 2, 0) := by decide +kernel

-- R160: strap stops its split, its PC at the word
theorem test_strap : (after (.strap 5) sp0).map (fun y => (y.spc, y.stopped)) = some (0, some { code := .softwareTrap, kind := .scalar 1 }) := by
  decide +kernel

-- R170: i32 addition wraps; with saturate it clamps
theorem test_vadd_wraps : laneAfter (.vadd (word (.v 1) (.v 2) (.v 3) (.v 0))) .i32 0x7FFFFFFF 1 1 = some (0x80000000, .i32, 0) := by
  decide +kernel
theorem test_vadd_saturates :
    laneAfter (.vadd { word (.v 1) (.v 2) (.v 3) (.v 0) with sat := true }) .i32 0x7FFFFFFF 1 1 = some (0x7FFFFFFF, .i32, 0) := by decide +kernel

-- 1.0 + 2^-24 rounds to even, inexact (R112)
theorem test_vadd_rounds :
    laneAfter (.vadd (word (.v 1) (.v 2) (.v 3) (.v 0))) .f32 0x3F800000 0x33800000 1 = some (0x3F800000, .f32, 0x10) := by decide +kernel

-- R116: -0.4 to n32 is 0 with NX to nearest even, and 0 with NV rounding down
theorem test_vcvt_nearest :
    laneAfter (.vcvt { word (.v 1) (.v 2) (.v 0) (.v 0) with sub := 2 }) .f32 0xBECCCCCD 0 1 = some (0, .n32, 0x10) := by decide +kernel

-- R187: the tag number of f32 is 3
theorem test_vgettag : laneAfter (.vgettag (word (.v 1) (.v 2) (.v 0) (.v 0))) .f32 7 0 1 = some (3, .n32, 0) := by decide +kernel

-- R90: mixed tags are TAG_MISMATCH, and no register changes
theorem test_vadd_mismatch : laneAfter (.vadd (word (.v 1) (.v 2) (.v 1) (.v 0))) .f32 7 0 1 = some (0, .raw, 0) := by decide +kernel

end Sys2Proof.Tests
end

section
/-! SUPPORT. What physical memory reads as under a key slot after a write under that slot, and how multi-byte values lie (R4, R226). -/

open Sys2Proof Sys2Proof.Machine

namespace Sys2Proof.Machine

/-! ### Writes under a key slot -/

theorem Key.same_self (k : Key) : k.same k = true := by simp [Key.same]

/-- A sector that no key has written, or that a key alike has written, reads as memory holds it. -/
theorem byteUnder_of_same {s : State} {key : Key} {pa : Nat} (h : ∀ k, tget s.sectorKeys (pa / 32) = some k → k.same key = true) :
    s.byteUnder key pa = s.mem.read pa := by
  unfold State.byteUnder
  split
  · rfl
  · rw [if_pos (h _ ‹_›)]

/-- What a byte reads as depends on its sector alone. -/
theorem byteUnder_congr {s t : State} {key : Key} {pa : Nat} (hk : tget t.sectorKeys (pa / 32) = tget s.sectorKeys (pa / 32))
    (hm : ∀ a, a / 32 = pa / 32 → t.mem.read a = s.mem.read a) : t.byteUnder key pa = s.byteUnder key pa := by
  have hs : t.sector (pa / 32) = s.sector (pa / 32) := by
    unfold State.sector Memory.readBytes
    congr 2
    exact List.map_congr_left fun i hi => hm _ (by have := List.mem_range.1 hi; omega)
  simp only [State.byteUnder, hk, hm pa rfl, hs]

@[simp] theorem rekey_keySlots (s : State) (key : Key) (sec : Nat) : (s.rekey key sec).keySlots = s.keySlots := by
  unfold State.rekey
  split
  · rfl
  · split <;> rfl

theorem rekey_sectorKey_ne (s : State) (key : Key) {sec n : Nat} (h : n ≠ sec) :
    tget (s.rekey key sec).sectorKeys n = tget s.sectorKeys n := by
  unfold State.rekey
  split
  · exact tget_tput_ne _ _ h
  · split
    · rfl
    · exact tget_tput_ne _ _ h

/-- A sector put under a key is written by that key or one alike. -/
theorem rekey_sectorKey_same (s : State) (key : Key) (sec : Nat) :
    ∀ k, tget (s.rekey key sec).sectorKeys sec = some k → k.same key = true := by
  intro k hk
  unfold State.rekey at hk
  split at hk
  · simp only [tget_tput_same, Option.some.injEq] at hk
    exact hk ▸ Key.same_self key
  · next k' hk' =>
    split at hk
    · next hs =>
      rw [hk'] at hk
      exact Option.some.inj hk ▸ hs
    · simp only [tget_tput_same, Option.some.injEq] at hk
      exact hk ▸ Key.same_self key

theorem rekey_mem_outside (s : State) (key : Key) {sec a : Nat} (h : a / 32 ≠ sec) : (s.rekey key sec).mem.read a = s.mem.read a := by
  unfold State.rekey
  split
  · rfl
  · split
    · rfl
    · exact Memory.read_writeBytes_outside _ _ (by simp only [List.length_map, List.length_range]; omega)

theorem rekey_mem_inside (s : State) (key : Key) (a : Nat) : (s.rekey key (a / 32)).mem.read a = s.byteUnder key a := by
  unfold State.rekey
  split
  · next h => exact (byteUnder_of_same (s := s) (by simp [h])).symm
  · next k h =>
    split
    · next hs => exact (byteUnder_of_same fun _ hk => Option.some.inj (h.symm.trans hk) ▸ hs).symm
    · have hlt : a % 32 < ((List.range 32).map (fun i => s.byteUnder key (32 * (a / 32) + i))).length := by
        simpa using Nat.mod_lt a (by decide)
      have hin := Memory.read_writeBytes_inside _ s.mem (32 * (a / 32)) (a % 32) hlt
      rw [Nat.div_add_mod] at hin
      simpa [Nat.div_add_mod] using hin

/-- Putting a sector under a key changes no byte as that key reads it (R226, R227). -/
theorem rekey_byteUnder (s : State) (key : Key) (sec a : Nat) : (s.rekey key sec).byteUnder key a = s.byteUnder key a := by
  by_cases h : a / 32 = sec
  · subst h
    rw [byteUnder_of_same (rekey_sectorKey_same s key _), rekey_mem_inside]
  · exact byteUnder_congr (rekey_sectorKey_ne s key h) fun x hx => rekey_mem_outside s key (hx ▸ h)

theorem rekey_mem_wf {s : State} (h : s.mem.wf = true) (key : Key) (sec : Nat) : (s.rekey key sec).mem.wf = true := by
  unfold State.rekey
  split
  · exact h
  · split
    · exact h
    · exact Memory.wf_writeBytes _ _ _ h

@[simp] theorem physWriteByte_keyOf (s : State) (slot pa : Nat) (b : Byte) (k : Nat) :
    (s.physWriteByte slot pa b).keyOf k = s.keyOf k := by
  simp [State.physWriteByte, State.keyOf]

theorem physWriteByte_mem_wf {s : State} (h : s.mem.wf = true) (slot pa : Nat) (b : Byte) : (s.physWriteByte slot pa b).mem.wf = true :=
  Memory.wf_write _ _ _ (rekey_mem_wf h _ _)

theorem physWriteByte_byte (s : State) (slot pa : Nat) (b : Byte) : (s.physWriteByte slot pa b).byteUnder (s.keyOf slot) pa = b := by
  rw [byteUnder_of_same (s := s.physWriteByte slot pa b) (rekey_sectorKey_same s _ _)]
  exact Memory.read_write_same _ _ _

theorem physWriteByte_byte_ne (s : State) (slot : Nat) {pa a : Nat} (b : Byte) (h : a ≠ pa) :
    (s.physWriteByte slot pa b).byteUnder (s.keyOf slot) a = s.byteUnder (s.keyOf slot) a := by
  rw [← rekey_byteUnder s (s.keyOf slot) (pa / 32) a]
  by_cases hs : a / 32 = pa / 32
  · have hk := rekey_sectorKey_same s (s.keyOf slot) (pa / 32)
    rw [← hs] at hk
    rw [byteUnder_of_same (s := s.physWriteByte slot pa b) (hs ▸ hk), byteUnder_of_same (hs ▸ hk)]
    exact Memory.read_write_ne _ _ h
  · exact byteUnder_congr rfl fun x hx => Memory.read_write_ne _ _ fun e => hs (by rw [← hx, e])

@[simp] theorem physWrite_keyOf (l : List Byte) (s : State) (slot pa k : Nat) : (s.physWrite slot pa l).keyOf k = s.keyOf k := by
  induction l generalizing s pa with
  | nil => rfl
  | cons b l ih => rw [State.physWrite, ih, physWriteByte_keyOf]

theorem physWrite_mem_wf (l : List Byte) {s : State} (h : s.mem.wf = true) (slot pa : Nat) : (s.physWrite slot pa l).mem.wf = true := by
  induction l generalizing s pa with
  | nil => exact h
  | cons b l ih => exact ih (physWriteByte_mem_wf h slot pa b) (pa + 1)

theorem physWrite_byte_outside (l : List Byte) (s : State) (slot : Nat) {pa a : Nat} (h : a < pa ∨ pa + l.length ≤ a) :
    (s.physWrite slot pa l).byteUnder (s.keyOf slot) a = s.byteUnder (s.keyOf slot) a := by
  induction l generalizing s pa with
  | nil => rfl
  | cons b l ih =>
    rw [List.length_cons] at h
    rw [State.physWrite, ← physWriteByte_keyOf s slot pa b slot, ih _ (by omega), physWriteByte_keyOf,
      physWriteByte_byte_ne s slot b (by omega)]

theorem physWrite_byte_inside (l : List Byte) (s : State) (slot pa i : Nat) (h : i < l.length) :
    (s.physWrite slot pa l).byteUnder (s.keyOf slot) (pa + i) = l[i] := by
  induction l generalizing s pa i with
  | nil => simp at h
  | cons b l ih =>
    rw [State.physWrite, ← physWriteByte_keyOf s slot pa b slot]
    cases i with
    | zero => rw [physWrite_byte_outside l _ slot (by omega), physWriteByte_keyOf]; exact physWriteByte_byte s slot pa b
    | succ i =>
      rw [show pa + (i + 1) = pa + 1 + i by omega]
      exact ih _ (pa + 1) i (by simpa using h)

/-- Bytes written under a key slot are read back under it. -/
theorem physRead_physWrite (s : State) (slot pa : Nat) (l : List Byte) : (s.physWrite slot pa l).physRead slot pa l.length = l := by
  apply List.ext_getElem
  · simp [State.physRead]
  · intro i _ h
    simpa [State.physRead] using physWrite_byte_inside l s slot pa i h

/-! ### Multi-byte values (R4) -/

@[simp] theorem toBytes_length (n x : Nat) : (toBytes n x).length = n := by
  induction n generalizing x with
  | zero => rfl
  | succ n ih => simp [toBytes, ih]

theorem ofBytes_toBytes (n x : Nat) : ofBytes (toBytes n x) = x % 2 ^ (8 * n) := by
  induction n generalizing x with
  | zero => simp [toBytes, ofBytes, Nat.mod_one]
  | succ n ih =>
    have hp : 2 ^ (8 * (n + 1)) = 256 * 2 ^ (8 * n) := by rw [Nat.mul_succ, Nat.pow_add, Nat.mul_comm]
    rw [toBytes, ofBytes, ih, BitVec.toNat_ofNat, hp, Nat.mod_mul]

/-- The byte at an index is the value's at that place, the lowest first. -/
theorem getElem?_eq_ofBytes_div (l : List Byte) {k : Nat} (h : k < l.length) : l[k]? = some (BitVec.ofNat 8 (ofBytes l / 2 ^ (8 * k))) := by
  induction l generalizing k with
  | nil => simp at h
  | cons b l ih =>
    have hb := b.isLt
    cases k with
    | zero =>
      refine congrArg some (BitVec.eq_of_toNat_eq ?_)
      simp only [ofBytes, BitVec.toNat_ofNat, Nat.mul_zero, Nat.pow_zero, Nat.div_one]
      omega
    | succ k =>
      have hd : ofBytes (b :: l) / 2 ^ (8 * (k + 1)) = ofBytes l / 2 ^ (8 * k) := by
        rw [show 2 ^ (8 * (k + 1)) = 256 * 2 ^ (8 * k) by rw [Nat.mul_succ, Nat.pow_add, Nat.mul_comm], ← Nat.div_div_eq_div_mul]
        congr 1
        simp only [ofBytes]
        omega
      rw [List.getElem?_cons_succ, hd]
      exact ih (by simpa using h)

/-- Settles O28: a write under a key slot puts each sector under a key alike before it changes a byte, so that the slot's reads see the
bytes written and every other byte as before; the byte order is by induction on the bytes. -/
theorem memoryWrites : Obligations.MemoryWrites := by
  unfold Obligations.MemoryWrites
  exact ⟨fun s slot pa l h => ⟨physRead_physWrite s slot pa l, physWrite_mem_wf l h slot pa, fun _ => physWrite_byte_outside l s slot⟩,
    fun n x => ⟨toBytes_length n x, ofBytes_toBytes n x⟩, fun l _ => getElem?_eq_ofBytes_div l⟩

end Sys2Proof.Machine
end

section
/-! SUPPORT. The canonical form of the memories as an invariant (R4, R199; log entry 1): `Canon` says it field by field, and a lemma
`f_canon` says that the function `f` of the model keeps it. This section holds `Canon` and how it passes through updates, choices and folds. -/

open Sys2Proof Sys2Proof.Machine

namespace Sys2Proof.Machine

/-! ### Tables all of whose values have a property -/

/-- Every value that a table holds has the property `P`. -/
def TableAll {α : Type} (P : α → Prop) (t : Table α) : Prop := ∀ e ∈ t, P e.2

section
variable {α : Type} {P : α → Prop} {t : Table α}

theorem TableAll.nil : TableAll P [] := fun _ h => absurd h List.not_mem_nil

theorem TableAll.filter (h : TableAll P t) (p : Nat × α → Bool) : TableAll P (t.filter p) :=
  fun e he => h e (List.mem_filter.1 he).1

theorem TableAll.del (h : TableAll P t) (k : Nat) : TableAll P (tdel t k) := h.filter _

theorem TableAll.put (h : TableAll P t) {k : Nat} {v : α} (hv : P v) : TableAll P (tput t k v) := by
  induction t with
  | nil => exact fun e he => List.mem_singleton.1 he ▸ hv
  | cons x t ih =>
    have hx : P x.2 := h x List.mem_cons_self
    have ht : TableAll P t := fun e he => h e (List.mem_cons_of_mem _ he)
    have hput := ih ht
    intro e he
    unfold tput at he
    split at he
    · rcases List.mem_cons.1 he with rfl | he
      · exact hv
      · exact h e he
    · split at he
      · rcases List.mem_cons.1 he with rfl | he
        · exact hv
        · exact ht e he
      · rcases List.mem_cons.1 he with rfl | he
        · exact hx
        · exact hput e he

theorem TableAll.map (h : TableAll P t) {f : Nat × α → Nat × α} (hf : ∀ e, P e.2 → P (f e).2) : TableAll P (t.map f) := by
  intro e he
  obtain ⟨x, hx, rfl⟩ := List.mem_map.1 he
  exact hf x (h x hx)

theorem TableAll.mod (h : TableAll P t) {k : Nat} {f : α → α} (hf : ∀ v, P v → P (f v)) : TableAll P (tmod t k f) := by
  refine h.map fun e he => ?_
  split
  · exact hf _ he
  · exact he

theorem TableAll.get (h : TableAll P t) {k : Nat} {v : α} (hv : tget t k = some v) : P v := by
  induction t with
  | nil => exact absurd hv nofun
  | cons x t ih =>
    unfold tget at hv
    split at hv
    · exact Option.some.inj hv ▸ h x List.mem_cons_self
    · exact ih (fun e he => h e (List.mem_cons_of_mem _ he)) hv

end

/-! ### The canonical form as an invariant -/

/-- The memories of a state have their canonical form (log entry 1), field by field. -/
structure Canon (s : State) : Prop where
  mem : s.mem.wf = true
  keyMap : s.keyMap.wf = true
  mailbox : s.mailbox.wf = true
  wgs : TableAll (fun w => w.scratch.wf = true) s.wgs
  saved : TableAll (fun v => v.wg.scratch.wf = true) s.saved
  cores : TableAll (fun c => c.mem.wf = true) s.commandCores

theorem canon_iff_memWf {s : State} : Canon s ↔ s.memWf = true := by
  simp only [State.memWf, Bool.and_eq_true, List.all_eq_true]
  constructor
  · rintro ⟨hm, hk, hb, hw, hv, hc⟩
    exact ⟨⟨⟨⟨⟨hm, hk⟩, hb⟩, hw⟩, hv⟩, hc⟩
  · rintro ⟨⟨⟨⟨⟨hm, hk⟩, hb⟩, hw⟩, hv⟩, hc⟩
    exact ⟨hm, hk, hb, hw, hv, hc⟩

/-- A state that a step may answer has its memories in canonical form. -/
def CanonNext : Host.Outcome State Fault Refusal → Prop
  | .next s => Canon s
  | .fault _ | .refused _ => True

/-- The state, if there is one, has its memories in canonical form. -/
def CanonSome : Option State → Prop
  | some s => Canon s
  | none => True

/-- What the canonical form speaks of. -/
def State.memories (s : State) : Memory × Memory × Memory × Table Workgroup × Table SavedWg × Table CmdCore :=
  (s.mem, s.keyMap, s.mailbox, s.wgs, s.saved, s.commandCores)

section
variable {α β : Type} {s t : State}

/-- A step that changes none of the memories keeps their form. -/
theorem Canon.update (h : Canon s) (e : t.memories = s.memories) : Canon t := by
  simp only [State.memories, Prod.mk.injEq] at e
  obtain ⟨hm, hk, hb, hw, hv, hc⟩ := e
  exact ⟨hm ▸ h.mem, hk ▸ h.keyMap, hb ▸ h.mailbox, hw ▸ h.wgs, hv ▸ h.saved, hc ▸ h.cores⟩

theorem Canon.wg (h : Canon s) {k : Nat} {w : Workgroup} (e : tget s.wgs k = some w) : w.scratch.wf = true := h.wgs.get e

theorem Canon.savedWg (h : Canon s) {k : Nat} {v : SavedWg} (e : tget s.saved k = some v) : v.wg.scratch.wf = true := h.saved.get e

theorem Canon.of_eq {p : State × α} {x : α} (h : Canon p.1) (e : p = (s, x)) : Canon s := by
  subst e
  exact h

theorem CanonSome.of_eq {o : Option State} (h : CanonSome o) (e : o = some s) : Canon s := by
  subst e
  exact h

theorem CanonNext.of_eq {o : Host.Outcome State Fault Refusal} (h : CanonNext o) (e : o = .next s) : Canon s := by
  subst e
  exact h

variable {c : Prop} [Decidable c]

theorem ite_canon (hs : Canon s) (ht : Canon t) : Canon (if c then s else t) := by
  split
  · exact hs
  · exact ht

theorem ite_canon_fst {p q : State × α} (hp : Canon p.1) (hq : Canon q.1) : Canon (if c then p else q).1 := by
  split
  · exact hp
  · exact hq

theorem ite_canonSome {o p : Option State} (ho : CanonSome o) (hp : CanonSome p) : CanonSome (if c then o else p) := by
  split
  · exact ho
  · exact hp

theorem ite_canonNext {o p : Host.Outcome State Fault Refusal} (ho : CanonNext o) (hp : CanonNext p) :
    CanonNext (if c then o else p) := by
  split
  · exact ho
  · exact hp

theorem foldl_canon {f : State → β → State} {l : List β} (h : Canon s) (hf : ∀ {s b}, Canon s → Canon (f s b)) :
    Canon (l.foldl f s) := by
  induction l generalizing s with
  | nil => exact h
  | cons b l ih => exact ih (hf h)

theorem foldl_canon_fst {f : State × α → β → State × α} {l : List β} {p : State × α} (h : Canon p.1)
    (hf : ∀ {p b}, Canon p.1 → Canon (f p b).1) : Canon (l.foldl f p).1 := by
  induction l generalizing p with
  | nil => exact h
  | cons b l ih => exact ih (hf h)

end

end Sys2Proof.Machine
end

section
/-! SUPPORT. The operations on registers, splits, groups and workgroups keep the form. -/

open Sys2Proof Sys2Proof.Machine

namespace Sys2Proof.Machine

theorem reset_canon : Canon State.reset := canon_iff_memWf.mpr rfl

/-! ### Registers, splits, groups and workgroups -/

theorem setCore_canon {s c v} (h : Canon s) : Canon (State.setCore s c v) := h.update rfl

theorem setDie_canon {s d v} (h : Canon s) : Canon (State.setDie s d v) := h.update rfl

theorem setContext_canon {s c v} (h : Canon s) : Canon (State.setContext s c v) := h.update rfl

theorem setQueue_canon {s q v} (h : Canon s) : Canon (State.setQueue s q v) := h.update rfl

theorem setSluice_canon {s d v} (h : Canon s) : Canon (State.setSluice s d v) := h.update rfl

theorem setGroup_canon {s k g} (h : Canon s) : Canon (State.setGroup s k g) := h.update rfl

theorem setWg_canon {s k w} (h : Canon s) (hw : w.scratch.wf = true) : Canon (State.setWg s k w) := { h with wgs := h.wgs.put hw }

theorem setSplit_canon {s r sp} (h : Canon s) : Canon (State.setSplit s r sp) := by
  unfold State.setSplit
  split
  · exact h
  · exact h.update rfl

theorem modSplit_canon {s r f} (h : Canon s) : Canon (State.modSplit s r f) := by
  unfold State.modSplit
  split
  · exact h
  · exact setSplit_canon h

theorem modGroup_canon {s k f} (h : Canon s) : Canon (State.modGroup s k f) := h.update rfl

theorem modNode_canon {s k f} (h : Canon s) : Canon (State.modNode s k f) := h.update rfl

theorem modCore_canon {s c f} (h : Canon s) : Canon (State.modCore s c f) := h.update rfl

theorem post_canon {s die m} (h : Canon s) : Canon (State.post s die m) := ite_canon (h.update rfl) (h.update rfl)

theorem postFault_canon {s r g f} (h : Canon s) : Canon (postFault s r g f) := ite_canon (h.update rfl) (post_canon h)

theorem takeFault_canon {s r kind f} (h : Canon s) : Canon (takeFault s r kind f) := by
  unfold takeFault
  split
  · exact h
  · exact postFault_canon ((modSplit_canon h).update rfl)

theorem logEcc_canon {s core code} (h : Canon s) : Canon (logEcc s core code) := ite_canon (h.update rfl) h

theorem faultScalar_canon {s r sp skip code aux addr} (h : Canon s) : Canon (faultScalar s r sp skip code aux addr) :=
  takeFault_canon (logEcc_canon (setSplit_canon h))

theorem postRequest_canon {s kind ctx tag} (h : Canon s) : Canon (postRequest s kind ctx tag) := post_canon h

theorem answerRequests_canon {s} (h : Canon s) : Canon (answerRequests s) :=
  foldl_canon h (fun h => ite_canon h (postRequest_canon (h.update rfl)))

theorem answerReleases_canon {s} (h : Canon s) : Canon (answerReleases s) :=
  foldl_canon h (fun h => ite_canon h (postRequest_canon (h.update rfl)))

theorem freeWorkgroup_canon {s k} (h : Canon s) : Canon (freeWorkgroup s k) := by
  unfold freeWorkgroup
  split
  · exact h
  · exact { h with wgs := h.wgs.del k }

theorem endWorkgroup_canon {s k} (h : Canon s) : Canon (endWorkgroup s k) := by
  unfold endWorkgroup
  split
  · exact h
  · split
    · exact ite_canon (answerRequests_canon (freeWorkgroup_canon h)) h
    · exact ite_canon (answerRequests_canon (freeWorkgroup_canon (freeWorkgroup_canon h))) h

theorem mapRefs_canon {s f} (h : Canon s) : Canon (State.mapRefs s f) := h.update rfl

theorem endGroup_canon {s k} (h : Canon s) : Canon (endGroup s k) := by
  unfold endGroup
  split
  · exact h
  · exact endWorkgroup_canon (mapRefs_canon { h with wgs := by dsimp only; exact h.wgs.mod fun _ hw => hw })

theorem detach_canon {s gone} (h : Canon s) : Canon (detach s gone) := h.update rfl

theorem releaseOrder_canon {s node core} (h : Canon s) : Canon (releaseOrder s node core) := h.update rfl

theorem endSplit_canon {s r} (h : Canon s) : Canon (endSplit s r) := by
  unfold endSplit
  split
  · exact h
  · split
    · exact h
    · extract_lets
      split
      · exact setGroup_canon (releaseOrder_canon h)
      · exact ite_canon (endGroup_canon (detach_canon (setGroup_canon (releaseOrder_canon h))))
          (detach_canon (setGroup_canon (releaseOrder_canon h)))

theorem killSplits_canon {s k gone} (h : Canon s) : Canon (killSplits s k gone) := by
  unfold killSplits
  split
  · exact h
  · next g _ =>
    have hd (g' o f) : Canon (detach { State.setGroup (releaseOrder s g.node (k / 256)) k g' with orphans := o } f) :=
      detach_canon (h.update rfl)
    exact ite_canon (endGroup_canon (hd ..)) (hd ..)

theorem killSplit_canon {s r} (h : Canon s) : Canon (killSplit s r) := killSplits_canon h

end Sys2Proof.Machine
end

section
/-! SUPPORT. Physical memory, the caches and the accesses of splits keep the form. -/

open Sys2Proof Sys2Proof.Machine

namespace Sys2Proof.Machine

theorem doJoin_canon {s r g sp} (h : Canon s) : Canon (doJoin s r g sp) := by
  unfold doJoin
  split
  · exact setSplit_canon h
  · exact setSplit_canon h
  · exact ite_canon (h.update rfl) (h.update rfl)

theorem takeDeferred_canon {s r sp d k rest} (h : Canon s) : Canon (takeDeferred s r sp d k rest) := takeFault_canon (setSplit_canon h)

/-! ### Physical memory and logical time -/

theorem rekey_canon {s key sec} (h : Canon s) : Canon (State.rekey s key sec) := by
  unfold State.rekey
  split
  · exact h.update rfl
  · exact ite_canon h { h with mem := Memory.wf_writeBytes _ _ _ h.mem }

theorem physWriteByte_canon {s slot pa b} (h : Canon s) : Canon (State.physWriteByte s slot pa b) :=
  { rekey_canon h with mem := physWriteByte_mem_wf h.mem slot pa b }

theorem physWrite_canon {s slot pa l} (h : Canon s) : Canon (State.physWrite s slot pa l) := by
  induction l generalizing s pa with
  | nil => exact h
  | cons b l ih => exact ih (physWriteByte_canon h)

theorem setTs_canon {s line w r} (h : Canon s) : Canon (State.setTs s line w r) := h.update rfl

theorem raiseLt_canon {s core t} (h : Canon s) : Canon (State.raiseLt s core t) := by
  unfold State.raiseLt
  split
  · exact h.update rfl
  · exact h.update rfl

theorem floorSweep_canon {s} (h : Canon s) : Canon (floorSweep s) := by
  unfold floorSweep
  extract_lets f
  have hs : TableAll (fun v => v.wg.scratch.wf = true) (s.saved.map fun e => (e.1, { e.2 with time := tsMax e.2.time f })) :=
    h.saved.map fun _ hv => hv
  exact ⟨h.mem, h.keyMap, h.mailbox, h.wgs, hs, h.cores⟩

theorem sweepFor_canon {t n s} (h : Canon s) : Canon (sweepFor t n s) := by
  induction n generalizing s with
  | zero => exact h
  | succ n ih => exact ite_canon (ih (floorSweep_canon h)) h

theorem renew_canon {s core line} (h : Canon s) : Canon (renew s core line) := setTs_canon (sweepFor_canon h)

theorem tsStore_canon {s core line} (h : Canon s) : Canon (tsStore s core line) := raiseLt_canon (setTs_canon (sweepFor_canon h))

theorem ltbase_canon {s v} (h : Canon s) : Canon (ltbase s v) :=
  have hs : TableAll (fun v => v.wg.scratch.wf = true) (ltbase s v).saved := h.saved.map fun _ hv => hv
  ⟨h.mem, h.keyMap, h.mailbox, h.wgs, hs, h.cores⟩

/-! ### Caches, the weir and leases -/

theorem endLease_canon {s line} (h : Canon s) : Canon (endLease s line) := by
  unfold endLease
  split
  · exact h
  · exact h.update rfl

theorem claimLine_canon {s core line} (h : Canon s) : Canon (claimLine s core line) := by
  unfold claimLine
  split
  · exact h
  · exact ite_canon h (endLease_canon h)

theorem waitLease_canon {s lines} (h : Canon s) : Canon (waitLease s lines) := by
  refine ite_canon ?_ h
  split
  · exact endLease_canon h
  · exact h

theorem l1Put_canon {s core l} (h : Canon s) : Canon (l1Put s core l) := h.update rfl

theorem l1Fill_canon {s core slot code key pa n} (h : Canon s) : Canon (l1Fill s core slot code key pa n) := by
  have hw : ∀ {c : Prop} [Decidable c] {l}, Canon (if c then waitLease s l else s) := ite_canon (waitLease_canon h) h
  simp only [l1Fill]
  split
  · exact l1Put_canon h
  · split
    · exact hw
    · exact l1Put_canon hw

theorem l1Use_canon {s core slot code cls key pa n} (h : Canon s) : Canon (l1Use s core slot code cls key pa n) := by
  refine ite_canon (l1Fill_canon h) ?_
  split
  · exact h.update rfl
  · exact h

theorem l1Store_canon {s core slot code key pa} (h : Canon s) : Canon (l1Store s core slot code key pa) := by
  unfold l1Store
  extract_lets
  split
  · exact h
  · exact h.update rfl

theorem auditRequest_canon {s die slice line ctx code estimate} (h : Canon s) : Canon (auditRequest s die slice line ctx code estimate) :=
  ite_canon (h.update rfl) (h.update rfl)

theorem countMiss_canon {s die line} (h : Canon s) : Canon (countMiss s die line).1 := by
  unfold countMiss
  extract_lets
  split
  · exact h
  · split
    · exact ite_canon_fst (h.update rfl) (h.update rfl)
    · exact h

theorem l2Fill_canon {s die lo n cls l} (h : Canon s) : Canon (l2Fill s die lo n cls l) := setDie_canon (ite_canon (waitLease_canon h) h)

theorem l2Request_canon {s pa key ctx code cls cpt} (h : Canon s) : Canon (l2Request s pa key ctx code cls cpt) :=
  have ha {d l e c p q v} : Canon (State.setDie (auditRequest s d l e c p q) d v) := setDie_canon (auditRequest_canon h)
  ite_canon ha (ite_canon (countMiss_canon ha) (l2Fill_canon (countMiss_canon ha)))

theorem plainRequest_canon {s pa key ctx} (h : Canon s) : Canon (plainRequest s pa key ctx) := l2Request_canon h

theorem plainRequests_canon {s pa n key ctx} (h : Canon s) : Canon (plainRequests s pa n key ctx) :=
  foldl_canon h (fun h => plainRequest_canon h)

theorem weirRequest_canon {s core pa} (h : Canon s) : Canon (weirRequest s core pa).1 := by
  unfold weirRequest
  extract_lets
  split
  · exact h.update rfl
  · exact h.update rfl

theorem grantLease_canon {s core line} (h : Canon s) : Canon (grantLease s core line) := by
  unfold grantLease
  split
  · exact ite_canon h (h.update rfl)
  · exact h.update rfl

theorem touchWalk_canon {s ctx l} (h : Canon s) : Canon (touchWalk s ctx l) := foldl_canon h (fun h => plainRequest_canon h)

theorem translate_canon {s core ctx va u} (h : Canon s) : Canon (translate s core ctx va u).1 := by
  simp only [translate]
  split
  · exact touchWalk_canon h
  · split
    · exact ite_canon_fst h (touchWalk_canon h)
    · exact ite_canon_fst h (touchWalk_canon h)
    · exact setDie_canon (modCore_canon (touchWalk_canon h))
    · exact touchWalk_canon h

/-! ### Accesses of splits -/

theorem modResult_canon {s r id f} (h : Canon s) : Canon (State.modResult s r id f) := modSplit_canon h

theorem defer_canon {s w code lane addr window cmd} (h : Canon s) : Canon (State.defer s w code lane addr window cmd) :=
  modSplit_canon (logEcc_canon h)

theorem notifyTail_canon {s pa n ctx} (h : Canon s) : Canon (notifyTail s pa n ctx) := h.update rfl

theorem nodeWrote_canon {s node line} (h : Canon s) : Canon (nodeWrote s node line) := h.update rfl

theorem writeLine_canon {s core key pa bytes} (h : Canon s) : Canon (writeLine s core key pa bytes) :=
  tsStore_canon (physWrite_canon (claimLine_canon h))

theorem homeWriteQuiet_canon {s core key pa bytes} (h : Canon s) : Canon (homeWriteQuiet s core key pa bytes) :=
  plainRequest_canon (writeLine_canon h)

theorem homeWrite_canon {s core key pa bytes ctx} (h : Canon s) : Canon (homeWrite s core key pa bytes ctx) :=
  notifyTail_canon (homeWriteQuiet_canon h)

theorem homeRead_canon {s core key pa n} (h : Canon s) : Canon (homeRead s core key pa n).1 :=
  raiseLt_canon (renew_canon (plainRequest_canon (claimLine_canon h)))

theorem loadHome_canon {s w m l n} (h : Canon s) : Canon (loadHome s w m l n).1 := by
  unfold loadHome
  extract_lets core line cls s₁ s₂ s₃ s₄
  have h₂ : Canon s₂ := l2Request_canon (claimLine_canon h)
  have h₃ : Canon s₃ := ite_canon h₂ (renew_canon h₂)
  have h₄ : Canon s₄ := ite_canon h₃ (raiseLt_canon h₃)
  exact ite_canon (l1Fill_canon h₄) h₄

theorem loadMem_canon {s w m l n} (h : Canon s) : Canon (loadMem s w m l n).1 := by
  refine ite_canon_fst (ite_canon (l1Use_canon h) (raiseLt_canon (l1Use_canon h))) ?_
  split
  · exact ite_canon (h.update rfl) (raiseLt_canon (h.update rfl))
  · exact loadHome_canon h

theorem requestHome_canon {s w m l} (h : Canon s) : Canon (requestHome s w m l) := ite_canon h (l2Request_canon h)

theorem storeBytes_canon {s w m l bytes} (h : Canon s) : Canon (storeBytes s w m l bytes) :=
  nodeWrote_canon (l1Store_canon (notifyTail_canon (writeLine_canon h)))

theorem storeQuiet_canon {s w m l bytes} (h : Canon s) : Canon (storeQuiet s w m l bytes) := requestHome_canon (storeBytes_canon h)

theorem awaitAck_canon {s w l n} (h : Canon s) : Canon (awaitAck s w l n) := h.update rfl

theorem storeMem_canon {s w m l bytes} (h : Canon s) : Canon (storeMem s w m l bytes) := awaitAck_canon (storeQuiet_canon h)

theorem weirClaimed_canon {s c core line w m l pa} (h : Canon s) :
    Canon (weirRequest (requestHome (claimLine s core line) w m l) c pa).1 :=
  weirRequest_canon (requestHome_canon (claimLine_canon h))

theorem atomicRead_canon {s w m l n} (h : Canon s) : Canon (atomicRead s w m l n).1 :=
  ite_canon_fst h (ite_canon (grantLease_canon (weirClaimed_canon h)) (weirClaimed_canon h))

theorem holdLeased_canon {s w m l n near} (h : Canon s) : Canon (holdLeased s w m l n near) := ite_canon (l1Use_canon h) h

theorem atomicMem_canon {s w m l op n x compare} (h : Canon s) : Canon (atomicMem s w m l op n x compare).1 :=
  awaitAck_canon (holdLeased_canon (storeBytes_canon (atomicRead_canon h)))

theorem sendRemote_canon {s w rank window offset size lane gen op tag acq p} (h : Canon s) :
    Canon (sendRemote s w rank window offset size lane gen op tag acq p) := h.update rfl

theorem performAccess_canon {s w m result a} (h : Canon s) : Canon (performAccess s w m result a).1 := by
  unfold performAccess
  split
  · next e1 => exact (translate_canon h).of_eq e1
  · next e1 => exact (translate_canon h).of_eq e1
  · next e1 =>
    have h₁ := (translate_canon h).of_eq e1
    split
    · split
      · exact ite_canon_fst h₁ (loadMem_canon h₁)
      · exact storeMem_canon h₁
      · exact ite_canon_fst h₁ (atomicMem_canon h₁)
    · split
      · exact h₁
      · extract_lets
        split
        · exact sendRemote_canon h₁
        · exact sendRemote_canon h₁
        · exact sendRemote_canon h₁
    · exact h₁

theorem settle_canon {s w result a d} (h : Canon s) : Canon (settle s w result a d) := by
  unfold settle
  split
  · split
    · exact modResult_canon h
    · exact h
  · extract_lets
    split
    · exact modResult_canon (defer_canon h)
    · exact defer_canon h
  · exact h
  · exact h

theorem postPages_canon {s core} (h : Canon s) : Canon (postPages s core) := by
  refine foldl_canon h (fun h => ite_canon h ?_)
  split
  · exact h
  · exact setCore_canon (post_canon h)

theorem galleyAdd_canon {s core es} (h : Canon s) : Canon (galleyAdd s core es) := postPages_canon (h.update rfl)

theorem performAll_canon {s w m result l} (h : Canon s) : Canon (performAll s w m result l) := by
  unfold performAll
  extract_lets
  split
  next s' held e =>
  have hs : Canon s' := by
    refine Canon.of_eq ?_ e
    refine foldl_canon_fst h fun h => ite_canon_fst h ?_
    split
    · next e => exact (performAccess_canon h).of_eq e
    · next e => exact settle_canon ((performAccess_canon h).of_eq e)
  exact ite_canon hs (galleyAdd_canon hs)

theorem scratchAccess_canon {s wg a} (h : Canon s) : Canon (scratchAccess s wg a).1 := by
  unfold scratchAccess
  split
  · exact h
  · next w hw =>
    have hput : ∀ {a b}, (scratchPut s wg w none a b).scratch.wf = true := Memory.wf_writeBytes _ _ _ (h.wg hw)
    extract_lets
    split
    · exact h
    · exact setWg_canon h hput
    · exact setWg_canon h hput

theorem scratchAll_canon {s w result l} (h : Canon s) : Canon (scratchAll s w result l) :=
  foldl_canon h (fun h => settle_canon (scratchAccess_canon h))

/-! ### What the deferred-fault pages and the reply region hold -/

theorem replyDword_canon {s core ctx region k} (h : Canon s) : Canon (replyDword s core ctx region k).1 := by
  unfold replyDword
  with_reducible exact homeRead_canon h

theorem loadDeferrals_canon {s gkey} (h : Canon s) : Canon (loadDeferrals s gkey) := by
  unfold loadDeferrals
  split
  · exact h
  · exact ite_canon h (setGroup_canon (foldl_canon h (fun h => ite_canon (plainRequests_canon h) h)))

theorem keepDeferrals_canon {s gkey} (h : Canon s) : Canon (keepDeferrals s gkey) := by
  unfold keepDeferrals
  split
  · exact h
  · exact foldl_canon h (fun h => ite_canon (plainRequests_canon (physWrite_canon h)) h)

theorem exitSplit_canon {s r} (h : Canon s) : Canon (exitSplit s r) := keepDeferrals_canon (endSplit_canon (loadDeferrals_canon h))

theorem dissolveLanes_canon {s r g sp ret va vb n} (h : Canon s) : Canon (dissolveLanes s r g sp ret va vb n) :=
  exitSplit_canon (h.update rfl)

end Sys2Proof.Machine
end

section
/-! SUPPORT. Scalar and lane words, the steps of splits and the copy engine keep the form. -/

open Sys2Proof Sys2Proof.Machine

namespace Sys2Proof.Machine

/-! ### Park points -/

theorem joinNow_canon {s r} (h : Canon s) : Canon (joinNow s r) := by
  unfold joinNow
  extract_lets
  split
  · exact loadDeferrals_canon h
  · split
    · exact loadDeferrals_canon h
    · split
      · exact keepDeferrals_canon (doJoin_canon (loadDeferrals_canon h))
      · exact doJoin_canon (loadDeferrals_canon h)

theorem doAfter_canon {s r k} (h : Canon s) : Canon (doAfter s r k) := by
  unfold doAfter
  split
  · exact h
  · split
    · exact h
    · extract_lets
      split
      · exact setSplit_canon h
      · exact h.update rfl
      · exact keepDeferrals_canon (h.update rfl)
      · exact joinNow_canon h
      · exact exitSplit_canon h
      · exact faultScalar_canon h
      · split
        · exact h
        · split
          · exact faultScalar_canon h
          · exact dissolveLanes_canon h
      · exact ite_canon
          (ite_canon (ite_canon (setSplit_canon h) (setGroup_canon (replyDword_canon h))) (setSplit_canon h)) (setSplit_canon h)
      · exact setSplit_canon h
      · exact ite_canon (setSplit_canon h) (setSplit_canon h)
      · exact ite_canon (setSplit_canon h) (ite_canon (raiseLt_canon (setSplit_canon (h.update rfl))) (h.update rfl))

theorem finishPark_canon {s r k} (h : Canon s) : Canon (finishPark s r k) := by
  unfold finishPark
  split
  · exact h
  · split
    · exact h
    · refine ite_canon (killSplit_canon h) ?_
      split
      · exact takeDeferred_canon h
      · exact ite_canon (setSplit_canon h) (doAfter_canon h)

theorem parkThen_canon {s r g sp k} (h : Canon s) : Canon (parkThen s r g sp k) :=
  ite_canon (finishPark_canon (h.update rfl)) (h.update rfl)

theorem wakeObject_canon {s wg off} (h : Canon s) : Canon (wakeObject s wg off) := by
  unfold wakeObject
  split
  · exact h
  · refine foldl_canon h fun h => ?_
    split
    · exact h
    · refine ite_canon h (foldl_canon h fun h => ?_)
      split
      · exact ite_canon (doAfter_canon h) h
      · exact h

/-! ### What runs an instruction word -/

theorem bump_canon {s} (h : Canon s) : Canon (bump s) := h.update rfl

theorem onSplit_canon {s f} (hf : ∀ {r g sp}, Canon (f r g sp)) : CanonNext (onSplit s f) := by
  refine ite_canonNext ?_ trivial
  split
  · exact bump_canon hf
  · exact trivial

theorem onPart_canon {s f} (h : Canon s) (hf : ∀ {t}, Canon t → Canon (f t)) : CanonNext (onPart s f) :=
  ite_canonNext (bump_canon (hf h)) trivial

theorem stallAt_canon {s r sp c} (h : Canon s) : Canon (stallAt s r sp c) := setSplit_canon h

/-! ### Divergence and upcalls -/

theorem parkScalar_canon {s r g sp k} (h : Canon s) : Canon (parkScalar s r g sp k) := parkThen_canon h

theorem execSbrv_canon {n jso jlo tso tlo s} (h : Canon s) : CanonNext (execSbrv n jso jlo tso tlo s) := by
  refine onSplit_canon (ite_canon (setSplit_canon h) (ite_canon (setSplit_canon h) ?_))
  split
  · exact ite_canon (parkScalar_canon h) (ite_canon (parkScalar_canon h) (faultScalar_canon h))
  · exact ite_canon (parkScalar_canon h) (faultScalar_canon h)

theorem endRun_canon {s r g sp pk} (h : Canon s) : Canon (endRun s r g sp pk) := ite_canon (parkThen_canon h) (h.update rfl)

theorem execSlissue_canon {count pk s} (h : Canon s) : CanonNext (execSlissue count pk s) := by
  refine onSplit_canon ?_
  intro _ _ _
  extract_lets
  split
  · exact ite_canon (endRun_canon h) (setSplit_canon h)
  · exact setSplit_canon h

theorem threadCall_canon {s ret va vb n} (h : Canon s) : CanonNext (threadCall s ret va vb n) :=
  onSplit_canon (ite_canon (faultScalar_canon h) (ite_canon (faultScalar_canon h) (parkScalar_canon h)))

theorem upcall_canon {s svc f} (h : Canon s) (hf : ∀ {r g sp}, Canon (f r g sp)) : CanonNext (upcall s svc f) := by
  refine onSplit_canon (ite_canon (faultScalar_canon h) ?_)
  split
  · exact stallAt_canon h
  · exact hf

/-! ### Barrier objects and fences -/

theorem objectOp_canon {s sa release ok f} (h : Canon s)
    (hf : ∀ {r g sp w off}, w.scratch.wf = true → Canon (f r g sp w off)) : CanonNext (objectOp s sa release ok f) := by
  refine onSplit_canon ?_
  intro r g sp
  split
  · exact setSplit_canon h
  · next w hw =>
    have ht : ∀ {c}, Canon (faultScalar s r sp 1 c) := faultScalar_canon h
    have hs : ∀ {c}, Canon (stallAt s r sp c) := stallAt_canon h
    extract_lets off
    split
    · exact ht
    · exact ite_canon hs (ite_canon hs (ite_canon hs (ite_canon (hf (h.wg hw)) ht)))

theorem putObject_scratch_wf {s wg w off x} (h : w.scratch.wf = true) : (putObject s wg w off x).scratch.wf = true :=
  Memory.wf_writeBytes _ _ _ h

theorem completePhase_canon {s w off p} (h : Canon s) : Canon (completePhase s w off p) := foldl_canon h (fun h => h.update rfl)

theorem execSbarrive_canon {sa s} (h : Canon s) : CanonNext (execSbarrive sa s) :=
  objectOp_canon h fun hw =>
    wakeObject_canon (setWg_canon (ite_canon (completePhase_canon (setSplit_canon h)) (setSplit_canon h)) (putObject_scratch_wf hw))

theorem execSfence_canon {o sc s} (h : Canon s) : CanonNext (execSfence o sc s) := by
  refine onSplit_canon ?_
  intro _ _ _
  split
  · exact stallAt_canon h
  · exact setSplit_canon h

/-! ### What every lane word shares -/

theorem faultLane_canon {s r sp code addr lanes} (h : Canon s) : Canon (faultLane s r sp code addr lanes) :=
  takeFault_canon (logEcc_canon (setSplit_canon h))

theorem retireLane_canon {s r g sp p} (h : Canon s) : Canon (retireLane s r g sp p) :=
  ite_canon (h.update rfl) (ite_canon (endRun_canon h) (ite_canon (parkThen_canon h) (h.update rfl)))

/-- The effect of a lane word keeps the canonical form. -/
def LaneSpec.Keeps (p : LaneSpec) : Prop := ∀ x, Canon x.s → Canon (p.run x).1

theorem runLane_canon {p w s} (hp : p.Keeps) (h : Canon s) : CanonNext (runLane p w s) := by
  refine onSplit_canon ?_
  intro r g sp
  extract_lets x
  split
  · exact faultLane_canon h
  · split
    · exact stallAt_canon h
    · exact retireLane_canon (hp x h)

theorem put_canon {x tag f} (h : Canon x.s) : Canon (LaneCtx.put x tag f).1 := by
  unfold LaneCtx.put
  split
  · exact ite_canon_fst h h
  · exact h

theorem putCond_canon {x n flags f} (h : Canon x.s) : Canon (LaneCtx.putCond x n flags f).1 := h

theorem addFlags_canon {o fl} (h : Canon o.1) : Canon (addFlags o fl).1 := h

/-! ### Lane words whose effect is on registers -/

theorem polySpec_keeps {os m w r mm run} (hr : ∀ {x f}, Canon x.s → Canon (run x f).1) : (polySpec os m w r mm run).Keeps :=
  fun _ h => hr h

theorem poly1_keeps {op} : (poly1 op).Keeps := polySpec_keeps fun h => put_canon h
theorem poly2_keeps {op} : (poly2 op).Keeps := polySpec_keeps fun h => put_canon h
theorem specVmad_keeps : specVmad.Keeps := polySpec_keeps fun h => put_canon h
theorem specVcmp_keeps : specVcmp.Keeps := polySpec_keeps fun h => putCond_canon h
theorem specVsel_keeps : specVsel.Keeps := polySpec_keeps fun h => put_canon h
theorem specVscan_keeps : specVscan.Keeps := polySpec_keeps fun h => addFlags_canon (put_canon h)

theorem bitSpec_keeps {os run} (hr : ∀ {x f}, Canon x.s → Canon (run x f).1) : (bitSpec os run).Keeps := fun _ h => hr h

theorem bit2_keeps {op} : (bit2 op).Keeps := bitSpec_keeps fun h => put_canon h
theorem specVnot_keeps : specVnot.Keeps := bitSpec_keeps fun h => put_canon h

theorem shiftSpec_keeps {op} : (shiftSpec op).Keeps := by
  intro x h
  dsimp only [shiftSpec]
  exact put_canon h

theorem specVmulhi_keeps : specVmulhi.Keeps := by
  intro x h
  dsimp only [specVmulhi]
  exact put_canon h

theorem countSpec_keeps {single f g} : (countSpec single f g).Keeps := by
  intro x h
  dsimp only [countSpec]
  exact put_canon h

theorem fieldWord_keeps {os keep run} : (fieldWord os keep run).Keeps := by
  intro x h
  dsimp only [fieldWord]
  exact put_canon h

theorem plainSpec_keeps {dest run} (hr : ∀ {x}, Canon x.s → Canon (run x).1) : (plainSpec dest run).Keeps := fun _ h => hr h

theorem condSpec_keeps {op} : (condSpec op).Keeps := plainSpec_keeps fun h => putCond_canon h

theorem floatSpec_keeps {ok os result run} : (floatSpec ok os result run).Keeps := by
  intro x h
  dsimp only [floatSpec]
  exact put_canon h

theorem float1_keeps {ok result op} : (float1 ok result op).Keeps := floatSpec_keeps
theorem transSpec_keeps {op} : (transSpec op).Keeps := floatSpec_keeps

theorem specVdot2_keeps : specVdot2.Keeps := by
  intro x h
  dsimp only [specVdot2]
  exact put_canon h

theorem specVldexp_keeps : specVldexp.Keeps := by
  intro x h
  dsimp only [specVldexp]
  exact put_canon h

theorem specVcvt_keeps : specVcvt.Keeps := by
  intro x h
  dsimp only [specVcvt]
  exact put_canon h

theorem specVtag_keeps : specVtag.Keeps := by
  intro x h
  dsimp only [specVtag]
  exact put_canon h

theorem specVgettag_keeps : specVgettag.Keeps := by
  intro x h
  dsimp only [specVgettag]
  exact put_canon h

theorem specVmov_keeps : specVmov.Keeps := by
  intro x h
  dsimp only [specVmov]
  exact put_canon h

theorem specVli_keeps : specVli.Keeps := by
  intro x h
  dsimp only [specVli]
  refine ite_canon_fst ?_ (put_canon h)
  split
  · exact ite_canon_fst h h
  · exact h

theorem specVlane_keeps : specVlane.Keeps := plainSpec_keeps fun h => put_canon h
theorem specVmovc_keeps : specVmovc.Keeps := plainSpec_keeps fun h => put_canon h

theorem crossSpec_keeps {useB mismatch pick} : (crossSpec useB mismatch pick).Keeps := by
  intro x h
  dsimp only [crossSpec]
  exact put_canon h

theorem specVred_keeps : specVred.Keeps := by
  intro x h
  dsimp only [specVred]
  exact addFlags_canon (put_canon h)

theorem specVballot_keeps : specVballot.Keeps := plainSpec_keeps fun h => put_canon h
theorem specVxadd_keeps : specVxadd.Keeps := fun _ h => h
theorem specVxget_keeps : specVxget.Keeps := plainSpec_keeps fun h => addFlags_canon (put_canon h)
theorem specVxclr_keeps : specVxclr.Keeps := plainSpec_keeps fun h => h

/-! ### Steps of splits, time and the caches -/

theorem execVariableLatencyResult_canon {r k s} (h : Canon s) : CanonNext (execVariableLatencyResult r k s) := by
  refine onPart_canon h fun {s} h => ?_
  split
  · exact h
  · split
    · exact h
    · split
      · exact h
      · exact ite_canon h (setGroup_canon h)

theorem execStoreAcknowledgement_canon {r k s} (h : Canon s) : CanonNext (execStoreAcknowledgement r k s) := by
  refine onPart_canon h fun h => ?_
  split
  · exact ite_canon (h.update rfl) h
  · split
    · exact ite_canon (h.update rfl) h
    · exact ite_canon (h.update rfl) h
    · exact h
  · exact h

theorem parkStep_canon {s r} (h : Canon s) : Canon (parkStep s r) := by
  unfold parkStep
  split
  · exact h
  · split
    · exact h
    · refine ite_canon h ?_
      split
      · exact ite_canon (finishPark_canon h) h
      · exact ite_canon h (finishPark_canon h)
      · exact ite_canon (killSplit_canon h) (ite_canon h (doAfter_canon h))
      · exact ite_canon (killSplit_canon h) h
      · split
        · exact takeDeferred_canon h
        · exact h
      · split
        · exact takeDeferred_canon h
        · exact h
      · exact h
      · exact h

theorem forcePark_canon {s r} (h : Canon s) : Canon (forcePark s r) := by
  unfold forcePark
  split
  · exact h
  · split
    · exact h
    · exact ite_canon (parkThen_canon h) h

theorem execSplitMerge_canon {group key s} (h : Canon s) : CanonNext (execSplitMerge group key s) := by
  refine onPart_canon h fun h => ?_
  split
  · exact h
  · split
    · exact h
    · refine ite_canon h ?_
      extract_lets
      split
      · exact h.update rfl
      · exact h.update rfl

theorem execJoinDeadlockRelease_canon {group s} (h : Canon s) : CanonNext (execJoinDeadlockRelease group s) := by
  refine onPart_canon h fun h => ?_
  split
  · exact h
  · exact ite_canon (h.update rfl) h

theorem execBarrierComplete_canon {wg s} (h : Canon s) : CanonNext (execBarrierComplete wg s) := by
  refine onPart_canon h fun h => ?_
  split
  · exact h
  · exact ite_canon (foldl_canon h (fun h => h.update rfl)) h

theorem execStarvationPrecedence_canon {r s} (h : Canon s) : CanonNext (execStarvationPrecedence r s) := by
  refine onPart_canon h fun h => ?_
  split
  · exact h
  · exact ite_canon (h.update rfl) h

theorem execAtomicLeaseExpiry_canon {line s} (h : Canon s) : CanonNext (execAtomicLeaseExpiry line s) := by
  refine onPart_canon h fun h => ?_
  split
  · exact h
  · exact ite_canon (endLease_canon h) h

theorem execAuditFail_canon {die slice k s} (h : Canon s) : CanonNext (execAuditFail die slice k s) := by
  refine onPart_canon h fun h => ?_
  extract_lets
  split
  · exact h
  · exact ite_canon (h.update rfl) h

theorem execInvalidatePage_canon {ctx page s} (h : Canon s) : CanonNext (execInvalidatePage ctx page s) :=
  onPart_canon h (fun h => h.update rfl)

theorem execInvalidateContext_canon {ctx s} (h : Canon s) : CanonNext (execInvalidateContext ctx s) :=
  onPart_canon h (fun h => h.update rfl)

theorem execInvalidateNonglobal_canon {ctx s} (h : Canon s) : CanonNext (execInvalidateNonglobal ctx s) :=
  onPart_canon h (fun h => h.update rfl)

theorem execInvalidateAll_canon {s} (h : Canon s) : CanonNext (execInvalidateAll s) := onPart_canon h (fun h => h.update rfl)

theorem execInvalidationPortLoad_canon {s} (h : Canon s) : CanonNext (execInvalidationPortLoad s) :=
  onPart_canon h (fun h => ite_canon (h.update rfl) (h.update rfl))

theorem settlePort_canon {s} (h : Canon s) : Canon (settlePort s) := foldl_canon h (fun h => ite_canon (h.update rfl) h)

theorem execContextValidWrite_canon {ctx valid s} (h : Canon s) : CanonNext (execContextValidWrite ctx valid s) :=
  onPart_canon h (fun h => ite_canon (h.update rfl) (h.update rfl))

/-! ### Accesses of a core's units -/

theorem ackOverlaps_canon {s core pa n} (h : Canon s) : Canon (ackOverlaps s core pa n) := h.update rfl

theorem unitLoad_canon {s w m l n} (h : Canon s) : Canon (unitLoad s w m l n).1 := by
  unfold unitLoad
  split
  · exact ite_canon_fst h (loadMem_canon (h.update rfl))
  · exact h
  · exact h

theorem unitSend_canon {s w pa n op} (h : Canon s) : Canon (unitSend s w pa n op) := by
  unfold unitSend
  split
  · split
    · exact h.update rfl
    · exact h
  · exact h

theorem unitStore_canon {s w m l bytes} (h : Canon s) : Canon (unitStore s w m l bytes) :=
  ite_canon (storeQuiet_canon h) (unitSend_canon h)

theorem agentChunk_canon {s w m va n} (h : Canon s) : Canon (agentChunk s w m va n).1 := by
  refine ite_canon_fst h (ite_canon_fst h ?_)
  split
  · next e1 => exact (translate_canon h).of_eq e1
  · next e1 => exact unitLoad_canon ((translate_canon h).of_eq e1)

theorem agentRead_canon {s w m va n} (h : Canon s) : Canon (agentRead s w m va n).1 := by
  refine foldl_canon_fst h fun h => ?_
  split
  · exact h
  · extract_lets
    split
    · next e2 => exact (agentChunk_canon h).of_eq e2
    · next e2 => exact (agentChunk_canon h).of_eq e2

theorem agentLeaf_canon {s w va} (h : Canon s) : Canon (agentLeaf s w va).1 := by
  refine ite_canon_fst h (ite_canon_fst h ?_)
  split
  · next e1 => exact (translate_canon h).of_eq e1
  · next e1 =>
    have h₁ := (translate_canon h).of_eq e1
    split
    · exact h₁
    · exact h₁
    · exact h₁

theorem agentWrite_canon {s w m va bytes} (h : Canon s) : Canon (agentWrite s w m va bytes).1 := by
  refine foldl_canon_fst (p := (s, Except.ok 0)) h fun h => ?_
  split
  · exact h
  · extract_lets at' c
    split
    · next e => exact (agentLeaf_canon h).of_eq e
    · next e => exact unitStore_canon ((agentLeaf_canon h).of_eq e)

theorem agentAtomic_canon {s w m va op n x} (h : Canon s) : Canon (agentAtomic s w m va op n x).1 := by
  unfold agentAtomic
  split
  · next e1 => exact (agentLeaf_canon h).of_eq e1
  · next e1 =>
    have h₁ := (agentLeaf_canon h).of_eq e1
    exact ite_canon_fst (unitSend_canon h₁) (ite_canon_fst h₁ (holdLeased_canon (storeBytes_canon (atomicRead_canon h₁))))

theorem readDescriptor_canon {s w m va n} (h : Canon s) : Canon (readDescriptor s w m va n).1 := by
  refine ite_canon_fst h ?_
  split
  · next e1 => exact (agentRead_canon h).of_eq e1
  · next e1 => exact (agentRead_canon h).of_eq e1
  · next e1 => exact (agentRead_canon h).of_eq e1

theorem holdDescriptor_canon {s w va lanes} (h : Canon s) : Canon (holdDescriptor s w va lanes) := galleyAdd_canon (modSplit_canon h)

theorem issueCommand_canon {s r g sp kind ranges pcs} (h : Canon s) : Canon (issueCommand s r g sp kind ranges pcs) := h.update rfl

theorem finishCommand_canon {s id} (h : Canon s) : Canon (finishCommand s id) := by
  unfold finishCommand
  split
  · exact h
  · exact endWorkgroup_canon (h.update rfl)

theorem stopCommand_canon {s id code addr window} (h : Canon s) : Canon (stopCommand s id code addr window) := by
  unfold stopCommand
  split
  · exact h
  · exact finishCommand_canon (modSplit_canon h)

theorem failCommand_canon {s id code addr window} (h : Canon s) : Canon (failCommand s id code addr window) := by
  unfold failCommand
  split
  · exact stopCommand_canon (logEcc_canon h)
  · exact h

theorem stallCommand_canon {s id c va write} (h : Canon s) : Canon (stallCommand s id c va write) := galleyAdd_canon (h.update rfl)

theorem execXwait_canon {n s} (h : Canon s) : CanonNext (execXwait n s) := by
  refine onSplit_canon (ite_canon (stallAt_canon h) ?_)
  extract_lets
  split
  · exact setSplit_canon h
  · exact takeDeferred_canon h

/-! ### Images -/

theorem readImage_canon {s w m va} (h : Canon s) : Canon (readImage s w m va).1 := by
  unfold readImage
  split
  · next e1 => exact (readDescriptor_canon h).of_eq e1
  · next e1 => exact (readDescriptor_canon h).of_eq e1
  · next e1 =>
    have h₁ := (readDescriptor_canon h).of_eq e1
    exact ite_canon_fst h₁ (ite_canon_fst h₁ h₁)

theorem execXdecomp_canon {d first count f s} (h : Canon s) : CanonNext (execXdecomp d first count f s) := by
  refine onSplit_canon (ite_canon (stallAt_canon h) ?_)
  split
  · next e1 => exact holdDescriptor_canon ((readImage_canon h).of_eq e1)
  · next e1 => exact faultScalar_canon ((readImage_canon h).of_eq e1)
  · next e1 => exact issueCommand_canon ((readImage_canon h).of_eq e1)

/-! ### The copy engine and mesh emission -/

theorem issueMove_canon {s r g sp kind} (h : Canon s) : Canon (issueMove s r g sp kind) := by
  unfold issueMove
  split
  · split
    · exact faultScalar_canon h
    · exact ite_canon (stallAt_canon h) (h.update rfl)
  · exact h

theorem copyEnd_canon {s w peer va u} (h : Canon s) : Canon (copyEnd s w peer va u).1 := by
  refine ite_canon_fst h (ite_canon_fst h ?_)
  split
  · next e1 => exact (translate_canon h).of_eq e1
  · next e1 => exact (translate_canon h).of_eq e1
  · next e1 =>
    have h₁ := (translate_canon h).of_eq e1
    split
    · exact ite_canon_fst h₁ h₁
    · split
      · exact h₁
      · exact h₁
    · exact h₁

theorem copyStall_canon {s id c va write} (h : Canon s) : Canon (copyStall s id c va write) := ite_canon h (stallCommand_canon h)

theorem putScratch_canon {s id wg a b} (h : Canon s) : Canon (putScratch s id wg a b) :=
  have hw : TableAll (fun w => w.scratch.wf = true) (tmod s.wgs wg (fun w => scratchPut s wg w (some id) a b)) :=
    h.wgs.mod fun _ hw => Memory.wf_writeBytes _ _ _ hw
  { h with wgs := hw }

theorem sendFor_canon {s id w rank window offset size p gen op tag} (h : Canon s) :
    Canon (sendFor s id w rank window offset size p gen op tag) := h.update rfl

theorem advance_canon {s id p} (h : Canon s) : Canon (State.advance s id p) := h.update rfl

theorem loadEach_canon {s w m l n} (h : Canon s) : Canon (loadEach s w m l n).1 := foldl_canon_fst h (fun h => loadMem_canon h)

theorem storeEach_canon {s w m l bytes} (h : Canon s) : Canon (storeEach s w m l bytes) := foldl_canon h (fun h => storeQuiet_canon h)

theorem placePiece_canon {s id c x p bytes again} (h : Canon s) : Canon (placePiece s id c x p bytes again) := by
  refine ite_canon (advance_canon (putScratch_canon h)) ?_
  split
  · next e1 => exact copyStall_canon (((copyEnd_canon h).of_eq e1).update rfl)
  · next e1 => exact failCommand_canon ((copyEnd_canon h).of_eq e1)
  · next e1 => exact advance_canon (storeEach_canon ((copyEnd_canon h).of_eq e1))
  · next e1 => exact advance_canon (sendFor_canon ((copyEnd_canon h).of_eq e1))

theorem movePiece_canon {s0 s id c x} (h : Canon s) : Canon (movePiece s0 s id c x) := by
  refine ite_canon (placePiece_canon h) ?_
  split
  · next e1 => exact copyStall_canon ((copyEnd_canon h).of_eq e1)
  · next e1 => exact failCommand_canon ((copyEnd_canon h).of_eq e1)
  · next e1 =>
    have h₁ := (copyEnd_canon h).of_eq e1
    exact ite_canon (failCommand_canon h₁) (placePiece_canon (loadEach_canon (ackOverlaps_canon h₁)))
  · next e1 =>
    have h₁ := (copyEnd_canon h).of_eq e1
    exact ite_canon (copyStall_canon h₁) (advance_canon (sendFor_canon h₁))

theorem endMove_canon {s id c leaves} (h : Canon s) : Canon (endMove s id c leaves) :=
  ite_canon (finishCommand_canon h) (ite_canon (endWorkgroup_canon (h.update rfl)) h)

theorem moveAll_canon {s0 id x n s} (h : Canon s) : Canon (moveAll s0 id x n s) := by
  induction n generalizing s with
  | zero => exact h
  | succ n ih =>
    unfold moveAll
    split
    · exact h
    · exact ite_canon (endMove_canon h) (ite_canon h (ite_canon (movePiece_canon h) (ih (movePiece_canon h))))

theorem moveAnswered_canon {s id c x m data} (h : Canon s) : Canon (moveAnswered s id c x m data) := by
  unfold moveAnswered
  split
  · extract_lets
    split
    · exact ite_canon ((placePiece_canon h).update rfl) (placePiece_canon h)
    · exact placePiece_canon h
  · exact h

theorem performSignal_canon {s id c d v set tag after} (h : Canon s) : Canon (performSignal s id c d v set tag after) := by
  refine ite_canon (endMove_canon h) (ite_canon h ?_)
  extract_lets
  split
  · next e1 => exact copyStall_canon ((copyEnd_canon h).of_eq e1)
  · next e1 => exact failCommand_canon ((copyEnd_canon h).of_eq e1)
  · next e1 => exact (copyEnd_canon h).of_eq e1
  · next e1 =>
    have h₁ := (copyEnd_canon h).of_eq e1
    extract_lets
    split
    · exact endMove_canon (advance_canon (sendFor_canon h₁))
    · exact advance_canon (sendFor_canon h₁)

theorem commandError_canon {s id c va write e} (h : Canon s) : Canon (commandError s id c va write e) := by
  unfold commandError
  split
  · exact copyStall_canon h
  · exact failCommand_canon h

theorem decompTile_canon {s id c img f t} (h : Canon s) : Canon (decompTile s id c img f t) := by
  refine ite_canon (h.update rfl) ?_
  split
  · next e1 => exact commandError_canon ((agentRead_canon h).of_eq e1)
  · next e1 =>
    have h₁ := (agentRead_canon h).of_eq e1
    refine ite_canon (advance_canon h₁) ?_
    extract_lets
    split
    · next e2 => exact commandError_canon ((agentRead_canon h₁).of_eq e2)
    · next e2 =>
      have h₂ := (agentRead_canon h₁).of_eq e2
      split
      · next e3 => exact commandError_canon ((agentWrite_canon h₂).of_eq e3)
      · next e3 =>
        have h₃ := (agentWrite_canon h₂).of_eq e3
        split
        · next e4 => exact commandError_canon ((agentWrite_canon h₃).of_eq e4)
        · next e4 => exact advance_canon ((agentWrite_canon h₃).of_eq e4)

theorem decompAll_canon {id img first count f n s} (h : Canon s) : Canon (decompAll id img first count f n s) := by
  induction n generalizing s with
  | zero => exact h
  | succ n ih =>
    unfold decompAll
    split
    · exact h
    · exact ite_canon (ite_canon h (finishCommand_canon h)) (ite_canon (decompTile_canon h) (ih (decompTile_canon h)))

theorem emitOne_canon {s id c base q i buf cap desc code} (h : Canon s) : Canon (emitOne s id c base q i buf cap desc code) := by
  unfold emitOne
  refine ite_canon ?_ ?_
  · split
    · next e => exact commandError_canon ((agentAtomic_canon h).of_eq e)
    · next e => exact advance_canon ((agentAtomic_canon h).of_eq e)
  · extract_lets
    split
    · next e => exact commandError_canon ((agentWrite_canon h).of_eq e)
    · next e => exact advance_canon ((agentWrite_canon h).of_eq e)

theorem emitAll_canon {id base n q buf cap desc code k s} (h : Canon s) : Canon (emitAll id base n q buf cap desc code k s) := by
  induction k generalizing s with
  | zero => exact h
  | succ k ih =>
    unfold emitAll
    split
    · exact h
    · refine ite_canon (ite_canon h (finishCommand_canon h)) ?_
      extract_lets t
      have ht : Canon t := by
        refine ite_canon ?_ (emitOne_canon h)
        split
        · next e => exact commandError_canon ((agentAtomic_canon h).of_eq e)
        · next e => exact ((agentAtomic_canon h).of_eq e).update rfl
      exact ite_canon ht (ih ht)

theorem performCopy_canon {s id} (h : Canon s) : Canon (performCopy s id) := by
  unfold performCopy
  split
  · exact h
  · refine ite_canon h ?_
    split
    · exact performSignal_canon h
    · exact decompAll_canon h
    · exact emitAll_canon h
    · split
      · exact moveAll_canon h
      · exact h

theorem commandAnswered_canon {s id n m data} (h : Canon s) : Canon (commandAnswered s id n m data) := by
  unfold commandAnswered
  split
  · exact h
  · extract_lets
    split
    · exact endMove_canon (h.update rfl)
    · extract_lets
      split
      · exact ite_canon (endMove_canon (moveAnswered_canon (h.update rfl))) (moveAnswered_canon (h.update rfl))
      · exact moveAnswered_canon (h.update rfl)
    · exact h.update rfl

theorem execGemit_canon {ss sn sq code s} (h : Canon s) : CanonNext (execGemit ss sn sq code s) := by
  refine onSplit_canon ?_
  intro _ _ _
  split
  · refine ite_canon (faultScalar_canon h) (ite_canon (faultScalar_canon h) (ite_canon (faultScalar_canon h)
      (ite_canon (faultScalar_canon h) (ite_canon (stallAt_canon h) ?_))))
    split
    · next e2 => exact holdDescriptor_canon ((readDescriptor_canon h).of_eq e2)
    · next e2 => exact faultScalar_canon ((readDescriptor_canon h).of_eq e2)
    · next e2 =>
      have h₂ := (readDescriptor_canon h).of_eq e2
      exact ite_canon (faultScalar_canon h₂) (ite_canon (faultScalar_canon h₂) (issueCommand_canon h₂))
  · exact h

/-! ### Branches and special registers -/

theorem shortBranch_canon {s off taken} (h : Canon s) : CanonNext (shortBranch s off taken) := onSplit_canon (setSplit_canon h)

theorem longBranch_canon {s so lo taken} (h : Canon s) : CanonNext (longBranch s so lo taken) := onSplit_canon (setSplit_canon h)

theorem onMask_canon {s o} (h : Canon s) (ho : CanonNext o) : CanonNext (onMask s o) := by
  unfold onMask
  split
  · exact ite_canonNext ho (onSplit_canon (stallAt_canon h))
  · exact ho

theorem execSsetsr_canon {k sa s} (h : Canon s) : CanonNext (execSsetsr k sa s) := by
  refine onSplit_canon ?_
  intro _ _ _
  extract_lets
  split
  · exact setSplit_canon h
  · exact setSplit_canon h
  · exact ite_canon (setSplit_canon (ltbase_canon h)) (faultScalar_canon h)
  · exact ite_canon (setSplit_canon (h.update rfl)) (faultScalar_canon h)
  · exact faultScalar_canon h
  · exact faultScalar_canon h
  · exact faultScalar_canon h
  · exact faultScalar_canon h

theorem tick_scratch (cyc t : Nat) (w : Workgroup) : (tick cyc t w).scratch = w.scratch := by
  unfold tick
  split
  · rfl
  · rfl

theorem execStick_canon {sa imm s} (h : Canon s) : CanonNext (execStick sa imm s) := by
  refine onSplit_canon ?_
  intro r g sp
  have hw : ∀ {t}, TableAll (fun w => w.scratch.wf = true) (tmod s.wgs g.wg (tick s.cyc t)) :=
    h.wgs.mod fun w hw => by rwa [tick_scratch]
  exact { setSplit_canon (r := r) (sp := retire s sp 1) h with wgs := hw }

theorem getLane_canon {s sd va lane} (h : Canon s) : CanonNext (getLane s sd va lane) :=
  onSplit_canon (ite_canon (faultScalar_canon h) ((setSplit_canon h).update rfl))

end Sys2Proof.Machine
end

section
/-! SUPPORT. Lane memory words and the texture unit keep the form. -/

open Sys2Proof Sys2Proof.Machine

namespace Sys2Proof.Machine

/-! ### Reply dwords and lane memory -/

theorem execSgetr_canon {pd k s} (h : Canon s) : CanonNext (execSgetr pd k s) := by
  refine onSplit_canon ?_
  intro r g sp
  refine ite_canon (stallAt_canon h) ?_
  split
  next e => exact (setSplit_canon ((replyDword_canon h).of_eq e)).update rfl

theorem throughState_canon {s r g sp f} (h : Canon s) (hf : ∀ {t}, Canon t → Canon (f t)) : Canon (throughState s r g sp f).1 := by
  unfold throughState
  extract_lets s'
  have hs : Canon s' := hf (setGroup_canon h)
  split
  · exact hs
  · exact hs

/-- A lane memory word changes memory by its accesses alone. -/
theorem memSpec_keeps {scratch srcs mm result accs order held} : (memSpec scratch srcs mm result accs order held).Keeps :=
  fun _ h => throughState_canon (h.update rfl) fun h => ite_canon (scratchAll_canon h) (performAll_canon h)

theorem loadSpec_keeps {scratch} : (loadSpec scratch).Keeps := memSpec_keeps
theorem storeSpec_keeps {scratch} : (storeSpec scratch).Keeps := memSpec_keeps
theorem atomSpec_keeps {result} : (atomSpec result).Keeps := memSpec_keeps
theorem specVvis_keeps : specVvis.Keeps := memSpec_keeps

/-- The state in which a graphics word ends is in canonical form. -/
def GfxEnd.Canonical : GfxEnd → Prop
  | .fault s _ _ | .wait s | .issued s => Canon s

/-- The effect of a graphics word keeps the canonical form. -/
def GfxSpec.Keeps (p : GfxSpec) : Prop := ∀ x, Canon x.s → (p.rest x).Canonical

theorem ite_canonical {c : Prop} [Decidable c] {a b : GfxEnd} (ha : a.Canonical) (hb : b.Canonical) : (if c then a else b).Canonical := by
  split
  · exact ha
  · exact hb

theorem runGfx_canon {p w s} (hp : p.Keeps) (h : Canon s) : CanonNext (runGfx p w s) := by
  refine onSplit_canon ?_
  intro r g sp
  extract_lets x
  have hx : (p.rest x).Canonical := hp x h
  split
  · exact faultLane_canon h
  · cases e : p.rest x with
    | fault t c a =>
      rw [e] at hx
      exact faultLane_canon hx
    | wait t =>
      rw [e] at hx
      exact hx
    | issued t =>
      rw [e] at hx
      dsimp only
      split
      · exact faultLane_canon h
      · exact hx

/-! ### The texture unit -/

theorem withImage_canonical {x : LaneCtx} {f} (h : Canon x.s) (hf : ∀ {s d}, Canon s → (f s d).Canonical) :
    (x.withImage f).Canonical := by
  unfold LaneCtx.withImage
  split
  · exact stallAt_canon h
  · split
    · next e => exact holdDescriptor_canon ((readImage_canon h).of_eq e)
    · next e => exact (readImage_canon h).of_eq e
    · next e => exact hf ((readImage_canon h).of_eq e)

theorem readMode_canon {s w d t} (h : Canon s) : Canon (readMode s w d t).1 := by
  refine ite_canon_fst h ?_
  split
  · next e1 => exact (agentRead_canon h).of_eq e1
  · next e1 => exact (agentRead_canon h).of_eq e1

theorem readPixel_canon {s w d m x y} (h : Canon s) : Canon (readPixel s w d m x y).1 := by
  unfold readPixel
  extract_lets
  split
  · next e1 => exact (readMode_canon h).of_eq e1
  · next e1 =>
    have h₁ := (readMode_canon h).of_eq e1
    extract_lets
    split
    · next e2 => exact (agentRead_canon h₁).of_eq e2
    · next e2 => exact (agentRead_canon h₁).of_eq e2

theorem gridLevel_canon {s w d coord l} (h : Canon s) : Canon (gridLevel s w d coord l).1 := by
  refine foldl_canon_fst h fun h => ?_
  split
  · exact h
  · split
    · extract_lets
      split
      · next e3 => exact (agentRead_canon h).of_eq e3
      · next e3 => exact (agentRead_canon h).of_eq e3

theorem unitValue_canon {s w o} (h : Canon s) : Canon (unitValue s w o).1 := by
  unfold unitValue
  split
  · refine ite_canon_fst h ?_
    split
    · next e2 => exact (readPixel_canon h).of_eq e2
    · next e2 => exact (readPixel_canon h).of_eq e2
  · refine foldl_canon_fst h fun h => ?_
    split
    · exact h
    · split
      · next e3 => exact (readPixel_canon h).of_eq e3
      · next e3 => exact (readPixel_canon h).of_eq e3
  · refine foldl_canon_fst h fun h => ?_
    split
    · exact h
    · split
      · next e3 => exact (gridLevel_canon h).of_eq e3
      · next e3 => exact (gridLevel_canon h).of_eq e3

theorem performReads_canon {s w id jobs} (h : Canon s) : Canon (performReads s w id jobs) := by
  unfold performReads
  split
  next s' held e =>
  have hs : Canon s' := by
    refine Canon.of_eq ?_ e
    refine foldl_canon_fst h fun h => ?_
    split
    · next e => exact modResult_canon ((unitValue_canon h).of_eq e)
    · next e => exact (unitValue_canon h).of_eq e
    · next e => exact modResult_canon (defer_canon ((unitValue_canon h).of_eq e))
  exact ite_canon hs (galleyAdd_canon hs)

theorem issueReads_canon {x s n tag job} (h : Canon s) : Canon (issueReads x s n tag job) := by
  unfold issueReads
  with_reducible exact retireLane_canon (throughState_canon (h.update rfl) fun h => performReads_canon h)

theorem specVtex_keeps : specVtex.Keeps :=
  fun _ h => withImage_canonical h fun h => ite_canonical h (issueReads_canon h)

theorem specVtexld_keeps : specVtexld.Keeps :=
  fun _ h => withImage_canonical h fun h => ite_canonical h (issueReads_canon h)

theorem withGrid_canonical {x : LaneCtx} {f} (h : Canon x.s) (hf : ∀ {s d}, Canon s → (f s d).Canonical) :
    (x.withGrid f).Canonical := by
  unfold LaneCtx.withGrid
  split
  · exact stallAt_canon h
  · refine ite_canonical h ?_
    split
    · next e => exact holdDescriptor_canon ((readDescriptor_canon h).of_eq e)
    · next e => exact (readDescriptor_canon h).of_eq e
    · next e => exact ite_canonical ((readDescriptor_canon h).of_eq e) (hf ((readDescriptor_canon h).of_eq e))

theorem specVhgrid_keeps : specVhgrid.Keeps := by
  intro x hx
  dsimp only [specVhgrid]
  refine withGrid_canonical hx ?_
  intro s d h
  exact ite_canonical h (ite_canonical h (issueReads_canon h))

theorem specVhgsc_keeps : specVhgsc.Keeps := by
  intro x hx
  dsimp only [specVhgsc]
  refine withGrid_canonical hx ?_
  intro s d h
  refine ite_canonical h (ite_canonical h (ite_canonical (stallAt_canon h) ?_))
  exact retireLane_canon (throughState_canon (h.update rfl) fun h => performAll_canon (foldl_canon h fun h => defer_canon h))

end Sys2Proof.Machine
end

section
/-! SUPPORT. Rays, placement, render targets, the kernel's answers, pre-emption and the composing unit keep the form. -/

open Sys2Proof Sys2Proof.Machine

namespace Sys2Proof.Machine

/-! ### Rays -/

theorem traverse_canon {s w o d tmin tmax n l best} (h : Canon s) : Canon (traverse s w o d tmin tmax n l best).1 := by
  induction n generalizing s l best with
  | zero =>
    cases l with
    | nil => exact h
    | cons x l => exact h
  | succ n ih =>
    cases l with
    | nil => exact h
    | cons x l =>
      unfold traverse
      extract_lets size
      refine ite_canon_fst h ?_
      split
      · next e => exact (agentRead_canon h).of_eq e
      · next e => exact (agentRead_canon h).of_eq e
      · next e =>
        have hs := (agentRead_canon h).of_eq e
        exact ite_canon_fst hs (ite_canon_fst (ih hs) (ih hs))

theorem traceRay_canon {s key g y} (h : Canon s) : Canon (traceRay s key g y).1 := ite_canon_fst h (traverse_canon h)

theorem recordArrives_canon {s key y r} (h : Canon s) : Canon (recordArrives s key y r) := h.update rfl

theorem rayEnds_canon {s key y r} (h : Canon s) : Canon (rayEnds s key y r) := h.update rfl

theorem followRay_canon {s key k} (h : Canon s) : Canon (followRay s key k) := by
  unfold followRay
  split
  · exact h
  · split
    · exact h
    · extract_lets
      split
      · next e3 => exact rayEnds_canon ((traceRay_canon h).of_eq e3)
      · next e3 => exact rayEnds_canon ((traceRay_canon h).of_eq e3)
      · next e3 => exact rayEnds_canon ((traceRay_canon h).of_eq e3)
      · next e3 => exact rayEnds_canon (defer_canon ((traceRay_canon h).of_eq e3))
      · next e3 => exact galleyAdd_canon ((traceRay_canon h).of_eq e3)

theorem execRayRecordArrival_canon {group k s} (h : Canon s) : CanonNext (execRayRecordArrival group k s) := by
  refine onPart_canon h fun h => ?_
  split
  · exact h
  · split
    · exact h
    · split
      · exact h.update rfl
      · exact h

theorem specVtrace_keeps : specVtrace.Keeps := by
  intro x h
  dsimp only [specVtrace]
  split
  · exact stallAt_canon h
  · have hp : ∀ {g tag f}, Canon (LaneCtx.put { x with g := g } tag f).1 := put_canon h
    exact retireLane_canon (throughState_canon (hp.update rfl) fun h => foldl_canon h fun h => followRay_canon h)

theorem specVmbox_keeps : specVmbox.Keeps := by
  intro x h
  dsimp only [specVmbox]
  exact retireLane_canon (throughState_canon (h.update rfl) fun h => foldl_canon h fun h => modResult_canon h)

/-! ### The pool and the placement of workgroups -/

theorem chargeBy_canon {s ctx n} (h : Canon s) : Canon (chargeBy s ctx n) := h.update rfl

theorem charge_canon {s ctx} (h : Canon s) : Canon (charge s ctx) := h.update rfl

theorem hubRead_canon {s ctx va n} (h : Canon s) : Canon (hubRead s ctx va n).1 := by
  unfold hubRead
  with_reducible refine ite_canon_fst h ?_
  split
  · next e => exact (translate_canon h).of_eq e
  · next e =>
    have hs := (translate_canon h).of_eq e
    split
    · with_reducible exact ite_canon_fst hs (homeRead_canon hs)
    · exact hs
    · exact hs
    · exact hs

theorem hubBytes_canon {s ctx va n} (h : Canon s) : Canon (hubBytes s ctx va n).1 := by
  refine ite_canon_fst (hubRead_canon h) ?_
  split
  · next e1 => exact (hubRead_canon h).of_eq e1
  · next e1 =>
    have h₁ := (hubRead_canon h).of_eq e1
    split
    · next e2 => exact (hubRead_canon h₁).of_eq e2
    · next e2 => exact (hubRead_canon h₁).of_eq e2

theorem hubDwords_canon {s ctx va n} (h : Canon s) : Canon (hubDwords s ctx va n).1 := hubBytes_canon h

theorem unbind_canon {s node k} (h : Canon s) : Canon (unbind s node k) := h.update rfl

theorem zeroReply_canon {s ctx region} (h : Canon s) : Canon (zeroReply s ctx region) := homeWrite_canon h

theorem placeGroups_canon {s n node core wg xs bs us} (h : Canon s) : Canon (placeGroups s n node core wg xs bs us) := by
  induction xs generalizing s bs us with
  | nil => exact h
  | cons x xs ih =>
    cases bs with
    | nil => exact h
    | cons b bs =>
      cases us with
      | nil => exact h
      | cons u us =>
        unfold placeGroups
        extract_lets k g s'
        have hs : Canon s' := { h with wgs := by dsimp only [s']; exact h.wgs.mod fun _ hw => hw }
        exact ih (zeroReply_canon hs)

theorem placeWorkgroup_canon {s node n core wid seeds twin follower ahead} (h : Canon s) :
    Canon (placeWorkgroup s node n core wid seeds twin follower ahead) := by
  unfold placeWorkgroup
  extract_lets slot key units
  split
  · exact placeGroups_canon (raiseLt_canon { h with wgs := h.wgs.put rfl })
  · exact h

theorem placedOne_canon {s node core wid} (h : Canon s) : Canon (placedOne s node core wid) := h.update rfl

theorem advanceNode_canon {s node count core wid} (h : Canon s) : Canon (advanceNode s node count core wid) :=
  unbind_canon (modNode_canon (placedOne_canon h))

theorem placeNext_canon {s node n} (h : Canon s) : CanonSome (placeNext s node n) := by
  refine ite_canonSome ?_ (ite_canonSome trivial ?_)
  · split
    · exact trivial
    · split
      · exact trivial
      · exact ite_canonSome (modNode_canon (advanceNode_canon (placeWorkgroup_canon h))) trivial
  · extract_lets
    split
    · exact trivial
    · exact ite_canonSome trivial
        (ite_canonSome (advanceNode_canon (placeWorkgroup_canon (placeWorkgroup_canon h))) (advanceNode_canon (placeWorkgroup_canon h)))

theorem nodeError_canon {s n code} (h : Canon s) : Canon (nodeError s n code) := post_canon h

theorem dropSavedGroup_canon {s ctx g} (h : Canon s) : Canon (dropSavedGroup s ctx g) := ite_canon (h.update rfl) (h.update rfl)

theorem dropSaved_canon {s k} (h : Canon s) : Canon (dropSaved s k) := by
  unfold dropSaved
  split
  · exact h
  · extract_lets s'
    have hs : Canon s' := foldl_canon { h with saved := h.saved.del k } fun h => dropSavedGroup_canon h
    exact hs.update rfl

theorem failNode_canon {s node code} (h : Canon s) : Canon (failNode s node code) := by
  unfold failNode
  split
  · exact h
  · have hd : ∀ {l : List Nat}, Canon (l.foldl dropSaved s) := foldl_canon h fun h => dropSaved_canon h
    exact ite_canon h (nodeError_canon (answerReleases_canon (foldl_canon (hd.update rfl) fun h => killSplits_canon h)))

theorem CanonSome.bind {o : Option State} {f : State → Option State} (ho : CanonSome o) (hf : ∀ {t}, Canon t → CanonSome (f t)) :
    CanonSome (o.bind f) := by
  cases o with
  | none => exact trivial
  | some t => exact hf ho

theorem CanonSome.map {o : Option State} {f : State → State} (ho : CanonSome o) (hf : ∀ {t}, Canon t → Canon (f t)) :
    CanonSome (o.map f) := by
  cases o with
  | none => exact trivial
  | some t => exact hf ho

theorem findSome_canonSome {β : Type} {l : List β} {f : β → Option State} (hf : ∀ {b}, CanonSome (f b)) :
    CanonSome (l.findSome? f) := by
  cases e : l.findSome? f with
  | none => exact trivial
  | some t =>
    obtain ⟨b, _, hb⟩ := List.exists_of_findSome?_eq_some e
    exact hf.of_eq hb

theorem placeRun_canon {place node set k s} (hplace : ∀ {s node n}, Canon s → CanonSome (place s node n)) (h : Canon s) :
    CanonSome (placeRun place node set k s) := by
  induction k generalizing s with
  | zero => exact h
  | succ k ih =>
    unfold placeRun
    split
    · exact h
    · exact ite_canonSome h ((hplace h).bind fun h => ih h)

theorem placeSet_canon {place s node n} (hplace : ∀ {s node n}, Canon s → CanonSome (place s node n)) (h : Canon s) :
    CanonSome (placeSet place s node n) :=
  findSome_canonSome (placeRun_canon hplace (modNode_canon h))

theorem placeWhole_canon {place node k s} (hplace : ∀ {s node n}, Canon s → CanonSome (place s node n)) (h : Canon s) :
    CanonSome (placeWhole place node k s) := by
  induction k generalizing s with
  | zero => exact h
  | succ k ih =>
    unfold placeWhole
    split
    · exact h
    · exact ite_canonSome h (ite_canonSome (placeRun_canon hplace h) ((placeSet_canon hplace h).bind fun h => ih h))

theorem placeNode_canon {s node n} (h : Canon s) : CanonSome (placeNode s node n) :=
  ite_canonSome (ite_canonSome (placeWhole_canon (fun h => placeNext_canon h) h) trivial) (placeNext_canon h)

theorem bindNode_canon {s node n} (h : Canon s) : Canon (bindNode s node n) := by
  refine ite_canon h (ite_canon ?_ ?_)
  · split
    · exact h.update rfl
    · exact h
  · extract_lets
    split
    · exact h
    · exact ite_canon (h.update rfl) h

theorem coopCheck_canon {s node n} (h : Canon s) : Canon (coopCheck s node n) := ite_canon h (ite_canon (failNode_canon h) (h.update rfl))

/-! ### Render targets and raster order -/

theorem mapPages_canon {s w l maps} (h : Canon s) : Canon (mapPages s w l maps).1 := by
  induction l generalizing s maps with
  | nil => exact h
  | cons va l ih =>
    unfold mapPages
    refine ite_canon_fst (ih h) ?_
    split
    · next e => exact (agentLeaf_canon h).of_eq e
    · next e => exact ih ((agentLeaf_canon h).of_eq e)

theorem deferSaved_canon {s wave slot d} (h : Canon s) : Canon (deferSaved s wave slot d) :=
  { h with saved := by dsimp only [deferSaved]; exact h.saved.map fun _ hv => hv }

theorem deferWrite_canon {s x code va} (h : Canon s) : Canon (deferWrite s x code va) :=
  ite_canon (defer_canon h) (ite_canon (deferSaved_canon h) (ite_canon (failNode_canon h) h))

theorem translateWrites_canon {s w ids} (h : Canon s) : Canon (translateWrites s w ids) := by
  unfold translateWrites
  split
  next s' held e =>
  have hs : Canon s' := by
    refine Canon.of_eq ?_ e
    refine foldl_canon_fst h fun h => ?_
    split
    · exact h
    · split
      · next e => exact ((mapPages_canon h).of_eq e).update rfl
      · next e => exact ((mapPages_canon h).of_eq e).update rfl
      · next e => exact deferWrite_canon (((mapPages_canon h).of_eq e).update rfl)
  exact ite_canon hs (galleyAdd_canon hs)

theorem specVrtw_keeps : specVrtw.Keeps := by
  intro x hx
  dsimp only [specVrtw]
  refine withImage_canonical hx ?_
  intro s d h
  refine ite_canonical h (ite_canonical h (ite_canonical h ?_))
  exact retireLane_canon (throughState_canon (h.update rfl) fun h => translateWrites_canon h)

theorem readMapped_canon {s w maps va n} (h : Canon s) : Canon (readMapped s w maps va n).1 := by
  refine foldl_canon_fst h fun h => ?_
  split
  · exact h
  · extract_lets
    split
    · exact h
    · split
      · next e3 => exact (unitLoad_canon h).of_eq e3
      · next e3 => exact (unitLoad_canon h).of_eq e3

theorem writeMapped_canon {s w maps va bytes} (h : Canon s) : Canon (writeMapped s w maps va bytes) := by
  refine foldl_canon_fst h fun h => ?_
  extract_lets
  split
  · exact h
  · exact unitStore_canon h

theorem readTile_canon {s w d t maps} (h : Canon s) : Canon (readTile s w d t maps).1 := by
  unfold readTile
  split
  · next e => exact (ite_canon_fst h (readMapped_canon h)).of_eq e
  · next e =>
    have hs := (ite_canon_fst h (readMapped_canon h)).of_eq e
    extract_lets mode
    split
    · next e => exact (readMapped_canon hs).of_eq e
    · next e => exact (readMapped_canon hs).of_eq e

theorem dropTileWrites_canon {s node d t e} (h : Canon s) : Canon (dropTileWrites s node d t e) :=
  foldl_canon (h.update rfl) (fun h => deferWrite_canon h)

theorem applyTo_canon {s id x key tile} (h : Canon s) : Canon (applyTo s id x key tile) := h.update rfl

theorem execRtWriteApply_canon {k s} (h : Canon s) : CanonNext (execRtWriteApply k s) := by
  refine onPart_canon h fun {s} h => ?_
  split
  · exact h
  · refine ite_canon h ?_
    extract_lets t
    split
    · exact applyTo_canon h
    · split
      · next e => exact ite_canon h (galleyAdd_canon (((mapPages_canon h).of_eq e).update rfl))
      · next e => exact deferWrite_canon (((mapPages_canon h).of_eq e).update rfl)
      · next e =>
        have hs := (mapPages_canon h).of_eq e
        split
        · next e => exact dropTileWrites_canon ((readTile_canon hs).of_eq e)
        · next e => exact applyTo_canon (((readTile_canon hs).of_eq e).update rfl)

theorem raiseWaves_canon {s waves t} (h : Canon s) : Canon (raiseWaves s waves t) := by
  unfold raiseWaves
  extract_lets s'
  have hs : Canon s' := foldl_canon h fun h => ite_canon (raiseLt_canon h) h
  refine { hs with saved := ?_ }
  dsimp only
  refine hs.saved.map fun e he => ?_
  dsimp only
  split
  · exact he
  · exact he

theorem execTileWriteBack_canon {k s} (h : Canon s) : CanonNext (execTileWriteBack k s) := by
  refine onPart_canon h fun {s} h => ?_
  split
  · exact h
  · extract_lets w
    split
    next mode bytes _ =>
    extract_lets s₁ s₂ time
    have h₂ : Canon s₂ := by
      unfold s₂
      split
      · exact writeMapped_canon (writeMapped_canon h)
      · exact writeMapped_canon h
    exact raiseWaves_canon (h₂.update rfl)

theorem execGfenceRt_canon {s} (h : Canon s) : CanonNext (execGfenceRt s) := by
  refine onSplit_canon (ite_canon (stallAt_canon h) ?_)
  split
  · exact stallAt_canon h
  · exact setSplit_canon h

theorem specVordb_keeps : specVordb.Keeps := by
  intro x h
  dsimp only [specVordb]
  split
  · exact parkThen_canon (retireLane_canon h)
  · exact retireLane_canon h

theorem specVorde_keeps : specVorde.Keeps := fun _ h =>
  ite_canonical (retireLane_canon h)
    (ite_canonical (stallAt_canon h) (ite_canonical (stallAt_canon h) (retireLane_canon (releaseOrder_canon h))))

theorem readRaster_canon {s n} (h : Canon s) : Canon (readRaster s n).1 := by
  unfold readRaster
  split
  · next e1 => exact (hubDwords_canon h).of_eq e1
  · next e1 =>
    have h₁ := (hubDwords_canon h).of_eq e1
    split
    · next e2 => exact (hubDwords_canon h₁).of_eq e2
    · next e2 => exact foldl_canon_fst ((hubDwords_canon h₁).of_eq e2) (fun h => by
      split
      · exact h
      · split
        · next e4 => exact (hubBytes_canon h).of_eq e4
        · next e4 => exact (hubBytes_canon h).of_eq e4)

theorem execRasteriserStart_canon {node s} (h : Canon s) : CanonNext (execRasteriserStart node s) := by
  refine onPart_canon h fun {s} h => ?_
  split
  · exact h
  · next n _ =>
    have hr : Canon (readRaster { s with hubLt := tsMax s.hubLt n.carried } n).1 := readRaster_canon (h.update rfl)
    refine ite_canon h (ite_canon (failNode_canon h) ?_)
    split
    · next e => exact failNode_canon (hr.of_eq e)
    · next e => exact ite_canon (failNode_canon (hr.of_eq e)) (modNode_canon (hr.of_eq e))

/-! ### What the resident kernel answers -/

theorem resumeSplit_canon {s r g sp x} (h : Canon s) : Canon (resumeSplit s r g sp x) := by
  unfold resumeSplit
  split
  · exact setSplit_canon h
  · exact ite_canon (endRun_canon h) (setSplit_canon h)
  · exact setSplit_canon h
  · exact h

theorem retrySplit_canon {s r sp x} (h : Canon s) : Canon (retrySplit s r sp x) := by
  unfold retrySplit
  split
  · exact setSplit_canon h
  · exact setSplit_canon h
  · exact setSplit_canon h
  · exact h

theorem answerSplit_canon {s retry r} (h : Canon s) : Canon (answerSplit s retry r) := by
  unfold answerSplit
  split
  · exact h
  · split
    · exact h
    · split
      · exact h
      · exact ite_canon (retrySplit_canon h) (resumeSplit_canon h)

theorem freeRegion_canon {s ctx region} (h : Canon s) : Canon (freeRegion s ctx region) := ite_canon h (h.update rfl)

theorem answerOrphan_canon {s a} (h : Canon s) : Canon (answerOrphan s a) := freeRegion_canon (h.update rfl)

theorem goOnOrphan_canon {s a} (h : Canon s) : Canon (goOnOrphan s a) := ite_canon (answerOrphan_canon h) h

theorem savedGroup_scratch_wf {s ctx region k v g} (h : Canon s) (e : savedGroup s ctx region = some (k, v, g)) :
    v.wg.scratch.wf = true := by
  obtain ⟨x, hx, hv⟩ := List.exists_of_findSome?_eq_some e
  split at hv
  · obtain ⟨_, _, hv⟩ := Option.map_eq_some_iff.1 hv
    cases hv
    exact h.saved x hx
  · exact absurd hv nofun

theorem goOn_canon {s retry a} (h : Canon s) : Canon (goOn s retry a) := by
  unfold goOn
  split
  · exact ite_canon (answerSplit_canon h) (goOnOrphan_canon h)
  · split
    · next e =>
      have hv := savedGroup_scratch_wf h e
      exact ite_canon { h with saved := h.saved.put hv } (goOnOrphan_canon h)
    · exact goOnOrphan_canon h

theorem execResume_canon {a s} (h : Canon s) : CanonNext (execResume a s) := onPart_canon h (fun h => goOn_canon h)

theorem execRetry_canon {a s} (h : Canon s) : CanonNext (execRetry a s) := onPart_canon h (fun h => goOn_canon h)

theorem endSaved_canon {s k v} (h : Canon s) : Canon (endSaved s k v) := by
  unfold endSaved
  extract_lets
  split
  · exact answerReleases_canon (modNode_canon (dropSaved_canon h))
  · exact ite_canon (answerReleases_canon (modNode_canon (dropSaved_canon (modNode_canon (dropSaved_canon h))))) h

theorem endSavedGroup_canon {s k v g slot} (h : Canon s) (hv : v.wg.scratch.wf = true) : Canon (endSavedGroup s k v g slot) := by
  unfold endSavedGroup
  extract_lets rest s₁ s₂
  have h₂ : Canon s₂ := modNode_canon (dropSavedGroup_canon { h with saved := h.saved.put hv })
  exact ite_canon (endSaved_canon h₂) h₂

theorem endByAction_canon {s node a} (h : Canon s) : Canon (endByAction s node a) := by
  have hf : ∀ {t n c}, Canon t → Canon (if node then failNode t n c else t) := fun ht => ite_canon (failNode_canon ht) ht
  dsimp only [endByAction]
  split
  · split
    · exact hf (killSplits_canon (setGroup_canon h))
    · exact hf (killSplits_canon (answerOrphan_canon h))
    · exact h
  · split
    · next e =>
      have hv := savedGroup_scratch_wf h e
      split
      · exact hf (endSavedGroup_canon h hv)
      · exact hf (endSavedGroup_canon (answerOrphan_canon h) hv)
      · exact h
    · split
      · exact hf (answerOrphan_canon h)
      · exact h

theorem execEndGroup_canon {a s} (h : Canon s) : CanonNext (execEndGroup a s) := onPart_canon h (fun h => endByAction_canon h)

theorem execEndNode_canon {a s} (h : Canon s) : CanonNext (execEndNode a s) := onPart_canon h (fun h => endByAction_canon h)

theorem reissue_canon {s r c} (h : Canon s) : Canon (reissue s r c) := modSplit_canon h

theorem replayEntry_canon {s e} (h : Canon s) : Canon (replayEntry s e) := by
  unfold replayEntry
  split
  · exact performAll_canon h
  · exact reissue_canon h
  · exact reissue_canon h
  · split
    · exact performCopy_canon (h.update rfl)
    · exact h
  · exact performReads_canon h
  · exact followRay_canon h
  · exact translateWrites_canon h

theorem setGalley_canon {s core l} (h : Canon s) : Canon (setGalley s core l) := h.update rfl

theorem replayOne_canon {s core} (h : Canon s) : CanonSome (replayOne s core) := by
  unfold replayOne
  split
  · exact trivial
  · exact setGalley_canon (replayEntry_canon (h.update rfl))

theorem replayCore_canon {core n s} (h : Canon s) : Canon (replayCore core n s) := by
  induction n generalizing s with
  | zero => exact h
  | succ n ih =>
    unfold replayCore
    split
    · next e => exact ih ((replayOne_canon h).of_eq e)
    · exact h

theorem dropPageMessage_canon {s core ctx page} (h : Canon s) : Canon (dropPageMessage s core ctx page) := ite_canon (h.update rfl) h

theorem afterResume_canon {s core ctx page} (h : Canon s) : Canon (afterResume s core ctx page) :=
  postPages_canon (modCore_canon (replayCore_canon (dropPageMessage_canon h)))

theorem execReplay_canon {ctx page s} (h : Canon s) : CanonNext (execReplay ctx page s) :=
  onPart_canon h (fun h => foldl_canon h (fun h => afterResume_canon (h.update rfl)))

theorem failWord_canon {s r c skip addr lanes} (h : Canon s) : Canon (failWord s r c skip addr lanes) := by
  unfold failWord
  split
  · exact h
  · exact ite_canon h (ite_canon (faultLane_canon h) (ite_canon (setSplit_canon h) (faultScalar_canon h)))

theorem failLanes_canon {s e result l} (h : Canon s) : Canon (failLanes s e result l) := by
  refine foldl_canon h ?_
  intro _ _ h
  extract_lets
  split
  · exact modResult_canon (defer_canon h)
  · exact defer_canon h

theorem failEntry_canon {s e} (h : Canon s) : Canon (failEntry s e) := by
  unfold failEntry
  split
  · exact failLanes_canon h
  · exact failLanes_canon h
  · exact failWord_canon h
  · exact failWord_canon h
  · exact failCommand_canon h
  · split
    · exact h
    · split
      · exact h
      · exact recordArrives_canon (defer_canon h)
  · refine foldl_canon h ?_
    intro _ _ h
    split
    · exact deferWrite_canon (h.update rfl)
    · exact h

theorem execFail_canon {ctx page s} (h : Canon s) : CanonNext (execFail ctx page s) :=
  onPart_canon h (fun h => foldl_canon h (fun h => afterResume_canon (foldl_canon (h.update rfl) (fun h => failEntry_canon h))))

theorem execMessagePost_canon {die s} (h : Canon s) : CanonNext (execMessagePost die s) := by
  refine onPart_canon h fun h => ?_
  extract_lets
  split
  · refine ite_canon ?_ h
    split
    · exact h.update rfl
    · exact h.update rfl
  · split
    · exact post_canon (h.update rfl)
    · exact h

theorem execReplyPortWrite_canon {region ctx ticket s} (h : Canon s) : CanonNext (execReplyPortWrite region ctx ticket s) := by
  refine onPart_canon h fun {s} h => ?_
  split
  · exact setGroup_canon h
  · split
    · next e =>
      have hv := savedGroup_scratch_wf h e
      exact { h with saved := h.saved.put hv }
    · exact h

theorem execOrderedTimeout_canon {group s} (h : Canon s) : CanonNext (execOrderedTimeout group s) := by
  refine onPart_canon h fun h => ?_
  split
  · exact h
  · split
    · exact ite_canon h (killSplits_canon (takeFault_canon h))
    · exact h

/-! ### Pre-emption, save and restore -/

theorem preempt_canon {s ctx hold tag keys} (h : Canon s) : Canon (preempt s ctx hold tag keys) := by
  unfold preempt
  extract_lets id taken mark
  have hm : ∀ w, (mark w).scratch = w.scratch := fun w => by
    unfold mark
    split
    · rfl
    · rfl
  refine answerRequests_canon { h with wgs := ?_ }
  dsimp only
  refine h.wgs.map fun e he => ?_
  split
  · exact (hm e.2).symm ▸ he
  · exact he

theorem execPreemptContext_canon {ctx hold tag s} (h : Canon s) : CanonNext (execPreemptContext ctx hold tag s) :=
  onPart_canon h (fun h => preempt_canon h)

theorem execPreemptWorkgroup_canon {ctx region hold tag s} (h : Canon s) : CanonNext (execPreemptWorkgroup ctx region hold tag s) :=
  onPart_canon h (fun h => preempt_canon h)

theorem execReleaseHeld_canon {ctx tag s} (h : Canon s) : CanonNext (execReleaseHeld ctx tag s) := by
  refine onPart_canon h fun {s} h => ?_
  refine answerReleases_canon { h with saved := ?_ }
  dsimp only
  refine h.saved.map fun e he => ?_
  split
  · exact he
  · exact he

theorem writePiece_canon {s core ctx base p} (h : Canon s) : Canon (writePiece s core ctx base p) :=
  foldl_canon h (fun h => ite_canon (homeWrite_canon h) h)

theorem readPiece_canon {s core ctx pa n} (h : Canon s) : Canon (readPiece s core ctx pa n).1 := by
  unfold readPiece
  with_reducible exact foldl_canon_fst h (fun h => homeRead_canon h)

theorem forgetIssued_canon {s core keys} (h : Canon s) : Canon (forgetIssued s core keys) := h.update rfl

theorem saveWorkgroup_canon {s k w twin} (h : Canon s) (hw : w.scratch.wf = true) : Canon (saveWorkgroup s k w twin) := by
  unfold saveWorkgroup
  extract_lets core ctx elapsed groups s₁ s₂ s₃ s₄ hold
  have h₁ : Canon s₁ := foldl_canon h fun h => foldl_canon h fun h => writePiece_canon h
  have h₂ : Canon s₂ := foldl_canon h₁ fun h => writePiece_canon h
  have h₄ : Canon s₄ := forgetIssued_canon (modCore_canon h₂)
  exact { h₄ with wgs := h₄.wgs.del k, saved := h₄.saved.put hw }

theorem execWorkgroupSave_canon {wg s} (h : Canon s) : CanonNext (execWorkgroupSave wg s) := by
  refine onPart_canon h fun {s} h => ?_
  split
  · exact h
  · next w hw =>
    dsimp only
    split
    · exact ite_canon (answerRequests_canon (saveWorkgroup_canon h (h.wg hw))) h
    · next t v e =>
      obtain ⟨t', _, ht⟩ := Option.bind_eq_some_iff.1 e
      obtain ⟨v', hv, he⟩ := Option.map_eq_some_iff.1 ht
      cases he
      exact ite_canon (answerRequests_canon (saveWorkgroup_canon (saveWorkgroup_canon h (h.wg hw)) (h.wg hv))) h

theorem editedGroup_canon {s core ctx g} (h : Canon s) : Canon (editedGroup s core ctx g).1 := by
  unfold editedGroup
  extract_lets base
  split
  next s₁ _ e =>
  have h₁ : Canon s₁ := by
    refine Canon.of_eq ?_ e
    exact foldl_canon_fst h fun h => readPiece_canon h
  split
  next s₂ _ e =>
  refine Canon.of_eq ?_ e
  exact foldl_canon_fst h₁ fun h => readPiece_canon h

theorem faultEdited_canon {s k} (h : Canon s) : Canon (faultEdited s k) := h.update rfl

theorem restoreGroup_canon {s core wg wgRegion ctx b g} (h : Canon s) : Canon (restoreGroup s core wg wgRegion ctx b g) := by
  unfold restoreGroup
  extract_lets k
  split
  next s₁ g₁ e =>
  have h₁ : Canon s₁ := (editedGroup_canon h).of_eq e
  extract_lets g₂ s₂
  have h₂ : Canon s₂ := { h₁ with wgs := by dsimp only [s₂]; exact h₁.wgs.mod fun _ hw => hw }
  exact ite_canon h₂ (faultEdited_canon h₂)

theorem wakeGroup_canon {s k} (h : Canon s) : Canon (wakeGroup s k) := by
  unfold wakeGroup
  split
  · exact h
  · exact foldl_canon h (fun h => parkStep_canon h)

/-- Whatever has been restored is in canonical form. -/
def CanonRestored (o : Option Restored) : Prop := ∀ x ∈ o, Canon x.state

theorem CanonRestored.none : CanonRestored none := fun _ h => absurd h nofun

theorem CanonRestored.some {x : Restored} (h : Canon x.state) : CanonRestored (some x) := fun _ hy => Option.mem_some.1 hy ▸ h

theorem CanonRestored.bind {α : Type} {o : Option α} {f : α → Option Restored} (hf : ∀ a ∈ o, CanonRestored (f a)) :
    CanonRestored (o.bind f) := by
  cases o with
  | none => exact CanonRestored.none
  | some a => exact hf a rfl

theorem CanonRestored.map_and {o : Option Restored} {x : Restored} (h : CanonRestored o) : CanonRestored (o.map x.and) := by
  cases o with
  | none => exact CanonRestored.none
  | some y => exact CanonRestored.some (h y rfl)

theorem restoreOn_canon {s id v n core twin} (h : Canon s) : CanonRestored (restoreOn s id v n core twin) := by
  unfold restoreOn
  split
  · exact CanonRestored.none
  · extract_lets slot key s₁
    split
    next s₂ image e =>
    have h₂ : Canon s₂ := (readPiece_canon (raiseLt_canon h)).of_eq e
    extract_lets w stands s₃ s₄ keys s₅
    have hw : w.scratch.wf = true := Memory.wf_writeBytes _ _ _ rfl
    have h₃ : Canon s₃ := { h₂ with saved := h₂.saved.del id, wgs := h₂.wgs.put hw }
    have h₄ : Canon s₄ := foldl_canon h₃ fun h => restoreGroup_canon h
    have h₅ : Canon s₅ := ite_canon h₄ (foldl_canon h₄ fun h => faultEdited_canon h)
    exact CanonRestored.some (placedOne_canon h₅)

theorem restoreOne_canon {s id} (h : Canon s) : CanonRestored (restoreOne s id) := by
  unfold restoreOne
  split
  · exact CanonRestored.some h
  · split
    · exact CanonRestored.none
    · split
      · exact CanonRestored.none
      · split
        · exact CanonRestored.bind fun _ _ => restoreOn_canon h
        · refine CanonRestored.bind fun _ _ => CanonRestored.bind fun x hx => CanonRestored.map_and (restoreOn_canon ?_)
          exact restoreOn_canon h x hx

theorem restored_goOn_canon {x : Restored} (h : Canon x.state) : Canon x.goOn :=
  foldl_canon (foldl_canon h fun h => goOn_canon h) fun h => wakeGroup_canon h

theorem restoreWith_canon {one s ids} (hone : ∀ {s id}, Canon s → CanonRestored (one s id)) (h : Canon s) :
    CanonSome (restoreWith one s ids) := by
  have hl : ∀ {o : Option Restored}, CanonRestored o →
      CanonRestored (ids.foldl (fun (x : Option Restored) id => x.bind fun y => (one y.state id).map y.and) o) := by
    induction ids with
    | nil => exact fun ho => ho
    | cons id ids ih => exact fun ho => ih (CanonRestored.bind fun y hy => CanonRestored.map_and (hone (ho y hy)))
  have hr := hl (CanonRestored.some (x := { state := s, keys := [], actions := [] }) h)
  unfold restoreWith
  generalize List.foldl _ _ _ = o at hr ⊢
  cases o with
  | none => exact trivial
  | some x => exact restored_goOn_canon (hr x rfl)

theorem restoreAll_canon {s ids} (h : Canon s) : CanonSome (restoreAll s ids) := restoreWith_canon (fun h => restoreOne_canon h) h

theorem bindSaved_canon {s n id v ids} (h : Canon s) : Canon (bindSaved s n id v ids) := by
  refine ite_canon h (ite_canon ?_ ?_)
  · split
    · exact h.update rfl
    · exact h
  · split
    · exact h.update rfl
    · exact h

theorem placeWork_canon {s node n} (h : Canon s) : CanonSome (placeWork s node n) := by
  unfold placeWork
  split
  · split
    · exact trivial
    · exact (restoreAll_canon h).map fun h => answerReleases_canon (unbind_canon h)
  · exact placeNode_canon h
  · exact trivial

/-! ### The composing unit -/

theorem callEntry_canon {s n index} (h : Canon s) : Canon (callEntry s n index).1 := by
  unfold callEntry
  split
  · next e1 => exact (hubDwords_canon h).of_eq e1
  · next e1 => exact (hubDwords_canon h).of_eq e1

theorem bindComposed_canon {s node index n} (h : Canon s) : Canon (bindComposed s node index n) := by
  refine ite_canon h ?_
  split
  · exact h.update rfl
  · exact h

theorem placeComposed_canon {s node n index} (h : Canon s) : CanonSome (placeComposed s node n index) := by
  unfold placeComposed
  split
  · exact trivial
  · refine ite_canonSome trivial ?_
    split
    · exact trivial
    · next e => exact unbind_canon (placedOne_canon ((placeWorkgroup_canon ((callEntry_canon h).of_eq e)).update rfl))

theorem placeFirst_canon {s node n x} (h : Canon s) (e : placeFirst s node n = some x) : Canon x.2 := by
  unfold placeFirst at e
  split at e
  · next y hy =>
    obtain ⟨i, _, hi⟩ := List.exists_of_findSome?_eq_some hy
    obtain ⟨t, ht, hty⟩ := Option.map_eq_some_iff.1 hi
    cases e
    cases hty
    exact (placeComposed_canon h).of_eq ht
  · obtain ⟨w, _, hw⟩ := Option.bind_eq_some_iff.1 e
    obtain ⟨t, ht, htx⟩ := Option.map_eq_some_iff.1 hw
    cases htx
    exact (placeWork_canon h).of_eq ht

theorem bindWork_canon {s node n} (h : Canon s) : Canon (bindWork s node n) := by
  unfold bindWork
  split
  · split
    · exact ite_canon h (bindSaved_canon h)
    · exact h
  · exact bindNode_canon h
  · exact h

theorem bindDue_canon {s node n} (h : Canon s) : Canon (bindDue s node n) := foldl_canon h (fun h => ite_canon h (bindComposed_canon h))

theorem poolJudged_canon {s} (h : Canon s) : Canon (poolJudged s) :=
  foldl_canon (foldl_canon h (fun h => coopCheck_canon h)) (fun h => bindDue_canon (bindWork_canon h))

theorem firstPlaced_canon {s x} (h : Canon s) (e : firstPlaced s = some x) : Canon x.2.2 := by
  obtain ⟨n, _, hn⟩ := List.exists_of_findSome?_eq_some e
  obtain ⟨y, hy, hyx⟩ := Option.map_eq_some_iff.1 hn
  cases hyx
  exact placeFirst_canon h hy

theorem firstRestored_canon {s x} (h : Canon s) (e : firstRestored s = some x) : Canon x.2 := by
  unfold firstRestored at e
  split at e
  · next hp =>
    obtain ⟨n, _, hn⟩ := Option.map_eq_some_iff.1 e
    cases hn
    exact firstPlaced_canon h hp
  · exact absurd e nofun

theorem execWorkgroupPlacement_canon {s} (h : Canon s) : CanonNext (execWorkgroupPlacement s) := by
  refine onPart_canon h fun {s} h => ?_
  extract_lets s'
  have hs : Canon s' := poolJudged_canon h
  split
  · next e => exact firstPlaced_canon hs e
  · exact hs

theorem execComposeRelease_canon {node index s} (h : Canon s) : CanonNext (execComposeRelease node index s) := by
  refine onPart_canon h fun {s} h => ?_
  split
  · next e => exact ite_canon (firstPlaced_canon h e) h
  · exact h

theorem composeUntil_canon {node index k s} (h : Canon s) : Canon (composeUntil node index k s) := by
  induction k generalizing s with
  | zero => exact h
  | succ k ih =>
    unfold composeUntil
    split
    · next e => exact ite_canon (firstPlaced_canon h e) (ih (firstPlaced_canon h e))
    · exact h

theorem composeOverdue_canon {node index s} (h : Canon s) : CanonNext (composeOverdue node index s) := by
  unfold composeOverdue
  split
  · exact ite_canon (composeUntil_canon (poolJudged_canon h)) h
  · exact h

theorem execWorkgroupRestore_canon {k s} (h : Canon s) : CanonNext (execWorkgroupRestore k s) := by
  refine onPart_canon h fun {s} h => ?_
  split
  · next e => exact ite_canon (firstRestored_canon h e) h
  · exact h

theorem execDieReservation_canon {node s} (h : Canon s) : CanonNext (execDieReservation node s) := by
  refine onPart_canon h fun h => ?_
  split
  · exact h
  · split
    · exact h
    · exact ite_canon (h.update rfl) h

theorem noteWaits_canon {s} (h : Canon s) : Canon (noteWaits s) := h.update rfl

theorem execCompaction_canon {core pipe allot s} (h : Canon s) : CanonNext (execCompaction core pipe allot s) := by
  refine onPart_canon h fun h => ?_
  split
  · exact h
  · exact ite_canon h (h.update rfl)

end Sys2Proof.Machine
end

section
/-! SUPPORT. The fetch, the matrix engine, the queue ports and nodes of several chips keep the form. -/

open Sys2Proof Sys2Proof.Machine

namespace Sys2Proof.Machine

/-! ### The fetch -/

theorem fetchWord_canon {s w va} (h : Canon s) : Canon (fetchWord s w va).1 := by
  refine ite_canon_fst h (ite_canon_fst h ?_)
  split
  · next e1 => exact (translate_canon h).of_eq e1
  · next e1 => exact (translate_canon h).of_eq e1
  · next e1 =>
    have h₁ := (translate_canon h).of_eq e1
    split
    · exact ite_canon_fst h₁ (l2Request_canon h₁)
    · split
      · exact h₁
      · exact h₁
    · exact h₁
    · exact h₁

theorem fetchScalar_canon {s w n sp mask} (h : Canon s) : Canon (fetchScalar s w n sp mask).1 := by
  dsimp only [fetchScalar]
  split
  · next e => exact (fetchWord_canon h).of_eq e
  · next e => exact (fetchWord_canon h).of_eq e
  · next e =>
    have hs := (fetchWord_canon h).of_eq e
    refine ite_canon_fst ?_ hs
    split
    · next e => exact (fetchWord_canon hs).of_eq e
    · next e => exact (fetchWord_canon hs).of_eq e
    · next e => exact (fetchWord_canon hs).of_eq e

theorem fetchLane_canon {s w g n sp mask} (h : Canon s) : Canon (fetchLane s w g n sp mask).1 := by
  dsimp only [fetchLane]
  split
  · next e =>
    have h₁ := (fetchWord_canon h).of_eq e
    split
    · next e =>
      have h₂ := (fetchWord_canon h₁).of_eq e
      split
      · next e =>
        have h₃ := (fetchWord_canon h₂).of_eq e
        refine ite_canon_fst h₃ ?_
        split
        · exact h₃
        · exact h₃
        · exact h₃
      · next e =>
        split
        · exact (fetchWord_canon h₂).of_eq e
        · exact (fetchWord_canon h₂).of_eq e
    · next e =>
      split
      · exact (fetchWord_canon h₁).of_eq e
      · exact (fetchWord_canon h₁).of_eq e
  · next e =>
    split
    · exact (fetchWord_canon h).of_eq e
    · exact (fetchWord_canon h).of_eq e

theorem fetchInstr_canon {s r g sp} (h : Canon s) : Canon (fetchInstr s r g sp).1 := by
  unfold fetchInstr
  split
  · exact h
  · refine ite_canon_fst (h.update rfl) ?_
    split
    · exact h
    · exact ite_canon_fst (fetchLane_canon h) (fetchScalar_canon h)

theorem faultFetch_canon {s r sp code skip va lanes} (h : Canon s) : Canon (faultFetch s r sp code skip va lanes) :=
  ite_canon (faultLane_canon h) (faultScalar_canon h)

theorem holdFetch_canon {s r g sp va} (h : Canon s) : Canon (holdFetch s r g sp va) := galleyAdd_canon (stallAt_canon h)

theorem faultWord_canon {s r sp code skip lanes} (h : Canon s) : Canon (faultWord s r sp code skip lanes) :=
  ite_canon (faultFetch_canon h) (stallAt_canon h)

theorem faultUnfetched_canon {s r sp code skip va lanes} (h : Canon s) : Canon (faultUnfetched s r sp code skip va lanes) := by
  refine ite_canon (faultFetch_canon h) ?_
  split
  · exact h
  · exact stallAt_canon h

theorem notFetched_canon {s r g sp f} (h : Canon s) : Canon (notFetched s r g sp f) := by
  unfold notFetched
  split
  · exact holdFetch_canon h
  · exact faultUnfetched_canon h
  · exact faultWord_canon h
  · exact h

/-! ### Faults of the hardware -/

theorem corruptFloat_canon {s t r g sp i} (ht : Canon t) : Canon (corruptFloat s t r g sp i) := by
  refine ite_canon ?_ ht
  split
  · extract_lets
    split
    · exact ht.update rfl
    · exact ht
  · exact ht

theorem upsetWord_canon {s r g sp i} (h : Canon s) : CanonSome (upsetWord s r g sp i) := by
  unfold upsetWord
  split
  · exact trivial
  · extract_lets
    split
    · exact retireLane_canon (defer_canon (h.update rfl))
    · exact ite_canonSome (setSplit_canon (defer_canon (h.update rfl))) trivial
    · exact trivial

theorem residueFault_canon {s r g sp i} (h : Canon s) : CanonSome (residueFault s r g sp i) := by
  refine ite_canonSome ?_ trivial
  split
  · exact ite_canonSome (faultLane_canon (h.update rfl)) trivial
  · exact trivial

/-! ### The matrix engine -/

theorem issueMatrix_canon {s r g sp kind ranges twinCore} (h : Canon s) : Canon (issueMatrix s r g sp kind ranges twinCore) := by
  refine ite_canon (stallAt_canon h) (ite_canon (stallAt_canon h) ?_)
  extract_lets id s₁ s₂
  have h₂ : Canon s₂ := modCore_canon (issueCommand_canon h)
  split
  · exact modCore_canon h₂
  · exact h₂

theorem issueMma_canon {s sa sb t pa pb acc sat gather pair} (h : Canon s) : CanonNext (issueMma s sa sb t pa pb acc sat gather pair) := by
  refine onSplit_canon ?_
  intro _ _ _
  split
  · exact h
  · refine ite_canon (faultScalar_canon h) ?_
    extract_lets
    split
    · exact faultScalar_canon h
    · exact stallAt_canon h
    · split
      · exact faultScalar_canon h
      · exact stallAt_canon h
      · split
        · exact faultScalar_canon h
        · exact issueMatrix_canon h

theorem execMzero_canon {count t s} (h : Canon s) : CanonNext (execMzero count t s) := by
  refine onSplit_canon ?_
  intro _ _ _
  split
  · exact h
  · exact ite_canon (faultScalar_canon h) (issueMatrix_canon h)

theorem execMload_canon {sd t tr s} (h : Canon s) : CanonNext (execMload sd t tr s) := by
  refine onSplit_canon ?_
  intro _ _ _
  split
  · exact h
  · split
    · exact faultScalar_canon h
    · exact stallAt_canon h
    · exact ite_canon (faultScalar_canon h) (issueMatrix_canon h)

theorem execMdrain_canon {sd t tr rnd sat s} (h : Canon s) : CanonNext (execMdrain sd t tr rnd sat s) := by
  refine onSplit_canon ?_
  intro _ _ _
  split
  · exact h
  · split
    · exact faultScalar_canon h
    · exact stallAt_canon h
    · exact ite_canon (faultScalar_canon h) (ite_canon (faultScalar_canon h) (ite_canon (faultScalar_canon h) (issueMatrix_canon h)))

theorem execMgidx_canon {va s} (h : Canon s) : CanonNext (execMgidx va s) :=
  onSplit_canon (ite_canon (faultScalar_canon h) (ite_canon (faultScalar_canon h)
    (ite_canon (faultScalar_canon h) (ite_canon (issueMatrix_canon h) (modGroup_canon (issueMatrix_canon h))))))

theorem foldl_scratch {β : Type} {l : List β} {f : Workgroup → β → Workgroup} (w : Workgroup)
    (hf : ∀ v b, (f v b).scratch = v.scratch) : (l.foldl f w).scratch = w.scratch := by
  induction l generalizing w with
  | nil => rfl
  | cons b l ih => exact (ih (f w b)).trans (hf w b)

theorem mmaTile_scratch (ma mb w table a b t pa pb acc sat gather first) :
    (mmaTile ma mb w table a b t pa pb acc sat gather first).scratch = w.scratch := foldl_scratch w fun _ _ => rfl

theorem loadTile_scratch (m w d t tr) : (loadTile m w d t tr).scratch = w.scratch := foldl_scratch w fun _ _ => rfl

theorem drainBytes_wf {nonce m l} (h : m.wf = true) : (drainBytes nonce m l).wf = true := by
  unfold drainBytes
  generalize hx : (m, ([] : List Nat)) = x
  replace h : x.1.wf = true := hx ▸ h
  clear hx
  induction l.zipIdx generalizing x with
  | nil => exact h
  | cons e l ih =>
    refine ih _ ?_
    dsimp only
    split
    · exact h
    · exact Memory.wf_write _ _ _ h

theorem matrixEffect_canon {s id c} (h : Canon s) : Canon (matrixEffect s id c) := by
  unfold matrixEffect
  split
  · exact h
  · next w e =>
    have hw := h.wg e
    split
    · extract_lets s'
      have hs : Canon s' := setWg_canon h ((mmaTile_scratch ..).symm ▸ hw)
      refine ite_canon ?_ hs
      split
      · refine { hs with wgs := ?_ }
        dsimp only
        exact hs.wgs.mod fun f hf => (mmaTile_scratch ..).symm ▸ hf
      · exact hs
    · exact setWg_canon h hw
    · exact setWg_canon h ((loadTile_scratch ..).symm ▸ hw)
    · exact setWg_canon h (drainBytes_wf hw)
    · exact modGroup_canon h
    · exact h

theorem execMatrixCommandPerform_canon {core mismatch s} (h : Canon s) : CanonNext (execMatrixCommandPerform core mismatch s) := by
  refine onPart_canon h fun h => ?_
  split
  · split
    · exact h
    · exact ite_canon h (ite_canon (stopCommand_canon (h.update rfl)) (finishCommand_canon (matrixEffect_canon h)))
  · exact h

/-! ### The queue ports and node completion -/

theorem dropFrame_canon {s} (h : Canon s) : Canon (dropFrame s) := h.update rfl

theorem acceptNotify_canon {s n} (h : Canon s) : Canon (acceptNotify s n) := by
  refine ite_canon h (ite_canon ?_ (h.update rfl))
  split
  · exact h.update rfl
  · exact h

theorem takeNotify_canon {s n} (h : Canon s) : Canon (takeNotify s n) := by
  refine ite_canon h ?_
  split
  · exact acceptNotify_canon h
  · exact ite_canon h (ite_canon (acceptNotify_canon h) (h.update rfl))

theorem execNotify_canon {s} (h : Canon s) : CanonNext (execNotify s) := by
  refine onPart_canon h fun h => ?_
  split
  · exact h
  · exact takeNotify_canon (h.update rfl)

theorem takeEntry_canon {s q} (h : Canon s) : Canon (takeEntry s q) := ite_canon (homeWrite_canon (h.update rfl)) (h.update rfl)

theorem malformed_canon {s q} (h : Canon s) : Canon (malformed s q) := takeEntry_canon (h.update rfl)

theorem portEntry_canon {s q kind act} (h : Canon s) (hact : ∀ {t d}, Canon t → Canon (act t d)) : Canon (portEntry s q kind act) := by
  refine ite_canon h ?_
  split
  · next e1 => exact malformed_canon ((hubDwords_canon h).of_eq e1)
  · next e1 =>
    have h₁ := (hubDwords_canon h).of_eq e1
    exact ite_canon (malformed_canon h₁) (ite_canon (hact h₁) h)

theorem enterNode_canon {s queue pos ctx d args held multi} (h : Canon s) : Canon (enterNode s queue pos ctx d args held multi) :=
  h.update rfl

theorem readDesc_canon {s ctx va} (h : Canon s) : Canon (readDesc s ctx va).1 := by
  unfold readDesc
  split
  · next e1 => exact (hubDwords_canon h).of_eq e1
  · next e1 => exact (hubDwords_canon h).of_eq e1

theorem launchEntry_canon {s ctx d} (h : Canon s) : Canon (launchEntry s ctx d).1 := by
  refine ite_canon_fst h ?_
  split
  · next e1 => exact (readDesc_canon h).of_eq e1
  · next e1 => exact (readDesc_canon h).of_eq e1

theorem execLaunchEntry_canon {q s} (h : Canon s) : CanonNext (execLaunchEntry q s) := by
  refine onPart_canon h (fun h => portEntry_canon h ?_)
  intro _ _ h
  extract_lets
  split
  · next e1 => exact malformed_canon ((launchEntry_canon h).of_eq e1)
  · next e1 => exact takeEntry_canon (enterNode_canon ((launchEntry_canon h).of_eq e1))

theorem checkWait_canon {s q va value} (h : Canon s) : Canon (checkWait s q va value) := by
  unfold checkWait
  split
  · next e1 => exact malformed_canon ((hubRead_canon h).of_eq e1)
  · next e1 =>
    have h₁ := (hubRead_canon h).of_eq e1
    exact ite_canon (takeEntry_canon h₁) (setQueue_canon h₁)

theorem execWaitEntrySatisfied_canon {q s} (h : Canon s) : CanonNext (execWaitEntrySatisfied q s) := by
  refine onPart_canon h fun h => ?_
  split
  · exact h
  · exact ite_canon (checkWait_canon h) h

theorem decrement_canon {s q pos t} (h : Canon s) : Canon (decrement s q pos t) := by
  unfold decrement
  split
  · exact h.update rfl
  · exact ite_canon (h.update rfl) h

theorem finishNode_canon {s node n t} (h : Canon s) : Canon (finishNode s node n t) :=
  ite_canon (h.update rfl) (foldl_canon (h.update rfl) (fun h => decrement_canon h))

theorem completeNode_canon {s node n} (h : Canon s) : Canon (completeNode s node n) := by
  unfold completeNode
  extract_lets s₁ va
  have h₁ : Canon s₁ := h.update rfl
  refine ite_canon (finishNode_canon h₁) ?_
  split
  · next e => exact failNode_canon ((ite_canon_fst (translate_canon h₁) h₁).of_eq e)
  · next e =>
    have hs := (ite_canon_fst (translate_canon h₁) h₁).of_eq e
    split
    · exact ite_canon (failNode_canon hs) (finishNode_canon (homeWrite_canon hs))
    · split
      · exact failNode_canon hs
      · exact sendRemote_canon hs
    · exact failNode_canon hs
    · exact failNode_canon hs

theorem execNodeCompletion_canon {node s} (h : Canon s) : CanonNext (execNodeCompletion node s) := by
  refine onPart_canon h fun h => ?_
  split
  · exact h
  · exact ite_canon (ite_canon (h.update rfl) h) (ite_canon (completeNode_canon h) h)

/-! ### Nodes of several chips -/

theorem takeLaunch_canon {s gen ctx q desc args raw root} (h : Canon s) : Canon (takeLaunch s gen ctx q desc args raw root) := by
  refine ite_canon h ?_
  split
  · exact h
  · exact ite_canon (h.update rfl) h

theorem sendParts_canon {s n v m} (h : Canon s) : Canon (sendParts s n v m) := by
  unfold sendParts
  split
  · exact foldl_canon h (fun h => h.update rfl)
  · exact h

theorem execMultiLaunch_canon {m s} (h : Canon s) : CanonNext (execMultiLaunch m s) := by
  refine onPart_canon h fun h => ?_
  split
  · split
    · exact h
    · split
      · exact ite_canon (sendParts_canon (h.update rfl)) h
      · exact h
  · exact takeLaunch_canon h
  · exact h
  · exact h

theorem execMultiAccept_canon {m s} (h : Canon s) : CanonNext (execMultiAccept m s) := by
  refine onPart_canon h fun h => ?_
  split
  · split
    · split
      · exact h.update rfl
      · exact h
    · exact h
  · split
    · exact h.update rfl
    · exact h
  · exact h
  · exact h

theorem execMultiStart_canon {m s} (h : Canon s) : CanonNext (execMultiStart m s) := by
  refine onPart_canon h fun h => ?_
  extract_lets
  split
  · split
    · split
      · exact ite_canon (sendParts_canon (h.update rfl)) h
      · exact h
    · exact h
  · split
    · exact h.update rfl
    · exact h
  · exact h
  · exact h

theorem execMultiDone_canon {m s} (h : Canon s) : CanonNext (execMultiDone m s) := by
  refine onPart_canon h fun h => ?_
  split
  · split
    · split
      · exact ite_canon (h.update rfl) h
      · exact h
    · exact h
  · split
    · extract_lets
      split
      · exact ite_canon (completeNode_canon (h.update rfl)) (h.update rfl)
      · exact h.update rfl
    · exact h
  · exact h
  · exact h

theorem abortNode_canon {s node code} (h : Canon s) : Canon (abortNode s node code) := failNode_canon (h.update rfl)

theorem execMultiAbort_canon {m s} (h : Canon s) : CanonNext (execMultiAbort m s) := by
  refine onPart_canon h fun h => ?_
  split
  · split
    · split
      · exact ite_canon (sendParts_canon (h.update rfl)) (h.update rfl)
      · exact h
    · exact h
  · extract_lets
    split
    · exact abortNode_canon h
    · exact abortNode_canon h
    · exact h
  · exact h
  · exact h

theorem execAcceptTimeout_canon {node s} (h : Canon s) : CanonNext (execAcceptTimeout node s) := by
  refine onPart_canon h fun h => ?_
  split
  · exact h
  · split
    · split
      · exact ite_canon (abortNode_canon h) h
      · exact h
    · exact h

theorem execLinkFailure_canon {domain rank s} (h : Canon s) : CanonNext (execLinkFailure domain rank s) := by
  refine onPart_canon h fun h => ?_
  split
  · exact h
  · exact ite_canon (foldl_canon h (fun h => abortNode_canon h)) h

end Sys2Proof.Machine
end

section
/-! SUPPORT. The links, Oluvos, power and the resident cluster keep the form. -/

open Sys2Proof Sys2Proof.Machine

namespace Sys2Proof.Machine

/-! ### Peers: requests, arrivals and runs -/

theorem readLines_canon {key n s pa k} (h : Canon s) : Canon (readLines key n s pa k).1 := by
  induction n generalizing s pa k with
  | zero => exact h
  | succ n ih => exact ite_canon_fst h (ih (homeRead_canon h))

theorem writeLines_canon {key n s pa bytes} (h : Canon s) : Canon (writeLines key n s pa bytes) := by
  induction n generalizing s pa bytes with
  | zero => exact h
  | succ n ih => exact ite_canon h (ih (homeWriteQuiet_canon h))

theorem respond_canon {s rank error data} (h : Canon s) : Canon (respond s rank error data) := h.update rfl

theorem performRequest_canon {s w r} (h : Canon s) : Canon (performRequest s w r) := by
  unfold performRequest
  with_reducible refine ite_canon (h.update rfl) ?_
  split
  · with_reducible exact respond_canon (readLines_canon h)
  · exact respond_canon (writeLines_canon h)
  · exact respond_canon (writeLines_canon h)
  · exact respond_canon (writeLines_canon h)

theorem noteArrival_canon {s w r} (h : Canon s) : Canon (noteArrival s w r) := ite_canon (h.update rfl) h

theorem takePeerFrame_canon {s rank f} (h : Canon s) : Canon (takePeerFrame s rank f) := ite_canon (h.update rfl) (h.update rfl)

theorem slotArrived_canon {s rank} (h : Canon s) : Canon (slotArrived s rank) := by
  unfold slotArrived
  with_reducible exact ite_canon (ite_canon (h.update rfl) (ite_canon (takePeerFrame_canon (readLines_canon (h.update rfl))) h)) h

theorem noteService_canon {s r} (h : Canon s) : Canon (noteService s r) := by
  unfold noteService
  split
  · exact ite_canon (slotArrived_canon (h.update rfl)) h
  · exact h
  · exact h
  · exact h

theorem execPeerRequest_canon {r s} (h : Canon s) : CanonNext (execPeerRequest r s) := by
  refine onPart_canon h (fun h => ite_canon (h.update rfl) ?_)
  split
  · exact h.update rfl
  · exact ite_canon (performRequest_canon h) (noteService_canon (noteArrival_canon (performRequest_canon h)))

theorem modTrigger_canon {s k f} (h : Canon s) : Canon (State.modTrigger s k f) := h.update rfl

theorem stopRun_canon {s k code} (h : Canon s) : Canon (stopRun s k code) := by
  unfold stopRun
  split
  · exact h
  · exact post_canon (h.update rfl)

theorem hubRegion_canon {s ctx va u} (h : Canon s) : Canon (hubRegion s ctx va u).1 := by
  refine ite_canon_fst h ?_
  split
  · next e1 => exact (translate_canon h).of_eq e1
  · next e1 => exact (translate_canon h).of_eq e1

theorem sendRun_canon {s k t rank window offset size moved gen op tag} (h : Canon s) :
    Canon (sendRun s k t rank window offset size moved gen op tag) := h.update rfl

theorem runPut_canon {s k t src dst len tag} (h : Canon s) : Canon (runPut s k t src dst len tag).1 := by
  refine ite_canon_fst h (ite_canon_fst h ?_)
  split
  · next e1 => exact (hubRead_canon h).of_eq e1
  · next e1 =>
    have h₁ := (hubRead_canon h).of_eq e1
    split
    · next e2 => exact (hubRegion_canon h₁).of_eq e2
    · next e2 =>
      have h₂ := (hubRegion_canon h₁).of_eq e2
      split
      · exact sendRun_canon h₂
      · exact h₂
    · next e2 => exact (hubRegion_canon h₁).of_eq e2

theorem runSignal_canon {s k t set va v tag} (h : Canon s) : Canon (runSignal s k t set va v tag).1 := by
  refine ite_canon_fst h (ite_canon_fst h ?_)
  split
  · next e1 => exact (hubRegion_canon h).of_eq e1
  · next e1 =>
    have h₁ := (hubRegion_canon h).of_eq e1
    split
    · exact sendRun_canon h₁
    · exact h₁
  · next e1 =>
    have h₁ := (hubRegion_canon h).of_eq e1
    exact ite_canon_fst h₁ (homeWrite_canon h₁)
  · next e1 => exact (hubRegion_canon h).of_eq e1

theorem runLaunch_canon {s t va q} (h : Canon s) : Canon (runLaunch s t va q).1 := by
  refine ite_canon_fst h (ite_canon_fst h ?_)
  split
  · next e1 => exact (hubDwords_canon h).of_eq e1
  · next e1 =>
    have h₁ := (hubDwords_canon h).of_eq e1
    refine ite_canon_fst (charge_canon h₁) ?_
    split
    · next e2 => exact charge_canon ((launchEntry_canon h₁).of_eq e2)
    · next e2 =>
      have h₂ := (launchEntry_canon h₁).of_eq e2
      exact ite_canon_fst (charge_canon h₂) (enterNode_canon h₂)

theorem runBytes_canon {s ctx va} (h : Canon s) : Canon (runBytes s ctx va).1 := by
  refine foldl_canon_fst h fun h => ?_
  split
  · exact h
  · split
    · next e2 => exact (hubRead_canon h).of_eq e2
    · next e2 => exact (hubRead_canon h).of_eq e2

theorem runEntry_canon {s k t i} (h : Canon s) : Canon (runEntry s k t i).1 := by
  unfold runEntry
  split
  · next e1 => exact (runBytes_canon h).of_eq e1
  · next e1 =>
    have h₁ := (runBytes_canon h).of_eq e1
    extract_lets
    split
    · exact ite_canon_fst (runPut_canon h₁) h₁
    · exact ite_canon_fst (runSignal_canon h₁) h₁
    · exact ite_canon_fst (runLaunch_canon h₁) h₁
    · exact h₁

/-- One piece of a list. `runEntry` is generalized first: unfolding it to compare the two sides would cost too much. -/
theorem runList_succ {k n s} : runList k (n + 1) s =
    match tget s.triggers k with
    | none => s
    | some t =>
      match t.run with
      | none => s
      | some i =>
        if t.n ≤ i then s.modTrigger k (fun t => { t with run := none })
        else
          match runEntry s k t i with
          | (s, .more) => runList k n s
          | (_, .wait) => s
          | (s, .stop code) => stopRun s k code
          | (s, .done) => runList k n (s.modTrigger k (fun t => { t with run := some (i + 1), progress := 0, awaiting := [] })) := by
  delta runList runList._f
  generalize runEntry = f
  rfl

theorem runList_canon {k n s} (h : Canon s) : Canon (runList k n s) := by
  induction n generalizing s with
  | zero => exact h
  | succ n ih =>
    rw [runList_succ]
    split
    · exact h
    · split
      · exact h
      · next t _ _ i _ =>
        refine ite_canon (modTrigger_canon h) ?_
        have he : Canon (runEntry s k t i).1 := runEntry_canon h
        generalize runEntry s k t i = p at he ⊢
        obtain ⟨s', r⟩ := p
        cases r with
        | more => exact ih he
        | wait => exact h
        | stop code => exact stopRun_canon he
        | done => exact ih (modTrigger_canon he)

theorem sendPut_canon {s rank window gen x} (h : Canon s) : Canon (sendPut s rank window gen x) := by
  unfold sendPut
  split
  · exact h
  · exact h.update rfl

/-! ### Core-local memory (R407) -/

@[simp] theorem CmdCore.put_mem (c : CmdCore) (n : Fin 32) (v : DWord) : (c.put n v).mem = c.mem := by
  unfold CmdCore.put
  split
  · rfl
  · rfl

@[simp] theorem CmdCore.trap_mem (c : CmdCore) (cause : Nat) : (c.trap cause).mem = c.mem := rfl

theorem Canon.cmdCore {s k} (h : Canon s) : (s.cmdCore k).mem.wf = true := by
  unfold State.cmdCore
  cases e : tget s.commandCores k with
  | none => rfl
  | some c => exact h.cores.get e

/-! ### Answers and errors that come back -/

theorem peerAnswers_canon {s k data} (h : Canon s) : Canon (peerAnswers s k data) := by
  unfold peerAnswers
  split
  · exact h
  · next m _ =>
    extract_lets s'
    have hs : Canon s' := h.update rfl
    split
    · exact modResult_canon hs
    · exact modResult_canon hs
    · exact hs
    · exact hs
    · exact commandAnswered_canon hs
    · exact sendPut_canon hs
    · exact hs
    · split
      · exact finishNode_canon hs
      · exact hs
    · exact { hs with cores := hs.cores.put (by simpa using hs.cmdCore) }
    · exact ite_canon (hs.update rfl) hs
    · exact modTrigger_canon hs

theorem execWindowErrorResponse_canon {k code s} (h : Canon s) : CanonNext (execWindowErrorResponse k code s) := by
  refine onPart_canon h fun {s} h => ?_
  split
  · exact h
  · next m _ =>
    extract_lets s' w revoked
    have hs : Canon s' := h.update rfl
    split
    · exact modResult_canon (defer_canon hs)
    · exact modResult_canon (defer_canon hs)
    · exact defer_canon hs
    · exact defer_canon hs
    · exact failCommand_canon hs
    · exact hs.update rfl
    · exact hs
    · exact hs
    · exact failNode_canon hs
    · exact { hs with cores := hs.cores.put (by simpa using hs.cmdCore) }
    · split
      · exact ite_canon (stopRun_canon hs) hs
      · exact hs

/-! ### Oluvos -/

theorem replyHost_canon {s f st payload} (h : Canon s) : Canon (replyHost s f st payload) := by
  unfold replyHost
  split
  · exact h
  · exact h.update rfl

theorem putReply_canon {s rank f b} (h : Canon s) : Canon (putReply s rank f b) := ite_canon (h.update rfl) (sendPut_canon h)

theorem replyPeer_canon {s rank f st payload} (h : Canon s) : Canon (replyPeer s rank f st payload) := putReply_canon (h.update rfl)

theorem replyMail_canon {s slot st payload} (h : Canon s) : Canon (replyMail s slot st payload) :=
  { h with mailbox := Memory.wf_writeBytes _ _ _ (Memory.wf_writeBytes _ _ _ h.mailbox) }

/-- What a service does keeps the canonical form. -/
def Body.Keeps (body : Body) : Prop := ∀ s, Canon s → Canon (body s).1

theorem answer_canon {s allowed body reply} (h : Canon s) (hb : Body.Keeps body)
    (hr : ∀ {s st p}, Canon s → Canon (reply s st p)) : Canon (answer s allowed body reply) :=
  ite_canon (hr (hb s h)) (hr h)

theorem takeFrame_canon {s slot f} (h : Canon s) : Canon (takeFrame s slot f) := by
  refine ite_canon (h.update rfl) ?_
  split
  · exact h
  · exact ite_canon (h.update rfl) h
  · exact h.update rfl
  · exact h.update rfl

theorem takeSlot_canon {s slot} (h : Canon s) : Canon (takeSlot s slot) := by
  unfold takeSlot
  split
  · exact ite_canon (takeFrame_canon (h.update rfl)) h
  · exact h

theorem apertureByte_canon {s off b} (h : Canon s) : Canon (apertureByte s off b) :=
  ite_canon h (ite_canon (ite_canon (h.update rfl) (takeSlot_canon (h.update rfl))) h)

theorem apertureWrite_canon {off l s} (h : Canon s) : Canon (apertureWrite off l s) := by
  induction l generalizing off s with
  | nil => exact h
  | cons b l ih => exact ih (ite_canon (apertureByte_canon h) h)

theorem fetched_canon {s f} (h : Canon s) : Canon (fetched s f) := by
  unfold fetched
  extract_lets
  split
  · exact takeSlot_canon (h.update rfl)
  · exact h.update rfl

theorem fetchedPeer_canon {s rank f} (h : Canon s) : Canon (fetchedPeer s rank f) := h.update rfl

theorem serveHost_canon {s f allowed body} (h : Canon s) (hb : Body.Keeps body) : Canon (serveHost s f allowed body) := by
  unfold serveHost
  extract_lets s'
  have hs : Canon s' := fetched_canon h
  split
  · exact hs
  · refine ite_canon (answer_canon (hs.update rfl) hb fun h => replyHost_canon h) (ite_canon ?_ (dropFrame_canon hs))
    split
    · exact hs.update rfl
    · exact hs

theorem servePeer_canon {s rank f allowed body} (h : Canon s) (hb : Body.Keeps body) : Canon (servePeer s rank f allowed body) := by
  unfold servePeer
  extract_lets s'
  have hs : Canon s' := fetchedPeer_canon h
  split
  · exact dropFrame_canon hs
  · refine ite_canon (answer_canon (hs.update rfl) hb fun h => replyPeer_canon h) (ite_canon ?_ (dropFrame_canon hs))
    split
    · exact putReply_canon hs
    · exact hs

theorem serveMail_canon {s slot allowed body} (h : Canon s) (hb : Body.Keeps body) : Canon (serveMail s slot allowed body) :=
  ite_canon (replyMail_canon h) (answer_canon h hb fun h => replyMail_canon h)

theorem serve_canon {s src svc c body} (h : Canon s) (hb : Body.Keeps body) : Canon (serve s src svc c body) := by
  refine ite_canon ?_ h
  split
  · exact ite_canon (serveMail_canon h hb) h
  · exact ite_canon (serveHost_canon h hb) h
  · exact ite_canon (servePeer_canon h hb) h

theorem serveUnknown_canon {s src} (h : Canon s) : CanonSome (serveUnknown s src) := by
  refine ite_canonSome ?_ trivial
  split
  · exact ite_canonSome (serveMail_canon h fun _ h => h) trivial
  · exact ite_canonSome (serveHost_canon h fun _ h => h) trivial
  · exact trivial

theorem settleAsked_canon {n s} (h : Canon s) : Canon (settleAsked n s) := by
  induction n generalizing s with
  | zero => exact h
  | succ n ih =>
    unfold settleAsked
    split
    · next e => exact ih ((findSome_canonSome (serveUnknown_canon h)).of_eq e)
    · exact h

theorem hostHello_canon {s f window} (h : Canon s) : Canon (hostHello s f window) :=
  ite_canon (replyHost_canon ((fetched_canon h).update rfl)) (replyHost_canon ((fetched_canon h).update rfl))

theorem peerHello_canon {s rank f} (h : Canon s) : Canon (peerHello s rank f) := replyPeer_canon (h.update rfl)

theorem hostDenied_canon {s f window} (h : Canon s) : Canon (hostDenied s f window) := (fetched_canon h).update rfl

theorem peerDenied_canon {s rank f} (h : Canon s) : Canon (peerDenied s rank f) := putReply_canon (h.update rfl)

theorem servePeerHello_canon {s rank f} (h : Canon s) : Canon (servePeerHello s rank f) :=
  ite_canon (peerHello_canon h) (peerDenied_canon h)

theorem execHello_canon {src window s} (h : Canon s) : CanonNext (execHello src window s) := by
  refine onPart_canon h fun {s} h => ?_
  split
  · exact serve_canon h fun _ h => h
  · exact ite_canon h (ite_canon (dropFrame_canon (fetched_canon h)) (ite_canon (hostHello_canon h) (hostDenied_canon h)))
  · exact ite_canon (servePeerHello_canon h) h

theorem startRequest_canon {s slot} (h : Canon s) : Canon (startRequest s slot) := by
  refine ite_canon h ?_
  split
  · exact h.update rfl
  · exact h

theorem resetContext_canon {s ctx slot} (h : Canon s) : Canon (resetContext s ctx slot) := by
  unfold resetContext
  extract_lets s'
  have hs : Canon s' := foldl_canon (startRequest_canon h) fun h => failNode_canon h
  exact ite_canon (replyMail_canon (setContext_canon hs)) hs

theorem execResetContext_canon {src ctx s} (h : Canon s) : CanonNext (execResetContext src ctx s) := by
  refine onPart_canon h fun {s} h => ?_
  split
  · exact ite_canon (resetContext_canon h) (serve_canon h fun _ h => h)
  · exact serve_canon h fun _ h => h
  · exact serve_canon h fun _ h => h

theorem openWindow_keeps {a} : Body.Keeps (openWindow a) := by
  intro s h
  refine ite_canon_fst h ?_
  split
  · exact h
  · exact h.update rfl

theorem revokeWindow_keeps {w} : Body.Keeps (revokeWindow w) := fun _ h => ite_canon_fst h (h.update rfl)

theorem loadKey_keeps {slot key} : Body.Keeps (loadKey slot key) := fun _ h => ite_canon_fst h (h.update rfl)

theorem eraseKey_keeps {slot} : Body.Keeps (eraseKey slot) := fun _ h => ite_canon_fst h (h.update rfl)

theorem registerDomain_keeps {a} : Body.Keeps (registerDomain a) := fun _ h => ite_canon_fst h (h.update rfl)

theorem armTrigger_keeps {a} : Body.Keeps (armTrigger a) := by
  intro s h
  unfold armTrigger
  extract_lets w
  split
  · exact h
  · split
    · exact h
    · exact h.update rfl

theorem disarmTrigger_keeps {k} : Body.Keeps (disarmTrigger k) := fun _ h => ite_canon_fst h (modTrigger_canon h)

theorem spdmServe_canon {s who request} (h : Canon s) : Canon (spdmServe s who request).1 := by
  unfold spdmServe
  extract_lets
  split
  · exact h
  · refine ite_canon_fst h (ite_canon_fst h (ite_canon_fst h ?_))
    split
    · exact h
    · exact h.update rfl

theorem spdmBody_keeps {who request} : Body.Keeps (spdmBody who request) := fun _ h => spdmServe_canon h

theorem execSpdm_canon {src request s} (h : Canon s) : CanonNext (execSpdm src request s) := by
  refine onPart_canon h fun {s} h => ?_
  split
  · exact serve_canon h spdmBody_keeps
  · exact ite_canon (serve_canon h spdmBody_keeps) h
  · exact ite_canon (serve_canon h spdmBody_keeps) h

theorem setRing_keeps {base size} : Body.Keeps (setRing base size) := fun _ h => ite_canon_fst (h.update rfl) h

theorem forward_canon {s f} (h : Canon s) : Canon (forward s f) := by
  unfold forward
  extract_lets
  split
  · exact replyHost_canon (fetched_canon h)
  · split
    · exact replyHost_canon (fetched_canon h)
    · exact writeLines_canon ((fetched_canon h).update rfl)

theorem execForwardedService_canon {src s} (h : Canon s) : CanonNext (execForwardedService src s) := by
  refine onPart_canon h fun {s} h => ?_
  split
  · refine ite_canon h ?_
    split
    · exact h
    · exact ite_canon (forward_canon (h.update rfl)) (serveHost_canon h fun _ h => h)
  · exact ite_canon (replyMail_canon h) h
  · exact ite_canon (servePeer_canon h fun _ h => h) h

theorem replyForwarded_canon {s k x status payload} (h : Canon s) : Canon (replyForwarded s k x status payload) := by
  refine ite_canon ?_ (h.update rfl)
  split
  · exact h.update rfl
  · exact h.update rfl

theorem execForwardedReply_canon {k status payload s} (h : Canon s) : CanonNext (execForwardedReply k status payload s) := by
  unfold execForwardedReply
  with_reducible refine onPart_canon h fun h => ?_
  split
  · exact h
  · with_reducible exact ite_canon (replyForwarded_canon (readLines_canon h)) h

theorem serveWindow_canon {s rank f} (h : Canon s) : Canon (serveWindow s rank f) := by
  unfold serveWindow
  split
  · exact servePeerHello_canon h
  · exact servePeer_canon h fun _ h => h
  · exact servePeer_canon h spdmBody_keeps
  · exact servePeer_canon h fun _ h => h

theorem configWrite_canon {s offset v} (h : Canon s) : Canon (configWrite s offset v) := by
  have hp : ∀ {p}, Canon { s with hostPort := p } := h.update rfl
  unfold configWrite
  extract_lets
  split
  · exact hp
  · exact hp
  · exact hp
  · exact h

theorem configRead_canon {s offset} (h : Canon s) : Canon (configRead s offset) := h.update rfl

theorem hostWrite_canon {s addr bytes} (h : Canon s) : Canon (hostWrite s addr bytes) := by
  unfold hostWrite
  split
  · exact apertureWrite_canon h
  · exact h

theorem hostRead_canon {s addr n} (h : Canon s) : Canon (hostRead s addr n) := by
  unfold hostRead
  split
  · exact h.update rfl
  · exact h

/-! ### Boot, recovery and reliability -/

/-- No memory is retained across a reset (R24). -/
theorem resetPart_canon {s} : Canon (resetPart s) := reset_canon.update rfl

theorem reset_with_mem {m : Memory} (h : m.wf = true) : ({ CmdCore.reset with mem := m } : CmdCore).mem.wf = true := h

theorem started_mem_wf {image} : (CmdCore.started image).mem.wf = true :=
  reset_with_mem (Memory.wf_writeBytes _ [] 0 rfl)

theorem bootPart_canon {s} (h : Canon s) : Canon (bootPart s) := by
  unfold bootPart
  extract_lets m1 m2 m3 s'
  have hs : Canon s' := h.update rfl
  refine ite_canon { hs with cores := ?_ } (hs.update rfl)
  intro e he
  obtain ⟨k, _, rfl⟩ := List.mem_map.1 he
  exact started_mem_wf

theorem foldl_tput_cores {l : List Nat} {c : CmdCore} (hc : c.mem.wf = true) {t : Table CmdCore}
    (ht : TableAll (fun c => c.mem.wf = true) t) : TableAll (fun c => c.mem.wf = true) (l.foldl (fun t k => tput t (4 + k) c) t) := by
  induction l generalizing t with
  | nil => exact ht
  | cons k l ih => exact ih (ht.put hc)

theorem putCores_canon {s c} {l : List Nat} (hc : c.mem.wf = true) (h : Canon s) :
    Canon { s with commandCores := l.foldl (fun t k => tput t (4 + k) c) s.commandCores } :=
  { h with cores := foldl_tput_cores hc h.cores }

theorem reset_at_mem_wf (pc : DWord) : ({ CmdCore.reset with pc := pc } : CmdCore).mem.wf = true := rfl

theorem startResident_canon {s image} (h : Canon s) : Canon (startResident s image) :=
  putCores_canon (reset_at_mem_wf _) (writeLines_canon h)

theorem loadResident_keeps {image} : Body.Keeps (loadResident image) := fun _ h =>
  ite_canon_fst h (ite_canon_fst h (ite_canon_fst (startResident_canon (h.update rfl)) (h.update rfl)))

theorem recoverChunk_canon {s f last} (h : Canon s) : Canon (recoverChunk s f last) :=
  ite_canon (replyHost_canon (h.update rfl)) (ite_canon (h.update rfl) (replyHost_canon (h.update rfl)))

theorem flashWritten_canon {s} (h : Canon s) : Canon (flashWritten s) := by
  unfold flashWritten
  split
  · exact resetPart_canon
  · exact h

theorem execRecoverImage_canon {f last s} (h : Canon s) : CanonNext (execRecoverImage f last s) := by
  refine onPart_canon h fun {s} h => ite_canon h ?_
  split
  · exact dropFrame_canon (fetched_canon h)
  · refine ite_canon ?_ (serveHost_canon h fun _ h => h)
    have hs : ∀ {x}, Canon { fetched s f with session := x } := (fetched_canon h).update rfl
    exact ite_canon (recoverChunk_canon hs) (replyHost_canon hs)

theorem setCap_keeps {watts} : Body.Keeps (setCap watts) := fun _ h => ite_canon_fst h (h.update rfl)

theorem retryServices_canon {s pair} (h : Canon s) : Canon (retryServices s pair) := foldl_canon h (fun h => replyMail_canon h)

theorem execLockstepError_canon {pair s} (h : Canon s) : CanonNext (execLockstepError pair s) := by
  refine onPart_canon h fun {s} h => ite_canon (retryServices_canon { h with cores := ?_ }) h
  dsimp only
  split
  · exact h.cores.put started_mem_wf
  · exact h.cores.del pair

theorem nearError_canon {s} (h : Canon s) : Canon (nearError s) := h.update rfl

theorem linkRetry_canon {s} (h : Canon s) : Canon (linkRetry s) := h.update rfl

theorem upsetCommand_canon {s k} (h : Canon s) : Canon (upsetCommand s k) := ite_canon (failCommand_canon h) h

theorem formPoison_canon {s pa} (h : Canon s) : Canon (formPoison s pa) := ite_canon h (h.update rfl)

/-! ### The control region and the resident cluster -/

theorem nextOr_canon {s o} (h : Canon s) (ho : CanonNext o) : Canon (nextOr s o) := by
  unfold nextOr
  split
  · exact ho
  · exact h
  · exact h

theorem writeContext_canon {s c dword v low} (h : Canon s) : Canon (writeContext s c dword v low) := by
  unfold writeContext
  extract_lets
  split
  · exact h.update rfl
  · exact ite_canon (nextOr_canon (h.update rfl) (execContextValidWrite_canon (h.update rfl))) (h.update rfl)
  · exact h

theorem writeQueue_canon {s q dword v} (h : Canon s) : Canon (writeQueue s q dword v) :=
  ite_canon (h.update rfl) (ite_canon (h.update rfl) (h.update rfl))

theorem invalidationPort_canon {s v} (h : Canon s) : Canon (invalidationPort s v) := by
  refine ite_canon h (nextOr_canon h ?_)
  split
  · exact execInvalidatePage_canon h
  · exact execInvalidateContext_canon h
  · exact execInvalidateNonglobal_canon h
  · exact execInvalidateAll_canon h

theorem resumePort_canon {s v} (h : Canon s) : Canon (resumePort s v) :=
  ite_canon h (nextOr_canon h (ite_canonNext (execReplay_canon h) (execFail_canon h)))

theorem replyPort_canon {s v} (h : Canon s) : Canon (replyPort s v) := ite_canon h (nextOr_canon h (execReplyPortWrite_canon h))

theorem actionPort_canon {s v} (h : Canon s) : Canon (actionPort s v) := by
  refine ite_canon h (nextOr_canon h ?_)
  split
  · exact execResume_canon h
  · exact execRetry_canon h
  · exact execEndGroup_canon h
  · exact execEndNode_canon h

theorem preemptionPort_canon {s v} (h : Canon s) : Canon (preemptionPort s v) := by
  refine ite_canon h ?_
  split
  · exact nextOr_canon h (execPreemptContext_canon h)
  · exact nextOr_canon h (execPreemptWorkgroup_canon h)
  · exact nextOr_canon h (execReleaseHeld_canon h)
  · exact h

theorem ringDoorbell_canon {s v} (h : Canon s) : Canon (ringDoorbell s v) := ite_canon h (h.update rfl)

theorem placeWrite_canon {s p v low whole} (h : Canon s) : Canon (placeWrite s p v low whole) := by
  unfold placeWrite
  split
  · exact writeContext_canon h
  · exact ite_canon (invalidationPort_canon h) h
  · exact nextOr_canon h (onPart_canon h fun h => h.update rfl)
  · exact writeQueue_canon h
  · split
    · exact nextOr_canon h (onPart_canon h fun h => ite_canon (h.update rfl) h)
    · exact setSluice_canon h
    · exact h
  · exact h.update rfl
  · exact ite_canon (resumePort_canon h) h
  · exact ite_canon (replyPort_canon h) h
  · exact ite_canon (actionPort_canon h) h
  · exact ite_canon (preemptionPort_canon h) h
  · exact ite_canon (h.update rfl) h
  · exact { h with keyMap := Memory.wf_writeBytes _ _ _ h.keyMap }
  · exact { h with mailbox := Memory.wf_writeBytes _ _ _ h.mailbox }
  · exact ite_canon (ringDoorbell_canon h) h
  all_goals exact h

theorem holdCopy_canon {s hart line key} (h : Canon s) : Canon (holdCopy s hart line key) := h.update rfl

theorem residentRead_canon {s hart pa size} (h : Canon s) : Canon (residentRead s hart pa size).1 := by
  unfold residentRead
  extract_lets key
  split
  · next y _ => exact raiseLt_canon (core := none) (t := y.wts) h
  · split
    next e => exact holdCopy_canon ((homeRead_canon h).of_eq e)

theorem resCopies_canon {s l} (h : Canon s) : Canon { s with resCopies := l } := h.update rfl

theorem residentWrite_canon {s hart pa bytes} (h : Canon s) : Canon (residentWrite s hart pa bytes) := by
  unfold residentWrite
  extract_lets key held s₁ s₂
  have h₁ : Canon s₁ := homeWrite_canon h
  have h₂ : Canon s₂ := holdCopy_canon h₁
  exact ite_canon (resCopies_canon h₂) h₁

theorem residentSend_canon {s a rank window offset} (h : Canon s) : Canon (residentSend s a rank window offset) := by
  unfold residentSend
  split
  · exact h
  · exact h.update rfl

theorem residentStore_canon {s a v} (h : Canon s) : Canon (residentStore s a v) := by
  unfold residentStore
  split
  · exact residentWrite_canon h
  · exact placeWrite_canon h
  · exact residentSend_canon h
  · exact h

theorem residentReturns_canon {s v} (h : Canon s) : Canon (residentReturns s v) := h.update rfl

theorem sluiceAcquire_canon {s p} (h : Canon s) : Canon (sluiceAcquire s p) := by
  unfold sluiceAcquire
  split
  · split
    · exact raiseLt_canon h
    · exact h
  · exact ite_canon h (raiseLt_canon h)
  · exact h

theorem residentLoad_canon {s a} (h : Canon s) : Canon (residentLoad s a) := by
  unfold residentLoad
  split
  · exact ite_canon h (residentReturns_canon (residentRead_canon h))
  · exact residentReturns_canon (sluiceAcquire_canon h)
  · exact residentSend_canon h
  · exact h

theorem residentAccess_canon {s a} (h : Canon s) : Canon (residentAccess s a) := by
  refine ite_canon ?_ h
  extract_lets s'
  have hs : Canon s' := h.update rfl
  split
  · exact residentStore_canon hs
  · exact ite_canon (nextOr_canon hs (execInvalidationPortLoad_canon hs)) (residentLoad_canon hs)

/-! ### Scalar forms -/

theorem scalarW_canon {s sd v} (h : Canon s) : CanonNext (scalarW s sd v) := onSplit_canon (setSplit_canon h)

theorem scalarD_canon {s pd v} (h : Canon s) : CanonNext (scalarD s pd v) := onSplit_canon (setSplit_canon h)

theorem aluW_canon {f sd sa sb s} (h : Canon s) : CanonNext (aluW f sd sa sb s) := scalarW_canon h

theorem aluD_canon {f pd pa pb s} (h : Canon s) : CanonNext (aluD f pd pa pb s) := scalarD_canon h

theorem unaryW_canon {f sd sa s} (h : Canon s) : CanonNext (unaryW f sd sa s) := scalarW_canon h

theorem unaryD_canon {f pd pa s} (h : Canon s) : CanonNext (unaryD f pd pa s) := scalarD_canon h

end Sys2Proof.Machine
end

section
/-! SUPPORT. Command cores, the dispatch, the schedule and the step keep the form; O58. -/

open Sys2Proof Sys2Proof.Machine

namespace Sys2Proof.Machine

/-! ### Scalar loads, stores and atomics -/

theorem scalarMem_canon {s m acc dest} (h : Canon s) : CanonNext (scalarMem s m acc dest) := by
  refine onSplit_canon fun {r g sp} => ?_
  dsimp only
  split
  · exact faultScalar_canon h
  · split
    · exact stallAt_canon h
    · exact performAll_canon ((setSplit_canon h).update rfl)

theorem scalarLoad_canon {s n e base si m dest} (h : Canon s) : CanonNext (scalarLoad s n e base si m dest) := scalarMem_canon h

theorem scalarStore_canon {s n base si m data} (h : Canon s) : CanonNext (scalarStore s n base si m data) := scalarMem_canon h

theorem scalarAtomic_canon {s op n base index m data compare dest} (h : Canon s) :
    CanonNext (scalarAtomic s op n base index m data compare dest) := scalarMem_canon h

/-! ### Command cores and harts -/

theorem setCmd_canon {s c} (h : Canon s) (hc : c.mem.wf = true) : Canon (setCmd s c) := { h with cores := h.cores.put hc }

theorem CmdCore.put_wf {c : CmdCore} (hc : c.mem.wf = true) {rd : Fin 32} {v : DWord} : (c.put rd v).mem.wf = true := by
  rw [CmdCore.put_mem]
  exact hc

theorem CmdCore.done_wf {c : CmdCore} (hc : c.mem.wf = true) {rd : Fin 32} {v : DWord} : (c.done rd v).mem.wf = true := c.put_wf hc

@[simp] theorem csrWrite_mem {s c n v} : (csrWrite s c n v).mem = c.mem := by
  unfold csrWrite
  split
  all_goals rfl

theorem onCmd_canon {s fault act} (h : Canon s) (hact : ∀ {s c}, Canon s → c.mem.wf = true → Canon (act s c)) :
    CanonNext (onCmd s fault act) := by
  refine onPart_canon h fun {s} h => ?_
  have hc : (s.cmdCore s.curCmd).mem.wf = true := h.cmdCore
  refine ite_canon (setCmd_canon h hc) ?_
  split
  · exact setCmd_canon h hc
  · exact hact h hc

theorem execCxRfetch_canon {rd rs1 rs2 s} (h : Canon s) : CanonNext (execCxRfetch rd rs1 rs2 s) := by
  refine onCmd_canon h fun {s c} h hc => ?_
  dsimp only
  split
  · exact setCmd_canon h (CmdCore.done_wf hc)
  · exact setCmd_canon (takeSlot_canon (h.update rfl)) (CmdCore.done_wf (Memory.wf_writeBytes _ _ _ hc))

theorem execCxSwait_canon {rd rs1 rs2 s} (h : Canon s) : CanonNext (execCxSwait rd rs1 rs2 s) := by
  unfold execCxSwait
  with_reducible exact onCmd_canon h fun h hc => ite_canon (setCmd_canon (homeRead_canon h) (CmdCore.done_wf hc)) (homeRead_canon h)

theorem dispatchEntry_canon {s ctx d} (h : Canon s) : Canon (dispatchEntry s ctx d).1 := by
  refine ite_canon_fst h ?_
  split
  · exact h.update rfl
  · refine ite_canon_fst (h.update rfl) ?_
    split
    · next e2 => exact charge_canon ((launchEntry_canon h).of_eq e2)
    · next e2 => exact enterNode_canon ((launchEntry_canon h).of_eq e2)

theorem entryAt_canon {s pa} (h : Canon s) : Canon (entryAt s pa).1 := by
  unfold entryAt
  with_reducible exact ite_canon_fst (homeRead_canon h) h

/-! ### The dispatch -/

theorem exec_canon {i s} (h : Canon s) : CanonNext (exec i s) := by
  unfold exec
  cases i with
  | sadd | ssub | sand | sor | sxor | sandn | ssll | ssrl | ssra | smul | smulh | smulhu | sdiv | sdivu | srem | sremu | smin
    | smax | sminu | smaxu => exact aluW_canon h
  | sclz | spop | sbrev | sctz | saddi | sandi | sori | sxori | sslli | ssrli | ssrai => exact unaryW_canon h
  | saddD | ssubD | sandD | sorD | sxorD | sandnD | ssllD | ssrlD | ssraD | smulD | smulhD | smulhuD | sdivD | sdivuD | sremD
    | sremuD | sminD | smaxD | sminuD | smaxuD => exact aluD_canon h
  | sclzD | spopD | sbrevD | sctzD | saddiD => exact unaryD_canon h
  | scc | sccD => exact scalarW_canon h
  | spark | sexit | sjoin | supwait | strap => exact onSplit_canon (parkScalar_canon h)
  | sret | scalli | sgetsr | swid | sexecSet | sexecAnd | sexecAndn | sgetc | sxgetF32 | sxgetI32 | slrep | sli | scall =>
    exact onSplit_canon (setSplit_canon h)
  | ssetsr => exact execSsetsr_canon h
  | ssetc => exact onSplit_canon (h.update rfl)
  | sgetr => exact execSgetr_canon h
  | sbar => exact onSplit_canon (ite_canon (stallAt_canon h) (parkScalar_canon h))
  | sbinit | sbfree => exact objectOp_canon h fun hw => setWg_canon (setSplit_canon h) (putObject_scratch_wf hw)
  | sbarrive => exact execSbarrive_canon h
  | sbwait => exact objectOp_canon h fun _ => parkScalar_canon h
  | sfence => exact execSfence_canon h
  | gfenceRt => exact execGfenceRt_canon h
  | stick => exact execStick_canon h
  | sbeq | sbne | sblt | sbge | sbltu | sbgeu | sbr => exact shortBranch_canon h
  | sbmz | sbmnz | sbmall | sbmnall => exact onMask_canon h (shortBranch_canon h)
  | slissue => exact execSlissue_canon h
  | sbrLong | sbeqLong | sbneLong | sbltLong | sbgeLong | sbltuLong | sbgeuLong => exact longBranch_canon h
  | sbmzLong | sbmnzLong | sbmallLong | sbmnallLong => exact onMask_canon h (longBranch_canon h)
  | sbrv => exact execSbrv_canon h
  | supcall => exact upcall_canon h (post_canon (h.update rfl))
  | supcallWait => exact upcall_canon h (parkScalar_canon (post_canon h))
  | sldW | sldD | sldB | sldBu | sldH | sldHu => exact scalarLoad_canon h
  | sstW | sstD | sstB | sstH => exact scalarStore_canon h
  | satomAddW | satomAndW | satomOrW | satomXorW | satomMinW | satomMaxW | satomMinuW | satomMaxuW | satomXchgW | satomCasW
    | satomFaddW | satomAddD | satomAndD | satomOrD | satomXorD | satomMinD | satomMaxD | satomMinuD | satomMaxuD
    | satomXchgD | satomCasD | satomFaddD => exact scalarAtomic_canon h
  | sgetlImm | sgetlReg => exact getLane_canon h
  | scallx | scallxRet => exact threadCall_canon h
  | mma | mmaPair => exact issueMma_canon h
  | mzero => exact execMzero_canon h
  | mload => exact execMload_canon h
  | mdrain => exact execMdrain_canon h
  | mgidx => exact execMgidx_canon h
  | xcopy | xput | xget => exact onSplit_canon (ite_canon (faultScalar_canon h) (issueMove_canon h))
  | xdecomp => exact execXdecomp_canon h
  | xseal => exact onSplit_canon (ite_canon (stallAt_canon h) (h.update rfl))
  | xwait => exact execXwait_canon h
  | xsig => exact onSplit_canon (ite_canon (faultScalar_canon h) (ite_canon (faultScalar_canon h) (h.update rfl)))
  | gemit => exact execGemit_canon h
  | vadd | vsub | vmul | vmin | vmax => exact runLane_canon poly2_keeps h
  | vmad => exact runLane_canon specVmad_keeps h
  | vabs | vneg => exact runLane_canon poly1_keeps h
  | vcmp => exact runLane_canon specVcmp_keeps h
  | vsel => exact runLane_canon specVsel_keeps h
  | vscan => exact runLane_canon specVscan_keeps h
  | vand | vor | vxor => exact runLane_canon bit2_keeps h
  | vnot => exact runLane_canon specVnot_keeps h
  | vshl | vshr | vsra => exact runLane_canon shiftSpec_keeps h
  | vmulhi => exact runLane_canon specVmulhi_keeps h
  | vclz | vpopc | vbrev => exact runLane_canon countSpec_keeps h
  | vbfe | vbfi => exact runLane_canon fieldWord_keeps h
  | vdiv => exact runLane_canon floatSpec_keeps h
  | vsqrt | vround | vfract | vclass => exact runLane_canon float1_keeps h
  | vrcp | vrsq | vexp2 | vlog2 | vsin | vcos => exact runLane_canon transSpec_keeps h
  | vdot2 => exact runLane_canon specVdot2_keeps h
  | vldexp => exact runLane_canon specVldexp_keeps h
  | vcvt => exact runLane_canon specVcvt_keeps h
  | vtag => exact runLane_canon specVtag_keeps h
  | vgettag => exact runLane_canon specVgettag_keeps h
  | vmov => exact runLane_canon specVmov_keeps h
  | vli => exact runLane_canon specVli_keeps h
  | vlane => exact runLane_canon specVlane_keeps h
  | vmovc => exact runLane_canon specVmovc_keeps h
  | vxch | vperm | vrot | vbcast | vqswap => exact runLane_canon crossSpec_keeps h
  | vred => exact runLane_canon specVred_keeps h
  | vballot => exact runLane_canon specVballot_keeps h
  | vcand | vcor | vcxor | vcnot | vcmov => exact runLane_canon condSpec_keeps h
  | vxadd => exact runLane_canon specVxadd_keeps h
  | vxget => exact runLane_canon specVxget_keeps h
  | vxclr => exact runLane_canon specVxclr_keeps h
  | vld | vlds => exact runLane_canon loadSpec_keeps h
  | vst | vsts => exact runLane_canon storeSpec_keeps h
  | vatom | vatomn => exact runLane_canon atomSpec_keeps h
  | vtex => exact runGfx_canon specVtex_keeps h
  | vtexld => exact runGfx_canon specVtexld_keeps h
  | vhgrid => exact runGfx_canon specVhgrid_keeps h
  | vhgsc => exact runGfx_canon specVhgsc_keeps h
  | vtrace => exact runGfx_canon specVtrace_keeps h
  | vmbox => exact runGfx_canon specVmbox_keeps h
  | vrtw => exact runGfx_canon specVrtw_keeps h
  | vvis => exact runLane_canon specVvis_keeps h
  | vordb => exact runGfx_canon specVordb_keeps h
  | vorde => exact runGfx_canon specVorde_keeps h
  | cxRfetch => exact execCxRfetch_canon h
  | cxBfext => exact onCmd_canon h fun h hc => setCmd_canon h (CmdCore.done_wf hc)
  | cxSwait => exact execCxSwait_canon h
  | cxDisp => exact onCmd_canon h fun h hc => setCmd_canon (dispatchEntry_canon (entryAt_canon h)) (CmdCore.done_wf hc)
  | cxGuilt => exact onCmd_canon h fun h hc => setCmd_canon (chargeBy_canon h) (CmdCore.done_wf hc)
  | variableLatencyResult => exact execVariableLatencyResult_canon h
  | parkPointRelease => exact onPart_canon h fun h => parkStep_canon h
  | forcedPark => exact onPart_canon h fun h => forcePark_canon h
  | splitMerge => exact execSplitMerge_canon h
  | joinDeadlockRelease => exact execJoinDeadlockRelease_canon h
  | composeRelease => exact execComposeRelease_canon h
  | starvationPrecedence => exact execStarvationPrecedence_canon h
  | barrierComplete => exact execBarrierComplete_canon h
  | clockPointChange | ltTick | hubLtTick | granuleToL1 | sluiceHeadWrite | triggerArrival | thermalThrottleRelease =>
    exact onPart_canon h (fun h => ite_canon (h.update rfl) h)
  | floorSweep => exact onPart_canon h (fun h => ite_canon (floorSweep_canon h) h)
  | atomicLeaseExpiry => exact execAtomicLeaseExpiry_canon h
  | weirFarExpiry | l2OverdueSweep | retentionRangeWrite | batchRetire | thermalThrottle | floatPathFault =>
    exact onPart_canon h fun h => h.update rfl
  | auditFail => exact execAuditFail_canon h
  | granuleToScratch => exact onPart_canon h (fun h => ite_canon (ite_canon (h.update rfl) h) (ite_canon (h.update rfl) (h.update rfl)))
  | invalidatePage => exact execInvalidatePage_canon h
  | invalidateContext => exact execInvalidateContext_canon h
  | invalidateNonglobal => exact execInvalidateNonglobal_canon h
  | invalidateAll => exact execInvalidateAll_canon h
  | invalidationPortLoad => exact execInvalidationPortLoad_canon h
  | contextValidWrite => exact execContextValidWrite_canon h
  | registerWrite => exact onPart_canon h (fun h => ite_canon (placeWrite_canon h) h)
  | queueEnable => exact onPart_canon h (fun h => ite_canon h (h.update rfl))
  | notify => exact execNotify_canon h
  | noopEntry => exact onPart_canon h (fun h => portEntry_canon h (fun h => ite_canon (takeEntry_canon h) (malformed_canon h)))
  | launchEntry => exact execLaunchEntry_canon h
  | waitEntry => exact onPart_canon h (fun h => portEntry_canon h (fun h => ite_canon (checkWait_canon h) (malformed_canon h)))
  | waitEntrySatisfied => exact execWaitEntrySatisfied_canon h
  | workgroupPlacement => exact execWorkgroupPlacement_canon h
  | compaction => exact execCompaction_canon h
  | dieReservation => exact execDieReservation_canon h
  | nodeCompletion => exact execNodeCompletion_canon h
  | nodeFail => exact onPart_canon h fun h => failNode_canon h
  | multiLaunch => exact execMultiLaunch_canon h
  | multiAccept => exact execMultiAccept_canon h
  | multiStart => exact execMultiStart_canon h
  | multiDone => exact execMultiDone_canon h
  | multiAbort => exact execMultiAbort_canon h
  | acceptTimeout => exact execAcceptTimeout_canon h
  | linkFailure => exact execLinkFailure_canon h
  | resume => exact execResume_canon h
  | retry => exact execRetry_canon h
  | endGroup => exact execEndGroup_canon h
  | endNode => exact execEndNode_canon h
  | replay => exact execReplay_canon h
  | fail => exact execFail_canon h
  | messagePost => exact execMessagePost_canon h
  | replyPortWrite => exact execReplyPortWrite_canon h
  | preemptContext => exact execPreemptContext_canon h
  | preemptWorkgroup => exact execPreemptWorkgroup_canon h
  | releaseHeld => exact execReleaseHeld_canon h
  | workgroupSave => exact execWorkgroupSave_canon h
  | workgroupRestore => exact execWorkgroupRestore_canon h
  | orderedTimeout => exact execOrderedTimeout_canon h
  | copyCommandPerform => exact onPart_canon h fun h => performCopy_canon h
  | matrixCommandPerform => exact execMatrixCommandPerform_canon h
  | rasteriserStart => exact execRasteriserStart_canon h
  | rtWriteApply => exact execRtWriteApply_canon h
  | tileWriteBack => exact execTileWriteBack_canon h
  | rayRecordArrival => exact execRayRecordArrival_canon h
  | peerRequest => exact execPeerRequest_canon h
  | windowErrorResponse => exact execWindowErrorResponse_canon h
  | triggerRun => exact onPart_canon h (fun h => runList_canon (h.update rfl))
  | hello => exact execHello_canon h
  | resetContext => exact execResetContext_canon h
  | openWindow => exact onPart_canon h fun h => serve_canon h openWindow_keeps
  | revokeWindow => exact onPart_canon h fun h => serve_canon h revokeWindow_keeps
  | queryRas => exact onPart_canon h fun h => serve_canon h fun _ h => h
  | setPowerCap => exact onPart_canon h fun h => serve_canon h setCap_keeps
  | powerCapAdjust => exact onPart_canon h (fun h => ite_canon (h.update rfl) (ite_canon (h.update rfl) h))
  | thermalShutdown | monitorReset => exact onPart_canon h fun {t} _ => (resetPart_canon (s := t)).update rfl
  | loadResidentImage => exact onPart_canon h fun h => serve_canon h loadResident_keeps
  | loadKey => exact onPart_canon h fun h => serve_canon h loadKey_keeps
  | eraseKey => exact onPart_canon h fun h => serve_canon h eraseKey_keeps
  | registerDomain => exact onPart_canon h fun h => serve_canon h registerDomain_keeps
  | armTrigger => exact onPart_canon h fun h => serve_canon h armTrigger_keeps
  | disarmTrigger => exact onPart_canon h fun h => serve_canon h disarmTrigger_keeps
  | spdm => exact execSpdm_canon h
  | setRpcRing => exact onPart_canon h fun h => serve_canon h setRing_keeps
  | forwardedService => exact execForwardedService_canon h
  | serviceWindowFrame => exact onPart_canon h (fun h => ite_canon (serveWindow_canon h) h)
  | recoverImage => exact execRecoverImage_canon h
  | hostLinkReset => exact bump_canon (resetPart_canon (s := s))
  | boot => exact onPart_canon h (fun h => ite_canon (bootPart_canon h) h)
  | lockstepError => exact execLockstepError_canon h
  | illegalOpcode => exact onSplit_canon (faultWord_canon h)
  | storeAcknowledgement => exact execStoreAcknowledgement_canon h
  | forwardedReply => exact execForwardedReply_canon h

/-! ### The base instruction set of a command core -/

theorem cmdBytes_canon {s now a n} (h : Canon s) : Canon (cmdBytes s now a n).1 := by
  unfold cmdBytes
  split
  · exact residentRead_canon h
  · exact homeRead_canon h

theorem cmdPlace_canon {s p off n} (h : Canon s) : Canon (cmdPlace s p off n).1 := by
  unfold cmdPlace
  extract_lets
  split
  · exact h
  · exact ite_canon_fst (ite_canon_fst (h.update rfl) h) (sluiceAcquire_canon h)

theorem cmdRead_canon {s c now a n} (h : Canon s) : Canon (cmdRead s c now a n).1 := by
  refine ite_canon_fst h ?_
  split
  · exact ite_canon_fst h (cmdBytes_canon h)
  · exact cmdPlace_canon h
  · exact h
  · exact h

theorem oluvosWrite_canon {s p v low whole} (h : Canon s) : Canon (oluvosWrite s p v low whole) := by
  unfold oluvosWrite
  split
  · exact h.update rfl
  · exact placeWrite_canon h

theorem cmdSend_canon {s rank window offset n op p} (h : Canon s) : CanonSome (cmdSend s rank window offset n op p) := by
  unfold cmdSend
  cases importGen s rank window with
  | none => trivial
  | some gen => exact Canon.update h rfl

theorem cmdStore_canon {s a n v} (h : Canon s) : Canon (cmdStore s a n v) := by
  unfold cmdStore
  split
  · exact homeWriteQuiet_canon h
  · exact residentWrite_canon h

theorem cmdPut_canon {s p v low whole} (h : Canon s) : Canon (cmdPut s p v low whole) := by
  unfold cmdPut
  split
  · exact oluvosWrite_canon h
  · exact placeWrite_canon (h.update rfl)

theorem cmdWrite_canon {s c a n v t d} (h : Canon s) (hc : c.mem.wf = true) (e : cmdWrite s c a n v = some (t, d)) :
    Canon t ∧ d.mem.wf = true := by
  unfold cmdWrite at e
  split at e
  · cases e
    exact ⟨h, Memory.wf_writeBytes _ _ _ hc⟩
  · split at e
    · cases e
      exact ⟨cmdStore_canon h, hc⟩
    · cases e
      exact ⟨cmdPut_canon h, hc⟩
    · obtain ⟨u, hu, e⟩ := Option.map_eq_some_iff.1 e
      cases e
      exact ⟨(cmdSend_canon h).of_eq hu, hc⟩
    · cases e

theorem rvLoad_canon {s c len size signed rd a} (h : Canon s) (hc : c.mem.wf = true) : Canon (rvLoad s c len size signed rd a) := by
  refine ite_canon (setCmd_canon h hc) ?_
  have hr := cmdRead_canon (c := c) (now := false) (a := a.toNat) (n := size) h
  split
  · next e => exact setCmd_canon (hr.of_eq e) (CmdCore.put_wf hc)
  · next e => exact hr.of_eq e
  · next e => exact setCmd_canon (hr.of_eq e) hc
  · next e =>
    split
    · next e2 => exact setCmd_canon ((cmdSend_canon (hr.of_eq e)).of_eq e2) hc
    · exact setCmd_canon (hr.of_eq e) hc

theorem rvStore_canon {s c len size a v} (h : Canon s) (hc : c.mem.wf = true) : Canon (rvStore s c len size a v) := by
  refine ite_canon (setCmd_canon h hc) ?_
  split
  · next e =>
    obtain ⟨ht, hd⟩ := cmdWrite_canon h hc e
    exact setCmd_canon ht hd
  · exact setCmd_canon h hc

theorem rvAmo_canon {s c len op size rd a x} (h : Canon s) (hc : c.mem.wf = true) : Canon (rvAmo s c len op size rd a x) := by
  refine ite_canon (setCmd_canon h hc) (ite_canon (setCmd_canon h hc) ?_)
  have hr := cmdRead_canon (c := c) (now := true) (a := a.toNat) (n := size) h
  split
  · next e =>
    split
    · next e2 =>
      obtain ⟨ht, hd⟩ := cmdWrite_canon (hr.of_eq e) hc e2
      exact setCmd_canon ht (CmdCore.put_wf hd)
    · exact setCmd_canon (hr.of_eq e) hc
  · next e => exact setCmd_canon (hr.of_eq e) hc

theorem rvLr_canon {s c len size rd a} (h : Canon s) (hc : c.mem.wf = true) : Canon (rvLr s c len size rd a) := by
  refine ite_canon (setCmd_canon h hc) (ite_canon (setCmd_canon h hc) ?_)
  have hr := cmdRead_canon (c := c) (now := true) (a := a.toNat) (n := size) h
  split
  · next e => exact setCmd_canon (hr.of_eq e) (CmdCore.put_wf hc)
  · next e => exact setCmd_canon (hr.of_eq e) hc

theorem rvSc_canon {s c len size rd a v} (h : Canon s) (hc : c.mem.wf = true) : Canon (rvSc s c len size rd a v) := by
  refine ite_canon (setCmd_canon h hc) (ite_canon (setCmd_canon h hc) (ite_canon ?_ (setCmd_canon h (CmdCore.put_wf hc))))
  split
  · next e =>
    obtain ⟨ht, hd⟩ := cmdWrite_canon h hc e
    exact setCmd_canon ht (CmdCore.put_wf hd)
  · exact setCmd_canon h hc

theorem rvCsr_canon {s c len op imm rd src n} (h : Canon s) (hc : c.mem.wf = true) : Canon (rvCsr s c len op imm rd src n) := by
  have hite : ∀ {p : Prop} [Decidable p] {v}, (if p then csrWrite s c n v else c).mem.wf = true := by
    intro p _ v
    split
    · rw [csrWrite_mem]
      exact hc
    · exact hc
  unfold rvCsr
  extract_lets writes
  split
  · exact setCmd_canon h hc
  · exact ite_canon (setCmd_canon h hc) (setCmd_canon h (CmdCore.put_wf hite))

theorem rvRun_canon {s c len i} (h : Canon s) (hc : c.mem.wf = true) : Canon (rvRun s c len i) := by
  have hput : ∀ {rd v}, (c.put rd v).mem.wf = true := CmdCore.put_wf hc
  have hite : ∀ {p : Prop} [Decidable p] {d e : CmdCore}, d.mem.wf = true → e.mem.wf = true → (if p then d else e).mem.wf = true := by
    intro p _ d e hd he
    split
    · exact hd
    · exact he
  cases i with
  | constant | jal | jalr | aluImm | alu => exact setCmd_canon h hput
  | branch | mret | wfi => exact setCmd_canon h (hite hc hc)
  | fence | ecall | ebreak => exact setCmd_canon h hc
  | load => exact rvLoad_canon h hc
  | store => exact rvStore_canon h hc
  | csr => exact rvCsr_canon h hc
  | lr => exact rvLr_canon h hc
  | sc => exact rvSc_canon h hc
  | amo => exact rvAmo_canon h hc

theorem rvStep_canon {s c w} (h : Canon s) (hc : c.mem.wf = true) : Canon (rvStep s c w) := by
  unfold rvStep
  split
  · exact rvRun_canon h hc
  · exact setCmd_canon h hc

theorem hartHalf_canon {s k a} (h : Canon s) : Canon (hartHalf s k a).1 := ite_canon_fst (residentRead_canon h) h

theorem fetchHart_canon {s k c} (h : Canon s) : Canon (fetchHart s k c).1 := by
  unfold fetchHart
  split
  · next e1 => exact (hartHalf_canon h).of_eq e1
  · next e1 =>
    have h₁ := (hartHalf_canon h).of_eq e1
    refine ite_canon_fst h₁ ?_
    split
    · next e2 => exact (hartHalf_canon h₁).of_eq e2
    · next e2 => exact (hartHalf_canon h₁).of_eq e2

theorem hartTurn_canon {s k} (h : Canon s) : Canon (hartTurn s k) := by
  unfold hartTurn
  extract_lets s' c
  have hs : Canon s' := h.update rfl
  have hc : c.mem.wf = true := hs.cmdCore (k := 4 + k)
  refine ite_canon hs (ite_canon (setCmd_canon hs hc) ?_)
  have hf := fetchHart_canon (k := k) (c := c) hs
  split
  · next e => exact setCmd_canon (hf.of_eq e) hc
  · next e =>
    split
    · exact rvRun_canon (hf.of_eq e) hc
    · exact hf.of_eq e

theorem hartSet_canon {s k c} (h : Canon s) : Canon (hartSet s k c) := ite_canon { h with cores := h.cores.put rfl } h

/-! ### Issue and the moves of the schedule -/

theorem noteIssue_canon {s r} (h : Canon s) : Canon (noteIssue s r) := h.update rfl

theorem faulty_canon {s t r g sp i} (h : Canon s) (ht : Canon t) : Canon (faulty s t r g sp i) := by
  unfold faulty
  split
  · next e1 => exact bump_canon ((residueFault_canon h).of_eq e1)
  · split
    · next e2 => exact bump_canon ((upsetWord_canon h).of_eq e2)
    · exact corruptFloat_canon ht

theorem runInstr_canon {s r g sp i} (h : Canon s) : CanonNext (runInstr s r g sp i) := by
  have he := exec_canon (i := i) h
  unfold runInstr
  split
  · next t e => exact ite_canonNext (faulty_canon h (he.of_eq e)) (he.of_eq e)
  · exact he

theorem issueAt_canon {s r} (h : Canon s) : CanonNext (issueAt s r) := by
  unfold issueAt
  split
  · exact h.update rfl
  · split
    · exact h.update rfl
    · split
      · next e3 => exact runInstr_canon (noteIssue_canon (((fetchInstr_canon h).of_eq e3).update rfl))
      · next e3 => exact bump_canon (notFetched_canon ((fetchInstr_canon h).of_eq e3))

theorem pipeTurn_canon {s core pipe} (h : Canon s) : CanonNext (pipeTurn s core pipe) := by
  unfold pipeTurn
  split
  · exact h.update rfl
  · split
    · exact ite_canonNext (bump_canon (forcePark_canon h)) (issueAt_canon h)
    · exact h.update rfl

theorem commandTurn_canon {s k} (h : Canon s) : CanonNext (commandTurn s k) := by
  unfold commandTurn
  extract_lets c s'
  have hs : Canon s' := h.update rfl
  have hc : c.mem.wf = true := h.cmdCore
  refine ite_canonNext (bump_canon hs) (ite_canonNext (bump_canon (setCmd_canon hs hc)) ?_)
  split
  · exact bump_canon (setCmd_canon hs hc)
  · split
    · exact exec_canon hs
    · exact bump_canon (rvStep_canon hs hc)

theorem interrupt_canon {s k b} (h : Canon s) :
    Canon { s with commandCores := tput s.commandCores k { s.cmdCore k with pendingIrq := b } } :=
  { h with cores := h.cores.put h.cmdCore }

theorem runMove_canon {s m} (h : Canon s) : CanonNext (runMove s m) := by
  cases m with
  | pipe => exact ite_canonNext (pipeTurn_canon h) (bump_canon h)
  | event => exact ite_canonNext (exec_canon h) (bump_canon h)
  | command => exact commandTurn_canon h
  | resident => exact bump_canon (ite_canon (residentAccess_canon h) h)
  | reply => exact bump_canon (peerAnswers_canon h)
  | hostWrite => exact bump_canon (hostWrite_canon h)
  | hostRead => exact bump_canon (hostRead_canon h)
  | configWrite => exact bump_canon (configWrite_canon h)
  | configRead => exact bump_canon (configRead_canon h)
  | flashed => exact bump_canon (flashWritten_canon h)
  | poison => exact bump_canon (formPoison_canon h)
  | upsetCommand => exact bump_canon (upsetCommand_canon h)
  | nearError => exact bump_canon (nearError_canon h)
  | linkRetry => exact bump_canon (linkRetry_canon h)
  | upset | floatOnset | residue => exact Canon.update h rfl
  | interrupt => exact bump_canon (ite_canon (interrupt_canon h) h)
  | hart => exact bump_canon (hartTurn_canon h)
  | hartSet => exact bump_canon (hartSet_canon h)

/-! ### With no schedule -/

/-- A step that keeps the canonical form of the memories. -/
def Own.Keeps (f : Own) : Prop := ∀ s, Canon s → CanonNext (f s)

theorem firstEffect_canon {s l} (h : Canon s) (hl : ∀ f ∈ l, Own.Keeps f) : CanonSome (firstEffect s l) := by
  induction l with
  | nil => trivial
  | cons f l ih =>
    obtain ⟨hf, hl⟩ := List.forall_mem_cons.1 hl
    unfold firstEffect
    split
    · next t e => exact ite_canonSome (ih hl) ((hf s h).of_eq e)
    · exact ih hl

/-- A list of steps that all keep the canonical form. -/
def KeepAll (l : List Own) : Prop := ∀ f ∈ l, Own.Keeps f

section
variable {α : Type} {l k : List Own}

theorem KeepAll.nil : KeepAll [] := fun _ h => absurd h List.not_mem_nil

theorem KeepAll.cons {f : Own} (hf : Own.Keeps f) (h : KeepAll l) : KeepAll (f :: l) := List.forall_mem_cons.2 ⟨hf, h⟩

theorem KeepAll.append (h : KeepAll l) (h' : KeepAll k) : KeepAll (l ++ k) := List.forall_mem_append.2 ⟨h, h'⟩

theorem KeepAll.map {f : α → Own} (hf : ∀ {a}, Own.Keeps (f a)) (l : List α) : KeepAll (l.map f) := by
  intro g hg
  obtain ⟨a, _, rfl⟩ := List.mem_map.1 hg
  exact hf

theorem KeepAll.flatMap {f : α → List Own} (hf : ∀ {a}, KeepAll (f a)) (l : List α) : KeepAll (l.flatMap f) := by
  intro g hg
  obtain ⟨a, _, hg⟩ := List.mem_flatMap.1 hg
  exact hf g hg

theorem KeepAll.filterMap {f : α → Option Own} (hf : ∀ {a g}, f a = some g → Own.Keeps g) (l : List α) :
    KeepAll (l.filterMap f) := by
  intro g hg
  obtain ⟨a, _, e⟩ := List.mem_filterMap.1 hg
  exact hf e

theorem KeepAll.turned {n : Nat} (h : KeepAll l) : KeepAll (turned n l) :=
  .append (fun f hf => h f (List.mem_of_mem_drop hf)) (fun f hf => h f (List.mem_of_mem_take hf))

end

/-- A step taken where a condition holds. -/
theorem Own.Keeps.of_ite {f g : Own} {c : Prop} [Decidable c] (hf : Own.Keeps f) (e : (if c then some f else none) = some g) :
    Own.Keeps g := by
  split at e
  · exact Option.some.inj e ▸ hf
  · cases e

theorem exec_keeps (i : Instr) : Own.Keeps (exec i) := fun _ h => exec_canon h

theorem groupEvents_keep {s} : KeepAll (groupEvents s) :=
  .flatMap (.append (.append (.append
    (.flatMap (.append (.map (exec_keeps (.variableLatencyResult _ _)) _)
      (.cons (exec_keeps (.parkPointRelease _)) (.cons (exec_keeps (.forcedPark _)) .nil))) _)
    (.map (exec_keeps (.splitMerge _ _)) _))
    (.map (exec_keeps (.rayRecordArrival _ _)) _))
    (.cons (exec_keeps (.batchRetire _)) (.cons (exec_keeps (.joinDeadlockRelease _)) .nil))) _

theorem unitEvents_keep {s} : KeepAll (unitEvents s) := by
  unfold unitEvents
  refine .append (.append (.append (.append (.append (.append (.append (.append (.append
    (.map ?_ _) (.map ?_ _)) (.map ?_ _)) (.map ?_ _)) (.map ?_ _)) (.map ?_ _)) (.map ?_ _)) (.map ?_ _)) (.map ?_ _))
    (.cons ?_ (.cons ?_ .nil))
  · exact exec_keeps (.storeAcknowledgement _ _)
  · exact exec_keeps (.copyCommandPerform _)
  · exact exec_keeps (.matrixCommandPerform _ _)
  · exact exec_keeps (.rtWriteApply _)
  · exact exec_keeps (.tileWriteBack _)
  · exact exec_keeps (.messagePost _)
  · exact exec_keeps (.triggerArrival _ _)
  · exact exec_keeps (.triggerRun _)
  · exact exec_keeps (.ltTick _)
  · exact exec_keeps .hubLtTick
  · exact exec_keeps .floorSweep

theorem poolEvents_keep {s} : KeepAll (poolEvents s) := by
  unfold poolEvents
  refine .append (.append (.append (.append (.append (.append (.append (.append (.append
    (.cons ?_ .nil) (.flatMap (.cons ?_ (.cons ?_ (.cons ?_ .nil))) _)) (.flatMap (.cons ?_ (.cons ?_ .nil)) _))
    (.flatMap (.cons ?_ (.cons ?_ (.cons ?_ (.cons ?_ (.cons ?_ .nil))))) _)) (.map ?_ _)) (.flatMap (.cons ?_ (.cons ?_ .nil)) _))
    (.map ?_ _)) (.flatMap (.cons ?_ (.cons ?_ .nil)) _)) (.cons ?_ .nil)) (.flatMap (.flatMap (.map ?_ _) _) _)
  · exact exec_keeps .notify
  · exact exec_keeps (.noopEntry _)
  · exact exec_keeps (.launchEntry _)
  · exact exec_keeps (.waitEntry _)
  · exact exec_keeps (.rasteriserStart _)
  · exact exec_keeps (.nodeCompletion _)
  · exact exec_keeps (.multiLaunch (.send _))
  · exact exec_keeps (.multiAccept (.send _))
  · exact exec_keeps (.multiStart (.send _))
  · exact exec_keeps (.multiDone (.send _))
  · exact exec_keeps (.multiAbort (.send _))
  · exact exec_keeps (.composeRelease _ _)
  · exact exec_keeps (.barrierComplete _)
  · exact exec_keeps (.workgroupSave _)
  · exact exec_keeps (.workgroupRestore _)
  · exact exec_keeps (.granuleToScratch _)
  · exact exec_keeps (.granuleToL1 _)
  · exact exec_keeps .workgroupPlacement
  · exact exec_keeps (.compaction _ _ _)

theorem timeEvents_keep {s} : KeepAll (timeEvents s) := by
  unfold timeEvents
  refine .append (.append (.append (.append
    (.filterMap (fun e => Own.Keeps.of_ite ?_ e) _) (.map ?_ _)) (.flatMap (.cons ?_ (.cons ?_ .nil)) _))
    (.flatMap (.append (.map ?_ _) (.map ?_ _)) _)) (.map ?_ _)
  · exact exec_keeps (.orderedTimeout _)
  · exact exec_keeps (.atomicLeaseExpiry _)
  · exact exec_keeps (.dieReservation _)
  · exact exec_keeps (.acceptTimeout _)
  · exact exec_keeps (.weirFarExpiry _)
  · exact exec_keeps (.auditFail _ _ _)
  · exact exec_keeps (.waitEntrySatisfied _)

theorem ownEvents_keep {s} : KeepAll (ownEvents s) := by
  unfold ownEvents
  extract_lets k l
  have hl : ∀ x ∈ l, KeepAll x := by
    simp only [l, List.map_cons, List.map_nil, List.forall_mem_cons]
    exact ⟨groupEvents_keep.turned, unitEvents_keep.turned, poolEvents_keep.turned, timeEvents_keep.turned,
      fun _ h => absurd h List.not_mem_nil⟩
  intro f hf
  obtain ⟨x, hx, hf⟩ := List.mem_flatten.1 hf
  rcases List.mem_append.1 hx with hx | hx
  · exact hl x (List.mem_of_mem_drop hx) f hf
  · exact hl x (List.mem_of_mem_take hx) f hf

theorem ownTurn_canon {s} (h : Canon s) : CanonNext (ownTurn s) := by
  refine ite_canonNext (exec_canon (i := .boot) h) (ite_canonNext (bump_canon (flashWritten_canon h)) ?_)
  have he : CanonSome (firstEffect s (ownEvents s)) := firstEffect_canon h ownEvents_keep
  dsimp only
  split
  · next e => exact ite_canonNext (pipeTurn_canon h) (he.of_eq e)
  · exact pipeTurn_canon h
  · next e => exact he.of_eq e
  · exact bump_canon h

/-! ### Time -/

theorem tickTo_canon {k s} (h : Canon s) : Canon (tickTo k s) := h.update rfl

theorem passTicks_canon {due n s} (h : Canon s) : Canon (passTicks due n s) := by
  induction n generalizing s with
  | zero => exact h
  | succ n ih =>
    unfold passTicks
    exact ite_canon (ih (ite_canon (floorSweep_canon (tickTo_canon h)) (tickTo_canon h))) h

theorem overdue_keep {s} : KeepAll (overdue s) := by
  unfold overdue
  refine .append (.append (.append (.append (.append (.append
    (.filterMap (fun e => Own.Keeps.of_ite ?_ e) _) (.map (fun _ h => composeOverdue_canon h) _)) (.filterMap ?_ _))
    (.filterMap (fun e => Own.Keeps.of_ite ?_ e) _)) (.map ?_ _)) (.filterMap (fun e => Own.Keeps.of_ite ?_ e) _))
    (.flatMap (.append (.flatMap (.map ?_ _) _) (.map ?_ _)) _)
  · exact exec_keeps (.joinDeadlockRelease _)
  · intro a g e
    split at e
    · exact Own.Keeps.of_ite (exec_keeps (.orderedTimeout _)) e
    · cases e
  · exact exec_keeps (.atomicLeaseExpiry _)
  · exact exec_keeps (.acceptTimeout _)
  · exact exec_keeps (.dieReservation _)
  · exact exec_keeps (.auditFail _ _ _)
  · exact exec_keeps (.l2OverdueSweep _ _)

theorem takeAll_canon {s l} (h : Canon s) (hl : KeepAll l) : Canon (takeAll s l) := by
  unfold takeAll
  induction l generalizing s with
  | nil => exact h
  | cons f l ih =>
    obtain ⟨hf, hl⟩ := List.forall_mem_cons.1 hl
    refine ih ?_ hl
    dsimp only
    split
    · next e => exact (hf s h).of_eq e
    · exact h

theorem passSome_canon {s n} (h : Canon s) : Canon (passSome s n) :=
  settleAsked_canon (noteWaits_canon (settlePort_canon (takeAll_canon (passTicks_canon (h.update rfl)) overdue_keep)))

theorem passRuns_canon {k n s} (h : Canon s) : Canon (passRuns k n s) := by
  induction k generalizing n s with
  | zero => exact passSome_canon h
  | succ k ih => exact ite_canon (passSome_canon h) (ih (passSome_canon h))

theorem passCycles_canon {s n} (h : Canon s) : Canon (passCycles s n) := passRuns_canon h

/-! ### A step -/

theorem runStep_canon {s} (h : Canon s) : CanonNext (runStep s) := by
  unfold runStep
  split
  · exact ite_canonNext (runMove_canon (passCycles_canon (h.update rfl))) (ite_canonNext (runMove_canon (h.update rfl)) trivial)
  · exact ite_canonNext (ownTurn_canon (passCycles_canon h)) trivial

theorem step_canon {s} (h : Canon s) : CanonNext (step s) := runStep_canon h

/-- Settles O58: every function of the model that makes a state keeps `Canon`, which is the form the statement speaks of. -/
theorem stepKeepsMemoryForm : Obligations.StepKeepsMemoryForm := by
  unfold Obligations.StepKeepsMemoryForm
  intro s t hs h
  exact canon_iff_memWf.1 ((step_canon (canon_iff_memWf.2 h)).of_eq hs)

end Sys2Proof.Machine
end

section
/-! SUPPORT. Steps of the part under power: what it takes for one to leave a given state, or one of a given kind; tables mapped entry by
entry; cores, dies and windows after a write. -/

open Sys2Proof Sys2Proof.Machine

namespace Sys2Proof.Machine

section
variable {i : Instr} {s t : State} {f : State → State} {P : State → Prop}

theorem leaves_of_onPart (hp : s.power = true) (he : exec i s = onPart s f) (hf : f s = t) : Leaves i s t := by
  rw [Leaves, he, onPart_on hp, hf]

theorem next_of_onPart (hp : s.power = true) (he : exec i s = onPart s f) (h : P (bump (f s))) : ∃ t, exec i s = .next t ∧ P t :=
  ⟨_, he.trans (onPart_on hp f), h⟩

end

section
variable {α : Type} {t : Table α}

theorem tget_map (f : α → α) (k : Nat) : tget (t.map (fun e => (e.1, f e.2))) k = (tget t k).map f := by
  induction t with
  | nil => rfl
  | cons e t ih =>
    simp only [List.map_cons, tget, ih]
    split <;> rfl

theorem mem_of_tget {k : Nat} {v : α} (h : tget t k = some v) : (k, v) ∈ t := by
  induction t with
  | nil => cases h
  | cons e t ih =>
    unfold tget at h
    split at h
    · next hk => exact Option.some.inj h ▸ hk ▸ List.mem_cons_self
    · exact List.mem_cons_of_mem _ (ih h)

end

@[simp] theorem bump_core (s : State) (c : Nat) : (bump s).core c = s.core c := rfl

@[simp] theorem bump_die (s : State) (d : Nat) : (bump s).die d = s.die d := rfl

@[simp] theorem bump_ts (s : State) (line : Nat) : (bump s).ts line = s.ts line := rfl

@[simp] theorem setCore_core_same (s : State) (c : Nat) (v : Core) : (s.setCore c v).core c = v := by simp [State.core]

@[simp] theorem setDie_die_same (s : State) (d : Nat) (v : Die) : (s.setDie d v).die d = v := by simp [State.die]

end Sys2Proof.Machine
end

section
/-! SUPPORT. Right after power-on, and a part that is off (R24, R93, R408). -/

open Sys2Proof Sys2Proof.Machine

namespace Sys2Proof.Machine

theorem resetState : Claims.ResetState :=
  ⟨rfl, rfl, fun _ => ⟨rfl, rfl⟩, rfl, rfl, rfl, rfl, rfl, fun _ => rfl, fun _ => rfl, fun _ => rfl, rfl, rfl⟩

/-- A host-link reset is a step of the part that may come at any stage of the boot. -/
theorem runMove_hostLinkReset (s : State) : runMove s (.event .hostLinkReset) = .next (bump (resetPart s)) := by
  have h : mayCome s .hostLinkReset = true := by simp [mayCome, beforeStart, show isEvent .hostLinkReset = true by decide]
  simp [runMove, h, execHostLinkReset]

section
variable {s : State} {n : Nat} {m : Move} {l : List (Nat × Move)}

theorem runStep_off_nil (h : s.power = false) (hs : s.schedule = []) : runStep s = .fault .poweredOff := by
  simp [runStep, hs, h]

theorem runStep_off_cons (h : s.power = false) (hs : s.schedule = (n, m) :: l) :
    runStep s = if m = .event .hostLinkReset then runMove { s with schedule := l } m else .fault .poweredOff := by
  simp [runStep, hs, h]

end

theorem offStaysOff : Claims.OffStaysOff := by
  intro s h
  refine ⟨runStep_off_nil h, fun n m l hs hm => ?_, fun n l hs => ?_⟩
  · exact (runStep_off_cons h hs).trans (if_neg hm)
  · exact ⟨_, ((runStep_off_cons h hs).trans (if_pos rfl)).trans (runMove_hostLinkReset _), rfl, rfl⟩

/-- Settles O57: the fields of the reset state are as the definition writes them, and a step looks at the power before anything else. -/
theorem resetAndPower : Obligations.ResetAndPower := by
  unfold Obligations.ResetAndPower
  exact ⟨resetState, offStaysOff⟩

end Sys2Proof.Machine
end

section
/-! SUPPORT. Clock points, the floor sweep, and the tables of a die that time changes (R22, R219, R248, R251, R412). -/

open Sys2Proof Sys2Proof.Machine

namespace Sys2Proof.Machine

/-! ### Clock points (R22, R412) -/

section
variable {s : State} {p : ClockPoint}

theorem mayChoose_throttled (h : s.throttled = true) : mayChoose s p = true ↔ p = .low := by simp [mayChoose, h]

/-- Besides the present point, the next lower one over the cap, the next higher one within it. -/
theorem mayChoose_unthrottled (h : s.throttled = false) :
    mayChoose s p = true ↔ p = s.issueClock ∨ (overCap s = true ∧ p = lowerPoint s.issueClock) ∨
      (overCap s = false ∧ fitsHigher s = true ∧ p = higherPoint s.issueClock) := by
  simp [mayChoose, h, or_assoc, and_assoc]

theorem mayChoose_ne_high (h : s.throttled = false) (hc : mayChoose s p = true) (hl : s.issueClock = .low) : p ≠ .high := by
  obtain rfl | ⟨_, rfl⟩ | ⟨_, _, rfl⟩ := (mayChoose_unthrottled h).1 hc <;> simp [hl, lowerPoint, higherPoint]

theorem mayChoose_ne_low (h : s.throttled = false) (hc : mayChoose s p = true) (hh : s.issueClock = .high) : p ≠ .low := by
  obtain rfl | ⟨_, rfl⟩ | ⟨_, _, rfl⟩ := (mayChoose_unthrottled h).1 hc <;> simp [hh, lowerPoint, higherPoint]

theorem mayChoose_overCap (h : s.throttled = false) (ho : overCap s = true) :
    mayChoose s p = true ↔ p = s.issueClock ∨ p = lowerPoint s.issueClock := by
  simp [mayChoose_unthrottled h, ho]

end

/-! ### The floor sweep (R248) -/

theorem sweepDue_iff {s : State} : sweepDue s = true ↔ nearTop s.floor s.hubLt = true ∨ nearTop s.floor s.idleLt = true ∨
    (∃ e ∈ s.coreTab, nearTop s.floor e.2.lt = true) ∨
    ∃ e ∈ s.lineTs, nearTop s.floor e.2.1 = true ∨ nearTop s.floor e.2.2 = true := by
  simp only [sweepDue, Bool.or_eq_true, List.any_eq_true, or_assoc]

@[simp] theorem nearTop_self (f : BitVec 16) : nearTop f f = false := by simp [nearTop]

theorem sweepDue_of_core {s : State} {c : Nat} (h : nearTop s.floor (s.core c).lt = true) : sweepDue s = true := by
  unfold State.core at h
  cases hc : tget s.coreTab c with
  | none =>
    rw [hc] at h
    exact sweepDue_iff.2 (.inr (.inl h))
  | some v =>
    rw [hc] at h
    exact sweepDue_iff.2 (.inr (.inr (.inl ⟨_, mem_of_tget hc, h⟩)))

/-- A line that is not listed has its timestamps at the floor, so one that is late is listed. -/
theorem sweepDue_of_line {s : State} {line : Nat}
    (h : nearTop s.floor (s.ts line).1 = true ∨ nearTop s.floor (s.ts line).2 = true) : sweepDue s = true := by
  unfold State.ts at h
  cases hc : tget s.lineTs line with
  | none => simp [hc] at h
  | some v =>
    rw [hc] at h
    exact sweepDue_iff.2 (.inr (.inr (.inr ⟨_, mem_of_tget hc, h⟩)))

/-- The new floor is later than the old one. -/
theorem tsMax_floor (f : BitVec 16) : tsMax f (f + 4096) = f + 4096 := by
  have hd : f + 4096 - f = 4096 := by rw [BitVec.add_comm, BitVec.add_sub_cancel]
  refine if_pos ?_
  simp only [tsPrecedes, hd]
  decide

/-- What the sweep to floor `f` makes of a core, and of the timestamps of a line. -/
def Core.sweep (c : Core) (f : BitVec 16) : Core := { c with lt := tsMax c.lt f, l1 := c.l1.filter (fun l => tsLe f l.rts) }
def sweepTs (f : BitVec 16) (x : BitVec 16 × BitVec 16) : BitVec 16 × BitVec 16 := (tsMax x.1 f, tsMax x.2 f)

theorem floorSweep_coreTab (s : State) : (floorSweep s).coreTab = s.coreTab.map (fun e => (e.1, e.2.sweep (s.floor + 4096))) := by
  simp only [floorSweep, Core.sweep]

theorem floorSweep_lineTs (s : State) : (floorSweep s).lineTs = s.lineTs.map (fun e => (e.1, sweepTs (s.floor + 4096) e.2)) := by
  simp only [floorSweep, sweepTs]

theorem floorSweep_idleLt (s : State) : (floorSweep s).idleLt = tsMax s.idleLt (s.floor + 4096) := by simp only [floorSweep]

theorem floorSweep_idleTicked (s : State) : (floorSweep s).idleTicked = s.idleTicked := by simp only [floorSweep]

theorem floorSweep_core (s : State) (c : Nat) : (floorSweep s).core c = (s.core c).sweep (s.floor + 4096) := by
  unfold State.core
  rw [floorSweep_coreTab, tget_map (fun v : Core => v.sweep (s.floor + 4096)), floorSweep_idleLt, floorSweep_idleTicked]
  cases tget s.coreTab c with
  | none => simp [Core.sweep, Core.reset]
  | some v => rfl

theorem floorSweep_ts (s : State) (line : Nat) : (floorSweep s).ts line = sweepTs (s.floor + 4096) (s.ts line) := by
  have hf : (floorSweep s).floor = s.floor + 4096 := by simp only [floorSweep]
  unfold State.ts
  rw [floorSweep_lineTs, tget_map, hf]
  cases tget s.lineTs line with
  | none => simp only [Option.map_none, Option.getD_none, sweepTs, tsMax_floor]
  | some v => rfl

theorem floorSweep_swept (s : State) : Swept s (bump (floorSweep s)) (s.floor + 4096) := by
  simp only [Swept, bump_core, bump_ts, floorSweep_core, floorSweep_ts, Core.sweep, sweepTs, implies_true, true_and]
  simp only [bump, floorSweep, and_self]

/-! ### Leases and the lines of a die (R219, R251, R252) -/

theorem endLease_leases (s : State) (line : Nat) : tget (endLease s line).leases line = none := by
  unfold endLease
  split
  · assumption
  · simp [tget_tdel]

@[simp] theorem endLease_mem (s : State) (line : Nat) : (endLease s line).mem = s.mem := by
  unfold endLease
  split <;> rfl

end Sys2Proof.Machine
end

section
/-! SUPPORT. What time does when it is due: the steps of R22, R210, R219, R221, R247, R248, R251, R252, R412 and R416, one by one. -/

open Sys2Proof Sys2Proof.Machine

namespace Sys2Proof.Machine

/-- Only an entry of the line that is far, and has not been used for 65,536 cycles, changes (R251). -/
theorem weirFarExpiry_entries (line now : Nat) (l : List WeirEntry) :
    (l.map (fun e => if e.line == line && e.far && decide (65536 ≤ now - e.last) then { e with far := false } else e)).map
        (fun e => (e.line, e.far)) =
      l.map (fun e => (e.line, e.far && !(e.line == line && decide (65536 ≤ now - e.last)))) := by
  rw [List.map_map]
  refine List.map_congr_left fun e _ => ?_
  by_cases h : e.line == line && e.far && decide (65536 ≤ now - e.last)
  · simp only [Function.comp_apply, if_pos h]
    simp only [Bool.and_eq_true] at h
    obtain ⟨⟨hl, hf⟩, hd⟩ := h
    simp only [hl, hf, hd, Bool.and_self, Bool.not_true, Bool.and_false]
  · simp only [Function.comp_apply, if_neg h]
    cases hf : e.far with
    | false => rfl
    | true =>
      simp only [hf, Bool.and_true, Bool.not_eq_true] at h
      simp only [h, Bool.not_false, Bool.and_self]

/-- Only a line of the slice that is overdue changes, to one marked so (R219). -/
theorem l2OverdueSweep_lines (slice : Nat) (now : BitVec 20) (l : List L2Line) :
    (l.map (fun x => if x.slice == slice && l2Overdue now x then { x with ovd := true } else x)).map (fun x => (x.line, x.ovd)) =
      l.map (fun x => (x.line, x.ovd || (x.slice == slice && l2Overdue now x))) := by
  rw [List.map_map]
  refine List.map_congr_left fun x _ => ?_
  cases hd : x.slice == slice && l2Overdue now x <;> simp only [Function.comp_apply, hd] <;> simp

section
variable {s : State} (hp : s.power = true)
include hp

theorem clockPointChange_chooses (p : ClockPoint) :
    (mayChoose s p = true → Leaves (.clockPointChange p) s { s with issueClock := p }) ∧
      (mayChoose s p = false → Leaves (.clockPointChange p) s s) :=
  ⟨fun h => leaves_of_onPart hp rfl (if_pos h), fun h => leaves_of_onPart hp rfl (if_neg (Bool.eq_false_iff.1 h))⟩

theorem floorSweep_when_due (h : sweepDue s = true) : ∃ t, exec .floorSweep s = .next t ∧ Swept s t (s.floor + 4096) := by
  refine next_of_onPart hp (exec_floorSweep s) ?_
  rw [if_pos h]
  exact floorSweep_swept s

theorem atomicLeaseExpiry_of_lease {line : Nat} {l : Lease} (hl : tget s.leases line = some l) :
    exec (.atomicLeaseExpiry line) s = .next (bump (if l.ends ≤ s.cyc then endLease s line else s)) := by
  simp only [exec_atomicLeaseExpiry, execAtomicLeaseExpiry, onPart_on hp, hl]

theorem auditFail_of_record {die slice k : Nat} {a : AuditRec}
    (ha : ((s.die die).auditRecs.filter (fun a => a.slice == slice))[k]? = some a) :
    exec (.auditFail die slice k) s = .next (bump (if a.deadline ≤ s.cyc / 256 then
      s.setDie die { s.die die with auditRecs := (s.die die).auditRecs.erase a,
                                    audit := tput (s.die die).audit a.ctx (min 255 ((tget (s.die die).audit a.ctx).getD 0 + 4)) }
      else s)) := by
  simp only [exec_auditFail, execAuditFail, onPart_on hp, ha]

/-- The three ways that a core's highest way may go: its granule is wanted and none of its lines is held, or one is; or it is not wanted
(R210). -/
theorem granuleToScratch_of_core (core : Nat) :
    exec (.granuleToScratch core) s = .next (bump (
      if (s.core core).ways ≤ 8 ∨ granuleNeed s core ≤ (s.core core).scratchGranules then
        if (s.core core).stopping then s.setCore core { s.core core with stopping := false } else s
      else if ∃ l ∈ (s.core core).l1, l.way = (s.core core).ways - 1 ∧ leased s core l.line = true then
        s.setCore core { s.core core with stopping := true }
      else s.setCore core { s.core core with
        stopping := false, scratchGranules := (s.core core).scratchGranules + 1,
        l1 := (s.core core).l1.filter (fun l => l.way != (s.core core).ways - 1) })) := by
  simp only [exec_granuleToScratch, execGranuleToScratch, onPart_on hp, Bool.or_eq_true, decide_eq_true_eq, List.any_eq_true,
    Bool.and_eq_true, beq_iff_eq]

end

/-- Settles O42: each step changes the state where its condition holds and leaves it where it does not; the sweep is due as soon as one
time, of a core or of a line, listed or not, is late. -/
theorem clockEvents : Obligations.ClockEvents := by
  unfold Obligations.ClockEvents
  intro s hp
  refine ⟨fun p => ?_, fun core => ?_, ?_, ?_, fun line l hl => ?_, fun line => ?_, fun die slice => ?_, fun die slice k a ha => ?_,
    fun core c hc => ?_⟩
  · obtain ⟨hpos, hneg⟩ := clockPointChange_chooses hp p
    refine ⟨hpos, hneg, mayChoose_throttled, fun ht => ⟨(mayChoose_unthrottled ht).2 (.inl rfl), mayChoose_ne_high ht,
      mayChoose_ne_low ht, fun ho => ⟨(mayChoose_overCap ht ho).2 (.inr rfl), (mayChoose_overCap ht ho).1⟩⟩⟩
  · exact ⟨fun h => leaves_of_onPart hp rfl (if_pos h), fun h => leaves_of_onPart hp rfl (if_neg (Nat.not_lt.2 h))⟩
  · exact ⟨fun h => leaves_of_onPart hp rfl (if_pos h), fun h => leaves_of_onPart hp rfl (if_neg (Nat.not_lt.2 h))⟩
  · refine ⟨fun h => floorSweep_when_due hp ?_, fun hhub hidle hcores hlines => leaves_of_onPart hp rfl (if_neg fun hd => ?_)⟩
    · obtain h | ⟨c, h⟩ | ⟨line, h⟩ := h
      · exact sweepDue_iff.2 (.inl h)
      · exact sweepDue_of_core h
      · exact sweepDue_of_line h
    · obtain h | h | ⟨e, he, h⟩ | ⟨e, he, h⟩ := sweepDue_iff.1 hd
      · simp [hhub] at h
      · simp [hidle] at h
      · simp [hcores e he] at h
      · simp [hlines e he] at h
  · rw [Leaves, atomicLeaseExpiry_of_lease hp hl]
    refine ⟨fun h => ⟨_, rfl, ?_⟩, fun h => by rw [if_neg (Nat.not_le.2 h)]⟩
    simp [if_pos h, endLease_leases]
  · refine next_of_onPart hp (exec_weirFarExpiry line s) ⟨rfl, ?_⟩
    rw [bump_die, setDie_die_same, weirFarExpiry_entries]
  · refine next_of_onPart hp (exec_l2OverdueSweep die slice s) ⟨rfl, ?_⟩
    rw [bump_die, setDie_die_same, l2OverdueSweep_lines]
  · rw [Leaves, auditFail_of_record hp ha]
    refine ⟨fun h => ⟨_, rfl, ?_⟩, fun h => by rw [if_neg (Nat.not_le.2 h)]⟩
    simp [if_pos h]
  · subst hc
    simp only [Leaves, granuleToScratch_of_core hp]
    refine ⟨fun hw hn => ?_, fun h => ?_, fun h => leaves_of_onPart hp rfl (if_pos h),
      fun h => leaves_of_onPart hp rfl (if_neg (Nat.not_lt.2 h))⟩
    · rw [if_neg (by omega)]
      refine ⟨fun h => ?_, fun h => by rw [if_pos h]⟩
      rw [if_neg]
      rintro ⟨l, hl, hway, hleased⟩
      simp [h l hl hway] at hleased
    · rw [if_pos h]
      exact ⟨fun hs => by rw [if_pos hs], fun hs => by simp [hs]⟩

end Sys2Proof.Machine
end

section
/-! SUPPORT. Resets, the boot, recovery and the reliability events (R24, R405, R408, R411, R413). -/

open Sys2Proof Sys2Proof.Machine

namespace Sys2Proof.Machine

/-! ### Resets (R24, R411) -/

theorem resetPart_flash (s : State) : FlashAfter s (resetPart s) :=
  ⟨fun h => by simp [resetPart, h], fun b h => by simp [resetPart, h]⟩

/-- Once the writing has ended the flash holds the image, whole. -/
theorem flashWritten_of_flashing {s : State} {b : List Byte} (h : s.flashing = some b) :
    flashWritten s = resetPart { s with flash := b, torn := false, flashing := none } := by
  simp only [flashWritten, h]

/-! ### The boot (R408) -/

theorem bootPart_measured (s : State) :
    tget (bootPart s).measurements 1 = some (sha384 Config.romImage) ∧ tget (bootPart s).measurements 2 = some (sha384 Config.fusedState) := by
  cases hc : !s.torn && oluvosVerifies s.flash <;> simp only [bootPart, hc] <;> exact ⟨rfl, rfl⟩

section
variable {s : State}

theorem bootPart_starts (hv : oluvosVerifies s.flash = true) (ht : s.torn = false) :
    tget (bootPart s).measurements 3 = some (sha384 s.flash) ∧ (bootPart s).boot = .oluvos ∧ (bootPart s).udsReachable = false ∧
      ((bootPart s).window 4095).valid = true ∧ ∀ k, k < 4 → tget (bootPart s).commandCores k = some (CmdCore.started s.flash) := by
  have hc : (!s.torn && oluvosVerifies s.flash) = true := by simp [hv, ht]
  simp only [bootPart, hc, if_true, true_and]
  refine ⟨rfl, ?_, fun k hk => ?_⟩
  · simp [State.window, serviceWindow]
  · obtain rfl | rfl | rfl | rfl : k = 0 ∨ k = 1 ∨ k = 2 ∨ k = 3 := by omega
    all_goals rfl

theorem bootPart_recovers (h : oluvosVerifies s.flash = false ∨ s.torn = true) :
    tget (bootPart s).measurements 3 = none ∧ (bootPart s).boot = .recovery := by
  have hc : (!s.torn && oluvosVerifies s.flash) = false := by
    obtain h | h := h <;> simp [h]
  simp only [bootPart, hc]
  exact ⟨rfl, rfl⟩

end

/-! ### Lockstep pairs (R413) -/

section
variable {s : State} {pair slot : Nat}

theorem retryServices_idle (h : ∀ slot, (slot, pair) ∉ s.serving) : retryServices s pair = s := by
  have hf : s.serving.filter (fun e => e.2 == pair) = [] :=
    List.filter_eq_nil_iff.2 fun e he hp => h e.1 (beq_iff_eq.1 hp ▸ he)
  simp [retryServices, hf]

theorem retryServices_serving (h : s.serving = [(slot, pair)]) : retryServices s pair = replyMail s slot .retry [] := by
  simp [retryServices, h]

/-- A pair of the four restarts on the verified image once Oluvos runs (R413). -/
theorem lockstepError_of_pair (hp : s.power = true) (hpair : pair < 4) (hup : oluvosUp s = true) :
    exec (.lockstepError pair) s = .next (bump (retryServices { s with
      commandCores := tput s.commandCores pair (CmdCore.started s.flash), rasLog := s.rasLog ++ [.lockstep pair] } pair)) := by
  simp only [exec_lockstepError, execLockstepError, onPart_on hp, hpair, hup, if_true]

end

/-! ### Recovery (R411) -/

/-- The state differs from `s` only in what takes frames from the host's aperture (R394). -/
def SameButFrames (s t : State) : Prop :=
  ∃ asked frames aperture drops, t = { s with asked := asked, frames := frames, aperture := aperture, drops := drops }

theorem takeFrame_same (s : State) (slot : Nat) (f : Frame) : SameButFrames s (takeFrame s slot f) := by
  unfold takeFrame
  extract_lets taken
  split
  · exact ⟨_, _, _, _, rfl⟩
  · split
    · exact ⟨_, _, _, _, rfl⟩
    · split <;> exact ⟨_, _, _, _, rfl⟩
    · exact ⟨_, _, _, _, rfl⟩
    · exact ⟨_, _, _, _, rfl⟩

theorem takeSlot_same (s : State) (slot : Nat) : SameButFrames s (takeSlot s slot) := by
  unfold takeSlot
  split
  · split
    · obtain ⟨a, r, p, d, h⟩ := takeFrame_same { s with aperture := tdel s.aperture slot } slot (parseFrame ‹_›)
      exact ⟨a, r, p, d, h⟩
    · exact ⟨_, _, _, _, rfl⟩
  · exact ⟨_, _, _, _, rfl⟩

/-- Fetching a frame frees its slot, and changes nothing but the frames that wait. -/
theorem fetched_same (s : State) (f : Frame) : SameButFrames s (fetched s f) := by
  unfold fetched
  extract_lets u
  split
  · next e _ =>
    obtain ⟨a, r, p, d, h⟩ := takeSlot_same { u with frames := u.frames.erase e } e.1
    exact ⟨a, r, p, d, h⟩
  · exact ⟨_, _, _, _, rfl⟩

section
variable (s : State) (f : Frame)

@[simp] theorem fetched_boot : (fetched s f).boot = s.boot := by
  obtain ⟨_, _, _, _, h⟩ := fetched_same s f
  rw [h]

@[simp] theorem fetched_flash : (fetched s f).flash = s.flash := by
  obtain ⟨_, _, _, _, h⟩ := fetched_same s f
  rw [h]

@[simp] theorem fetched_flashing : (fetched s f).flashing = s.flashing := by
  obtain ⟨_, _, _, _, h⟩ := fetched_same s f
  rw [h]

@[simp] theorem fetched_recovery : (fetched s f).recovery = s.recovery := by
  obtain ⟨_, _, _, _, h⟩ := fetched_same s f
  rw [h]

@[simp] theorem fetched_session : (fetched s f).session = s.session := by
  obtain ⟨_, _, _, _, h⟩ := fetched_same s f
  rw [h]

end

/-- The frame is the next of the host's session, and the recovery service takes it now. -/
structure RecoversNext (s : State) (f : Frame) (x : Session) : Prop where
  power : s.power = true
  boot : s.boot = .recovery
  turn : inTurn s (.host f) = true
  service : f.service = 15
  part : f.part = 0
  session : s.session = some x
  seq : f.seq = x.last + 1

/-- No service has its turn while an image is being written to the flash. -/
theorem flashing_of_inTurn {s : State} {src : Source} (h : inTurn s src = true) : s.flashing = none := by
  simp only [inTurn, Bool.and_eq_true, Option.isNone_iff_eq_none] at h
  exact h.1.2

section
variable {s : State} {f : Frame} {x : Session}

theorem recoverImage_next (h : RecoversNext s f x) (last : Bool) : exec (.recoverImage f last) s =
    .next (bump (recoverChunk { fetched s f with session := some { x with last := f.seq, reply := none } } f last)) := by
  simp [execRecoverImage, onPart_on h.power, h.boot, h.turn, h.service, h.part, h.session, h.seq]

theorem recoverImage_keeps (h : RecoversNext s f x) : ∃ t, exec (.recoverImage f false) s = .next t ∧
    t.recovery = s.recovery ++ f.payload ∧ t.flash = s.flash ∧ t.flashing = none ∧ Replied t f x .ok [] := by
  refine ⟨_, recoverImage_next h false, ?_⟩
  simp [recoverChunk, replyHost, Replied, flashing_of_inTurn h.turn]

theorem recoverImage_begins (h : RecoversNext s f x) (hv : oluvosVerifies (s.recovery ++ f.payload) = true) :
    ∃ t, exec (.recoverImage f true) s = .next t ∧ t.flashing = some (s.recovery ++ f.payload) ∧ t.recovery = [] ∧
      t.boot = .recovery ∧ t.flash = s.flash := by
  refine ⟨_, recoverImage_next h true, ?_⟩
  simp [recoverChunk, hv, h.boot]

theorem recoverImage_fails (h : RecoversNext s f x) (hv : oluvosVerifies (s.recovery ++ f.payload) = false) :
    ∃ t, exec (.recoverImage f true) s = .next t ∧ t.flash = s.flash ∧ t.flashing = none ∧ t.recovery = [] ∧
      Replied t f x .verifyFailed [] := by
  refine ⟨_, recoverImage_next h true, ?_⟩
  simp [recoverChunk, hv, replyHost, Replied, flashing_of_inTurn h.turn]

end

/-! ### Power (R412) -/

/-- The cap moves the clock by one step at most, and not up while the part is throttled. -/
theorem powerCapAdjust_clock {s : State} (hp : s.power = true) : ∃ t, exec .powerCapAdjust s = .next t ∧ t.mem = s.mem ∧
    t.groups = s.groups ∧ t.powerCap = s.powerCap ∧ (t.issueClock = s.issueClock ∨ t.issueClock = lowerPoint s.issueClock ∨
      s.throttled = false ∧ t.issueClock = higherPoint s.issueClock) := by
  refine next_of_onPart hp (exec_powerCapAdjust s) ?_
  split
  · exact ⟨rfl, rfl, rfl, .inr (.inl rfl)⟩
  · split
    · next h =>
      have ht : s.throttled = false := by simpa only [Bool.not_eq_true'] using (Bool.and_eq_true_iff.1 h).1
      exact ⟨rfl, rfl, rfl, .inr (.inr ⟨ht, rfl⟩)⟩
    · exact ⟨rfl, rfl, rfl, .inl rfl⟩

/-- Settles O53: every reset passes through the state of power-on and keeps only the flash; the boot and the recovery service follow the one
verification of the image; a fetched frame changes nothing that the recovery service reads. -/
theorem platformEvents : Obligations.PlatformEvents := by
  unfold Obligations.PlatformEvents
  intro s
  refine ⟨⟨_, rfl, rfl, rfl, rfl, rfl, rfl, resetPart_flash s⟩, fun b hb => ?_, fun hp => ?_⟩
  · rw [flashWritten_of_flashing hb]
    exact ⟨rfl, rfl, rfl, rfl, rfl⟩
  refine ⟨next_of_onPart hp (exec_thermalShutdown s) ⟨rfl, rfl, rfl, resetPart_flash s⟩,
    next_of_onPart hp (exec_monitorReset s) ⟨rfl, rfl, rfl, rfl, rfl⟩, fun hb => ?_, fun hb => ?_,
    powerCapAdjust_clock hp, leaves_of_onPart hp (exec_thermalThrottle s) rfl, fun ht => ?_, fun ht => ?_,
    fun pair u hpair hup hu => ?_, fun pair hpair => ?_, fun core => ?_, fun f x hb hturn hsvc hpart hx hseq => ?_⟩
  · have he : exec .boot s = .next (bump (bootPart s)) := by rw [exec_boot, execBoot, onPart_on hp, if_pos hb]
    obtain ⟨h1, h2⟩ := bootPart_measured s
    exact ⟨_, he, h1, h2, bootPart_starts, bootPart_recovers⟩
  · exact leaves_of_onPart hp rfl (if_neg hb)
  · exact leaves_of_onPart hp rfl (if_pos ht)
  · exact leaves_of_onPart hp rfl (if_neg (Bool.eq_false_iff.1 ht))
  · simp only [Leaves, lockstepError_of_pair hp hpair hup, ← hu]
    have hs : u.serving = s.serving := hu ▸ rfl
    exact ⟨fun h => by rw [retryServices_idle (hs ▸ h)], fun slot h => by rw [retryServices_serving (hs.trans h)]⟩
  · exact leaves_of_onPart hp rfl (if_neg (Nat.not_lt.2 hpair))
  · refine next_of_onPart hp (exec_floatPathFault core s) ⟨?_, rfl, rfl, rfl⟩
    exact congrArg Core.noPlacement (setCore_core_same s core _)
  · have h : RecoversNext s f x := ⟨hp, hb, hturn, hsvc, hpart, hx, hseq⟩
    exact ⟨recoverImage_keeps h, recoverImage_begins h, recoverImage_fails h⟩

end Sys2Proof.Machine
end
